-- ==== Sys2Proof/Word.lean ====
section
/-! DEFINITION. Words, bytes and the plainest arithmetic on them: bit ranges (R6), two's complement (R61 SExt, ZExt, ASR). -/

namespace Sys2Proof

/-- A byte of memory. -/
abbrev Byte := BitVec 8

/-- A 64-bit register value. -/
abbrev Word := BitVec 64

/-- Bits [lo + n - 1 : lo] of a number (R6). -/
def bitsOf (v lo n : Nat) : Nat := v / 2 ^ lo % 2 ^ n

/-- Bit i of a number. -/
def bitOf (v i : Nat) : Bool := v / 2 ^ i % 2 == 1

/-- SExt(v, w) of R61, for w at least 1. -/
def sext (v w : Nat) : Int :=
  let u := v % 2 ^ w
  if u < 2 ^ (w - 1) then (u : Int) else (u : Int) - (2 ^ w : Nat)

/-- The low w bits of an integer, as an unsigned number. -/
def trunc (w : Nat) (i : Int) : Nat := (i % ((2 ^ w : Nat) : Int)).toNat

/-- Sat(n, lo, hi) of R61. -/
def sat (n lo hi : Int) : Int := min (max n lo) hi

/-- ceil(a / b) for b at least 1. -/
def cdiv (a b : Nat) : Nat := (a + b - 1) / b

end Sys2Proof
end

