-- ==== Sys2Proof/Config.lean ====
section
/-! DEFINITION. What an implementation fixes, and the free values: constants with no body, so that nothing proved of the
model rests on a value of theirs (log 5). A value read at an argument of the counter State.fresh is a new free value. -/

namespace Sys2Proof

/-- A boot image as it reaches the root of trust: its bytes, its security version, and the public key and the signature of each scheme (R443). -/
structure BootImage where
  bytes : List Nat
  version : Nat
  mlKey : List Nat
  mlSig : List Nat
  ecKey : List Nat
  ecSig : List Nat
deriving DecidableEq, Repr

/-- A free choice between two outcomes that the spec both allows (R5). -/
opaque Config.freeBool : Nat → Bool

/-- A free byte. -/
opaque Config.freeByte : Nat → Byte

/-- A free number, where the device chooses an identifier (R428 TOKEN). -/
opaque Config.freeNat : Nat → Nat

/-- What a PCIe device or a remote chip answers to a read: the n-th byte of the read numbered k (R95, R440, log 15). -/
opaque Config.outsideByte : Nat → Nat → Byte

/-- Whether an address lies in an IMSIC interrupt file of a control core: the spec does not place them (R426, R432, log 14). -/
opaque Config.imsic : Nat → Bool

/-- Whether the remote chip's translation fails an access of target type 7 that is presented at a clk, by its address (R441, log 15). -/
opaque Config.remoteFault : Nat → Nat → Bool

/-- The digest of an image, the public key and the signature verify: in ML-DSA-87, and in ECDSA P-384 (R443, log 16). -/
opaque Config.mlDsaVerifies : List Byte → List Byte → List Byte → Bool
opaque Config.ecdsaVerifies : List Byte → List Byte → List Byte → Bool

/-- The SHA-384 digests of the two public keys held in fuses (R443, log 16). -/
opaque Config.fusedMlDsaKey : List Byte
opaque Config.fusedEcdsaKey : List Byte

/-- The images that a leader sends, by its identifier and the epoch (R447, log 16). -/
opaque Config.leaderImages : Nat → Nat → List BootImage

/-- The value type that a measurement block gives its register (R444, log 16). -/
opaque Config.measurementType : Nat → Byte

/-- The security version held in fuses (R443, log 16). -/
opaque Config.fusedVersion : Nat

/-- The bytes of a certificate chain of the root-of-trust core (R444, log 16). -/
opaque Config.certificate : Nat → List Byte

/-- A signature of the root-of-trust core over a byte string (R444, log 16). -/
opaque Config.signature : List Byte → List Byte

/-- The answers of the SPDM responder whose contents the spec does not give, by request and argument (R444, log 16). -/
opaque Config.spdmBytes : Nat → List Nat → List Byte

end Sys2Proof
end

