-- ==== Sys2Proof/Syntax.lean ====
section
/-! DEFINITION. The instructions: every row of the opcode table, one constructor each. Slot operations carry their fields as
the encoding tables name them (R167, R190, R211, R239), bytecode records theirs (R287, R293, R301, R319, R329, R335, R338,
R339). The last group are the device's own steps and what comes in from outside; their operands are the device's free choices
(which core, which die, which packet) and the values written (log 1). -/

namespace Sys2Proof

/-- The fields of a V-slot operation (R135, R190). -/
structure VFields where
  qp : Nat
  vd : Nat
  va : Nat
  vb : Nat
  vc : Nat
  ha : Bool
  hb : Bool
  fmt : Nat
  rnd : Nat
deriving DecidableEq, Repr

/-- The fields of MXGO (R211). -/
structure MxgoF where
  a : Nat
  b : Nat
  sc : Nat
  mode : Nat
  acc : Bool
  swp : Bool
  rsm : Bool
  afmt : Nat
  nlm1 : Nat
  asel : Bool
  bsel : Bool
  kr : Nat
deriving DecidableEq, Repr

/-- A scalar operand word (R279). -/
inductive Sow where
  | imm (i : Int)
  | reg (n : Nat)
  | regPlus (n : Nat) (k : Int)
  | part (sel : Nat) (k : Int)
deriving DecidableEq, Repr

/-- The header fields of a movement, compute or collective record: fuse group, LAST and walk order (R277, R278, R318). -/
structure Hd where
  fuse : Nat
  last : Bool
  walk : Nat
deriving DecidableEq, Repr

/-- Every operation and event of the opcode table. -/
inductive Instr where
  /-- MOV, R168: Copies all 129 bits of a scalar register, tag included, to the destination. -/
  | mov (d a : Nat)
  /-- LI, R168: Writes a sign-extended 42-bit immediate to a scalar register. -/
  | li (d : Nat) (imm : Int)
  /-- LIH, R168: Places a 22-bit immediate in bits 63:42 of a scalar register and keeps its low 42 bits. -/
  | lih (d imm : Nat)
  /-- ADD, R168: Writes the sum of two scalar registers modulo 2^64. -/
  | add (d a b : Nat)
  /-- ADDI, R168: Adds a sign-extended 30-bit immediate to a scalar register. -/
  | addi (d a : Nat) (imm : Int)
  /-- SUB, R168: Writes the difference of two scalar registers modulo 2^64. -/
  | sub (d a b : Nat)
  /-- MUL, R168: Writes the low 64 bits of the product of two scalar registers. -/
  | mul (d a b : Nat)
  /-- MULH, R168: Writes the high 64 bits of a signed, unsigned or mixed product. -/
  | mulh (d a b mode : Nat)
  /-- DIV, R169: Divides with the quotient rounded toward zero; division by zero gives all ones and does not trap. -/
  | div (d a b mode : Nat)
  /-- REM, R169: Writes the remainder of a division rounded toward zero. -/
  | rem (d a b mode : Nat)
  /-- AND, R168: Bitwise AND of two scalar registers. -/
  | and (d a b : Nat)
  /-- OR, R168: Bitwise OR of two scalar registers. -/
  | or (d a b : Nat)
  /-- XOR, R168: Bitwise exclusive OR of two scalar registers. -/
  | xor (d a b : Nat)
  /-- SHL, R168: Shifts left by the amount in sb[5:0]. -/
  | shl (d a b : Nat)
  /-- SHL_IMM, R168: Shifts left by an immediate amount. -/
  | shlImm (d a n : Nat)
  /-- SHR, R168: Shifts right logically by the amount in sb[5:0]. -/
  | shr (d a b : Nat)
  /-- SHR_IMM, R168: Shifts right logically by an immediate amount. -/
  | shrImm (d a n : Nat)
  /-- SRA, R168: Shifts right arithmetically by the amount in sb[5:0]. -/
  | sra (d a b : Nat)
  /-- SRA_IMM, R168: Shifts right arithmetically by an immediate amount. -/
  | sraImm (d a n : Nat)
  /-- MIN, R168: Writes the smaller of two operands, compared signed or unsigned. -/
  | min (d a b mode : Nat)
  /-- MAX, R168: Writes the larger of two operands, compared signed or unsigned. -/
  | max (d a b mode : Nat)
  /-- SEL, R168: Selects one of two scalar registers by a predicate and clears the tag of the result. -/
  | sel (d n a b : Nat)
  /-- CMP, R170: Compares two scalar registers and writes a predicate pair. -/
  | cmp (pd pc a b cond : Nat)
  /-- CMPI, R170: Compares a scalar register with a sign-extended immediate and writes a predicate pair. -/
  | cmpi (pd pc a : Nat) (imm : Int) (cond : Nat)
  /-- PAND, R171: Writes the AND of two optionally negated predicates. -/
  | pand (pd pa pb neg : Nat)
  /-- POR, R171: Writes the OR of two optionally negated predicates. -/
  | por (pd pa pb neg : Nat)
  /-- PXOR, R171: Writes the exclusive OR of two optionally negated predicates. -/
  | pxor (pd pa pb neg : Nat)
  /-- CNARROW, R172: Narrows a capability in place to a sub-range after tag, N-permission and bounds checks. -/
  | cnarrow (c a b : Nat)
  /-- CPERM, R173: Clears capability permissions R, W, E and N that the keep mask does not keep. -/
  | cperm (c keep : Nat)
  /-- CGET, R174: Writes one field of a capability to a scalar register. -/
  | cget (d a field : Nat)
  /-- CTEST, R175: Tests a capability's tag and permissions and writes a predicate pair. -/
  | ctest (pd pc a mask : Nat)
  /-- MFK, R176: Reads a k-register into a scalar register, waiting for earlier MXGOs when it reads NCn. -/
  | mfk (d k : Nat)
  /-- MTK, R176: Writes a k-register subject to its access class and restrictions. -/
  | mtk (k a : Nat)
  /-- BR, R178: Transfers control to the bundle index in a register. -/
  | br (a : Nat)
  /-- BRI, R178: Transfers control to an immediate bundle index. -/
  | bri (t : Nat)
  /-- CALLM, R178: Writes the absolute index of the next bundle as a link and transfers to an immediate target. -/
  | callm (d t : Nat)
  /-- RETM, R178: Transfers to the index in a register, marked as a return; also returns from a service handler. -/
  | retm (a : Nat)
  /-- LOOP, R179: Starts a software-pipelined loop with an immediate count, setting LC, EC, RSZ, RRB and the stage predicates. -/
  | loop (count stM1 : Nat)
  /-- LOOP_REG, R179: Starts a software-pipelined loop whose count comes from a scalar register. -/
  | loopReg (a stM1 : Nat)
  /-- BRLOOP, R180: Performs one loop step, rotating predicates and registers, and branches while the loop continues. -/
  | brloop (t : Nat)
  /-- DISPATCH, R183: Builds a table index from counter bits and status lines, loads the entry and transfers when it is valid. -/
  | dispatch (a sh na smask : Nat)
  /-- ENDOP, R185: Ends the context's tile or task, commits its stores, returns gravity and takes the next work. -/
  | endop
  /-- SVC, R186: Writes a service record to the service ring, signals the control cores and waits for the result in s1. -/
  | svc
  /-- TRAP, R187: Raises a precise trap with cause 0x13 and the code in FADDR. -/
  | trap (code : Nat)
  /-- VADD, R194: Adds vectors elementwise, rounded or saturated. -/
  | vadd (f : VFields)
  /-- VSUB, R194: Subtracts vectors elementwise, rounded or saturated. -/
  | vsub (f : VFields)
  /-- VMUL, R194: Multiplies vectors elementwise, rounded or saturated. -/
  | vmul (f : VFields)
  /-- VFMA, R194: Computes a fused multiply-add elementwise with one rounding. -/
  | vfma (f : VFields)
  /-- VMIN, R195: Writes the elementwise minimum of two vectors. -/
  | vmin (f : VFields)
  /-- VMAX, R195: Writes the elementwise maximum of two vectors. -/
  | vmax (f : VFields)
  /-- VCLAMP, R194: Clamps each element between two bounds. -/
  | vclamp (f : VFields)
  /-- VABS, R194: Writes the absolute value of each element. -/
  | vabs (f : VFields)
  /-- VNEG, R194: Writes the negation of each element. -/
  | vneg (f : VFields)
  /-- VRCP, R82: Computes the FP32 reciprocal of each lane by table and one Newton step. -/
  | vrcp (f : VFields)
  /-- VRSQ, R82: Computes the FP32 reciprocal square root of each lane. -/
  | vrsq (f : VFields)
  /-- VEXP2, R82: Computes 2^x of each FP32 lane. -/
  | vexp2 (f : VFields)
  /-- VLOG2, R82: Computes log2 of each FP32 lane. -/
  | vlog2 (f : VFields)
  /-- VCVT, R197: Converts elements between formats, selecting a part for widening or narrowing. -/
  | vcvt (f : VFields)
  /-- VSCALE, R198: Multiplies each floating element by a power of two taken from the second source. -/
  | vscale (f : VFields)
  /-- VCMP, R199: Compares one element per lane and writes a lane-predicate pair. -/
  | vcmp (f : VFields)
  /-- VSEL, R200: Selects each lane from one of two vectors by a lane predicate. -/
  | vsel (f : VFields)
  /-- VAND, R201: Bitwise AND over 512 bits. -/
  | vand (f : VFields)
  /-- VOR, R201: Bitwise OR over 512 bits. -/
  | vor (f : VFields)
  /-- VXOR, R201: Bitwise exclusive OR over 512 bits. -/
  | vxor (f : VFields)
  /-- VSHL, R202: Shifts each integer element left by the matching element of the second source. -/
  | vshl (f : VFields)
  /-- VSHL_IMM, R202: Shifts each integer element left by an immediate amount. -/
  | vshlImm (f : VFields)
  /-- VSHR, R202: Shifts each integer element right by the matching element of the second source. -/
  | vshr (f : VFields)
  /-- VSHR_IMM, R202: Shifts each integer element right by an immediate amount. -/
  | vshrImm (f : VFields)
  /-- VRED, R203: Reduces the elements by a pairwise tree to one 32-bit result in lane 0. -/
  | vred (f : VFields)
  /-- VBCAST, R204: Broadcasts one element to every element position. -/
  | vbcast (f : VFields)
  /-- VEXT, R204: Extracts a window of elements across two vectors. -/
  | vext (f : VFields)
  /-- VPERM, R204: Permutes elements by indices taken from the second source. -/
  | vperm (f : VFields)
  /-- VIOTA, R205: Writes start plus i times step to each element. -/
  | viota (f : VFields)
  /-- QAND, R206: ANDs two lane predicates. -/
  | qand (f : VFields)
  /-- QOR, R206: ORs two lane predicates. -/
  | qor (f : VFields)
  /-- QNOT, R206: Inverts a lane predicate. -/
  | qnot (f : VFields)
  /-- TCFG, R219: Sets a tile register's format and valid-row descriptor. -/
  | tcfg (tn fmt rowsM1 : Nat)
  /-- TZERO, R219: Writes zero to all bytes of a tile register. -/
  | tzero (tn : Nat)
  /-- WLOAD, R221: Reads and decodes a weight tile image into the shadow weights. -/
  | wload (src : Nat) (ts : Bool) (fmt : Nat)
  /-- CBLOAD, R222: Loads the 256-entry codebook table. -/
  | cbload (sa : Nat)
  /-- MXNEST, R224: Writes a nest shadow register from a scalar register. -/
  | mxnest (lvl sa : Nat)
  /-- MXNEST_IMM, R224: Writes a nest shadow register from immediate count and strides. -/
  | mxnestImm (lvl : Nat) (ws : Bool) (cnt : Nat) (astr cstr : Int)
  /-- MXGO, R226: Runs the matrix array over the nest's rows, accumulating into the accumulator store. -/
  | mxgo (f : MxgoF)
  /-- ACCRD, R228: Reads accumulators, scales and converts them into a vector register. -/
  | accrd (sc vd ss fmt : Nat) (at32 scl : Bool) (off : Nat)
  /-- ACCWR, R229: Writes the 16 lanes of a vector register to accumulators. -/
  | accwr (sc va : Nat) (ha : Bool) (off : Nat)
  /-- ACCZ, R229: Zeroes a range of accumulator lines. -/
  | accz (sc nl off : Nat)
  /-- RTLOAD, R230: Streams rows through the rotator triangle, computing rotation words. -/
  | rtload (sa nrM1 ncM1 : Nat) (rf gm : Bool) (str : Nat)
  /-- RTAPPLY, R231: Streams rows through the triangle with stored words and writes the rotated rows. -/
  | rtapply (sa sb sw nrM1 ncM1 : Nat) (rf gm uw : Bool) (str : Nat)
  /-- RTREAD, R232: Applies pending gain to a triangle row and reads half of it as FP32. -/
  | rtread (vd row : Nat) (half : Bool)
  /-- RTCLR, R232: Clears the triangle and the word registers. -/
  | rtclr
  /-- RTGAIN, R232: Applies pending gain steps to every triangle row. -/
  | rtgain
  /-- RTWORDS, R232: Writes the 32 word registers to memory. -/
  | rtwords (sa : Nat)
  /-- PTRANS, R233: Transposes the blocks of a tile. -/
  | ptrans (dst src : Nat) (ds ss : Bool) (ew : Nat)
  /-- PGATHER, R234: Gathers indexed 64-byte rows into a tile register. -/
  | pgather (tn sa si nM1 : Nat)
  /-- PRED, R235: Writes a hold, linear or damped prediction from two histories. -/
  | pred (sd sa sb fmt kind alpha : Nat)
  /-- TCMP, R236: Compares real and predicted elements against a tolerance and writes a verdict. -/
  | tcmp (sa sb sc st fmt : Nat) (cm : Bool)
  /-- LD, R241: Loads 1 to 16 bytes into a scalar register. -/
  | ld (sd sa sz : Nat) (sx : Bool) (scope : Nat) (imm : Int)
  /-- ST, R242: Stores 1 to 16 bytes through the gated store buffer. -/
  | st (sd sa sz : Nat) (sx : Bool) (scope : Nat) (imm : Int)
  /-- LDA, R241: Loads with acquire ordering at a scope. -/
  | lda (sd sa sz : Nat) (sx : Bool) (scope : Nat) (imm : Int)
  /-- STL, R242: Stores with release ordering at a scope, advancing the vector clock at package scope. -/
  | stl (sd sa sz : Nat) (sx : Bool) (scope : Nat) (imm : Int)
  /-- VLD, R244: Loads 64 bytes into the enabled lanes, optionally through bit-field extraction. -/
  | vld (vd sa qp : Nat) (bfx : Bool) (imm : Int)
  /-- VST, R244: Stores the enabled lanes of a vector register. -/
  | vst (vs sa qp : Nat) (bfx : Bool) (imm : Int)
  /-- VLDS, R246: Loads strided elements into a vector register. -/
  | vlds (vd sa qp sb esz : Nat) (imm : Int)
  /-- VGATHER, R247: Loads one 4-byte word per lane at indexed offsets. -/
  | vgather (vd sa qp vb scl : Nat) (imm : Int)
  /-- VSCATTER, R247: Stores one 4-byte word per lane at indexed offsets in ascending lane order. -/
  | vscatter (vs sa qp vb scl : Nat) (imm : Int)
  /-- TMOV, R248: Copies rows between tile registers and memory through the move queue. -/
  | tmov (dst src : Nat) (ds ss : Bool) (nrM1 str : Nat)
  /-- CPYPUT, R251: Claims a copy-queue slot, writes a packet and publishes it with a release. -/
  | cpyput (vs sa : Nat) (imm : Int)
  /-- RAWAIT, R260: Waits for a ring slot on the context's side and returns its offset. -/
  | rawait (sd sa k : Nat)
  /-- RAREL, R260: Hands N ring slots to the other side with release ordering. -/
  | rarel (sa nM1 : Nat)
  /-- RAPEEK, R260: Tests for a ring slot without blocking. -/
  | rapeek (sd sa k : Nat)
  /-- ATOM, R261: Performs an atomic read-modify-write at the location's home. -/
  | atom (sd sa sb aop : Nat) (w8 : Bool) (ord scope : Nat) (nret : Bool) (imm : Int)
  /-- ACAS, R262: Performs an atomic compare-and-swap at the location's home. -/
  | acas (sd sa sb sc : Nat) (w8 : Bool) (ord scope : Nat) (imm : Int)
  /-- FENCE, R263: Orders accesses or engine commands by its kind and scope and joins the unit-scratch views. -/
  | fence (kind scope emask : Nat)
  /-- EWAIT, R264: Holds later bundles until scoreboarded commands overlapping a capability complete. -/
  | ewait (sa : Nat)
  /-- BARINIT, R266: Initialises a barrier object with its expected count. -/
  | barinit (sa scope cnt : Nat) (imm : Int)
  /-- BARARR, R266: Arrives at a barrier with a count and completes the phase when the count is reached. -/
  | bararr (sd sa scope : Nat) (rc : Bool) (n : Nat) (imm : Int)
  /-- BARWAIT, R267: Blocks until the barrier phase moves, an error flag is set or a deadline passes. -/
  | barwait (pd sa scope : Nat) (dl : Bool) (sb sc : Nat) (imm : Int)
  /-- ENQ, R268: Appends 128 bits to a data queue, blocking while it is full. -/
  | enq (slot : Nat) (rq : Bool) (sa : Nat)
  /-- DEQ, R268: Removes the oldest element of a data queue, blocking while it is empty. -/
  | deq (sd slot : Nat) (rq : Bool)
  /-- SPAWN, R270: Splits gravity into a job card and appends the card to a task queue. -/
  | spawn (slot : Nat) (rq : Bool) (sa : Nat) (imm : Int)
  /-- GSPLIT, R269: Splits a piece from the context's held gravity, borrowing if needed. -/
  | gsplit (sd : Nat) (rk : Bool) (k : Nat)
  /-- GRET, R271: Returns an amount of gravity to the region's root. -/
  | gret (sb : Nat)
  /-- WAITQ, R272: Sends a flush probe and blocks until the root is quiet. -/
  | waitq (sa : Nat)
  /-- TIME, R273: Reads the global time base. -/
  | time (sd : Nat)
  /-- WAITT, R273: Blocks until the time base reaches an absolute or relative deadline. -/
  | waitt (sa : Nat) (rel : Bool)
  /-- NOP, R291: Bytecode record that does nothing. -/
  | nop (fuse : Nat) (ws : List Nat)
  /-- SETG, R288: Writes a scalar operand word value to a graph register through the exchange. -/
  | setg (fuse d : Nat) (v : Sow)
  /-- SETG_IMM64, R288: Writes a 64-bit immediate to a graph register. -/
  | setgImm64 (fuse d imm : Nat)
  /-- GOP, R288: Writes an arithmetic or logical function of two operands to a graph register. -/
  | gop (fuse d op : Nat) (a b : Sow)
  /-- GOP_LDT, R289: Waits for the handle's writers and loads one of its elements into a graph register. -/
  | gopLdt (fuse d a : Nat) (b : Sow)
  /-- GRAPH_LOOP, R290: Pushes a loop frame and enters the body, or skips it for a non-positive count. -/
  | graphLoop (fuse d : Nat) (n : Sow) (t : Int)
  /-- ENDLOOP, R290: Increments the loop counter and branches back or pops the loop frame. -/
  | endloop (fuse : Nat)
  /-- GRAPH_BR, R291: Transfers the stream to a target record. -/
  | graphBr (fuse : Nat) (t : Int)
  /-- BRC, R291: Transfers the stream when a condition holds between two operands. -/
  | brc (fuse cond : Nat) (a b : Sow) (t : Int)
  /-- CALL, R291: Pushes a call frame and transfers. -/
  | call (fuse : Nat) (t : Int)
  /-- RET, R291: Pops a call frame and continues at its return offset. -/
  | ret (fuse : Nat)
  /-- HALT, R291: Ends the stream's issue. -/
  | halt (fuse : Nat)
  /-- TDEF, R294: Defines a tensor handle's entry with its shape, format, layout and sharding. -/
  | tdef (fuse hid fmt pin lay attr : Nat) (dims : List Sow) (bt : Nat)
  /-- TFREE, R295: Invalidates handles and releases their regions once earlier users complete. -/
  | tfree (fuse a b : Nat)
  /-- TVIEW, R296: Defines a handle as a view of a box of another handle. -/
  | tview (fuse d s : Nat) (box : List (Sow × Sow))
  /-- TRESHAPE, R297: Defines a handle as the same dense shard under new extents. -/
  | treshape (fuse d s : Nat) (dims : List Sow)
  /-- TSHARD, R298: Changes a handle's sharding attribute, lowering it if placed. -/
  | tshard (fuse hid attr : Nat)
  /-- TPLACE, R299: Records a preferred placement level for a handle. -/
  | tplace (fuse hid level : Nat)
  /-- TLOAD, R300: Places a handle and loads its shard from a dense tensor in memory. -/
  | tload (fuse hid : Nat) (addr : Sow)
  /-- TSTORE, R300: Stores a handle's data in dense form to memory. -/
  | tstore (fuse : Nat) (last : Bool) (hid : Nat) (addr : Sow)
  /-- TCOPY, R303: Copies a tensor elementwise, converting formats. -/
  | tcopy (h : Hd) (rnd d s : Nat)
  /-- TGATHERB, R304: Gathers rows from a pool through a block table. -/
  | tgatherb (h : Hd) (rlog d pool tbl : Nat) (n : Sow)
  /-- TCONCAT, R305: Concatenates two tensors along an axis. -/
  | tconcat (h : Hd) (axis d a b : Nat)
  /-- TAPPEND, R306: Grows a tensor along its outermost dimension, in place or by reallocation. -/
  | tappend (h : Hd) (hid x : Nat)
  /-- TTRANS, R307: Permutes a tensor's dimensions. -/
  | ttrans (h : Hd) (d s perm : Nat)
  /-- MATMUL, R322: Multiplies activations by weights on the matrix array with optional bias and accumulation. -/
  | matmul (h : Hd) (acc : Bool) (d a w bias : Nat)
  /-- MATMULCB, R322: Multiplies by codebook weights and applies a scale. -/
  | matmulcb (h : Hd) (acc : Bool) (d a w cbt bias scale : Nat)
  /-- CONV, R322: Computes a strided, padded, dilated convolution. -/
  | convOp (h : Hd) (d x w bias sx sy px py dx dy : Nat)
  /-- ELTW, R323: Applies a chain of up to four elementwise steps. -/
  | eltw (h : Hd) (d a b c st0 st1 st2 st3 k : Nat)
  /-- REDUCE, R324: Reduces along an axis by sum, max, min or mean. -/
  | reduce (h : Hd) (op d a axis : Nat)
  /-- SOFTMAX, R324: Computes a scaled softmax along dimension 0. -/
  | softmax (h : Hd) (d a scale : Nat)
  /-- NORM, R324: Computes RMS or layer normalisation with optional gain and bias. -/
  | norm (h : Hd) (layer : Bool) (d a g b eps : Nat)
  /-- ATTN, R325: Computes multi-head attention with optional causal masking. -/
  | attn (h : Hd) (causal : Bool) (d q k v heads scale : Nat)
  /-- EMBED, R326: Copies table rows selected by indices. -/
  | embed (h : Hd) (d t i : Nat)
  /-- TOPK, R326: Writes the k largest elements of each row and their indices. -/
  | topk (h : Hd) (d a x : Nat) (k : Sow)
  /-- ARGMAX, R326: Writes the index of the largest element of each row. -/
  | argmax (h : Hd) (d a : Nat)
  /-- QR, R327: Triangularises a matrix on the rotator array. -/
  | qr (h : Hd) (gm : Bool) (r a : Nat)
  /-- LSQ, R327: Solves a least-squares problem on the rotator array with back-substitution. -/
  | lsq (h : Hd) (gm : Bool) (x a b : Nat)
  /-- ROTL, R327: Applies a layer of stored rotation words to rows. -/
  | rotl (h : Hd) (gm : Bool) (d x w : Nat)
  /-- ALLGATHER, R330: Concatenates every part's shard along a dimension on every part. -/
  | allgather (h : Hd) (d s axes dim : Nat)
  /-- REDSCAT, R330: Reduces across parts and scatters blocks of the result. -/
  | redscat (h : Hd) (d s axes dim rop : Nat)
  /-- ALLRED, R330: Reduces across parts and gives every part the result. -/
  | allred (h : Hd) (d s axes rop : Nat)
  /-- BCAST, R330: Copies the root part's shard to every part. -/
  | bcast (h : Hd) (d s axes : Nat) (root : Sow)
  /-- SEND, R332: Sends a shard to a peer part, held until the matching receive issues. -/
  | send (h : Hd) (s axes tag : Nat) (peer : Sow)
  /-- RECV, R332: Receives a matching message into a shard and writes a completion record. -/
  | recv (h : Hd) (d ring axes tag : Nat) (peer : Sow)
  /-- SPAWNB, R336: Issues gravity from the root and appends a job card to a task queue. -/
  | spawnb (fuse : Nat) (each : Bool) (card : Nat) (slot : Sow)
  /-- QUIET, R337: Waits for earlier operators, sends flush probes and holds issue until the root is quiet. -/
  | quiet (fuse : Nat) (rcb : Sow)
  /-- SPECIN, R338: Marks a handle speculable and allocates its history region. -/
  | specin (fuse hid kind depthM1 : Nat) (mean : Bool) (alpha abs rel : Nat)
  /-- SPECOFF, R338: Ends speculation on a handle and frees its history once speculators are judged. -/
  | specoff (fuse hid : Nat)
  /-- OPINSTALL, R341: Reads, checks, relocates and installs an operator image into every core. -/
  | opinstall (fuse : Nat) (idem : Bool) (addr : Sow) (opc : Nat) (pbound : Sow)
  /-- OPREMOVE, R344: Refuses new issues of an opcode and frees its indices once instances complete. -/
  | opremove (fuse opc : Nat)
  /-- SYSCALL, R345: Makes a service call for the stream and writes the result to g1. -/
  | syscall (fuse : Nat) (each : Bool) (args : List Sow)
  /-- USER_OPERATOR, R343: Issues a record of an installed opcode with its handles, tiling and capabilities. -/
  | userOperator (fuse flags opc : Nat) (hs : List (Nat × Nat))
  /-- TILE_BIND, R30: Binds the next tile of an operator to a free sequencer context and initialises its registers. -/
  | tileBind (op core x : Nat)
  /-- DEAL, R35: Deals a chunk of a job card's records to an asking context with its share of gravity. -/
  | deal (core x q : Nat)
  /-- CARD_HEAD_CHECK, R37: Reads and checks a job card that reaches the head of its queue, refusing a malformed card. -/
  | cardHeadCheck (die q : Nat)
  /-- OPERATOR_COMPLETE, R23: Completes an operator when its last tile or task ends, advancing VERSION and releasing LAST inputs. -/
  | operatorComplete (op : Nat)
  /-- LAUNCH, R436: Accepts a launch record written to LAUNCH and checks it. -/
  | launch (v : Nat)
  /-- LAUNCH_START, R18: Starts a waiting launch once enough dies have a free GFE, choosing the placement set. -/
  | launchStart (k : Nat) (dies : List Nat)
  /-- CONTEXT_SWITCH, R40: Switches the issuing context by the turn rule or firmware share at the cost of one clk. -/
  | contextSwitch (core : Nat)
  /-- BLOCKED_BUNDLE_RESUME, R39: Issues a blocked bundle whole once its blocking condition clears. -/
  | blockedBundleResume (core x : Nat)
  /-- PBOUND_EXCEEDED, R44: Traps with cause 0x0C when the pre-emption bound count would be exceeded. -/
  | pboundExceeded (core x : Nat)
  /-- EVICTION, R43: Saves a context's register bank so higher-priority waiting work can bind. -/
  | eviction (core x : Nat)
  /-- EVICTED_CONTEXT_RESUME, R349: Restores an evicted context on its own core when a context there is free. -/
  | evictedContextResume (core k x : Nat)
  /-- PRIORITY_AGING, R48: Raises the effective priority of waiting work one step after each full 2^20 clk. -/
  | priorityAging (op : Nat)
  /-- CHECKPOINT_STOP, R159: Stops an operator at a C mark for region pre-emption and saves its live ranges. -/
  | checkpointStop (core x : Nat)
  /-- REGION_RESUME, R46: Reallocates saved ranges and resumes stopped operators of a pre-empted region. -/
  | regionResume (ctxid rcb : Nat) (dies : List Nat)
  /-- DEVICE_PREEMPTION_REQUEST, R350: Requests pre-emption of the lowest-priority region after a launch has waited 2^22 clk. -/
  | devicePreemptionRequest (ctxid rcb : Nat)
  /-- PAGE_TABLE_WALK, R96: Walks the page tables on a TLB miss, setting A and D bits and filling TLBs. -/
  | pageTableWalk (core ctxid va : Nat) (wr : Bool)
  /-- ENGINE_COMMAND_START, R213: Starts the next engine command of a queue once its scoreboard edges allow. -/
  | engineCommandStart (core seq : Nat)
  /-- ENGINE_COMMAND_COMPLETE, R216: Completes or ends an engine command, writing a trap record for a non-translation fault. -/
  | engineCommandComplete (core seq units : Nat)
  /-- SWAP, R223: Makes the full shadow weights active at an MXGO swap point, or ends the MXGO with 0x0E. -/
  | swap (core : Nat)
  /-- SDCTL_KIND_ALL, R106: Die shoot-down that invalidates every TLB entry. -/
  | sdctlKindAll (die v : Nat)
  /-- SDCTL_KIND_CTX, R106: Die shoot-down of every non-global entry of one device context. -/
  | sdctlKindCtx (die v : Nat)
  /-- SDCTL_KIND_CTX_RANGE, R106: Die shoot-down of non-global entries of a context that overlap a range. -/
  | sdctlKindCtxRange (die v : Nat)
  /-- SDCTL_KIND_GLOBAL_RANGE, R106: Die shoot-down of global entries that overlap a range. -/
  | sdctlKindGlobalRange (die v : Nat)
  /-- SDCTL_KIND_UNION, R106: Die shoot-down of context and global entries that overlap a range. -/
  | sdctlKindUnion (die v : Nat)
  /-- SHOOTDOWN_ACKNOWLEDGE, R106: Clears GO once walks have ended and accesses through invalidated entries are performed. -/
  | shootdownAcknowledge (die : Nat)
  /-- PSDCTL_KIND_ALL, R107: Package shoot-down of every entry, passed to every die in service. -/
  | psdctlKindAll (v : Nat)
  /-- PSDCTL_KIND_CTX, R107: Package shoot-down of a context's non-global entries. -/
  | psdctlKindCtx (v : Nat)
  /-- PSDCTL_KIND_CTX_RANGE, R107: Package shoot-down of a context's entries that overlap a range. -/
  | psdctlKindCtxRange (v : Nat)
  /-- PSDCTL_KIND_GLOBAL_RANGE, R107: Package shoot-down of global entries that overlap a range. -/
  | psdctlKindGlobalRange (v : Nat)
  /-- PSDCTL_KIND_UNION, R107: Package shoot-down of context and global entries that overlap a range. -/
  | psdctlKindUnion (v : Nat)
  /-- PACKAGE_SHOOTDOWN_ACKNOWLEDGE, R107: Clears PSDCTL GO once every die in service has acknowledged. -/
  | packageShootdownAcknowledge
  /-- RPRE, R350: Accepts or refuses a software request to pre-empt a region. -/
  | rpre (v : Nat)
  /-- FRES_RETRY, R358: Makes every unit of a context blocked on translation translate again. -/
  | fresRetry (v : Nat)
  /-- FRES_FAIL, R358: Ends every blocked unit of a context whose fault lies in a given page. -/
  | fresFail (v : Nat)
  /-- TRAP_RECORD_DELIVERY, R365: Writes a trap record to the first fault ring that can take it, sends the MSI and applies the fault policy. -/
  | trapRecordDelivery (k : Nat)
  /-- FAULT_RING_RETRY, R365: Retries delivery of a held trap record after a PKGRING command or 100 µs. -/
  | faultRingRetry (k : Nat)
  /-- UNCORRECTABLE_MEMORY_ERROR, R3: Raises cause 0x11 in the fault domain of the region that owns the data; `unit`, n and m name the unit
  whose access it is. -/
  | uncorrectableMemoryError (unit n m addr : Nat)
  /-- QUEUE_MAP, R353: Maps a hardware queue, reloading saved contents and replaying a latched wake. -/
  | queueMap (die q : Nat)
  /-- QUEUE_UNMAP, R353: Starts unmapping a queue, which stops dealing. -/
  | queueUnmap (die q : Nat)
  /-- QUEUE_SLEEP, R353: Puts an active queue to sleep. -/
  | queueSleep (die q : Nat)
  /-- QCFG_UPDATE, R352: Writes QCFG fields or watermarks with no command. -/
  | qcfgUpdate (die q v : Nat)
  /-- UNMAP_SAVE, R452: Writes an unmapping queue's contents to QSAVE and makes it unmapped, retrying after faults. -/
  | unmapSave (die q : Nat)
  /-- QWAKE, R353: Wakes a sleeping queue, or latches the wake in WAKEPEND while unmapped. -/
  | qwake (die q v : Nat)
  /-- QSIG_WAKE, R353: Wakes a queue when its signal word becomes nonzero with EN set. -/
  | qsigWake (die q v : Nat)
  /-- SVCREQ, R367: Posts a service request to a core's context or refuses it while pending. -/
  | svcreq (core v : Nat)
  /-- SERVICE_HANDLER_ENTRY, R368: Enters a pending service handler at the target context's next Y-marked bundle. -/
  | serviceHandlerEntry (core x : Nat)
  /-- SERVICE_DEADLINE_P_MARK, R369: Makes the next P mark act as a Y mark after DEADLINE clk without one. -/
  | serviceDeadlinePMark (core x : Nat)
  /-- SERVICE_DEADLINE_TRAP, R369: Traps the context with cause 0x14 after a further DEADLINE clk without a mark. -/
  | serviceDeadlineTrap (core x : Nat)
  /-- SVCRES, R429: Delivers a service result to the call that SVCTOK names. -/
  | svcres (v : Nat)
  /-- GRVAL, R390: Returns an amount of gravity to the root that GRADDR names. -/
  | grval (die v : Nat)
  /-- CTXCREATE, R432: Makes a device context resident with its descriptor and registers its root region. -/
  | ctxcreate (c : Nat)
  /-- CTXSUSPEND, R432: Requests pre-emption of a context's root region. -/
  | ctxsuspend (c : Nat)
  /-- CTXSUSPEND_COMPLETE, R432: Releases the context's resources and makes it non-resident once its root is pre-empted. -/
  | ctxsuspendComplete (c : Nat)
  /-- CTXRESUME, R432: Makes a context resident again and resumes its root region. -/
  | ctxresume (c : Nat)
  /-- CTXDESTROY, R432: Shoots down and frees a device context and everything it owns. -/
  | ctxdestroy (c : Nat)
  /-- CTXHEAP, R432: Sets a context's heap triple for later binds. -/
  | ctxheap (c : Nat)
  /-- CTXMSI, R432: Replaces a context's trap and service MSI addresses and data. -/
  | ctxmsi (c : Nat)
  /-- REGCREATE, R434: Registers a region under a registered parent, filling fields not given. -/
  | regcreate (c : Nat)
  /-- REGDESTROY, R432: Forgets a registered region. -/
  | regdestroy (c : Nat)
  /-- CQCREATE, R435: Binds a copy queue to a copy unit. -/
  | cqcreate (c : Nat)
  /-- CQDESTROY, R432: Unbinds an idle copy queue. -/
  | cqdestroy (c : Nat)
  /-- RINGMSI, R435: Sets or clears the interrupt of a ring. -/
  | ringmsi (c : Nat)
  /-- PKGRING, R432: Sets or removes the package fault ring. -/
  | pkgring (c : Nat)
  /-- ISLAND_LEVEL_CHANGE, R448: Starts changing an island's operating point. -/
  | islandLevelChange (i v : Nat)
  /-- ISLAND_CHANGE_DONE, R448: Ends an island change and resumes its issue. -/
  | islandChangeDone (i : Nat)
  /-- MMIO_REGISTER_WRITE, R425: Writes an MMIO register that has no behaviour of its own, or faults a bad access. -/
  | mmioRegisterWrite (off v : Nat)
  /-- COPY, R253: Takes, checks and performs a plain copy packet. -/
  | copy (cq : Nat)
  /-- REDUCING_COPY, R256: Takes a reducing copy packet and combines it block by block through staging. -/
  | reducingCopy (cq : Nat)
  /-- SUBSCRIBE, R257: Takes a subscribe packet and starts the Steep loader streaming tiles into a ring. -/
  | subscribe (cq : Nat)
  /-- SUBSCRIBE_TILE_FILL, R257: Fills the next tile into a ring once a slot is free. -/
  | subscribeTileFill (pk : Nat)
  /-- DRAIN, R257: Takes a drain packet for the Runoff storer. -/
  | drain (cq : Nat)
  /-- DRAIN_SLOT_WRITE, R257: Writes a filled ring slot to HBM and frees the slot. -/
  | drainSlotWrite (pk : Nat)
  /-- COPY_PACKET_COMPLETE, R254: Completes a packet, writes its completion record and returns its gravity. -/
  | copyPacketComplete (pk : Nat)
  /-- RING_HEADER_WATCH, R259: Lets a waiting ring step proceed after the other side changes the header. -/
  | ringHeaderWatch (addr : Nat)
  /-- ROUTE_TRAFFIC_APPLY, R126: Applies a write or marker, or serves a read or atomic, arriving on a route once the clock allows. -/
  | routeTrafficApply (src dst : Nat)
  /-- INBOUND_POSTED_WRITE, R127: Orders an inbound posted write as a domain-8 release and splits it into packets. -/
  | inboundPostedWrite (port addr : Nat) (bytes : List Nat)
  /-- INBOUND_READ, R127: Serves an inbound read once earlier posted writes of the port are acknowledged. -/
  | inboundRead (port addr n : Nat)
  /-- INBOUND_MSI, R127: Forwards a port's MSI once earlier posted writes are acknowledged. -/
  | inboundMsi (port addr data : Nat)
  /-- BORROW_REFILL, R378: Adds 2^30 to ISSUED at the home and refills a combiner reserve, or refuses when closed. -/
  | borrowRefill (die k : Nat)
  /-- COMBINER_IDLE_FLUSH, R385: Flushes and frees a combiner slot after 1,241 idle ticks. -/
  | combinerIdleFlush (die k : Nat)
  /-- FLUSH_PROBE, R386: Flushes and frees a die's combiner slot for a root and answers the probe. -/
  | flushProbe (die k : Nat)
  /-- CLOSE_NOTICE, R375: Flushes and frees a die's slot for a closed root, setting DRAINED when all dies are done. -/
  | closeNotice (die k : Nat)
  /-- GRAVITY_FLUSH_ARRIVAL, R375: Adds a flushed amount to RETURNED at the home and wakes waiters when quiet. -/
  | gravityFlushArrival (k : Nat)
  /-- HISTORY_UPDATE, R409: Shifts a speculable handle's history once judging compares have read it. -/
  | historyUpdate (die gfe hid : Nat)
  /-- DOWNSTREAM_SPECULATION, R413: Lets a downstream consumer speculate once every tile of the speculating operator reaches ENDOP. -/
  | downstreamSpeculation (op : Nat)
  /-- SPEC_COMMIT, R418: Renames shadows, drains write buffers and releases held effects of a passing operator. -/
  | specCommit (op : Nat)
  /-- SPEC_SQUASH, R419: Discards a failing operator's speculative effects and issues it again. -/
  | specSquash (op : Nat)
  /-- LINK_FAILURE_RECOVERY, R442: Detects, isolates, reroutes and restores traffic after a link, port or copy unit fails. -/
  | linkFailureRecovery (lane : Nat)
  /-- COLD_START, R445: Runs every start step in full, including the ROM chain and training. -/
  | coldStart (dies : List Nat) (imgs : List BootImage)
  /-- WARM_START, R445: Starts reusing saved results after checks, falling back per step on failure. -/
  | warmStart (imgs : List BootImage)
  /-- DIE_JOIN_SERVICE, R446: Brings a compute die into service once its start steps complete. -/
  | dieJoinService (die : Nat)
  /-- REDUCED_SERVICE_END, R446: Ends reduced service when all dies are in service and no stream runs. -/
  | reducedServiceEnd
  /-- GET_VERSION, R444: SPDM request answered with the supported versions. -/
  | getVersion
  /-- GET_CAPABILITIES, R444: SPDM request answered with the responder's capabilities. -/
  | getCapabilities (v : Nat)
  /-- NEGOTIATE_ALGORITHMS, R444: SPDM request that settles the algorithms. -/
  | negotiateAlgorithms (v : Nat)
  /-- GET_DIGESTS, R444: SPDM request answered with certificate digests. -/
  | getDigests
  /-- GET_CERTIFICATE, R444: SPDM request answered with a certificate chain. -/
  | getCertificate (slot off len : Nat)
  /-- CHALLENGE, R444: SPDM request answered with a signed challenge response. -/
  | challenge (slot nonce : Nat)
  /-- GET_MEASUREMENTS, R444: SPDM request answered with the 16 measurement registers. -/
  | getMeasurements (idx nonce : Nat)
  /-- CLAIM, R447: Takes a leader claim of epoch and chip identifier from a link. -/
  | claim (chip epoch : Nat)
  /-- CLAIM_WINDOW_EXPIRY, R447: Chooses the leader 100 ms after the first claim seen. -/
  | claimWindowExpiry
  /-- HEARTBEAT, R447: The leader sends a heartbeat every 250 ms. -/
  | heartbeat
  /-- HEARTBEAT_TIMEOUT, R447: Advances the epoch and claims again after 2 s without a heartbeat. -/
  | heartbeatTimeout
  /-- POWER_LIMIT, R448: Lowers core island levels and alerts when package power exceeds 2,400 W. -/
  | powerLimit (i : Nat)
  /-- ILLEGAL_OPCODE, R165: A bundle whose slot holds an opcode the map does not assign, or a fetch of an index with no installed bundle, traps with cause 0x01. -/
  | illegalOpcode (slot : Nat)
  /-- BYTECODE_ILLEGAL_OPCODE, R281: A record with an unassigned opcode from 0x000 to 0x1FF, or flow past the last code word, traps with cause 0x01 at issue. -/
  | bytecodeIllegalOpcode (opc : Nat)
  /-- EMPTY_BUNDLE, R160: Issues a bundle whose four slots are empty, so only its marks and stall count act. -/
  | emptyBundle
  /-- VARIABLE_LATENCY_RESULT, R143: A load, atomic, queue, ring, ACCRD, RTREAD or TIME result lands in its register and releases the bundle waiting on the interlock. -/
  | variableLatencyResult (core x k : Nat)
  /-- STORE_ACKNOWLEDGED, R121: A committed store is performed at its home and acknowledged, which lets waiting releases, fences, returns and tile ends proceed. -/
  | storeAcknowledged (k : Nat)
  /-- POWER_LOSS, R445: Power drops, losing volatile state and counting a failed warm start in the always-on domain. -/
  | powerLoss
  /-- CORE_ISLAND_POWER_GATING, R448: The device power-gates a core island at LVL 0 and flushes its TLBs. -/
  | coreIslandPowerGating (core : Nat)
  /-- DEBUGGER_HALT, R106: A debugger halts a core. -/
  | debuggerHalt (core : Nat)
  /-- DEBUGGER_HALT_END, R106: A debugger releases a halted core, which resumes and walks again. -/
  | debuggerHaltEnd (core : Nat)
  /-- THERMAL_ALERT, R426: An island thermal alert raises an interrupt through the APLIC. -/
  | thermalAlert (i : Nat)
  /-- WATCHDOG, R426: The watchdog fires and raises an interrupt through the APLIC. -/
  | watchdog
  /-- PCIE_PORT_EVENT, R426: A PCIe legacy INTx, AER or port event is forwarded through the APLIC as an MSI. -/
  | pciePortEvent (port : Nat)
  /-- ETHERNET_UALINK_PORT_EVENT, R426: An Ethernet or UALink-class port completion, error or link change posts to the port's event queue and interrupts. -/
  | ethernetUalinkPortEvent (port : Nat)
  /-- REXIT, R430: Completing an REXIT call ends every stream, operator, tile and task of the region and its descendants, and sets STATE to 4. -/
  | rexit (token : Nat)
deriving DecidableEq, Repr

/-- Which slot an operation belongs to: 0 S, 1 V, 2 M, 3 X; 4 a bytecode record, 5 an event (R164, R281). -/
def Instr.tier : Instr → Nat
  | .mov _ _ => 0
  | .li _ _ => 0
  | .lih _ _ => 0
  | .add _ _ _ => 0
  | .addi _ _ _ => 0
  | .sub _ _ _ => 0
  | .mul _ _ _ => 0
  | .mulh _ _ _ _ => 0
  | .div _ _ _ _ => 0
  | .rem _ _ _ _ => 0
  | .and _ _ _ => 0
  | .or _ _ _ => 0
  | .xor _ _ _ => 0
  | .shl _ _ _ => 0
  | .shlImm _ _ _ => 0
  | .shr _ _ _ => 0
  | .shrImm _ _ _ => 0
  | .sra _ _ _ => 0
  | .sraImm _ _ _ => 0
  | .min _ _ _ _ => 0
  | .max _ _ _ _ => 0
  | .sel _ _ _ _ => 0
  | .cmp _ _ _ _ _ => 0
  | .cmpi _ _ _ _ _ => 0
  | .pand _ _ _ _ => 0
  | .por _ _ _ _ => 0
  | .pxor _ _ _ _ => 0
  | .cnarrow _ _ _ => 0
  | .cperm _ _ => 0
  | .cget _ _ _ => 0
  | .ctest _ _ _ _ => 0
  | .mfk _ _ => 0
  | .mtk _ _ => 0
  | .br _ => 0
  | .bri _ => 0
  | .callm _ _ => 0
  | .retm _ => 0
  | .loop _ _ => 0
  | .loopReg _ _ => 0
  | .brloop _ => 0
  | .dispatch _ _ _ _ => 0
  | .endop => 0
  | .svc => 0
  | .trap _ => 0
  | .vadd _ => 1
  | .vsub _ => 1
  | .vmul _ => 1
  | .vfma _ => 1
  | .vmin _ => 1
  | .vmax _ => 1
  | .vclamp _ => 1
  | .vabs _ => 1
  | .vneg _ => 1
  | .vrcp _ => 1
  | .vrsq _ => 1
  | .vexp2 _ => 1
  | .vlog2 _ => 1
  | .vcvt _ => 1
  | .vscale _ => 1
  | .vcmp _ => 1
  | .vsel _ => 1
  | .vand _ => 1
  | .vor _ => 1
  | .vxor _ => 1
  | .vshl _ => 1
  | .vshlImm _ => 1
  | .vshr _ => 1
  | .vshrImm _ => 1
  | .vred _ => 1
  | .vbcast _ => 1
  | .vext _ => 1
  | .vperm _ => 1
  | .viota _ => 1
  | .qand _ => 1
  | .qor _ => 1
  | .qnot _ => 1
  | .tcfg _ _ _ => 2
  | .tzero _ => 2
  | .wload _ _ _ => 2
  | .cbload _ => 2
  | .mxnest _ _ => 2
  | .mxnestImm _ _ _ _ _ => 2
  | .mxgo _ => 2
  | .accrd _ _ _ _ _ _ _ => 2
  | .accwr _ _ _ _ => 2
  | .accz _ _ _ => 2
  | .rtload _ _ _ _ _ _ => 2
  | .rtapply _ _ _ _ _ _ _ _ _ => 2
  | .rtread _ _ _ => 2
  | .rtclr => 2
  | .rtgain => 2
  | .rtwords _ => 2
  | .ptrans _ _ _ _ _ => 2
  | .pgather _ _ _ _ => 2
  | .pred _ _ _ _ _ _ => 2
  | .tcmp _ _ _ _ _ _ => 2
  | .ld _ _ _ _ _ _ => 3
  | .st _ _ _ _ _ _ => 3
  | .lda _ _ _ _ _ _ => 3
  | .stl _ _ _ _ _ _ => 3
  | .vld _ _ _ _ _ => 3
  | .vst _ _ _ _ _ => 3
  | .vlds _ _ _ _ _ _ => 3
  | .vgather _ _ _ _ _ _ => 3
  | .vscatter _ _ _ _ _ _ => 3
  | .tmov _ _ _ _ _ _ => 3
  | .cpyput _ _ _ => 3
  | .rawait _ _ _ => 3
  | .rarel _ _ => 3
  | .rapeek _ _ _ => 3
  | .atom _ _ _ _ _ _ _ _ _ => 3
  | .acas _ _ _ _ _ _ _ _ => 3
  | .fence _ _ _ => 3
  | .ewait _ => 3
  | .barinit _ _ _ _ => 3
  | .bararr _ _ _ _ _ _ => 3
  | .barwait _ _ _ _ _ _ _ => 3
  | .enq _ _ _ => 3
  | .deq _ _ _ => 3
  | .spawn _ _ _ _ => 3
  | .gsplit _ _ _ => 3
  | .gret _ => 3
  | .waitq _ => 3
  | .time _ => 3
  | .waitt _ _ => 3
  | .nop _ _ => 4
  | .setg _ _ _ => 4
  | .setgImm64 _ _ _ => 4
  | .gop _ _ _ _ _ => 4
  | .gopLdt _ _ _ _ => 4
  | .graphLoop _ _ _ _ => 4
  | .endloop _ => 4
  | .graphBr _ _ => 4
  | .brc _ _ _ _ _ => 4
  | .call _ _ => 4
  | .ret _ => 4
  | .halt _ => 4
  | .tdef _ _ _ _ _ _ _ _ => 4
  | .tfree _ _ _ => 4
  | .tview _ _ _ _ => 4
  | .treshape _ _ _ _ => 4
  | .tshard _ _ _ => 4
  | .tplace _ _ _ => 4
  | .tload _ _ _ => 4
  | .tstore _ _ _ _ => 4
  | .tcopy _ _ _ _ => 4
  | .tgatherb _ _ _ _ _ _ => 4
  | .tconcat _ _ _ _ _ => 4
  | .tappend _ _ _ => 4
  | .ttrans _ _ _ _ => 4
  | .matmul _ _ _ _ _ _ => 4
  | .matmulcb _ _ _ _ _ _ _ _ => 4
  | .convOp _ _ _ _ _ _ _ _ _ _ _ => 4
  | .eltw _ _ _ _ _ _ _ _ _ _ => 4
  | .reduce _ _ _ _ _ => 4
  | .softmax _ _ _ _ => 4
  | .norm _ _ _ _ _ _ _ => 4
  | .attn _ _ _ _ _ _ _ _ => 4
  | .embed _ _ _ _ => 4
  | .topk _ _ _ _ _ => 4
  | .argmax _ _ _ => 4
  | .qr _ _ _ _ => 4
  | .lsq _ _ _ _ _ => 4
  | .rotl _ _ _ _ _ => 4
  | .allgather _ _ _ _ _ => 4
  | .redscat _ _ _ _ _ _ => 4
  | .allred _ _ _ _ _ => 4
  | .bcast _ _ _ _ _ => 4
  | .send _ _ _ _ _ => 4
  | .recv _ _ _ _ _ _ => 4
  | .spawnb _ _ _ _ => 4
  | .quiet _ _ => 4
  | .specin _ _ _ _ _ _ _ _ => 4
  | .specoff _ _ => 4
  | .opinstall _ _ _ _ _ => 4
  | .opremove _ _ => 4
  | .syscall _ _ _ => 4
  | .userOperator _ _ _ _ => 4
  | .tileBind _ _ _ => 5
  | .deal _ _ _ => 5
  | .cardHeadCheck _ _ => 5
  | .operatorComplete _ => 5
  | .launch _ => 5
  | .launchStart _ _ => 5
  | .contextSwitch _ => 5
  | .blockedBundleResume _ _ => 5
  | .pboundExceeded _ _ => 5
  | .eviction _ _ => 5
  | .evictedContextResume _ _ _ => 5
  | .priorityAging _ => 5
  | .checkpointStop _ _ => 5
  | .regionResume _ _ _ => 5
  | .devicePreemptionRequest _ _ => 5
  | .pageTableWalk _ _ _ _ => 5
  | .engineCommandStart _ _ => 5
  | .engineCommandComplete _ _ _ => 5
  | .swap _ => 5
  | .sdctlKindAll _ _ => 5
  | .sdctlKindCtx _ _ => 5
  | .sdctlKindCtxRange _ _ => 5
  | .sdctlKindGlobalRange _ _ => 5
  | .sdctlKindUnion _ _ => 5
  | .shootdownAcknowledge _ => 5
  | .psdctlKindAll _ => 5
  | .psdctlKindCtx _ => 5
  | .psdctlKindCtxRange _ => 5
  | .psdctlKindGlobalRange _ => 5
  | .psdctlKindUnion _ => 5
  | .packageShootdownAcknowledge => 5
  | .rpre _ => 5
  | .fresRetry _ => 5
  | .fresFail _ => 5
  | .trapRecordDelivery _ => 5
  | .faultRingRetry _ => 5
  | .uncorrectableMemoryError _ _ _ _ => 5
  | .queueMap _ _ => 5
  | .queueUnmap _ _ => 5
  | .queueSleep _ _ => 5
  | .qcfgUpdate _ _ _ => 5
  | .unmapSave _ _ => 5
  | .qwake _ _ _ => 5
  | .qsigWake _ _ _ => 5
  | .svcreq _ _ => 5
  | .serviceHandlerEntry _ _ => 5
  | .serviceDeadlinePMark _ _ => 5
  | .serviceDeadlineTrap _ _ => 5
  | .svcres _ => 5
  | .grval _ _ => 5
  | .ctxcreate _ => 5
  | .ctxsuspend _ => 5
  | .ctxsuspendComplete _ => 5
  | .ctxresume _ => 5
  | .ctxdestroy _ => 5
  | .ctxheap _ => 5
  | .ctxmsi _ => 5
  | .regcreate _ => 5
  | .regdestroy _ => 5
  | .cqcreate _ => 5
  | .cqdestroy _ => 5
  | .ringmsi _ => 5
  | .pkgring _ => 5
  | .islandLevelChange _ _ => 5
  | .islandChangeDone _ => 5
  | .mmioRegisterWrite _ _ => 5
  | .copy _ => 5
  | .reducingCopy _ => 5
  | .subscribe _ => 5
  | .subscribeTileFill _ => 5
  | .drain _ => 5
  | .drainSlotWrite _ => 5
  | .copyPacketComplete _ => 5
  | .ringHeaderWatch _ => 5
  | .routeTrafficApply _ _ => 5
  | .inboundPostedWrite _ _ _ => 5
  | .inboundRead _ _ _ => 5
  | .inboundMsi _ _ _ => 5
  | .borrowRefill _ _ => 5
  | .combinerIdleFlush _ _ => 5
  | .flushProbe _ _ => 5
  | .closeNotice _ _ => 5
  | .gravityFlushArrival _ => 5
  | .historyUpdate _ _ _ => 5
  | .downstreamSpeculation _ => 5
  | .specCommit _ => 5
  | .specSquash _ => 5
  | .linkFailureRecovery _ => 5
  | .coldStart _ _ => 5
  | .warmStart _ => 5
  | .dieJoinService _ => 5
  | .reducedServiceEnd => 5
  | .getVersion => 5
  | .getCapabilities _ => 5
  | .negotiateAlgorithms _ => 5
  | .getDigests => 5
  | .getCertificate _ _ _ => 5
  | .challenge _ _ => 5
  | .getMeasurements _ _ => 5
  | .claim _ _ => 5
  | .claimWindowExpiry => 5
  | .heartbeat => 5
  | .heartbeatTimeout => 5
  | .powerLimit _ => 5
  | .illegalOpcode _ => 5
  | .bytecodeIllegalOpcode _ => 5
  | .emptyBundle => 5
  | .variableLatencyResult _ _ _ => 5
  | .storeAcknowledged _ => 5
  | .powerLoss => 5
  | .coreIslandPowerGating _ => 5
  | .debuggerHalt _ => 5
  | .debuggerHaltEnd _ => 5
  | .thermalAlert _ => 5
  | .watchdog => 5
  | .pciePortEvent _ => 5
  | .ethernetUalinkPortEvent _ => 5
  | .rexit _ => 5

end Sys2Proof
end

