-- ==== Sys2Proof/WellFormed.lean ====
section
/-! DEFINITION. When an instruction is well formed: every operand fits the field its encoding gives it and lies within the
limits the spec gives (R165, R191, R212, R240, R280, R283 checks 2 to 4). An ill-formed term is no word of the machine. -/

namespace Sys2Proof

/-- A signed field of w bits holds i. -/
def inS (w : Nat) (i : Int) : Bool := decide (-(2 ^ (w - 1) : Nat) ≤ i) && decide (i < (2 ^ (w - 1) : Nat))

/-- A predicate pair names two predicates unless it is 0 (R166, R199). -/
def pairOk (pd pc : Nat) : Bool := pd == 0 || pd != pc

/-- The k-register indices that R147 assigns. -/
def kAssigned (k : Nat) : Bool :=
  decide (k ≤ 4) || (decide (8 ≤ k) && decide (k ≤ 0xD)) || (decide (0x10 ≤ k) && decide (k ≤ 0x12))
    || (decide (0x20 ≤ k) && decide (k ≤ 0x24)) || (decide (0x28 ≤ k) && decide (k ≤ 0x2D))
    || (decide (0x30 ≤ k) && decide (k ≤ 0x35)) || (decide (0x40 ≤ k) && decide (k ≤ 0x42))
    || k == 0x48 || k == 0x49 || (decide (0x50 ≤ k) && decide (k ≤ 0x53)) || k == 0x60

/-- Element width in a vector lane of a format code 0 to 8 (R57). -/
def elemW (f : Nat) : Nat := if f == 0 || f == 8 then 32 else if f == 1 || f == 2 || f == 7 then 16 else 8

/-- Width ratio r of R197. -/
def ratio (a b : Nat) : Nat := max a b / min a b

/-- V-slot fields within their widths; a hold bit goes with a zero register field (R140). -/
def VFields.bounds (f : VFields) : Bool :=
  decide (f.qp < 16) && decide (f.vd < 1024) && decide (f.va < 1024) && decide (f.vb < 1024) && decide (f.vc < 1024)
    && decide (f.fmt < 16) && decide (f.rnd < 4) && (!f.ha || f.va == 0) && (!f.hb || f.vb == 0)

/-- RND selects a mode for formats 0 to 4 and is 0 for the others (R190, R191). -/
def VFields.modeOk (f : VFields) : Bool := if f.fmt ≤ 4 then decide (f.rnd ≤ 2) else f.rnd == 0

/-- Format codes up to n. -/
def VFields.fmtTo (f : VFields) (n : Nat) : Bool := decide (f.fmt ≤ n)

/-- Integer vector formats 5 to 8. -/
def VFields.fmtInt (f : VFields) : Bool := decide (5 ≤ f.fmt) && decide (f.fmt ≤ 8)

/-- The operation does not read position b. -/
def VFields.noB (f : VFields) : Bool := f.vb == 0 && !f.hb

/-- The operation does not read position a. -/
def VFields.noA (f : VFields) : Bool := f.va == 0 && !f.ha

/-- QAND, QOR and QNOT name lane predicates and use no other field (R190, R206). -/
def VFields.qOp (f : VFields) : Bool :=
  decide (f.vd < 16) && decide (f.va < 16) && decide (f.vb < 16) && f.vc == 0 && !f.ha && !f.hb && f.fmt == 0 && f.rnd == 0

/-- MXGO's limits (R211, R212). -/
def MxgoF.wf (f : MxgoF) : Bool :=
  decide (f.a < 64) && decide (f.b < 64) && decide (f.sc < 64) && decide (f.mode ≤ 2) && decide (1 ≤ f.afmt)
    && (decide (f.afmt ≤ 6) || f.afmt == 10) && decide (f.nlm1 ≤ 5)
    && decide (f.kr < (if f.afmt == 1 || f.afmt == 2 then 32 else 64))
    && (f.mode == 2 || (f.b == 0 && !f.bsel)) && (f.asel || decide (f.a < 16)) && (f.bsel || decide (f.b < 16))

/-- Slot operations: every field within the width its encoding gives it, and within its limits (R165, R191, R212, R240). -/
def slotWf : Instr → Bool
  | .mov d a => decide (d < 64) && decide (a < 64)
  | .li d imm => decide (d < 64) && inS 42 imm
  | .lih d imm => decide (d < 64) && decide (imm < 4194304)
  | .add d a b => decide (d < 64) && decide (a < 64) && decide (b < 64)
  | .addi d a imm => decide (d < 64) && decide (a < 64) && inS 30 imm
  | .sub d a b => decide (d < 64) && decide (a < 64) && decide (b < 64)
  | .mul d a b => decide (d < 64) && decide (a < 64) && decide (b < 64)
  | .mulh d a b mode => decide (d < 64) && decide (a < 64) && decide (b < 64) && decide (mode < 4) && decide (mode ≤ 2)
  | .div d a b mode => decide (d < 64) && decide (a < 64) && decide (b < 64) && decide (mode < 4) && decide (mode ≤ 1)
  | .rem d a b mode => decide (d < 64) && decide (a < 64) && decide (b < 64) && decide (mode < 4) && decide (mode ≤ 1)
  | .and d a b => decide (d < 64) && decide (a < 64) && decide (b < 64)
  | .or d a b => decide (d < 64) && decide (a < 64) && decide (b < 64)
  | .xor d a b => decide (d < 64) && decide (a < 64) && decide (b < 64)
  | .shl d a b => decide (d < 64) && decide (a < 64) && decide (b < 64)
  | .shlImm d a n => decide (d < 64) && decide (a < 64) && decide (n < 64)
  | .shr d a b => decide (d < 64) && decide (a < 64) && decide (b < 64)
  | .shrImm d a n => decide (d < 64) && decide (a < 64) && decide (n < 64)
  | .sra d a b => decide (d < 64) && decide (a < 64) && decide (b < 64)
  | .sraImm d a n => decide (d < 64) && decide (a < 64) && decide (n < 64)
  | .min d a b mode => decide (d < 64) && decide (a < 64) && decide (b < 64) && decide (mode < 4) && decide (mode ≤ 1)
  | .max d a b mode => decide (d < 64) && decide (a < 64) && decide (b < 64) && decide (mode < 4) && decide (mode ≤ 1)
  | .sel d n a b => decide (d < 64) && decide (n < 16) && decide (a < 64) && decide (b < 64)
  | .cmp pd pc a b cond => decide (pd < 64) && decide (pc < 16) && decide (a < 64) && decide (b < 64) && decide (cond < 16) && decide (pd < 16) && decide (cond ≤ 9) && pairOk pd pc
  | .cmpi pd pc a imm cond => decide (pd < 64) && decide (pc < 64) && decide (a < 64) && inS 26 imm && decide (cond < 16) && decide (pd < 16) && decide (pc < 16) && decide (cond ≤ 9) && pairOk pd pc
  | .pand pd pa pb neg => decide (pd < 64) && decide (pa < 64) && decide (pb < 64) && decide (neg < 4) && decide (pd < 16) && decide (pa < 16) && decide (pb < 16)
  | .por pd pa pb neg => decide (pd < 64) && decide (pa < 64) && decide (pb < 64) && decide (neg < 4) && decide (pd < 16) && decide (pa < 16) && decide (pb < 16)
  | .pxor pd pa pb neg => decide (pd < 64) && decide (pa < 64) && decide (pb < 64) && decide (neg < 4) && decide (pd < 16) && decide (pa < 16) && decide (pb < 16)
  | .cnarrow c a b => decide (c < 64) && decide (a < 64) && decide (b < 64)
  | .cperm c keep => decide (c < 64) && decide (keep < 16)
  | .cget d a field => decide (d < 64) && decide (a < 64) && decide (field < 16) && decide (field ≤ 7)
  | .ctest pd pc a mask => decide (pd < 64) && decide (pc < 16) && decide (a < 64) && decide (mask < 32) && decide (pd < 16) && pairOk pd pc
  | .mfk d k => decide (d < 64) && decide (k < 4096) && kAssigned k
  | .mtk k a => decide (k < 4096) && decide (a < 64) && kAssigned k
  | .br a => decide (a < 64)
  | .bri t => decide (t < 8192)
  | .callm d t => decide (d < 64) && decide (t < 8192)
  | .retm a => decide (a < 64)
  | .loop count stM1 => decide (count < 67108864) && decide (stM1 < 8)
  | .loopReg a stM1 => decide (a < 64) && decide (stM1 < 8)
  | .brloop t => decide (t < 8192)
  | .dispatch a sh na smask => decide (a < 64) && decide (sh < 64) && decide (na < 16) && decide (smask < 256) && decide (na ≤ 8)
  | .endop => true
  | .svc => true
  | .trap code => decide (code < 1073741824)
  | .tcfg tn fmt rowsM1 => decide (tn < 64) && decide (fmt < 16) && decide (rowsM1 < 64) && decide (tn < 16) && (decide (fmt ≤ 8) || fmt == 10)
  | .tzero tn => decide (tn < 64) && decide (tn < 16)
  | .wload src ts fmt => decide (src < 64) && decide (fmt < 16) && (!ts || decide (src < 16)) && ((decide (1 ≤ fmt) && decide (fmt ≤ 6)) || fmt == 9)
  | .cbload sa => decide (sa < 64)
  | .mxnest lvl sa => decide (lvl < 8) && decide (sa < 64) && decide (lvl ≤ 5)
  | .mxnestImm lvl _ cnt astr cstr => decide (lvl < 8) && decide (cnt < 65536) && inS 11 astr && inS 11 cstr && decide (lvl ≤ 5)
  | .mxgo f => f.wf
  | .accrd sc vd ss fmt _ scl off => decide (sc < 64) && decide (vd < 1024) && decide (ss < 64) && decide (fmt < 16) && decide (off < 65536) && decide (fmt ≤ 8) && (scl || ss == 0)
  | .accwr sc va ha off => decide (sc < 64) && decide (va < 1024) && decide (off < 65536) && (!ha || va == 0)
  | .accz sc nl off => decide (sc < 64) && decide (nl < 65536) && decide (off < 65536)
  | .rtload sa nrM1 ncM1 _ _ str => decide (sa < 64) && decide (nrM1 < 64) && decide (ncM1 < 32) && decide (str < 32768)
  | .rtapply sa sb sw nrM1 ncM1 _ _ uw str => decide (sa < 64) && decide (sb < 64) && decide (sw < 64) && decide (nrM1 < 64) && decide (ncM1 < 32) && decide (str < 16384) && (!uw || sw == 0)
  | .rtread vd row _ => decide (vd < 1024) && decide (row < 32)
  | .rtclr => true
  | .rtgain => true
  | .rtwords sa => decide (sa < 64)
  | .ptrans dst src ds ss ew => decide (dst < 64) && decide (src < 64) && decide (ew < 4) && (ds || decide (dst < 16)) && (ss || decide (src < 16)) && decide (ew ≤ 2)
  | .pgather tn sa si nM1 => decide (tn < 64) && decide (sa < 64) && decide (si < 64) && decide (nM1 < 64) && decide (tn < 16)
  | .pred sd sa sb fmt kind alpha => decide (sd < 64) && decide (sa < 64) && decide (sb < 64) && decide (fmt < 16) && decide (kind < 4) && decide (alpha < 65536) && decide (fmt ≤ 8) && decide (kind ≤ 2) && (kind != 0 || sb == 0) && (kind == 2 || alpha == 0)
  | .tcmp sa sb sc st fmt _ => decide (sa < 64) && decide (sb < 64) && decide (sc < 64) && decide (st < 64) && decide (fmt < 16) && decide (fmt ≤ 8)
  | .ld sd sa sz sx scope imm => decide (sd < 64) && decide (sa < 64) && decide (sz < 8) && decide (scope < 8) && inS 24 imm && decide (sz ≤ 4) && (!sx || decide (sz ≤ 2)) && scope == 0
  | .st sd sa sz sx scope imm => decide (sd < 64) && decide (sa < 64) && decide (sz < 8) && decide (scope < 8) && inS 24 imm && decide (sz ≤ 4) && !sx && scope == 0
  | .lda sd sa sz sx scope imm => decide (sd < 64) && decide (sa < 64) && decide (sz < 8) && decide (scope < 8) && inS 24 imm && decide (sz ≤ 4) && (!sx || decide (sz ≤ 2)) && decide (scope ≤ 5)
  | .stl sd sa sz sx scope imm => decide (sd < 64) && decide (sa < 64) && decide (sz < 8) && decide (scope < 8) && inS 24 imm && decide (sz ≤ 4) && !sx && decide (scope ≤ 5)
  | .vld vd sa qp _ imm => decide (vd < 1024) && decide (sa < 64) && decide (qp < 16) && inS 24 imm
  | .vst vs sa qp bfx imm => decide (vs < 1024) && decide (sa < 64) && decide (qp < 16) && inS 24 imm && !bfx
  | .vlds vd sa qp sb esz imm => decide (vd < 1024) && decide (sa < 64) && decide (qp < 16) && decide (sb < 64) && decide (esz < 4) && inS 16 imm && decide (esz ≤ 2)
  | .vgather vd sa qp vb scl imm => decide (vd < 1024) && decide (sa < 64) && decide (qp < 16) && decide (vb < 1024) && decide (scl < 4) && inS 16 imm
  | .vscatter vs sa qp vb scl imm => decide (vs < 1024) && decide (sa < 64) && decide (qp < 16) && decide (vb < 1024) && decide (scl < 4) && inS 16 imm
  | .tmov dst src ds ss nrM1 str => decide (dst < 64) && decide (src < 64) && decide (nrM1 < 64) && decide (str < 65536) && (ds || decide (dst < 16)) && (ss || decide (src < 16))
  | .cpyput vs sa imm => decide (vs < 1024) && decide (sa < 64) && inS 24 imm
  | .rawait sd sa k => decide (sd < 64) && decide (sa < 64) && decide (k < 128)
  | .rarel sa nM1 => decide (sa < 64) && decide (nM1 < 128)
  | .rapeek sd sa k => decide (sd < 64) && decide (sa < 64) && decide (k < 128)
  | .atom sd sa sb aop w8 ord scope nret imm => decide (sd < 64) && decide (sa < 64) && decide (sb < 64) && decide (aop < 16) && decide (ord < 4) && decide (scope < 8) && inS 16 imm && decide (aop ≤ 9) && (aop != 9 || !w8) && decide (scope ≤ 5) && (!nret || sd == 0)
  | .acas sd sa sb sc _ ord scope imm => decide (sd < 64) && decide (sa < 64) && decide (sb < 64) && decide (sc < 64) && decide (ord < 4) && decide (scope < 8) && inS 16 imm && decide (scope ≤ 5)
  | .fence kind scope emask => decide (kind < 8) && decide (scope < 8) && decide (emask < 128) && decide (kind ≤ 4) && decide (scope ≤ 5) && ((emask != 0) == (kind == 3))
  | .ewait sa => decide (sa < 64)
  | .barinit sa scope cnt imm => decide (sa < 64) && decide (scope < 8) && decide (cnt < 4096) && inS 16 imm && decide (1 ≤ cnt) && decide (scope ≤ 5)
  | .bararr sd sa scope rc n imm => decide (sd < 64) && decide (sa < 64) && decide (scope < 8) && decide (n < 4096) && inS 16 imm && decide (scope ≤ 5) && (if rc then decide (n < 64) else decide (1 ≤ n))
  | .barwait pd sa scope dl sb sc imm => decide (pd < 16) && decide (sa < 64) && decide (scope < 8) && decide (sb < 64) && decide (sc < 64) && inS 16 imm && decide (scope ≤ 5) && (dl || sc == 0)
  | .enq slot _ sa => decide (slot < 64) && decide (sa < 64)
  | .deq sd slot _ => decide (sd < 64) && decide (slot < 64)
  | .spawn slot _ sa imm => decide (slot < 64) && decide (sa < 64) && inS 24 imm
  | .gsplit sd rk k => decide (sd < 64) && decide (k < 4096) && (!rk || decide (k < 64))
  | .gret sb => decide (sb < 64)
  | .waitq sa => decide (sa < 64)
  | .time sd => decide (sd < 64)
  | .waitt sa _ => decide (sa < 64)
  | .vadd f => f.bounds && (f.fmtTo 8 && f.modeOk && f.vc == 0)
  | .vsub f => f.bounds && (f.fmtTo 8 && f.modeOk && f.vc == 0)
  | .vmul f => f.bounds && (f.fmtTo 8 && f.modeOk && f.vc == 0)
  | .vfma f => f.bounds && (f.fmtTo 8 && f.modeOk)
  | .vmin f => f.bounds && (f.fmtTo 8 && f.rnd == 0 && f.vc == 0)
  | .vmax f => f.bounds && (f.fmtTo 8 && f.rnd == 0 && f.vc == 0)
  | .vclamp f => f.bounds && (f.fmtTo 8 && f.rnd == 0)
  | .vabs f => f.bounds && (f.noB && f.fmtTo 8 && f.rnd == 0 && f.vc == 0)
  | .vneg f => f.bounds && (f.noB && f.fmtTo 8 && f.rnd == 0 && f.vc == 0)
  | .vrcp f => f.bounds && (f.noB && f.fmtTo 0 && f.modeOk && f.vc == 0)
  | .vrsq f => f.bounds && (f.noB && f.fmtTo 0 && f.modeOk && f.vc == 0)
  | .vexp2 f => f.bounds && (f.noB && f.fmtTo 0 && f.modeOk && f.vc == 0)
  | .vlog2 f => f.bounds && (f.noB && f.fmtTo 0 && f.modeOk && f.vc == 0)
  | .vcvt f => f.bounds && (f.noB && f.fmtTo 8 && decide (f.rnd ≤ 2) && decide (f.vc < 64) && decide (f.vc % 16 ≤ 8) && decide (f.vc / 16 < ratio (elemW (f.vc % 16)) (elemW f.fmt)))
  | .vscale f => f.bounds && (f.fmtTo 4 && decide (f.rnd ≤ 2) && f.vc == 0)
  | .vcmp f => f.bounds && (f.fmtTo 8 && f.rnd == 0 && decide (f.vd < 16) && decide (f.vc / 16 % 16 ≤ 6) && decide (f.vc / 256 < 32 / elemW f.fmt) && pairOk f.vd (f.vc % 16))
  | .vsel f => f.bounds && (f.fmtTo 0 && f.rnd == 0 && decide (f.vc < 16))
  | .vand f => f.bounds && (f.fmtTo 0 && f.rnd == 0 && f.vc == 0)
  | .vor f => f.bounds && (f.fmtTo 0 && f.rnd == 0 && f.vc == 0)
  | .vxor f => f.bounds && (f.fmtTo 0 && f.rnd == 0 && f.vc == 0)
  | .vshl f => f.bounds && (f.fmtInt && f.rnd == 0 && f.vc == 0)
  | .vshlImm f => f.bounds && (f.noB && f.fmtInt && f.rnd == 0 && decide (512 ≤ f.vc) && decide (f.vc < 576))
  | .vshr f => f.bounds && (f.fmtInt && f.rnd == 0 && f.vc == 0)
  | .vshrImm f => f.bounds && (f.noB && f.fmtInt && f.rnd == 0 && decide (512 ≤ f.vc) && decide (f.vc < 576))
  | .vred f => f.bounds && (f.noB && f.fmtTo 8 && decide (f.vc ≤ 2) && (if f.vc = 0 then f.modeOk else f.rnd == 0))
  | .vbcast f => f.bounds && (f.noB && f.fmtTo 8 && f.rnd == 0 && decide (f.vc < 512 / elemW f.fmt))
  | .vext f => f.bounds && (f.fmtTo 8 && f.rnd == 0 && decide (f.vc < 512 / elemW f.fmt))
  | .vperm f => f.bounds && (f.fmtTo 8 && f.rnd == 0 && f.vc == 0)
  | .viota f => f.bounds && (f.noA && !f.hb && f.fmtTo 8 && f.modeOk)
  | .qand f => f.bounds && (f.qOp)
  | .qor f => f.bounds && (f.qOp)
  | .qnot f => f.bounds && (f.qOp && f.vb == 0)
  | .nop _ _ => false
  | .setg _ _ _ => false
  | .setgImm64 _ _ _ => false
  | .gop _ _ _ _ _ => false
  | .gopLdt _ _ _ _ => false
  | .graphLoop _ _ _ _ => false
  | .endloop _ => false
  | .graphBr _ _ => false
  | .brc _ _ _ _ _ => false
  | .call _ _ => false
  | .ret _ => false
  | .halt _ => false
  | .tdef _ _ _ _ _ _ _ _ => false
  | .tfree _ _ _ => false
  | .tview _ _ _ _ => false
  | .treshape _ _ _ _ => false
  | .tshard _ _ _ => false
  | .tplace _ _ _ => false
  | .tload _ _ _ => false
  | .tstore _ _ _ _ => false
  | .tcopy _ _ _ _ => false
  | .tgatherb _ _ _ _ _ _ => false
  | .tconcat _ _ _ _ _ => false
  | .tappend _ _ _ => false
  | .ttrans _ _ _ _ => false
  | .matmul _ _ _ _ _ _ => false
  | .matmulcb _ _ _ _ _ _ _ _ => false
  | .convOp _ _ _ _ _ _ _ _ _ _ _ => false
  | .eltw _ _ _ _ _ _ _ _ _ _ => false
  | .reduce _ _ _ _ _ => false
  | .softmax _ _ _ _ => false
  | .norm _ _ _ _ _ _ _ => false
  | .attn _ _ _ _ _ _ _ _ => false
  | .embed _ _ _ _ => false
  | .topk _ _ _ _ _ => false
  | .argmax _ _ _ => false
  | .qr _ _ _ _ => false
  | .lsq _ _ _ _ _ => false
  | .rotl _ _ _ _ _ => false
  | .allgather _ _ _ _ _ => false
  | .redscat _ _ _ _ _ _ => false
  | .allred _ _ _ _ _ => false
  | .bcast _ _ _ _ _ => false
  | .send _ _ _ _ _ => false
  | .recv _ _ _ _ _ _ => false
  | .spawnb _ _ _ _ => false
  | .quiet _ _ => false
  | .specin _ _ _ _ _ _ _ _ => false
  | .specoff _ _ => false
  | .opinstall _ _ _ _ _ => false
  | .opremove _ _ => false
  | .syscall _ _ _ => false
  | .userOperator _ _ _ _ => false
  | .tileBind _ _ _ => false
  | .deal _ _ _ => false
  | .cardHeadCheck _ _ => false
  | .operatorComplete _ => false
  | .launch _ => false
  | .launchStart _ _ => false
  | .contextSwitch _ => false
  | .blockedBundleResume _ _ => false
  | .pboundExceeded _ _ => false
  | .eviction _ _ => false
  | .evictedContextResume _ _ _ => false
  | .priorityAging _ => false
  | .checkpointStop _ _ => false
  | .regionResume _ _ _ => false
  | .devicePreemptionRequest _ _ => false
  | .pageTableWalk _ _ _ _ => false
  | .engineCommandStart _ _ => false
  | .engineCommandComplete _ _ _ => false
  | .swap _ => false
  | .sdctlKindAll _ _ => false
  | .sdctlKindCtx _ _ => false
  | .sdctlKindCtxRange _ _ => false
  | .sdctlKindGlobalRange _ _ => false
  | .sdctlKindUnion _ _ => false
  | .shootdownAcknowledge _ => false
  | .psdctlKindAll _ => false
  | .psdctlKindCtx _ => false
  | .psdctlKindCtxRange _ => false
  | .psdctlKindGlobalRange _ => false
  | .psdctlKindUnion _ => false
  | .packageShootdownAcknowledge => false
  | .rpre _ => false
  | .fresRetry _ => false
  | .fresFail _ => false
  | .trapRecordDelivery _ => false
  | .faultRingRetry _ => false
  | .uncorrectableMemoryError _ _ _ _ => false
  | .queueMap _ _ => false
  | .queueUnmap _ _ => false
  | .queueSleep _ _ => false
  | .qcfgUpdate _ _ _ => false
  | .unmapSave _ _ => false
  | .qwake _ _ _ => false
  | .qsigWake _ _ _ => false
  | .svcreq _ _ => false
  | .serviceHandlerEntry _ _ => false
  | .serviceDeadlinePMark _ _ => false
  | .serviceDeadlineTrap _ _ => false
  | .svcres _ => false
  | .grval _ _ => false
  | .ctxcreate _ => false
  | .ctxsuspend _ => false
  | .ctxsuspendComplete _ => false
  | .ctxresume _ => false
  | .ctxdestroy _ => false
  | .ctxheap _ => false
  | .ctxmsi _ => false
  | .regcreate _ => false
  | .regdestroy _ => false
  | .cqcreate _ => false
  | .cqdestroy _ => false
  | .ringmsi _ => false
  | .pkgring _ => false
  | .islandLevelChange _ _ => false
  | .islandChangeDone _ => false
  | .mmioRegisterWrite _ _ => false
  | .copy _ => false
  | .reducingCopy _ => false
  | .subscribe _ => false
  | .subscribeTileFill _ => false
  | .drain _ => false
  | .drainSlotWrite _ => false
  | .copyPacketComplete _ => false
  | .ringHeaderWatch _ => false
  | .routeTrafficApply _ _ => false
  | .inboundPostedWrite _ _ _ => false
  | .inboundRead _ _ _ => false
  | .inboundMsi _ _ _ => false
  | .borrowRefill _ _ => false
  | .combinerIdleFlush _ _ => false
  | .flushProbe _ _ => false
  | .closeNotice _ _ => false
  | .gravityFlushArrival _ => false
  | .historyUpdate _ _ _ => false
  | .downstreamSpeculation _ => false
  | .specCommit _ => false
  | .specSquash _ => false
  | .linkFailureRecovery _ => false
  | .coldStart _ _ => false
  | .warmStart _ => false
  | .dieJoinService _ => false
  | .reducedServiceEnd => false
  | .getVersion => false
  | .getCapabilities _ => false
  | .negotiateAlgorithms _ => false
  | .getDigests => false
  | .getCertificate _ _ _ => false
  | .challenge _ _ => false
  | .getMeasurements _ _ => false
  | .claim _ _ => false
  | .claimWindowExpiry => false
  | .heartbeat => false
  | .heartbeatTimeout => false
  | .powerLimit _ => false
  | .illegalOpcode _ => false
  | .bytecodeIllegalOpcode _ => false
  | .emptyBundle => false
  | .variableLatencyResult _ _ _ => false
  | .storeAcknowledged _ => false
  | .powerLoss => false
  | .coreIslandPowerGating _ => false
  | .debuggerHalt _ => false
  | .debuggerHaltEnd _ => false
  | .thermalAlert _ => false
  | .watchdog => false
  | .pciePortEvent _ => false
  | .ethernetUalinkPortEvent _ => false
  | .rexit _ => false

/-- A scalar operand word's fields within their widths; SEL 3 is reserved (R279). -/
def Sow.wf : Sow → Bool
  | .imm i => inS 30 i
  | .reg n => decide (n < 64)
  | .regPlus n k => decide (n < 64) && inS 24 k
  | .part sel k => decide (sel ≤ 2) && inS 28 k

/-- A scalar operand word of kind 3 (R280). -/
def Sow.isPart : Sow → Bool
  | .part _ _ => true
  | _ => false

/-- A handle identifier. -/
def hid16 (n : Nat) : Bool := decide (n < 65536)

/-- A required handle identifier's width; whether it is 0 is the handle check's matter (R283 check 5). -/
def w32 (n : Nat) : Bool := decide (n < 4294967296)

/-- A target or signed word. -/
def tgt (t : Int) : Bool := inS 32 t

def fuseOk (n : Nat) : Bool := decide (n < 256)

/-- A header with a walk order (compute records, R318). -/
def Hd.wf (h : Hd) : Bool := fuseOk h.fuse && decide (h.walk < 4)

/-- A header without one (movement and collective records). -/
def Hd.wf0 (h : Hd) : Bool := fuseOk h.fuse && h.walk == 0

/-- Limits on a record's fields, each with the index of the word that holds it (R283 checks 2 and 3). -/
def recLimits : Instr → List (Bool × Nat)
  | .gop _ _ op _ _ => [(decide (op ≤ 18), 1)]
  | .brc _ cond _ _ _ => [(decide (cond ≤ 9), 1)]
  | .tdef _ _ fmt pin lay _ dims _ =>
    [(decide (lay ≤ 2) && (decide (pin ≤ 4) || pin == 15) && decide (fmt ≤ 11), 1),
      (decide (1 ≤ dims.length) && decide (dims.length ≤ 6), 1), (lay != 2 || (decide (2 ≤ dims.length) && decide (dims.length ≤ 5)), 1)]
  | .tplace _ _ level => [(decide (level ≤ 4) || level == 15, 2)]
  | .treshape _ _ _ dims => [(decide (1 ≤ dims.length) && decide (dims.length ≤ 6), 2)]
  | .tcopy _ rnd _ _ => [(decide (rnd ≤ 2), 0)]
  | .eltw _ _ _ b c st0 st1 st2 st3 _ =>
    let sts := [st0, st1, st2, st3]
    [(sts.all fun x => decide (x ≤ 17), 3), (b != 0 || !(eltUsesB sts), 3), (c != 0 || !(eltUsesC sts), 3)]
  | .allgather _ _ _ axes _ => [(decide (axes ≤ 2), 2)]
  | .redscat _ _ _ axes _ rop => [(decide (axes ≤ 2) && decide (rop ≤ 2), 2)]
  | .allred _ _ _ axes rop => [(decide (axes ≤ 2) && decide (rop ≤ 2), 2)]
  | .bcast _ _ _ axes _ => [(decide (axes ≤ 2), 2)]
  | .send _ _ axes _ _ => [(decide (axes ≤ 2), 2)]
  | .recv _ _ _ axes _ _ => [(decide (axes ≤ 2), 2)]
  | .attn _ _ _ _ _ _ heads _ => [(decide (1 ≤ heads), 3)]
  | .specin _ _ kind _ _ alpha _ _ => [(decide (kind ≤ 2), 2), (kind == 2 || alpha == 0, 2)]
  | _ => []
where
  /-- Steps before the first 0 (R323). -/
  live : List Nat → List Nat
    | [] => []
    | x :: xs => if x = 0 then [] else x :: live xs
  /-- A step in use names b. -/
  eltUsesB (l : List Nat) : Bool := (live l).any fun x => (decide (1 ≤ x) && decide (x ≤ 5)) || x == 16
  /-- A step in use names c. -/
  eltUsesC (l : List Nat) : Bool := (live l).any fun x => x == 16

/-- Scalar operand words of kind 3 outside the fields marked per shard: the index of the first (R280, R283 check 4). -/
def misplaced : Instr → Option Nat
  | .setg _ _ v => at1 [(v, 1)]
  | .gop _ _ _ a b => at1 [(a, 2), (b, 3)]
  | .gopLdt _ _ _ b => at1 [(b, 3)]
  | .graphLoop _ _ n _ => at1 [(n, 1)]
  | .brc _ _ a b _ => at1 [(a, 2), (b, 3)]
  | .tdef _ _ _ _ _ _ dims _ => at1 (number 3 dims)
  | .treshape _ _ _ dims => at1 (number 3 dims)
  | .tgatherb _ _ _ _ _ n => at1 [(n, 3)]
  | .topk _ _ _ _ k => at1 [(k, 3)]
  | .bcast _ _ _ _ root => at1 [(root, 3)]
  | .spawnb _ _ _ slot => at1 [(slot, 2)]
  | .quiet _ rcb => at1 [(rcb, 1)]
  | .opinstall _ _ addr _ pbound => at1 [(addr, 1), (pbound, 3)]
  | .syscall _ _ args => at1 (number 1 args)
  | _ => none
where
  at1 : List (Sow × Nat) → Option Nat
    | [] => none
    | (s, k) :: r => if s.isPart then some k else at1 r
  number : Nat → List Sow → List (Sow × Nat)
    | _, [] => []
    | k, s :: r => (s, k) :: number (k + 1) r

/-- A record's fields within the widths their encodings give them (R287, R293, R301, R319, R329, R335, R338, R339). -/
def recBounds : Instr → Bool
  | .nop fuse ws => fuseOk fuse && decide (ws.length ≤ 62) && ws.all w32
  | .setg fuse d v => fuseOk fuse && decide (d < 64) && v.wf
  | .setgImm64 fuse d imm => fuseOk fuse && decide (d < 64) && decide (imm < 2 ^ 64)
  | .gop fuse d op a b => fuseOk fuse && decide (d < 64) && decide (op < 32) && a.wf && b.wf
  | .gopLdt fuse d a b => fuseOk fuse && decide (d < 64) && hid16 a && b.wf
  | .graphLoop fuse d n t => fuseOk fuse && decide (d < 64) && n.wf && tgt t
  | .endloop fuse => fuseOk fuse
  | .graphBr fuse t => fuseOk fuse && tgt t
  | .brc fuse cond a b t => fuseOk fuse && decide (cond < 16) && a.wf && b.wf && tgt t
  | .call fuse t => fuseOk fuse && tgt t
  | .ret fuse => fuseOk fuse
  | .halt fuse => fuseOk fuse
  | .tdef fuse h fmt pin lay attr dims bt =>
    fuseOk fuse && hid16 h && decide (fmt < 16) && decide (pin < 16) && decide (lay < 8) && decide (attr < 4096)
      && decide (dims.length ≤ 8) && dims.all Sow.wf && decide (bt < 2 ^ 25) && (lay == 2 || bt == 0)
  | .tfree fuse a b => fuseOk fuse && hid16 a && hid16 b
  | .tview fuse d s box => fuseOk fuse && hid16 d && hid16 s && decide (1 ≤ box.length) && decide (box.length ≤ 30)
      && box.all fun p => p.1.wf && p.2.wf
  | .treshape fuse d s dims => fuseOk fuse && hid16 d && hid16 s && decide (dims.length ≤ 8) && dims.all Sow.wf
  | .tshard fuse h attr => fuseOk fuse && hid16 h && decide (attr < 4096)
  | .tplace fuse h level => fuseOk fuse && hid16 h && decide (level < 16)
  | .tload fuse h addr => fuseOk fuse && hid16 h && addr.wf
  | .tstore fuse _ h addr => fuseOk fuse && hid16 h && addr.wf
  | .tcopy h rnd d s => h.wf0 && decide (rnd < 4) && hid16 d && hid16 s
  | .tgatherb h rlog d pool tbl n => h.wf0 && decide (rlog < 16) && hid16 d && hid16 pool && hid16 tbl && n.wf
  | .tconcat h axis d a b => h.wf0 && decide (axis < 8) && hid16 d && hid16 a && hid16 b
  | .tappend h d x => h.wf0 && hid16 d && hid16 x
  | .ttrans h d s perm => h.wf0 && hid16 d && hid16 s && w32 perm
  | .matmul h _ d a w bias => h.wf && hid16 d && hid16 a && hid16 w && hid16 bias
  | .matmulcb h _ d a w cbt bias scale => h.wf && hid16 d && hid16 a && hid16 w && hid16 cbt && hid16 bias && w32 scale
  | .convOp h d x w bias sx sy px py dx dy =>
    h.wf && hid16 d && hid16 x && hid16 w && hid16 bias && [sx, sy, px, py, dx, dy].all fun v => decide (v < 16)
  | .eltw h d a b c st0 st1 st2 st3 k =>
    h.wf && hid16 d && hid16 a && hid16 b && hid16 c && ([st0, st1, st2, st3].all fun v => decide (v < 256)) && w32 k
  | .reduce h op d a axis => h.wf && decide (op < 4) && hid16 d && hid16 a && decide (axis < 8)
  | .softmax h d a scale => h.wf && hid16 d && hid16 a && w32 scale
  | .norm h _ d a g b eps => h.wf && hid16 d && hid16 a && hid16 g && hid16 b && w32 eps
  | .attn h _ d q k v heads scale => h.wf && hid16 d && hid16 q && hid16 k && hid16 v && decide (heads < 256) && w32 scale
  | .embed h d t i => h.wf && hid16 d && hid16 t && hid16 i
  | .topk h d a x k => h.wf && hid16 d && hid16 a && hid16 x && k.wf
  | .argmax h d a => h.wf && hid16 d && hid16 a
  | .qr h _ r a => h.wf && hid16 r && hid16 a
  | .lsq h _ x a b => h.wf && hid16 x && hid16 a && hid16 b
  | .rotl h _ d x w => h.wf && hid16 d && hid16 x && hid16 w
  | .allgather h d s axes dim => h.wf0 && hid16 d && hid16 s && decide (axes < 4) && decide (dim < 8)
  | .redscat h d s axes dim rop => h.wf0 && hid16 d && hid16 s && decide (axes < 4) && decide (dim < 8) && decide (rop < 4)
  | .allred h d s axes rop => h.wf0 && hid16 d && hid16 s && decide (axes < 4) && decide (rop < 4)
  | .bcast h d s axes root => h.wf0 && hid16 d && hid16 s && decide (axes < 4) && root.wf
  | .send h s axes tag peer => h.wf0 && hid16 s && decide (axes < 4) && hid16 tag && peer.wf
  | .recv h d ring axes tag peer => h.wf0 && hid16 d && hid16 ring && decide (axes < 4) && hid16 tag && peer.wf
  | .spawnb fuse _ card slot => fuseOk fuse && hid16 card && slot.wf
  | .quiet fuse rcb => fuseOk fuse && rcb.wf
  | .specin fuse h kind depthM1 _ alpha ab re =>
    fuseOk fuse && hid16 h && decide (kind < 4) && decide (depthM1 < 2) && hid16 alpha && hid16 ab && hid16 re
  | .specoff fuse h => fuseOk fuse && hid16 h
  | .opinstall fuse _ addr opc pbound => fuseOk fuse && addr.wf && decide (opc < 1024) && pbound.wf
  | .opremove fuse opc => fuseOk fuse && decide (opc < 1024)
  | .syscall fuse _ args => fuseOk fuse && decide (args.length ≤ 6) && args.all Sow.wf
  | .userOperator fuse flags opc hs => fuseOk fuse && fuseOk flags && decide (0x200 ≤ opc) && decide (opc < 1024)
      && decide (hs.length ≤ 62) && hs.all fun p => hid16 p.1 && hid16 p.2
  | _ => false

/-- A well-formed record. -/
def recWf (i : Instr) : Bool := recBounds i && ((recLimits i).all Prod.fst) && (misplaced i).isNone

/-- Well-formed: a slot operation or record within its encoding's limits. The device's own steps have no encoding. -/
def Instr.wf (i : Instr) : Bool :=
  if i.tier < 4 then slotWf i else if i.tier = 4 then recWf i else true

end Sys2Proof
end

