-- ==== Sys2Proof/Decode.lean ====
section
/-! DEFINITION. Decoding, total on any bits: bundles and their slots (R132 to R134, R164 to R167, R190, R211, R239), bytecode
records (R277 to R281), and the encoder of both, written from the same tables. -/

namespace Sys2Proof

/-- Cut a number into fields of the given widths, least significant first. -/
def splitBits (w : Nat) : List Nat → List Nat
  | [] => []
  | n :: ns => w % 2 ^ n :: splitBits (w / 2 ^ n) ns

/-- Join fields of the given widths, least significant first. -/
def packBits : List Nat → List Nat → Nat
  | n :: ns, x :: xs => x + 2 ^ n * packBits ns xs
  | _, _ => 0

/-- The fields of a V-slot operation below G and OP, least significant first: RND FMT HB HA VC VB VA VD, OP and QP above (R135). -/
def layoutVLow : List Nat := [2, 4, 1, 1, 10, 10, 10, 10]

/-- The V-slot field record as a list in the order of layoutVLow. -/
def vFieldList (f : VFields) : List Nat := [f.rnd, f.fmt, f.hb.toNat, f.ha.toNat, f.vc, f.vb, f.va, f.vd]

/-- Field widths, least significant first, of the S-slot operations (R167) below the opcode; none for an opcode the map does not assign (R164). -/
def layoutS : Nat → Option (List Nat)
  | 0x01 => some [36, 6, 6]
  | 0x02 => some [42, 6]
  | 0x03 => some [22, 20, 6]
  | 0x04 => some [30, 6, 6, 6]
  | 0x05 => some [30, 6, 6, 6]
  | 0x06 => some [30, 6, 6, 6]
  | 0x07 => some [30, 6, 6, 6]
  | 0x08 => some [2, 28, 6, 6, 6]
  | 0x09 => some [2, 28, 6, 6, 6]
  | 0x0A => some [2, 28, 6, 6, 6]
  | 0x0B => some [30, 6, 6, 6]
  | 0x0C => some [30, 6, 6, 6]
  | 0x0D => some [30, 6, 6, 6]
  | 0x0E => some [6, 1, 23, 6, 6, 6]
  | 0x0F => some [6, 1, 23, 6, 6, 6]
  | 0x10 => some [6, 1, 23, 6, 6, 6]
  | 0x11 => some [2, 28, 6, 6, 6]
  | 0x12 => some [2, 28, 6, 6, 6]
  | 0x13 => some [4, 26, 6, 6, 6]
  | 0x20 => some [4, 22, 4, 6, 6, 6]
  | 0x21 => some [26, 4, 6, 6, 6]
  | 0x22 => some [2, 28, 6, 6, 6]
  | 0x23 => some [2, 28, 6, 6, 6]
  | 0x24 => some [2, 28, 6, 6, 6]
  | 0x30 => some [30, 6, 6, 6]
  | 0x31 => some [4, 38, 6]
  | 0x32 => some [4, 32, 6, 6]
  | 0x33 => some [4, 5, 27, 6, 6]
  | 0x40 => some [12, 30, 6]
  | 0x41 => some [12, 24, 6, 6]
  | 0x50 => some [36, 6, 6]
  | 0x51 => some [13, 35]
  | 0x52 => some [13, 29, 6]
  | 0x53 => some [36, 6, 6]
  | 0x54 => some [26, 3, 1, 6, 6, 6]
  | 0x55 => some [13, 35]
  | 0x56 => some [8, 4, 6, 18, 6, 6]
  | 0x57 => some [48]
  | 0x58 => some [48]
  | 0x59 => some [30, 18]
  | _ => none

/-- The operation that the fields of an opcode name; none where a field that must be 0 is not, or no form has these fields. -/
def buildS (op : Nat) (fs : List Nat) : Option Instr :=
  match op with
  | 0x01 => match fs with
    | [0, a, d] => some (.mov d a)
    | _ => none
  | 0x02 => match fs with
    | [imm, d] => some (.li d (sext imm 42))
    | _ => none
  | 0x03 => match fs with
    | [imm, 0, d] => some (.lih d imm)
    | _ => none
  | 0x04 => match fs with
    | [0, b, a, d] => some (.add d a b)
    | _ => none
  | 0x05 => match fs with
    | [imm, 0, a, d] => some (.addi d a (sext imm 30))
    | _ => none
  | 0x06 => match fs with
    | [0, b, a, d] => some (.sub d a b)
    | _ => none
  | 0x07 => match fs with
    | [0, b, a, d] => some (.mul d a b)
    | _ => none
  | 0x08 => match fs with
    | [mode, 0, b, a, d] => some (.mulh d a b mode)
    | _ => none
  | 0x09 => match fs with
    | [mode, 0, b, a, d] => some (.div d a b mode)
    | _ => none
  | 0x0A => match fs with
    | [mode, 0, b, a, d] => some (.rem d a b mode)
    | _ => none
  | 0x0B => match fs with
    | [0, b, a, d] => some (.and d a b)
    | _ => none
  | 0x0C => match fs with
    | [0, b, a, d] => some (.or d a b)
    | _ => none
  | 0x0D => match fs with
    | [0, b, a, d] => some (.xor d a b)
    | _ => none
  | 0x0E => match fs with
    | [0, 0, 0, b, a, d] => some (.shl d a b)
    | [n, 1, 0, 0, a, d] => some (.shlImm d a n)
    | _ => none
  | 0x0F => match fs with
    | [0, 0, 0, b, a, d] => some (.shr d a b)
    | [n, 1, 0, 0, a, d] => some (.shrImm d a n)
    | _ => none
  | 0x10 => match fs with
    | [0, 0, 0, b, a, d] => some (.sra d a b)
    | [n, 1, 0, 0, a, d] => some (.sraImm d a n)
    | _ => none
  | 0x11 => match fs with
    | [mode, 0, b, a, d] => some (.min d a b mode)
    | _ => none
  | 0x12 => match fs with
    | [mode, 0, b, a, d] => some (.max d a b mode)
    | _ => none
  | 0x13 => match fs with
    | [n, 0, b, a, d] => some (.sel d n a b)
    | _ => none
  | 0x20 => match fs with
    | [pc, 0, cond, b, a, pd] => some (.cmp pd pc a b cond)
    | _ => none
  | 0x21 => match fs with
    | [imm, cond, pc, a, pd] => some (.cmpi pd pc a (sext imm 26) cond)
    | _ => none
  | 0x22 => match fs with
    | [neg, 0, pb, pa, pd] => some (.pand pd pa pb neg)
    | _ => none
  | 0x23 => match fs with
    | [neg, 0, pb, pa, pd] => some (.por pd pa pb neg)
    | _ => none
  | 0x24 => match fs with
    | [neg, 0, pb, pa, pd] => some (.pxor pd pa pb neg)
    | _ => none
  | 0x30 => match fs with
    | [0, b, a, c] => some (.cnarrow c a b)
    | _ => none
  | 0x31 => match fs with
    | [keep, 0, c] => some (.cperm c keep)
    | _ => none
  | 0x32 => match fs with
    | [field, 0, a, d] => some (.cget d a field)
    | _ => none
  | 0x33 => match fs with
    | [pc, mask, 0, a, pd] => some (.ctest pd pc a mask)
    | _ => none
  | 0x40 => match fs with
    | [k, 0, d] => some (.mfk d k)
    | _ => none
  | 0x41 => match fs with
    | [k, 0, a, 0] => some (.mtk k a)
    | _ => none
  | 0x50 => match fs with
    | [0, a, 0] => some (.br a)
    | _ => none
  | 0x51 => match fs with
    | [t, 0] => some (.bri t)
    | _ => none
  | 0x52 => match fs with
    | [t, 0, d] => some (.callm d t)
    | _ => none
  | 0x53 => match fs with
    | [0, a, 0] => some (.retm a)
    | _ => none
  | 0x54 => match fs with
    | [c, st, 0, 0, 0, 0] => some (.loop c st)
    | [0, st, 1, 0, a, 0] => some (.loopReg a st)
    | _ => none
  | 0x55 => match fs with
    | [t, 0] => some (.brloop t)
    | _ => none
  | 0x56 => match fs with
    | [smask, na, sh, 0, a, 0] => some (.dispatch a sh na smask)
    | _ => none
  | 0x57 => match fs with
    | [0] => some (.endop)
    | _ => none
  | 0x58 => match fs with
    | [0] => some (.svc)
    | _ => none
  | 0x59 => match fs with
    | [code, 0] => some (.trap code)
    | _ => none
  | _ => none

/-- Field widths, least significant first, of the M-slot operations (R211) below the opcode; none for an opcode the map does not assign (R164). -/
def layoutM : Nat → Option (List Nat)
  | 0x01 => some [12, 6, 4, 18, 6]
  | 0x02 => some [40, 6]
  | 0x03 => some [17, 4, 1, 18, 6]
  | 0x04 => some [40, 6]
  | 0x05 => some [3, 11, 11, 11, 5, 1, 3, 1]
  | 0x06 => some [2, 6, 1, 1, 3, 4, 1, 1, 1, 2, 6, 6, 6, 6]
  | 0x07 => some [16, 2, 1, 1, 4, 6, 10, 6]
  | 0x08 => some [16, 13, 1, 10, 6]
  | 0x09 => some [16, 8, 16, 6]
  | 0x10 => some [12, 15, 1, 1, 5, 6, 6]
  | 0x11 => some [14, 1, 1, 1, 5, 6, 6, 6, 6]
  | 0x12 => some [30, 1, 5, 10]
  | 0x13 => some [46]
  | 0x14 => some [46]
  | 0x15 => some [40, 6]
  | 0x18 => some [30, 2, 1, 1, 6, 6]
  | 0x19 => some [22, 6, 6, 6, 6]
  | 0x1C => some [6, 16, 2, 4, 6, 6, 6]
  | 0x1D => some [17, 1, 4, 6, 6, 6, 6]
  | _ => none

/-- The operation that the fields of an opcode name; none where a field that must be 0 is not, or no form has these fields. -/
def buildM (op : Nat) (fs : List Nat) : Option Instr :=
  match op with
  | 0x01 => match fs with
    | [0, rowsM1, fmt, 0, tn] => some (.tcfg tn fmt rowsM1)
    | _ => none
  | 0x02 => match fs with
    | [0, tn] => some (.tzero tn)
    | _ => none
  | 0x03 => match fs with
    | [0, fmt, ts, 0, src] => some (.wload src (ts == 1) fmt)
    | _ => none
  | 0x04 => match fs with
    | [0, sa] => some (.cbload sa)
    | _ => none
  | 0x05 => match fs with
    | [0, 0, 0, 0, hi, w, lvl, 0] => some (.mxnest lvl (hi + 32 * w))
    | [0, c, a, lo, hi, w, lvl, 1] => some (.mxnestImm lvl (w == 1) (lo + 2048 * hi) (sext a 11) (sext c 11))
    | _ => none
  | 0x06 => match fs with
    | [0, kr, bs, as, nl, af, rsm, swp, acc, md, 0, sc, b, a] =>
      some (.mxgo ⟨a, b, sc, md, acc == 1, swp == 1, rsm == 1, af, nl, as == 1, bs == 1, kr⟩)
    | _ => none
  | 0x07 => match fs with
    | [off, 0, scl, at32, fmt, ss, vd, sc] => some (.accrd sc vd ss fmt (at32 == 1) (scl == 1) off)
    | _ => none
  | 0x08 => match fs with
    | [off, 0, ha, va, sc] => some (.accwr sc va (ha == 1) off)
    | _ => none
  | 0x09 => match fs with
    | [off, 0, nl, sc] => some (.accz sc nl off)
    | _ => none
  | 0x10 => match fs with
    | [0, str, gm, rf, ncM1, nrM1, sa] => some (.rtload sa nrM1 ncM1 (rf == 1) (gm == 1) str)
    | _ => none
  | 0x11 => match fs with
    | [str, uw, gm, rf, ncM1, nrM1, sw, sb, sa] => some (.rtapply sa sb sw nrM1 ncM1 (rf == 1) (gm == 1) (uw == 1) str)
    | _ => none
  | 0x12 => match fs with
    | [0, half, row, vd] => some (.rtread vd row (half == 1))
    | _ => none
  | 0x13 => match fs with
    | [0] => some (.rtclr)
    | _ => none
  | 0x14 => match fs with
    | [0] => some (.rtgain)
    | _ => none
  | 0x15 => match fs with
    | [0, sa] => some (.rtwords sa)
    | _ => none
  | 0x18 => match fs with
    | [0, ew, ss, ds, src, dst] => some (.ptrans dst src (ds == 1) (ss == 1) ew)
    | _ => none
  | 0x19 => match fs with
    | [0, nM1, si, sa, tn] => some (.pgather tn sa si nM1)
    | _ => none
  | 0x1C => match fs with
    | [0, alpha, kind, fmt, sb, sa, sd] => some (.pred sd sa sb fmt kind alpha)
    | _ => none
  | 0x1D => match fs with
    | [0, cm, fmt, st, sc, sb, sa] => some (.tcmp sa sb sc st fmt (cm == 1))
    | _ => none
  | _ => none

/-- Field widths, least significant first, of the X-slot operations (R239) below the opcode; none for an opcode the map does not assign (R164). -/
def layoutX : Nat → Option (List Nat)
  | 0x01 => some [24, 5, 3, 1, 3, 6, 6]
  | 0x02 => some [24, 5, 3, 1, 3, 6, 6]
  | 0x03 => some [24, 5, 3, 1, 3, 6, 6]
  | 0x04 => some [24, 5, 3, 1, 3, 6, 6]
  | 0x08 => some [24, 3, 1, 4, 6, 10]
  | 0x09 => some [24, 3, 1, 4, 6, 10]
  | 0x0A => some [16, 4, 2, 6, 4, 6, 10]
  | 0x0B => some [16, 2, 10, 4, 6, 10]
  | 0x0C => some [16, 2, 10, 4, 6, 10]
  | 0x10 => some [12, 16, 6, 1, 1, 6, 6]
  | 0x11 => some [24, 8, 6, 10]
  | 0x14 => some [28, 7, 1, 6, 6]
  | 0x15 => some [28, 7, 1, 6, 6]
  | 0x16 => some [28, 7, 1, 6, 6]
  | 0x18 => some [16, 3, 1, 3, 2, 1, 4, 6, 6, 6]
  | 0x19 => some [16, 2, 3, 2, 1, 6, 6, 6, 6]
  | 0x1C => some [35, 7, 3, 3]
  | 0x1D => some [36, 6, 6]
  | 0x20 => some [16, 5, 12, 3, 6, 6]
  | 0x21 => some [16, 4, 6, 6, 1, 3, 6, 6]
  | 0x22 => some [16, 4, 6, 6, 1, 3, 6, 2, 4]
  | 0x24 => some [35, 1, 6, 6]
  | 0x25 => some [35, 1, 6, 6]
  | 0x28 => some [24, 11, 1, 6, 6]
  | 0x29 => some [29, 6, 6, 1, 6]
  | 0x2A => some [36, 6, 6]
  | 0x2B => some [36, 6, 6]
  | 0x30 => some [42, 6]
  | 0x31 => some [35, 1, 6, 6]
  | _ => none

/-- The operation that the fields of an opcode name; none where a field that must be 0 is not, or no form has these fields. -/
def buildX (op : Nat) (fs : List Nat) : Option Instr :=
  match op with
  | 0x01 => match fs with
    | [imm, 0, scope, sx, sz, sa, sd] => some (.ld sd sa sz (sx == 1) scope (sext imm 24))
    | _ => none
  | 0x02 => match fs with
    | [imm, 0, scope, sx, sz, sa, sd] => some (.st sd sa sz (sx == 1) scope (sext imm 24))
    | _ => none
  | 0x03 => match fs with
    | [imm, 0, scope, sx, sz, sa, sd] => some (.lda sd sa sz (sx == 1) scope (sext imm 24))
    | _ => none
  | 0x04 => match fs with
    | [imm, 0, scope, sx, sz, sa, sd] => some (.stl sd sa sz (sx == 1) scope (sext imm 24))
    | _ => none
  | 0x08 => match fs with
    | [imm, 0, bfx, qp, sa, vd] => some (.vld vd sa qp (bfx == 1) (sext imm 24))
    | _ => none
  | 0x09 => match fs with
    | [imm, 0, bfx, qp, sa, vs] => some (.vst vs sa qp (bfx == 1) (sext imm 24))
    | _ => none
  | 0x0A => match fs with
    | [imm, 0, esz, sb, qp, sa, vd] => some (.vlds vd sa qp sb esz (sext imm 16))
    | _ => none
  | 0x0B => match fs with
    | [imm, scl, vb, qp, sa, vd] => some (.vgather vd sa qp vb scl (sext imm 16))
    | _ => none
  | 0x0C => match fs with
    | [imm, scl, vb, qp, sa, vs] => some (.vscatter vs sa qp vb scl (sext imm 16))
    | _ => none
  | 0x10 => match fs with
    | [0, str, nrM1, ss, ds, src, dst] => some (.tmov dst src (ds == 1) (ss == 1) nrM1 str)
    | _ => none
  | 0x11 => match fs with
    | [imm, 0, sa, vs] => some (.cpyput vs sa (sext imm 24))
    | _ => none
  | 0x14 => match fs with
    | [0, k, 0, sa, sd] => some (.rawait sd sa k)
    | _ => none
  | 0x15 => match fs with
    | [0, nM1, 0, sa, 0] => some (.rarel sa nM1)
    | _ => none
  | 0x16 => match fs with
    | [0, k, 0, sa, sd] => some (.rapeek sd sa k)
    | _ => none
  | 0x18 => match fs with
    | [imm, 0, nret, scope, ord, w8, aop, sb, sa, sd] => some (.atom sd sa sb aop (w8 == 1) ord scope (nret == 1) (sext imm 16))
    | _ => none
  | 0x19 => match fs with
    | [imm, 0, scope, ord, w8, sc, sb, sa, sd] => some (.acas sd sa sb sc (w8 == 1) ord scope (sext imm 16))
    | _ => none
  | 0x1C => match fs with
    | [0, emask, scope, kind] => some (.fence kind scope emask)
    | _ => none
  | 0x1D => match fs with
    | [0, sa, 0] => some (.ewait sa)
    | _ => none
  | 0x20 => match fs with
    | [imm, 0, cnt, scope, sa, 0] => some (.barinit sa scope cnt (sext imm 16))
    | _ => none
  | 0x21 => match fs with
    | [i, 0, lo, hi, 0, sp, a, d] => some (.bararr d a sp false (lo + 64 * hi) (sext i 16))
    | [i, 0, 0, hi, 1, sp, a, d] => some (.bararr d a sp true hi (sext i 16))
    | _ => none
  | 0x22 => match fs with
    | [imm, 0, sc, sb, dl, scope, sa, 0, pd] => some (.barwait pd sa scope (dl == 1) sb sc (sext imm 16))
    | _ => none
  | 0x24 => match fs with
    | [0, rq, sa, slot] => some (.enq slot (rq == 1) sa)
    | _ => none
  | 0x25 => match fs with
    | [0, rq, slot, sd] => some (.deq sd slot (rq == 1))
    | _ => none
  | 0x28 => match fs with
    | [imm, 0, rq, sa, slot] => some (.spawn slot (rq == 1) sa (sext imm 24))
    | _ => none
  | 0x29 => match fs with
    | [0, lo, hi, 0, d] => some (.gsplit d false (lo + 64 * hi))
    | [0, 0, hi, 1, d] => some (.gsplit d true hi)
    | _ => none
  | 0x2A => match fs with
    | [0, sb, 0] => some (.gret sb)
    | _ => none
  | 0x2B => match fs with
    | [0, sa, 0] => some (.waitq sa)
    | _ => none
  | 0x30 => match fs with
    | [0, sd] => some (.time sd)
    | _ => none
  | 0x31 => match fs with
    | [0, rel, sa, 0] => some (.waitt sa (rel == 1))
    | _ => none
  | _ => none

/-- The constructors of the V slot by opcode and immediate form (R190). -/
def buildV (op : Nat) (f : VFields) : Option Instr :=
  match op with
  | 0x01 => some (.vadd f)
  | 0x02 => some (.vsub f)
  | 0x03 => some (.vmul f)
  | 0x04 => some (.vfma f)
  | 0x05 => some (.vmin f)
  | 0x06 => some (.vmax f)
  | 0x07 => some (.vclamp f)
  | 0x08 => some (.vabs f)
  | 0x09 => some (.vneg f)
  | 0x10 => some (.vrcp f)
  | 0x11 => some (.vrsq f)
  | 0x12 => some (.vexp2 f)
  | 0x13 => some (.vlog2 f)
  | 0x18 => some (.vcvt f)
  | 0x19 => some (.vscale f)
  | 0x20 => some (.vcmp f)
  | 0x21 => some (.vsel f)
  | 0x28 => some (.vand f)
  | 0x29 => some (.vor f)
  | 0x2A => some (.vxor f)
  | 0x2B => some (if 512 ≤ f.vc then .vshlImm f else .vshl f)
  | 0x2C => some (if 512 ≤ f.vc then .vshrImm f else .vshr f)
  | 0x30 => some (.vred f)
  | 0x31 => some (.vbcast f)
  | 0x32 => some (.vext f)
  | 0x33 => some (.vperm f)
  | 0x34 => some (.viota f)
  | 0x38 => some (.qand f)
  | 0x39 => some (.qor f)
  | 0x3A => some (.qnot f)
  | _ => none

/-- Opcode and field values, least significant first, of a slot operation; the inverse of the builders. -/
def slotFields : Instr → Nat × List Nat
  | .mov d a => (0x01, [0, a, d])
  | .li d imm => (0x02, [trunc 42 imm, d])
  | .lih d imm => (0x03, [imm, 0, d])
  | .add d a b => (0x04, [0, b, a, d])
  | .addi d a imm => (0x05, [trunc 30 imm, 0, a, d])
  | .sub d a b => (0x06, [0, b, a, d])
  | .mul d a b => (0x07, [0, b, a, d])
  | .mulh d a b mode => (0x08, [mode, 0, b, a, d])
  | .div d a b mode => (0x09, [mode, 0, b, a, d])
  | .rem d a b mode => (0x0A, [mode, 0, b, a, d])
  | .and d a b => (0x0B, [0, b, a, d])
  | .or d a b => (0x0C, [0, b, a, d])
  | .xor d a b => (0x0D, [0, b, a, d])
  | .shl d a b => (0x0E, [0, 0, 0, b, a, d])
  | .shlImm d a n => (0x0E, [n, 1, 0, 0, a, d])
  | .shr d a b => (0x0F, [0, 0, 0, b, a, d])
  | .shrImm d a n => (0x0F, [n, 1, 0, 0, a, d])
  | .sra d a b => (0x10, [0, 0, 0, b, a, d])
  | .sraImm d a n => (0x10, [n, 1, 0, 0, a, d])
  | .min d a b mode => (0x11, [mode, 0, b, a, d])
  | .max d a b mode => (0x12, [mode, 0, b, a, d])
  | .sel d n a b => (0x13, [n, 0, b, a, d])
  | .cmp pd pc a b cond => (0x20, [pc, 0, cond, b, a, pd])
  | .cmpi pd pc a imm cond => (0x21, [trunc 26 imm, cond, pc, a, pd])
  | .pand pd pa pb neg => (0x22, [neg, 0, pb, pa, pd])
  | .por pd pa pb neg => (0x23, [neg, 0, pb, pa, pd])
  | .pxor pd pa pb neg => (0x24, [neg, 0, pb, pa, pd])
  | .cnarrow c a b => (0x30, [0, b, a, c])
  | .cperm c keep => (0x31, [keep, 0, c])
  | .cget d a field => (0x32, [field, 0, a, d])
  | .ctest pd pc a mask => (0x33, [pc, mask, 0, a, pd])
  | .mfk d k => (0x40, [k, 0, d])
  | .mtk k a => (0x41, [k, 0, a, 0])
  | .br a => (0x50, [0, a, 0])
  | .bri t => (0x51, [t, 0])
  | .callm d t => (0x52, [t, 0, d])
  | .retm a => (0x53, [0, a, 0])
  | .loop c st => (0x54, [c, st, 0, 0, 0, 0])
  | .loopReg a st => (0x54, [0, st, 1, 0, a, 0])
  | .brloop t => (0x55, [t, 0])
  | .dispatch a sh na smask => (0x56, [smask, na, sh, 0, a, 0])
  | .endop => (0x57, [0])
  | .svc => (0x58, [0])
  | .trap code => (0x59, [code, 0])
  | .tcfg tn fmt rowsM1 => (0x01, [0, rowsM1, fmt, 0, tn])
  | .tzero tn => (0x02, [0, tn])
  | .wload src ts fmt => (0x03, [0, fmt, ts.toNat, 0, src])
  | .cbload sa => (0x04, [0, sa])
  | .mxnest lvl sa => (0x05, [0, 0, 0, 0, sa % 32, sa / 32, lvl, 0])
  | .mxnestImm lvl w c a s => (0x05, [0, trunc 11 s, trunc 11 a, c % 2048, c / 2048, w.toNat, lvl, 1])
  | .mxgo f => (0x06, [0, f.kr, f.bsel.toNat, f.asel.toNat, f.nlm1, f.afmt, f.rsm.toNat, f.swp.toNat, f.acc.toNat, f.mode, 0, f.sc, f.b, f.a])
  | .accrd sc vd ss fmt at32 scl off => (0x07, [off, 0, scl.toNat, at32.toNat, fmt, ss, vd, sc])
  | .accwr sc va ha off => (0x08, [off, 0, ha.toNat, va, sc])
  | .accz sc nl off => (0x09, [off, 0, nl, sc])
  | .rtload sa nrM1 ncM1 rf gm str => (0x10, [0, str, gm.toNat, rf.toNat, ncM1, nrM1, sa])
  | .rtapply sa sb sw nrM1 ncM1 rf gm uw str => (0x11, [str, uw.toNat, gm.toNat, rf.toNat, ncM1, nrM1, sw, sb, sa])
  | .rtread vd row half => (0x12, [0, half.toNat, row, vd])
  | .rtclr => (0x13, [0])
  | .rtgain => (0x14, [0])
  | .rtwords sa => (0x15, [0, sa])
  | .ptrans dst src ds ss ew => (0x18, [0, ew, ss.toNat, ds.toNat, src, dst])
  | .pgather tn sa si nM1 => (0x19, [0, nM1, si, sa, tn])
  | .pred sd sa sb fmt kind alpha => (0x1C, [0, alpha, kind, fmt, sb, sa, sd])
  | .tcmp sa sb sc st fmt cm => (0x1D, [0, cm.toNat, fmt, st, sc, sb, sa])
  | .ld sd sa sz sx scope imm => (0x01, [trunc 24 imm, 0, scope, sx.toNat, sz, sa, sd])
  | .st sd sa sz sx scope imm => (0x02, [trunc 24 imm, 0, scope, sx.toNat, sz, sa, sd])
  | .lda sd sa sz sx scope imm => (0x03, [trunc 24 imm, 0, scope, sx.toNat, sz, sa, sd])
  | .stl sd sa sz sx scope imm => (0x04, [trunc 24 imm, 0, scope, sx.toNat, sz, sa, sd])
  | .vld vd sa qp bfx imm => (0x08, [trunc 24 imm, 0, bfx.toNat, qp, sa, vd])
  | .vst vs sa qp bfx imm => (0x09, [trunc 24 imm, 0, bfx.toNat, qp, sa, vs])
  | .vlds vd sa qp sb esz imm => (0x0A, [trunc 16 imm, 0, esz, sb, qp, sa, vd])
  | .vgather vd sa qp vb scl imm => (0x0B, [trunc 16 imm, scl, vb, qp, sa, vd])
  | .vscatter vs sa qp vb scl imm => (0x0C, [trunc 16 imm, scl, vb, qp, sa, vs])
  | .tmov dst src ds ss nrM1 str => (0x10, [0, str, nrM1, ss.toNat, ds.toNat, src, dst])
  | .cpyput vs sa imm => (0x11, [trunc 24 imm, 0, sa, vs])
  | .rawait sd sa k => (0x14, [0, k, 0, sa, sd])
  | .rarel sa nM1 => (0x15, [0, nM1, 0, sa, 0])
  | .rapeek sd sa k => (0x16, [0, k, 0, sa, sd])
  | .atom sd sa sb aop w8 ord scope nret imm => (0x18, [trunc 16 imm, 0, nret.toNat, scope, ord, w8.toNat, aop, sb, sa, sd])
  | .acas sd sa sb sc w8 ord scope imm => (0x19, [trunc 16 imm, 0, scope, ord, w8.toNat, sc, sb, sa, sd])
  | .fence kind scope emask => (0x1C, [0, emask, scope, kind])
  | .ewait sa => (0x1D, [0, sa, 0])
  | .barinit sa scope cnt imm => (0x20, [trunc 16 imm, 0, cnt, scope, sa, 0])
  | .bararr d a sp rc n i => (0x21, if rc then [trunc 16 i, 0, 0, n, 1, sp, a, d] else [trunc 16 i, 0, n % 64, n / 64, 0, sp, a, d])
  | .barwait pd sa scope dl sb sc imm => (0x22, [trunc 16 imm, 0, sc, sb, dl.toNat, scope, sa, 0, pd])
  | .enq slot rq sa => (0x24, [0, rq.toNat, sa, slot])
  | .deq sd slot rq => (0x25, [0, rq.toNat, slot, sd])
  | .spawn slot rq sa imm => (0x28, [trunc 24 imm, 0, rq.toNat, sa, slot])
  | .gsplit d rk k => (0x29, if rk then [0, 0, k, 1, d] else [0, k % 64, k / 64, 0, d])
  | .gret sb => (0x2A, [0, sb, 0])
  | .waitq sa => (0x2B, [0, sa, 0])
  | .time sd => (0x30, [0, sd])
  | .waitt sa rel => (0x31, [0, rel.toNat, sa, 0])
  | .vadd f => (0x01, vFieldList f)
  | .vsub f => (0x02, vFieldList f)
  | .vmul f => (0x03, vFieldList f)
  | .vfma f => (0x04, vFieldList f)
  | .vmin f => (0x05, vFieldList f)
  | .vmax f => (0x06, vFieldList f)
  | .vclamp f => (0x07, vFieldList f)
  | .vabs f => (0x08, vFieldList f)
  | .vneg f => (0x09, vFieldList f)
  | .vrcp f => (0x10, vFieldList f)
  | .vrsq f => (0x11, vFieldList f)
  | .vexp2 f => (0x12, vFieldList f)
  | .vlog2 f => (0x13, vFieldList f)
  | .vcvt f => (0x18, vFieldList f)
  | .vscale f => (0x19, vFieldList f)
  | .vcmp f => (0x20, vFieldList f)
  | .vsel f => (0x21, vFieldList f)
  | .vand f => (0x28, vFieldList f)
  | .vor f => (0x29, vFieldList f)
  | .vxor f => (0x2A, vFieldList f)
  | .vshl f => (0x2B, vFieldList f)
  | .vshlImm f => (0x2B, vFieldList f)
  | .vshr f => (0x2C, vFieldList f)
  | .vshrImm f => (0x2C, vFieldList f)
  | .vred f => (0x30, vFieldList f)
  | .vbcast f => (0x31, vFieldList f)
  | .vext f => (0x32, vFieldList f)
  | .vperm f => (0x33, vFieldList f)
  | .viota f => (0x34, vFieldList f)
  | .qand f => (0x38, vFieldList f)
  | .qor f => (0x39, vFieldList f)
  | .qnot f => (0x3A, vFieldList f)
  | .nop _ _ => (0, [])
  | .setg _ _ _ => (0, [])
  | .setgImm64 _ _ _ => (0, [])
  | .gop _ _ _ _ _ => (0, [])
  | .gopLdt _ _ _ _ => (0, [])
  | .graphLoop _ _ _ _ => (0, [])
  | .endloop _ => (0, [])
  | .graphBr _ _ => (0, [])
  | .brc _ _ _ _ _ => (0, [])
  | .call _ _ => (0, [])
  | .ret _ => (0, [])
  | .halt _ => (0, [])
  | .tdef _ _ _ _ _ _ _ _ => (0, [])
  | .tfree _ _ _ => (0, [])
  | .tview _ _ _ _ => (0, [])
  | .treshape _ _ _ _ => (0, [])
  | .tshard _ _ _ => (0, [])
  | .tplace _ _ _ => (0, [])
  | .tload _ _ _ => (0, [])
  | .tstore _ _ _ _ => (0, [])
  | .tcopy _ _ _ _ => (0, [])
  | .tgatherb _ _ _ _ _ _ => (0, [])
  | .tconcat _ _ _ _ _ => (0, [])
  | .tappend _ _ _ => (0, [])
  | .ttrans _ _ _ _ => (0, [])
  | .matmul _ _ _ _ _ _ => (0, [])
  | .matmulcb _ _ _ _ _ _ _ _ => (0, [])
  | .convOp _ _ _ _ _ _ _ _ _ _ _ => (0, [])
  | .eltw _ _ _ _ _ _ _ _ _ _ => (0, [])
  | .reduce _ _ _ _ _ => (0, [])
  | .softmax _ _ _ _ => (0, [])
  | .norm _ _ _ _ _ _ _ => (0, [])
  | .attn _ _ _ _ _ _ _ _ => (0, [])
  | .embed _ _ _ _ => (0, [])
  | .topk _ _ _ _ _ => (0, [])
  | .argmax _ _ _ => (0, [])
  | .qr _ _ _ _ => (0, [])
  | .lsq _ _ _ _ _ => (0, [])
  | .rotl _ _ _ _ _ => (0, [])
  | .allgather _ _ _ _ _ => (0, [])
  | .redscat _ _ _ _ _ _ => (0, [])
  | .allred _ _ _ _ _ => (0, [])
  | .bcast _ _ _ _ _ => (0, [])
  | .send _ _ _ _ _ => (0, [])
  | .recv _ _ _ _ _ _ => (0, [])
  | .spawnb _ _ _ _ => (0, [])
  | .quiet _ _ => (0, [])
  | .specin _ _ _ _ _ _ _ _ => (0, [])
  | .specoff _ _ => (0, [])
  | .opinstall _ _ _ _ _ => (0, [])
  | .opremove _ _ => (0, [])
  | .syscall _ _ _ => (0, [])
  | .userOperator _ _ _ _ => (0, [])
  | .tileBind _ _ _ => (0, [])
  | .deal _ _ _ => (0, [])
  | .cardHeadCheck _ _ => (0, [])
  | .operatorComplete _ => (0, [])
  | .launch _ => (0, [])
  | .launchStart _ _ => (0, [])
  | .contextSwitch _ => (0, [])
  | .blockedBundleResume _ _ => (0, [])
  | .pboundExceeded _ _ => (0, [])
  | .eviction _ _ => (0, [])
  | .evictedContextResume _ _ _ => (0, [])
  | .priorityAging _ => (0, [])
  | .checkpointStop _ _ => (0, [])
  | .regionResume _ _ _ => (0, [])
  | .devicePreemptionRequest _ _ => (0, [])
  | .pageTableWalk _ _ _ _ => (0, [])
  | .engineCommandStart _ _ => (0, [])
  | .engineCommandComplete _ _ _ => (0, [])
  | .swap _ => (0, [])
  | .sdctlKindAll _ _ => (0, [])
  | .sdctlKindCtx _ _ => (0, [])
  | .sdctlKindCtxRange _ _ => (0, [])
  | .sdctlKindGlobalRange _ _ => (0, [])
  | .sdctlKindUnion _ _ => (0, [])
  | .shootdownAcknowledge _ => (0, [])
  | .psdctlKindAll _ => (0, [])
  | .psdctlKindCtx _ => (0, [])
  | .psdctlKindCtxRange _ => (0, [])
  | .psdctlKindGlobalRange _ => (0, [])
  | .psdctlKindUnion _ => (0, [])
  | .packageShootdownAcknowledge => (0, [])
  | .rpre _ => (0, [])
  | .fresRetry _ => (0, [])
  | .fresFail _ => (0, [])
  | .trapRecordDelivery _ => (0, [])
  | .faultRingRetry _ => (0, [])
  | .uncorrectableMemoryError _ _ _ _ => (0, [])
  | .queueMap _ _ => (0, [])
  | .queueUnmap _ _ => (0, [])
  | .queueSleep _ _ => (0, [])
  | .qcfgUpdate _ _ _ => (0, [])
  | .unmapSave _ _ => (0, [])
  | .qwake _ _ _ => (0, [])
  | .qsigWake _ _ _ => (0, [])
  | .svcreq _ _ => (0, [])
  | .serviceHandlerEntry _ _ => (0, [])
  | .serviceDeadlinePMark _ _ => (0, [])
  | .serviceDeadlineTrap _ _ => (0, [])
  | .svcres _ => (0, [])
  | .grval _ _ => (0, [])
  | .ctxcreate _ => (0, [])
  | .ctxsuspend _ => (0, [])
  | .ctxsuspendComplete _ => (0, [])
  | .ctxresume _ => (0, [])
  | .ctxdestroy _ => (0, [])
  | .ctxheap _ => (0, [])
  | .ctxmsi _ => (0, [])
  | .regcreate _ => (0, [])
  | .regdestroy _ => (0, [])
  | .cqcreate _ => (0, [])
  | .cqdestroy _ => (0, [])
  | .ringmsi _ => (0, [])
  | .pkgring _ => (0, [])
  | .islandLevelChange _ _ => (0, [])
  | .islandChangeDone _ => (0, [])
  | .mmioRegisterWrite _ _ => (0, [])
  | .copy _ => (0, [])
  | .reducingCopy _ => (0, [])
  | .subscribe _ => (0, [])
  | .subscribeTileFill _ => (0, [])
  | .drain _ => (0, [])
  | .drainSlotWrite _ => (0, [])
  | .copyPacketComplete _ => (0, [])
  | .ringHeaderWatch _ => (0, [])
  | .routeTrafficApply _ _ => (0, [])
  | .inboundPostedWrite _ _ _ => (0, [])
  | .inboundRead _ _ _ => (0, [])
  | .inboundMsi _ _ _ => (0, [])
  | .borrowRefill _ _ => (0, [])
  | .combinerIdleFlush _ _ => (0, [])
  | .flushProbe _ _ => (0, [])
  | .closeNotice _ _ => (0, [])
  | .gravityFlushArrival _ => (0, [])
  | .historyUpdate _ _ _ => (0, [])
  | .downstreamSpeculation _ => (0, [])
  | .specCommit _ => (0, [])
  | .specSquash _ => (0, [])
  | .linkFailureRecovery _ => (0, [])
  | .coldStart _ _ => (0, [])
  | .warmStart _ => (0, [])
  | .dieJoinService _ => (0, [])
  | .reducedServiceEnd => (0, [])
  | .getVersion => (0, [])
  | .getCapabilities _ => (0, [])
  | .negotiateAlgorithms _ => (0, [])
  | .getDigests => (0, [])
  | .getCertificate _ _ _ => (0, [])
  | .challenge _ _ => (0, [])
  | .getMeasurements _ _ => (0, [])
  | .claim _ _ => (0, [])
  | .claimWindowExpiry => (0, [])
  | .heartbeat => (0, [])
  | .heartbeatTimeout => (0, [])
  | .powerLimit _ => (0, [])
  | .illegalOpcode _ => (0, [])
  | .bytecodeIllegalOpcode _ => (0, [])
  | .emptyBundle => (0, [])
  | .variableLatencyResult _ _ _ => (0, [])
  | .storeAcknowledged _ => (0, [])
  | .powerLoss => (0, [])
  | .coreIslandPowerGating _ => (0, [])
  | .debuggerHalt _ => (0, [])
  | .debuggerHaltEnd _ => (0, [])
  | .thermalAlert _ => (0, [])
  | .watchdog => (0, [])
  | .pciePortEvent _ => (0, [])
  | .ethernetUalinkPortEvent _ => (0, [])
  | .rexit _ => (0, [])

/-- A slot's operation with its guard predicate (R136). -/
structure SlotOp where
  g : Nat
  op : Instr
deriving DecidableEq, Repr

/-- What decoding a slot gives: empty, an operation, or a decode trap with its cause (R134, R165). -/
inductive SlotDec where
  | empty
  | op (o : SlotOp)
  | bad (cause : Nat)
deriving DecidableEq, Repr

/-- Shared shape of slot decoding: opcode 0 with any other bit set and a bad field trap with 0x02, an unassigned opcode with
0x01 (R134, R165). -/
def decodeSlot (w opc g : Nat) (assigned : Bool) (i : Option Instr) : SlotDec :=
  if w = 0 then .empty
  else if opc = 0 then .bad 2
  else if !assigned then .bad 1
  else match i with
    | some i => if slotWf i then .op ⟨g, i⟩ else .bad 2
    | none => .bad 2

/-- The S slot, 60 bits (R135, R167). -/
def decodeS (w : Nat) : SlotDec :=
  let opc := bitsOf w 48 8
  decodeSlot w opc (bitsOf w 56 4) (layoutS opc).isSome ((layoutS opc).bind fun ws => buildS opc (splitBits (w % 2 ^ 48) ws))

/-- The V slot, 64 bits (R135, R190). -/
def decodeV (w : Nat) : SlotDec :=
  let opc := bitsOf w 48 8
  let f := match splitBits (w % 2 ^ 48) layoutVLow with
    | [rnd, fmt, hb, ha, vc, vb, va, vd] => some (⟨bitsOf w 56 4, vd, va, vb, vc, ha == 1, hb == 1, fmt, rnd⟩ : VFields)
    | _ => none
  let i := f.bind (buildV opc)
  decodeSlot w opc (bitsOf w 60 4) i.isSome i

/-- The M slot, 56 bits (R135, R211). -/
def decodeM (w : Nat) : SlotDec :=
  let opc := bitsOf w 46 6
  decodeSlot w opc (bitsOf w 52 4) (layoutM opc).isSome ((layoutM opc).bind fun ws => buildM opc (splitBits (w % 2 ^ 46) ws))

/-- The X slot, 60 bits (R135, R239). -/
def decodeX (w : Nat) : SlotDec :=
  let opc := bitsOf w 48 8
  decodeSlot w opc (bitsOf w 56 4) (layoutX opc).isSome ((layoutX opc).bind fun ws => buildX opc (splitBits (w % 2 ^ 48) ws))

/-- A slot's word from its operand field of lo bits, its opcode, and what stands above the opcode from bit `mid` on (R135). -/
def slotWord (x op lo above mid : Nat) : Nat := x + op * 2 ^ lo + above * 2 ^ mid

/-- QP of a V-slot operation (R135). -/
def vQp : Instr → Nat
  | .vadd f | .vsub f | .vmul f | .vfma f | .vmin f | .vmax f | .vclamp f | .vabs f | .vneg f | .vrcp f | .vrsq f
  | .vexp2 f | .vlog2 f | .vcvt f | .vscale f | .vcmp f | .vsel f | .vand f | .vor f | .vxor f | .vshl f | .vshlImm f
  | .vshr f | .vshrImm f | .vred f | .vbcast f | .vext f | .vperm f | .viota f | .qand f | .qor f | .qnot f => f.qp
  | _ => 0

/-- The encoded slot of an operation: its slot's word with guard g (R135, R167, R190, R211, R239). -/
def encodeSlot (g : Nat) (i : Instr) : Nat :=
  match i.tier with
  | 0 => slotWord (packBits ((layoutS (slotFields i).1).getD []) (slotFields i).2) (slotFields i).1 48 g 56
  | 1 => slotWord (packBits layoutVLow (slotFields i).2) (slotFields i).1 48 (vQp i + 16 * g) 56
  | 2 => slotWord (packBits ((layoutM (slotFields i).1).getD []) (slotFields i).2) (slotFields i).1 46 g 52
  | 3 => slotWord (packBits ((layoutX (slotFields i).1).getD []) (slotFields i).2) (slotFields i).1 48 g 56
  | _ => 0

/-- Decode the word of a slot by its number: 0 S, 1 V, 2 M, 3 X. -/
def decodeSlotNo (n w : Nat) : SlotDec :=
  match n with
  | 0 => decodeS w
  | 1 => decodeV w
  | 2 => decodeM w
  | _ => decodeX w

/-! ### Bundles (R132, R133) -/

/-- A bundle's header. -/
structure Header where
  r : Bool
  p : Bool
  y : Bool
  c : Bool
  j : Bool
  stall : Nat
  ckid : Nat
deriving DecidableEq, Repr

/-- A decoded bundle: header, its own decode trap if any, and the slots S, V, M, X in order. -/
structure Bundle where
  hdr : Header
  bad : Bool
  slots : List SlotDec
deriving DecidableEq, Repr

/-- The slot words S, V, M, X of a 256-bit bundle (R132). -/
def slotWords (b : Nat) : List Nat := [bitsOf b 180 60, bitsOf b 116 64, bitsOf b 60 56, bitsOf b 0 60]

/-- Decode a bundle; `bad` is the header's own trap: bit 250 set, or CKID nonzero while C = 0 (R134, R139). -/
def decodeBundle (b : Nat) : Bundle :=
  let h := bitsOf b 240 16
  { hdr := { r := bitOf h 15, p := bitOf h 14, y := bitOf h 13, c := bitOf h 12, j := bitOf h 11, stall := bitsOf h 6 4,
             ckid := bitsOf h 0 6 },
    bad := bitOf h 10 || (!bitOf h 12 && bitsOf h 0 6 != 0),
    slots := [decodeS (bitsOf b 180 60), decodeV (bitsOf b 116 64), decodeM (bitsOf b 60 56), decodeX (bitsOf b 0 60)] }

/-- A slot operation alone in a bundle with an all-zero header. -/
def encodeBundle1 (g : Nat) (i : Instr) : Nat :=
  match i.tier with
  | 0 => encodeSlot g i * 2 ^ 180
  | 1 => encodeSlot g i * 2 ^ 116
  | 2 => encodeSlot g i * 2 ^ 60
  | 3 => encodeSlot g i
  | _ => 0

/-- The first index added to IMM[12:0] of the S slot of every BRI, CALLM and BRLOOP when an image is placed (R341). -/
def relocate (first b : Nat) : Nat :=
  let opc := bitsOf b 228 8
  if opc = 0x51 || opc = 0x52 || opc = 0x55 then
    let t := bitsOf b 180 13
    b - t * 2 ^ 180 + (t + first) % 2 ^ 13 * 2 ^ 180
  else b

/-! ### Bytecode records (R277 to R281) -/

/-- A scalar operand word; none for reserved bits or SEL 3 (R279). -/
def decodeSow (w : Nat) : Option Sow :=
  match bitsOf w 30 2 with
  | 0 => some (.imm (sext w 30))
  | 1 => if bitsOf w 6 24 = 0 then some (.reg (bitsOf w 0 6)) else none
  | 2 => some (.regPlus (bitsOf w 0 6) (sext (bitsOf w 6 24) 24))
  | _ => if bitsOf w 28 2 = 3 then none else some (.part (bitsOf w 28 2) (sext w 28))

/-- The word of a scalar operand (R279). -/
def encodeSow : Sow → Nat
  | .imm i => trunc 30 i
  | .reg n => 2 ^ 30 + n
  | .regPlus n k => 2 ^ 31 + n + 64 * trunc 24 k
  | .part sel k => 3 * 2 ^ 30 + sel * 2 ^ 28 + trunc 28 k

/-- What a record's words say before its limits are checked: checks on reserved bits, each with its word index, and the record. -/
abbrev RecParse := List (Bool × Nat) × Instr

def lo16 (w : Nat) : Nat := w % 65536
def hi16 (w : Nat) : Nat := w / 65536

/-- A scalar operand word with the check that it has no reserved bits. -/
def sowAt (w k : Nat) : (Bool × Nat) × Sow := (((decodeSow w).isSome, k), (decodeSow w).getD (.imm 0))

/-- Scalar operand words from index k on. -/
def sowsAt : Nat → List Nat → List (Bool × Nat) × List Sow
  | _, [] => ([], [])
  | k, w :: r => ((sowAt w k).1 :: (sowsAt (k + 1) r).1, (sowAt w k).2 :: (sowsAt (k + 1) r).2)

/-- Pairs of scalar operand words (TVIEW). -/
def sowPairsAt : Nat → List Nat → List (Bool × Nat) × List (Sow × Sow)
  | k, a :: b :: r =>
    ((sowAt a k).1 :: (sowAt b (k + 1)).1 :: (sowPairsAt (k + 2) r).1, ((sowAt a k).2, (sowAt b (k + 1)).2) :: (sowPairsAt (k + 2) r).2)
  | _, _ => ([], [])

/-- A compute record's header and its reserved flag (R318). -/
def hdOf (fuse flags : Nat) : Hd := ⟨fuse, bitOf flags 7, bitsOf flags 4 2⟩

/-- A movement or collective record's header. -/
def hdOf0 (fuse flags : Nat) : Hd := ⟨fuse, bitOf flags 7, 0⟩

/-- The lengths an opcode's forms allow (R283 check 2); TDEF's own length follows its NDIM and LAYOUT. -/
def recLenOk (opc len : Nat) (w : Nat → Nat) : Bool :=
  match opc with
  | 0x000 => decide (1 ≤ len)
  | 0x001 => len == 2 || len == 3
  | 0x002 => len == 4
  | 0x003 => len == 3
  | 0x004 => len == 1
  | 0x005 => len == 2
  | 0x006 => len == 5
  | 0x007 => len == 2
  | 0x008 => len == 1
  | 0x009 => len == 1
  | 0x010 => decide (3 ≤ len) && len == (if bitsOf (w 1) 24 4 == 2 then 4 else 3) + bitsOf (w 1) 28 3 + 1
  | 0x011 => len == 2
  | 0x012 => decide (4 ≤ len) && len % 2 == 0
  | 0x013 => decide (4 ≤ len) && len == 4 + bitsOf (w 2) 0 3
  | 0x014 => len == 3
  | 0x015 => len == 3
  | 0x016 => len == 3
  | 0x017 => len == 3
  | 0x020 => len == 2
  | 0x021 => len == 4
  | 0x022 => len == 3
  | 0x023 => len == 2
  | 0x024 => len == 3
  | 0x040 => len == 3
  | 0x041 => len == 5
  | 0x042 => len == 4
  | 0x043 => len == 5
  | 0x044 => len == 3
  | 0x045 => len == 3
  | 0x046 => len == 4
  | 0x047 => len == 5
  | 0x048 => len == 3
  | 0x049 => len == 4
  | 0x04A => len == 2
  | 0x050 => len == 2
  | 0x051 => len == 3
  | 0x052 => len == 3
  | 0x060 => len == 3
  | 0x061 => len == 3
  | 0x062 => len == 3
  | 0x063 => len == 4
  | 0x064 => len == 4
  | 0x065 => len == 4
  | 0x070 => len == 3
  | 0x071 => len == 2
  | 0x078 => len == 4
  | 0x079 => len == 2
  | 0x080 => len == 4
  | 0x081 => len == 2
  | 0x082 => decide (1 ≤ len) && decide (len ≤ 7)
  | _ => decide (1 ≤ len)

/-- Control records (R287). `ws` holds the words after word 0. -/
def parseControl (opc fuse flags : Nat) (ws : List Nat) : Option RecParse :=
  let w := fun k => (ws.drop (k - 1)).headD 0
  let none0 : Bool × Nat := (flags == 0, 0)
  let d0 : Bool × Nat := (decide (flags < 64), 0)
  let d := flags % 64
  match opc with
  | 0x000 => some ([none0], .nop fuse ws)
  | 0x001 =>
    if ws.length = 1 then some ([d0, (sowAt (w 1) 1).1], .setg fuse d (sowAt (w 1) 1).2)
    else some ([d0], .setgImm64 fuse d (w 1 + 4294967296 * w 2))
  | 0x002 =>
    if w 1 = 32 then some ([d0, (hi16 (w 2) == 0, 2), (sowAt (w 3) 3).1], .gopLdt fuse d (lo16 (w 2)) (sowAt (w 3) 3).2)
    else some ([d0, (decide (w 1 < 32), 1), (sowAt (w 2) 2).1, (sowAt (w 3) 3).1],
      .gop fuse d (w 1 % 32) (sowAt (w 2) 2).2 (sowAt (w 3) 3).2)
  | 0x003 => some ([d0, (sowAt (w 1) 1).1], .graphLoop fuse d (sowAt (w 1) 1).2 (sext (w 2) 32))
  | 0x004 => some ([none0], .endloop fuse)
  | 0x005 => some ([none0], .graphBr fuse (sext (w 1) 32))
  | 0x006 => some ([none0, (decide (w 1 < 16), 1), (sowAt (w 2) 2).1, (sowAt (w 3) 3).1],
      .brc fuse (w 1 % 16) (sowAt (w 2) 2).2 (sowAt (w 3) 3).2 (sext (w 4) 32))
  | 0x007 => some ([none0], .call fuse (sext (w 1) 32))
  | 0x008 => some ([none0], .ret fuse)
  | 0x009 => some ([none0], .halt fuse)
  | _ => none

/-- Tensor and placement records (R293). -/
def parseTensor (opc fuse flags : Nat) (ws : List Nat) : Option RecParse :=
  let w := fun k => (ws.drop (k - 1)).headD 0
  let none0 : Bool × Nat := (flags == 0, 0)
  match opc with
  | 0x010 =>
    let nd := bitsOf (w 1) 28 3 + 1
    let lay := bitsOf (w 1) 24 4
    let ds := sowsAt 3 ((ws.drop 2).take nd)
    let bt := if lay = 2 then w (3 + nd) else 0
    some ([none0, (!bitOf (w 1) 31 && decide (lay < 8), 1), (decide (w 2 < 4096), 2)] ++ ds.1 ++ [(decide (bt < 2 ^ 25), 3 + nd)],
      .tdef fuse (lo16 (w 1)) (bitsOf (w 1) 16 4) (bitsOf (w 1) 20 4) (lay % 8) (w 2 % 4096) ds.2 (bt % 2 ^ 25))
  | 0x011 => some ([none0], .tfree fuse (lo16 (w 1)) (hi16 (w 1)))
  | 0x012 =>
    let b := sowPairsAt 2 (ws.drop 1)
    some (none0 :: b.1, .tview fuse (lo16 (w 1)) (hi16 (w 1)) b.2)
  | 0x013 =>
    let ds := sowsAt 3 (ws.drop 2)
    some ([none0, (decide (w 2 < 8), 2)] ++ ds.1, .treshape fuse (lo16 (w 1)) (hi16 (w 1)) ds.2)
  | 0x014 => some ([none0, (hi16 (w 1) == 0, 1), (decide (w 2 < 4096), 2)], .tshard fuse (lo16 (w 1)) (w 2 % 4096))
  | 0x015 => some ([none0, (hi16 (w 1) == 0, 1), (decide (w 2 < 16), 2)], .tplace fuse (lo16 (w 1)) (w 2 % 16))
  | 0x016 => some ([none0, (hi16 (w 1) == 0, 1), (sowAt (w 2) 2).1], .tload fuse (lo16 (w 1)) (sowAt (w 2) 2).2)
  | 0x017 => some ([(flags % 128 == 0, 0), (hi16 (w 1) == 0, 1), (sowAt (w 2) 2).1],
      .tstore fuse (bitOf flags 7) (lo16 (w 1)) (sowAt (w 2) 2).2)
  | _ => none

/-- Movement records (R301). -/
def parseMove (opc fuse flags : Nat) (ws : List Nat) : Option RecParse :=
  let w := fun k => (ws.drop (k - 1)).headD 0
  let h := hdOf0 fuse flags
  let fl := flags % 128
  match opc with
  | 0x020 => some ([(decide (fl < 4), 0)], .tcopy h (fl % 4) (lo16 (w 1)) (hi16 (w 1)))
  | 0x021 => some ([(decide (fl < 16), 0), (hi16 (w 2) == 0, 2), (sowAt (w 3) 3).1],
      .tgatherb h (fl % 16) (lo16 (w 1)) (hi16 (w 1)) (lo16 (w 2)) (sowAt (w 3) 3).2)
  | 0x022 => some ([(decide (fl < 8), 0), (hi16 (w 2) == 0, 2)], .tconcat h (fl % 8) (lo16 (w 1)) (hi16 (w 1)) (lo16 (w 2)))
  | 0x023 => some ([(fl == 0, 0)], .tappend h (lo16 (w 1)) (hi16 (w 1)))
  | 0x024 => some ([(fl == 0, 0)], .ttrans h (lo16 (w 1)) (hi16 (w 1)) (w 2))
  | _ => none

/-- Compute records (R318, R319). -/
def parseCompute (opc fuse flags : Nat) (ws : List Nat) : Option RecParse :=
  let w := fun k => (ws.drop (k - 1)).headD 0
  let h := hdOf fuse flags
  let f0 : Bool × Nat := (!bitOf flags 6 && flags % 16 == 0, 0)
  let f1 : Bool × Nat := (!bitOf flags 6 && decide (flags % 16 < 2), 0)
  let f2 : Bool × Nat := (!bitOf flags 6 && decide (flags % 16 < 4), 0)
  let b0 := bitOf flags 0
  match opc with
  | 0x040 => some ([f1], .matmul h b0 (lo16 (w 1)) (hi16 (w 1)) (lo16 (w 2)) (hi16 (w 2)))
  | 0x041 => some ([f1, (hi16 (w 3) == 0, 3)],
      .matmulcb h b0 (lo16 (w 1)) (hi16 (w 1)) (lo16 (w 2)) (hi16 (w 2)) (lo16 (w 3)) (w 4))
  | 0x042 => some ([f0, (decide (w 3 < 2 ^ 24), 3)],
      .convOp h (lo16 (w 1)) (hi16 (w 1)) (lo16 (w 2)) (hi16 (w 2)) (bitsOf (w 3) 0 4) (bitsOf (w 3) 4 4) (bitsOf (w 3) 8 4)
        (bitsOf (w 3) 12 4) (bitsOf (w 3) 16 4) (bitsOf (w 3) 20 4))
  | 0x043 => some ([f0], .eltw h (lo16 (w 1)) (hi16 (w 1)) (lo16 (w 2)) (hi16 (w 2)) (bitsOf (w 3) 0 8) (bitsOf (w 3) 8 8)
        (bitsOf (w 3) 16 8) (bitsOf (w 3) 24 8) (w 4))
  | 0x044 => some ([f2, (decide (w 2 < 8), 2)], .reduce h (flags % 4) (lo16 (w 1)) (hi16 (w 1)) (w 2 % 8))
  | 0x045 => some ([f0], .softmax h (lo16 (w 1)) (hi16 (w 1)) (w 2))
  | 0x046 => some ([f1], .norm h b0 (lo16 (w 1)) (hi16 (w 1)) (lo16 (w 2)) (hi16 (w 2)) (w 3))
  | 0x047 => some ([f1, (decide (w 3 < 256), 3)],
      .attn h b0 (lo16 (w 1)) (hi16 (w 1)) (lo16 (w 2)) (hi16 (w 2)) (w 3 % 256) (w 4))
  | 0x048 => some ([f0, (hi16 (w 2) == 0, 2)], .embed h (lo16 (w 1)) (hi16 (w 1)) (lo16 (w 2)))
  | 0x049 => some ([f0, (hi16 (w 2) == 0, 2), (sowAt (w 3) 3).1], .topk h (lo16 (w 1)) (hi16 (w 1)) (lo16 (w 2)) (sowAt (w 3) 3).2)
  | 0x04A => some ([f0], .argmax h (lo16 (w 1)) (hi16 (w 1)))
  | 0x050 => some ([f1], .qr h b0 (lo16 (w 1)) (hi16 (w 1)))
  | 0x051 => some ([f1, (hi16 (w 2) == 0, 2)], .lsq h b0 (lo16 (w 1)) (hi16 (w 1)) (lo16 (w 2)))
  | 0x052 => some ([f1, (hi16 (w 2) == 0, 2)], .rotl h b0 (lo16 (w 1)) (hi16 (w 1)) (lo16 (w 2)))
  | _ => none

/-- Collective records (R329). -/
def parseColl (opc fuse flags : Nat) (ws : List Nat) : Option RecParse :=
  let w := fun k => (ws.drop (k - 1)).headD 0
  let h := hdOf0 fuse flags
  let f0 : Bool × Nat := (flags % 128 == 0, 0)
  let axes := bitsOf (w 2) 6 2
  let dim := bitsOf (w 2) 3 3
  let rop := bitsOf (w 2) 8 2
  let tag := bitsOf (w 2) 16 16
  -- the bits of W2 that a record does not use
  let use (d r t : Bool) : Bool × Nat :=
    (bitsOf (w 2) 0 3 == 0 && bitsOf (w 2) 10 6 == 0 && (d || dim == 0) && (r || rop == 0) && (t || tag == 0), 2)
  match opc with
  | 0x060 => some ([f0, use true false false], .allgather h (lo16 (w 1)) (hi16 (w 1)) axes dim)
  | 0x061 => some ([f0, use true true false], .redscat h (lo16 (w 1)) (hi16 (w 1)) axes dim rop)
  | 0x062 => some ([f0, use false true false], .allred h (lo16 (w 1)) (hi16 (w 1)) axes rop)
  | 0x063 => some ([f0, use false false false, (sowAt (w 3) 3).1], .bcast h (lo16 (w 1)) (hi16 (w 1)) axes (sowAt (w 3) 3).2)
  | 0x064 => some ([f0, (hi16 (w 1) == 0, 1), use false false true, (sowAt (w 3) 3).1],
      .send h (lo16 (w 1)) axes tag (sowAt (w 3) 3).2)
  | 0x065 => some ([f0, use false false true, (sowAt (w 3) 3).1], .recv h (lo16 (w 1)) (hi16 (w 1)) axes tag (sowAt (w 3) 3).2)
  | _ => none

/-- Task, quiescence, speculation, installation and system records, and user operators (R335, R338, R339, R282). -/
def parseSystem (opc fuse flags : Nat) (ws : List Nat) : Option RecParse :=
  let w := fun k => (ws.drop (k - 1)).headD 0
  let none0 : Bool × Nat := (flags == 0, 0)
  let f1 : Bool × Nat := (decide (flags < 2), 0)
  let b0 := bitOf flags 0
  match opc with
  | 0x070 => some ([f1, (hi16 (w 1) == 0, 1), (sowAt (w 2) 2).1], .spawnb fuse b0 (lo16 (w 1)) (sowAt (w 2) 2).2)
  | 0x071 => some ([none0, (sowAt (w 1) 1).1], .quiet fuse (sowAt (w 1) 1).2)
  | 0x078 => some ([none0, (hi16 (w 1) == 0, 1), (bitsOf (w 2) 4 12 == 0, 2)],
      .specin fuse (lo16 (w 1)) (bitsOf (w 2) 0 2) (bitsOf (w 2) 2 1) (bitOf (w 2) 3) (hi16 (w 2)) (lo16 (w 3)) (hi16 (w 3)))
  | 0x079 => some ([none0, (hi16 (w 1) == 0, 1)], .specoff fuse (lo16 (w 1)))
  | 0x080 => some ([f1, (sowAt (w 1) 1).1, (decide (w 2 < 1024), 2), (sowAt (w 3) 3).1],
      .opinstall fuse b0 (sowAt (w 1) 1).2 (w 2 % 1024) (sowAt (w 3) 3).2)
  | 0x081 => some ([none0, (decide (w 1 < 1024), 1)], .opremove fuse (w 1 % 1024))
  | 0x082 =>
    let a := sowsAt 1 ws
    some (f1 :: a.1, .syscall fuse b0 a.2)
  | _ => if 0x200 ≤ opc then some ([], .userOperator fuse flags opc (ws.map fun x => (lo16 x, hi16 x))) else none

/-- The record of an opcode by its chapter; none for an opcode from 0x000 to 0x1FF that R281 does not assign. -/
def parseRec (opc fuse flags : Nat) (ws : List Nat) : Option RecParse :=
  if opc < 0x010 then parseControl opc fuse flags ws
  else if opc < 0x020 then parseTensor opc fuse flags ws
  else if opc < 0x040 then parseMove opc fuse flags ws
  else if opc < 0x060 then parseCompute opc fuse flags ws
  else if opc < 0x070 then parseColl opc fuse flags ws
  else parseSystem opc fuse flags ws

/-- A record that fails a check: its cause and AUX (R283). -/
structure RecErr where
  cause : Nat
  aux : Nat
deriving DecidableEq, Repr

/-- The least word index of the checks that fail. -/
def firstBad : List (Bool × Nat) → Option Nat
  | [] => none
  | (ok, k) :: r =>
    match firstBad r with
    | none => if ok then none else some k
    | some j => if ok then some j else some (min k j)

/-- Decode one record from its LEN words, word 0 first: R283 checks 1 to 4 in their order. -/
def decodeRecord (w0 : Nat) (ws : List Nat) : Except RecErr Instr :=
  let opc := bitsOf w0 22 10
  let len := bitsOf w0 16 6
  match parseRec opc (bitsOf w0 8 8) (bitsOf w0 0 8) (ws.take (len - 1)) with
  | none => .error ⟨1, opc⟩
  | some p =>
    if !(recLenOk opc len fun k => (ws.drop (k - 1)).headD 0) then .error ⟨2, 0⟩
    else match firstBad (p.1 ++ recLimits p.2) with
      | some k => .error ⟨2, k⟩
      | none =>
        match misplaced p.2 with
        | some k => .error ⟨0x10, 0x40 + k⟩
        | none => if recWf p.2 then .ok p.2 else .error ⟨2, 0⟩

/-- Word 0 of a record (R277). -/
def recWord0 (opc fuse flags len : Nat) : Nat := opc * 4194304 + len * 65536 + fuse * 256 + flags

/-- A handle word (R279). -/
def hw (a b : Nat) : Nat := a + 65536 * b

/-- FLAGS of a header (R278, R318). -/
def Hd.flags (h : Hd) (low : Nat) : Nat := h.last.toNat * 128 + h.walk * 16 + low

/-- A record from its opcode, fuse group, flags and words after word 0. -/
def mkRec (opc fuse flags : Nat) (ws : List Nat) : List Nat := recWord0 opc fuse flags (ws.length + 1) :: ws

/-- The words of a record (R287, R293, R301, R319, R329, R335, R338, R339). -/
def encodeRecord : Instr → List Nat
  | .nop fuse ws => mkRec 0x000 fuse 0 ws
  | .setg fuse d v => mkRec 0x001 fuse d [encodeSow v]
  | .setgImm64 fuse d imm => mkRec 0x001 fuse d [imm % 4294967296, imm / 4294967296]
  | .gop fuse d op a b => mkRec 0x002 fuse d [op, encodeSow a, encodeSow b]
  | .gopLdt fuse d a b => mkRec 0x002 fuse d [32, a, encodeSow b]
  | .graphLoop fuse d n t => mkRec 0x003 fuse d [encodeSow n, trunc 32 t]
  | .endloop fuse => mkRec 0x004 fuse 0 []
  | .graphBr fuse t => mkRec 0x005 fuse 0 [trunc 32 t]
  | .brc fuse cond a b t => mkRec 0x006 fuse 0 [cond, encodeSow a, encodeSow b, trunc 32 t]
  | .call fuse t => mkRec 0x007 fuse 0 [trunc 32 t]
  | .ret fuse => mkRec 0x008 fuse 0 []
  | .halt fuse => mkRec 0x009 fuse 0 []
  | .tdef fuse h fmt pin lay attr dims bt =>
    mkRec 0x010 fuse 0 ((h + fmt * 2 ^ 16 + pin * 2 ^ 20 + lay * 2 ^ 24 + (dims.length - 1) * 2 ^ 28) :: attr :: dims.map encodeSow
      ++ (if lay = 2 then [bt] else []))
  | .tfree fuse a b => mkRec 0x011 fuse 0 [hw a b]
  | .tview fuse d s box => mkRec 0x012 fuse 0 (hw d s :: pairWords box)
  | .treshape fuse d s dims => mkRec 0x013 fuse 0 (hw d s :: (dims.length - 1) :: dims.map encodeSow)
  | .tshard fuse h attr => mkRec 0x014 fuse 0 [h, attr]
  | .tplace fuse h level => mkRec 0x015 fuse 0 [h, level]
  | .tload fuse h addr => mkRec 0x016 fuse 0 [h, encodeSow addr]
  | .tstore fuse last h addr => mkRec 0x017 fuse (last.toNat * 128) [h, encodeSow addr]
  | .tcopy h rnd d s => mkRec 0x020 h.fuse (h.flags rnd) [hw d s]
  | .tgatherb h rlog d pool tbl n => mkRec 0x021 h.fuse (h.flags rlog) [hw d pool, tbl, encodeSow n]
  | .tconcat h axis d a b => mkRec 0x022 h.fuse (h.flags axis) [hw d a, b]
  | .tappend h d x => mkRec 0x023 h.fuse (h.flags 0) [hw d x]
  | .ttrans h d s perm => mkRec 0x024 h.fuse (h.flags 0) [hw d s, perm]
  | .matmul h acc d a w bias => mkRec 0x040 h.fuse (h.flags acc.toNat) [hw d a, hw w bias]
  | .matmulcb h acc d a w cbt bias scale => mkRec 0x041 h.fuse (h.flags acc.toNat) [hw d a, hw w cbt, bias, scale]
  | .convOp h d x w bias sx sy px py dx dy =>
    mkRec 0x042 h.fuse (h.flags 0) [hw d x, hw w bias, sx + 16 * sy + 256 * px + 4096 * py + 65536 * dx + 1048576 * dy]
  | .eltw h d a b c st0 st1 st2 st3 k =>
    mkRec 0x043 h.fuse (h.flags 0) [hw d a, hw b c, st0 + 256 * st1 + 65536 * st2 + 16777216 * st3, k]
  | .reduce h op d a axis => mkRec 0x044 h.fuse (h.flags op) [hw d a, axis]
  | .softmax h d a scale => mkRec 0x045 h.fuse (h.flags 0) [hw d a, scale]
  | .norm h layer d a g b eps => mkRec 0x046 h.fuse (h.flags layer.toNat) [hw d a, hw g b, eps]
  | .attn h causal d q k v heads scale => mkRec 0x047 h.fuse (h.flags causal.toNat) [hw d q, hw k v, heads, scale]
  | .embed h d t i => mkRec 0x048 h.fuse (h.flags 0) [hw d t, i]
  | .topk h d a x k => mkRec 0x049 h.fuse (h.flags 0) [hw d a, x, encodeSow k]
  | .argmax h d a => mkRec 0x04A h.fuse (h.flags 0) [hw d a]
  | .qr h gm r a => mkRec 0x050 h.fuse (h.flags gm.toNat) [hw r a]
  | .lsq h gm x a b => mkRec 0x051 h.fuse (h.flags gm.toNat) [hw x a, b]
  | .rotl h gm d x w => mkRec 0x052 h.fuse (h.flags gm.toNat) [hw d x, w]
  | .allgather h d s axes dim => mkRec 0x060 h.fuse (h.flags 0) [hw d s, axes * 64 + dim * 8]
  | .redscat h d s axes dim rop => mkRec 0x061 h.fuse (h.flags 0) [hw d s, rop * 256 + axes * 64 + dim * 8]
  | .allred h d s axes rop => mkRec 0x062 h.fuse (h.flags 0) [hw d s, rop * 256 + axes * 64]
  | .bcast h d s axes root => mkRec 0x063 h.fuse (h.flags 0) [hw d s, axes * 64, encodeSow root]
  | .send h s axes tag peer => mkRec 0x064 h.fuse (h.flags 0) [s, tag * 65536 + axes * 64, encodeSow peer]
  | .recv h d ring axes tag peer => mkRec 0x065 h.fuse (h.flags 0) [hw d ring, tag * 65536 + axes * 64, encodeSow peer]
  | .spawnb fuse each card slot => mkRec 0x070 fuse each.toNat [card, encodeSow slot]
  | .quiet fuse rcb => mkRec 0x071 fuse 0 [encodeSow rcb]
  | .specin fuse h kind depthM1 mean alpha ab re =>
    mkRec 0x078 fuse 0 [h, kind + 4 * depthM1 + 8 * mean.toNat + 65536 * alpha, hw ab re]
  | .specoff fuse h => mkRec 0x079 fuse 0 [h]
  | .opinstall fuse idem addr opc pbound => mkRec 0x080 fuse idem.toNat [encodeSow addr, opc, encodeSow pbound]
  | .opremove fuse opc => mkRec 0x081 fuse 0 [opc]
  | .syscall fuse each args => mkRec 0x082 fuse each.toNat (args.map encodeSow)
  | .userOperator fuse flags opc hs => mkRec opc fuse flags (hs.map fun p => hw p.1 p.2)
  | _ => []
where
  /-- Offset and extent words of TVIEW. -/
  pairWords : List (Sow × Sow) → List Nat
    | [] => []
    | (a, b) :: r => encodeSow a :: encodeSow b :: pairWords r

/-- The encoder: a slot operation's slot word (guard p0), or a record's words. -/
def encode (i : Instr) : List Nat := if i.tier < 4 then [encodeSlot 0 i] else encodeRecord i

/-- The decoder on what the encoder answers, for tier t. -/
def decodeWords (t : Nat) (ws : List Nat) : Option Instr :=
  match ws with
  | [] => none
  | w :: r =>
    if t < 4 then
      match decodeSlotNo t w with
      | .op o => some o.op
      | _ => none
    else
      match decodeRecord w r with
      | .ok i => some i
      | .error _ => none

/-- The instruction of a bundle with exactly one operation; the empty bundle for a bundle of four empty slots. -/
def bundleInstr (b : Bundle) : Option Instr :=
  if b.bad then none
  else match b.slots with
    | [.empty, .empty, .empty, .empty] => some .emptyBundle
    | [.op o, .empty, .empty, .empty] => some o.op
    | [.empty, .op o, .empty, .empty] => some o.op
    | [.empty, .empty, .op o, .empty] => some o.op
    | [.empty, .empty, .empty, .op o] => some o.op
    | _ => none

/-- The instruction whose bits, numbered as the opcode table numbers them, are w: up to 32 bits a bytecode record whose words
after the first are 0, above that a 256-bit bundle holding one operation. -/
def decodeTableWord (nbits w : Nat) : Option Instr :=
  if nbits ≤ 32 then
    match decodeRecord (w % 2 ^ 32) (List.replicate 62 0) with
    | .ok i => some i
    | .error _ => none
  else bundleInstr (decodeBundle (w % 2 ^ 256))

end Sys2Proof
end

