-- ==== Sys2Proof/Machine/Maps.lean ====
section
/-! DEFINITION. Sorted association lists with one canonical form, the shape of every sparse collection of the state, and
byte memory over them. -/

namespace Sys2Proof.Machine

/-- A sorted list of (key, value) pairs. -/
abbrev AMap (α : Type) := List (Nat × α)

/-- The value listed at a key, if any. -/
def AMap.find? {α : Type} : AMap α → Nat → Option α
  | [], _ => none
  | (k, v) :: m, a => if k = a then some v else if a < k then none else AMap.find? m a

/-- The value at a key, with what an unlisted key reads as. -/
def AMap.get {α : Type} (d : α) (m : AMap α) (a : Nat) : α := (AMap.find? m a).getD d

/-- List a value at a key, in place of what was there. -/
def AMap.ins {α : Type} (a : Nat) (x : α) : AMap α → AMap α
  | [] => [(a, x)]
  | (k, v) :: m => if a < k then (a, x) :: (k, v) :: m else if k = a then (a, x) :: m else (k, v) :: AMap.ins a x m

/-- Unlist a key. -/
def AMap.era {α : Type} (a : Nat) : AMap α → AMap α
  | [] => []
  | (k, v) :: m => if a < k then (k, v) :: m else if k = a then m else (k, v) :: AMap.era a m

/-- Write a value, keeping out entries equal to what an unlisted key reads as. -/
def AMap.put {α : Type} [DecidableEq α] (d : α) (a : Nat) (x : α) (m : AMap α) : AMap α :=
  if x = d then AMap.era a m else AMap.ins a x m

/-- Keys strictly rising from a bound, and no entry equal to the default. -/
def AMap.wfFrom {α : Type} [DecidableEq α] (d : α) : Nat → AMap α → Bool
  | _, [] => true
  | lo, (k, v) :: m => decide (lo ≤ k) && decide (v ≠ d) && AMap.wfFrom d (k + 1) m

/-- The canonical form of a map whose unlisted keys read as d. -/
def AMap.wf {α : Type} [DecidableEq α] (d : α) (m : AMap α) : Bool := AMap.wfFrom d 0 m

/-- Byte memory: (address, byte) pairs, the same data as a list of Host.Cell. -/
abbrev Memory := AMap Byte

/-- What an unlisted address reads as (log 3). -/
def Memory.unlisted : Byte := 0

/-- Addresses strictly rising, and no entry equal to what an unlisted address reads as. -/
def Memory.wf (m : Memory) : Bool := AMap.wf Memory.unlisted m

/-- One byte of memory. -/
def Memory.read (m : Memory) (a : Nat) : Byte := AMap.get Memory.unlisted m a

/-- Write one byte. -/
def Memory.write (a : Nat) (x : Byte) (m : Memory) : Memory := AMap.put Memory.unlisted a x m

/-- Write (address, byte) pairs in order. -/
def Memory.writeCells (m : Memory) : List (Nat × Byte) → Memory
  | [] => m
  | (a, x) :: cs => Memory.writeCells (Memory.write a x m) cs

/-- n bytes from an address. -/
def Memory.readBytes (m : Memory) (a : Nat) : Nat → List Byte
  | 0 => []
  | n + 1 => Memory.read m a :: Memory.readBytes m (a + 1) n

/-- Little-endian number of a list of bytes (R6). -/
def leNat : List Byte → Nat
  | [] => 0
  | b :: bs => b.toNat + 256 * leNat bs

/-- The n little-endian bytes of a number (R6). -/
def leBytes (v : Nat) : Nat → List Byte
  | 0 => []
  | n + 1 => BitVec.ofNat 8 v :: leBytes (v / 256) n

/-- A little-endian number of n bytes in memory (R6). -/
def Memory.readNat (m : Memory) (a n : Nat) : Nat := leNat (Memory.readBytes m a n)

/-- Pair bytes with the addresses from a on. -/
def cellsAt (a : Nat) : List Byte → List (Nat × Byte)
  | [] => []
  | b :: bs => (a, b) :: cellsAt (a + 1) bs

/-- Write bytes from an address on. -/
def Memory.writeBytes (m : Memory) (a : Nat) (bs : List Byte) : Memory := Memory.writeCells m (cellsAt a bs)

/-- Write a little-endian number of n bytes (R6). -/
def Memory.writeNat (m : Memory) (a n v : Nat) : Memory := Memory.writeBytes m a (leBytes v n)

/-- The numbers 0 to n - 1, by structural recursion. -/
def upTo : Nat → List Nat
  | 0 => []
  | n + 1 => upTo n ++ [n]

/-- Iterate a function n times, the index counting up. -/
def iter {α : Type} (f : Nat → α → α) : Nat → α → α
  | 0, x => x
  | n + 1, x => f n (iter f n x)

/-- Element i of a list, with a default past its end. -/
def nth {α : Type} (d : α) : List α → Nat → α
  | [], _ => d
  | x :: _, 0 => x
  | _ :: xs, n + 1 => nth d xs n

/-- Replace element i of a list. -/
def setNth {α : Type} (x : α) : List α → Nat → List α
  | [], _ => []
  | _ :: ys, 0 => x :: ys
  | y :: ys, n + 1 => y :: setNth x ys n

/-- Remove element i of a list. -/
def dropNth {α : Type} : List α → Nat → List α
  | [], _ => []
  | _ :: ys, 0 => ys
  | y :: ys, n + 1 => y :: dropNth ys n

end Sys2Proof.Machine
end

