-- ==== Sys2Proof/Machine/Numbers.lean ====
section
/-! DEFINITION. Number formats, exact values, rounding and conversion (R51 to R61), the transcendental algorithms (R81,
R82), codebook weights (R69 to R72), the matrix chain (R62 to R67) and bit-field extraction (R83 to R85). -/

namespace Sys2Proof.Machine

/-! ### Exact values (R61) -/

/-- An exact value of the pseudocode: NaN, an infinity, or sign and magnitude n / d with -0 apart from +0. -/
inductive Ex where
  | nan
  | inf (neg : Bool)
  | fin (neg : Bool) (n d : Nat)
deriving DecidableEq, Repr

/-- An exact integer. -/
def Ex.ofInt (i : Int) : Ex := .fin (decide (i < 0)) i.natAbs 1

/-- The rational i / d, for d at least 1. -/
def Ex.ofRat (i : Int) (d : Nat) : Ex := .fin (decide (i < 0)) i.natAbs d

/-- The value 2^k for any integer k. -/
def Ex.pow2 (k : Int) : Ex := if k < 0 then .fin false 1 (2 ^ k.natAbs) else .fin false (2 ^ k.natAbs) 1

def Ex.isNan : Ex → Bool
  | .nan => true
  | _ => false

def Ex.isZero : Ex → Bool
  | .fin _ n _ => n == 0
  | _ => false

/-- Bring two fractions to one denominator. -/
def commonDen (n1 d1 n2 d2 : Nat) : Nat × Nat × Nat :=
  if d1 = d2 then (n1, n2, d1)
  else if d2 % d1 = 0 then (n1 * (d2 / d1), n2, d2)
  else if d1 % d2 = 0 then (n1, n2 * (d1 / d2), d1)
  else (n1 * d2, n2 * d1, d1 * d2)

/-- Exact sum; opposite infinities give NaN; an exact zero sum of opposite signs is +0 (R59). -/
def Ex.add : Ex → Ex → Ex
  | .nan, _ => .nan
  | _, .nan => .nan
  | .inf a, .inf b => if a = b then .inf a else .nan
  | .inf a, .fin _ _ _ => .inf a
  | .fin _ _ _, .inf b => .inf b
  | .fin s1 n1 d1, .fin s2 n2 d2 =>
    let (a, b, d) := commonDen n1 d1 n2 d2
    if s1 = s2 then .fin s1 (a + b) d
    else if a = b then .fin false 0 1
    else if b < a then .fin s1 (a - b) d
    else .fin s2 (b - a) d

def Ex.neg : Ex → Ex
  | .nan => .nan
  | .inf a => .inf (!a)
  | .fin s n d => .fin (!s) n d

def Ex.abs : Ex → Ex
  | .nan => .nan
  | .inf _ => .inf false
  | .fin _ n d => .fin false n d

def Ex.sub (a b : Ex) : Ex := Ex.add a (Ex.neg b)

/-- Exact product; an infinity times a zero is NaN (R63, R194). -/
def Ex.mul : Ex → Ex → Ex
  | .nan, _ => .nan
  | _, .nan => .nan
  | .inf a, .inf b => .inf (a != b)
  | .inf a, .fin s n _ => if n = 0 then .nan else .inf (a != s)
  | .fin s n _, .inf b => if n = 0 then .nan else .inf (b != s)
  | .fin s1 n1 d1, .fin s2 n2 d2 => .fin (s1 != s2) (n1 * n2) (d1 * d2)

/-- Exact quotient of finite values with a nonzero divisor; used with divisors the spec keeps nonzero. -/
def Ex.divNat : Ex → Nat → Ex
  | .fin s n d, k => .fin s n (d * k)
  | x, _ => x

/-- a < b on values that are not NaN; -0 equals +0. -/
def Ex.lt : Ex → Ex → Bool
  | .nan, _ => false
  | _, .nan => false
  | .inf a, .inf b => a && !b
  | .inf a, .fin _ _ _ => a
  | .fin _ _ _, .inf b => !b
  | .fin s1 n1 d1, .fin s2 n2 d2 =>
    let x : Int := if s1 then -(n1 * d2 : Nat) else (n1 * d2 : Nat)
    let y : Int := if s2 then -(n2 * d1 : Nat) else (n2 * d1 : Nat)
    decide (x < y)

/-- a = b on values that are not NaN; -0 equals +0. -/
def Ex.eqv (a b : Ex) : Bool := !a.isNan && !b.isNan && !Ex.lt a b && !Ex.lt b a

/-- a ≤ b; false when either is NaN. -/
def Ex.le (a b : Ex) : Bool := !a.isNan && !b.isNan && !Ex.lt b a

/-! ### Rounding to integers (R58) -/

/-- RNE 0, RZ 1, RUP 2 of the rounding field (R58). -/
def RNE : Nat := 0

/-- Round the magnitude n / d to an integer under a mode, given the sign. -/
def roundMag (mode : Nat) (neg : Bool) (n d : Nat) : Nat :=
  let q := n / d
  let r := n % d
  if mode = 1 then q
  else if mode = 2 then (if r = 0 || neg then q else q + 1)
  else if 2 * r < d then q
  else if d < 2 * r then q + 1
  else q + q % 2

/-- RoundNE(i / d, int), d at least 1, for integers. -/
def roundNEInt (i : Int) (d : Nat) : Int :=
  if i < 0 then -((roundMag 0 true i.natAbs d : Nat) : Int) else (roundMag 0 false i.natAbs d : Nat)

/-- A value rounded to an integer, infinities as bounds and NaN as 0 (R60), saturated to a range. -/
def Ex.toInt (mode : Nat) (lo hi : Int) : Ex → Int
  | .nan => 0
  | .inf neg => if neg then lo else hi
  | .fin s n d =>
    let m : Int := (roundMag mode s n d : Nat)
    sat (if s then -m else m) lo hi

/-! ### Formats (R51 to R56) -/

/-- A floating-point format of R53. -/
structure FFmt where
  width : Nat
  frac : Nat
  bias : Nat
  maxPat : Nat
  infPat : Option Nat
  canon : Nat
deriving DecidableEq, Repr

/-- The floating-point formats by format code (R51, R53, R55). -/
def ffmt? : Nat → Option FFmt
  | 0 => some ⟨32, 23, 127, 0x7F7FFFFF, some 0x7F800000, 0x7FC00000⟩
  | 1 => some ⟨16, 7, 127, 0x7F7F, some 0x7F80, 0x7FC0⟩
  | 2 => some ⟨16, 10, 15, 0x7BFF, some 0x7C00, 0x7E00⟩
  | 3 => some ⟨8, 3, 7, 0x7E, none, 0x7F⟩
  | 4 => some ⟨8, 2, 15, 0x7B, some 0x7C, 0x7E⟩
  | _ => none

/-- Element width in bits of a format code; CB2 has no element width of its own and counts 2 (R51). -/
def fmtWidth : Nat → Nat
  | 0 => 32
  | 1 => 16
  | 2 => 16
  | 3 => 8
  | 4 => 8
  | 5 => 8
  | 6 => 8
  | 7 => 16
  | 8 => 32
  | 9 => 2
  | 10 => 4
  | 11 => 64
  | 16 => 9216
  | _ => 8

/-- Whether a format code is one of the floating-point formats. -/
def isFloat (f : Nat) : Bool := decide (f ≤ 4)

/-- Range of an integer format code (R56). -/
def intRange : Nat → Int × Int
  | 5 => (-128, 127)
  | 6 => (0, 255)
  | 7 => (-32768, 32767)
  | 8 => (-2147483648, 2147483647)
  | 10 => (-8, 7)
  | _ => (-128, 127)

/-- Real(b, f) for a floating-point format (R54). -/
def FFmt.real (f : FFmt) (b : Nat) : Ex :=
  let s := bitOf b (f.width - 1)
  let m := b % 2 ^ (f.width - 1)
  let e := m / 2 ^ f.frac
  let fr := m % 2 ^ f.frac
  if f.maxPat < m then
    match f.infPat with
    | some ip => if m = ip then .inf s else .nan
    | none => .nan
  else
    let sig := if e = 0 then fr else 2 ^ f.frac + fr
    let ex : Int := ((if e = 0 then 1 else e : Nat) : Int) - f.bias - f.frac
    if ex < 0 then .fin s sig (2 ^ ex.natAbs) else .fin s (sig * 2 ^ ex.natAbs) 1

/-- Real(b, f) for any element format of R51 that vectors or matrices hold. -/
def real (f b : Nat) : Ex :=
  match ffmt? f with
  | some ff => ff.real (b % 2 ^ ff.width)
  | none => if f = 6 then Ex.ofInt ((b % 256 : Nat) : Int) else Ex.ofInt (sext b (fmtWidth f))

/-- Canon(f) (R55); an integer format writes 0 in place of a NaN (R55). -/
def canon (f : Nat) : Nat :=
  match ffmt? f with
  | some ff => ff.canon
  | none => 0

/-- floor(log2(n / d)) for n and d at least 1. -/
def ilog2 (n d : Nat) : Int :=
  let e : Int := (Nat.log2 n : Int) - Nat.log2 d
  let fits := if e < 0 then decide (d ≤ n * 2 ^ e.natAbs) else decide (d * 2 ^ e.natAbs ≤ n)
  if fits then e else e - 1

/-- The magnitude pattern of n / d rounded once, before any overflow rule: may exceed the largest finite pattern. -/
def FFmt.roundPat (f : FFmt) (mode : Nat) (neg : Bool) (n d : Nat) : Nat :=
  if n = 0 then 0
  else
    let emin : Int := 1 - (f.bias : Int)
    let e := max (ilog2 n d) emin
    let q : Int := e - f.frac
    let m := if q < 0 then roundMag mode neg (n * 2 ^ q.natAbs) d else roundMag mode neg n (d * 2 ^ q.natAbs)
    let e1 := (e - emin).toNat
    e1 * 2 ^ f.frac + m

/-- Put the sign on a magnitude pattern. -/
def FFmt.signed (f : FFmt) (neg : Bool) (pat : Nat) : Nat := if neg then 2 ^ (f.width - 1) + pat else pat

/-- Round(x, f, m) of R59: overflow to an infinity under RNE and RUP upward, else to the largest finite value; E4M3 has no
infinity and gives its largest value (R193). -/
def FFmt.round (f : FFmt) (mode : Nat) : Ex → Nat
  | .nan => f.canon
  | .inf s => f.signed s (f.infPat.getD f.maxPat)
  | .fin s n d =>
    let p := f.roundPat mode s n d
    if p ≤ f.maxPat then f.signed s p
    else
      let toInf := mode = 0 || (mode = 2 && !s)
      if toInf then f.signed s (f.infPat.getD f.maxPat) else f.signed s f.maxPat

/-- A narrowing result of R60: a finite value beyond the largest becomes the largest in every mode. -/
def FFmt.narrow (f : FFmt) (mode : Nat) : Ex → Nat
  | .nan => f.canon
  | .inf s => f.signed s (f.infPat.getD f.maxPat)
  | .fin s n d => f.signed s (min (f.roundPat mode s n d) f.maxPat)

/-- An integer as a pattern of a format's width. -/
def intPat (f : Nat) (i : Int) : Nat := trunc (fmtWidth f) i

/-- One arithmetic result in format f: rounded once as R59 and R193 give, or saturated once in an integer format; a NaN in an
integer format is 0 (R55). -/
def roundTo (f mode : Nat) (x : Ex) : Nat :=
  match ffmt? f with
  | some ff => ff.round mode x
  | none => intPat f (x.toInt mode (intRange f).1 (intRange f).2)

/-- A result written to format f saturating as R60 gives (conversions, ACCRD other than FP32, R235). -/
def narrowTo (f mode : Nat) (x : Ex) : Nat :=
  match ffmt? f with
  | some ff => ff.narrow mode x
  | none => intPat f (x.toInt mode (intRange f).1 (intRange f).2)

/-- Cvt(b, f, g, m) of R60; a format converted to itself keeps every pattern but a NaN (R197). A
floating format of the same width is taken as narrower: a finite value past its range gives the largest finite one (log 78). -/
def cvt (b f g mode : Nat) : Nat := narrowTo g mode (real f b)

/-- A value written as ACCRD writes it with SC = 0 (R228, R321): FP32 rounds, others saturate. -/
def writeAs (f : Nat) (x : Ex) : Nat := if f = 0 then roundTo 0 0 x else narrowTo f 0 x

/-- Round to FP32 with RNE and read the value back. -/
def rf32 (x : Ex) : Ex := real 0 (roundTo 0 0 x)

/-- Sat32 of R61. -/
def sat32 (i : Int) : Int := sat i (-2147483648) 2147483647

/-! ### Minimum and maximum (R195) -/

/-- Whether pattern a counts as smaller than pattern b; -0 counts as smaller than +0 (R195). -/
def patLt (f a b : Nat) : Bool :=
  let x := real f a
  let y := real f b
  if Ex.eqv x y then
    match x, y with
    | .fin s 0 _, .fin t 0 _ => s && !t
    | _, _ => false
  else Ex.lt x y

/-- VMIN of R195, R194. -/
def patMin (f a b : Nat) : Nat :=
  if (real f a).isNan || (real f b).isNan then canon f else if patLt f b a then b else a

/-- VMAX of R195, R194. -/
def patMax (f a b : Nat) : Nat :=
  if (real f a).isNan || (real f b).isNan then canon f else if patLt f a b then b else a

/-! ### Transcendental operations (R81, R82) -/

/-- floor of the square root, by bits from the top. -/
def isqrtBits (x : Nat) : Nat → Nat → Nat
  | 0, r => r
  | k + 1, r => let c := r + 2 ^ k; isqrtBits x k (if c * c ≤ x then c else r)

/-- floor(sqrt(x)) for x below 2^(2k). -/
def isqrt (x k : Nat) : Nat := isqrtBits x k 0

/-- RoundNE(2^30 / sqrt(a / b), int): the n with (2n - 1)^2 * a < 2^62 * b < (2n + 1)^2 * a; no tie occurs (R82 VRSQ). -/
def rsqTable (a b : Nat) : Nat :=
  let lo := isqrt (2 ^ 60 * b / a) 32
  if (2 * lo + 1) * (2 * lo + 1) * a < 2 ^ 62 * b then lo + 1 else lo

/-- The largest n with n^4096 ≤ x, n below 2^k above r. -/
def root4096 (x : Nat) : Nat → Nat → Nat
  | 0, r => r
  | k + 1, r => let c := r + 2 ^ k; root4096 x k (if c ^ 4096 ≤ x then c else r)

/-- RoundNE(2^62 * 2^(i / 4096), int): exact comparison of 4096th powers (R82 VEXP2). -/
def exp2Table (i : Nat) : Nat :=
  let half := root4096 (2 ^ (63 * 4096 + i)) 64 0
  (half + 1) / 2

/-- Digits of a base-2 logarithm by repeated squaring at 256 fraction bits: k digits of log2 of x / 2^256, 1 ≤ x / 2^256 < 2. -/
def log2Digits : Nat → Nat → Nat → Nat
  | 0, _, acc => acc
  | k + 1, x, acc =>
    let y := x * x / 2 ^ 256
    if 2 ^ 257 ≤ y then log2Digits k (y / 2) (2 * acc + 1) else log2Digits k y (2 * acc)

/-- RoundNE(2^62 * log2(1 + i / 4096), int) from 70 digits (R82 VLOG2); the digits past 2^-62 are never a tie. -/
def log2Table (i : Nat) : Nat :=
  (log2Digits 70 (2 ^ 256 + i * 2 ^ 244) 0 + 128) / 256

/-- ln 2 at 128 fraction bits, from the sum of 1 / (k 2^k). -/
def ln2Bits : Nat := iter (fun k acc => acc + 2 ^ 140 / ((k + 1) * 2 ^ (k + 1))) 140 0 / 2 ^ 12

/-- RoundNE(2^62 * ln(2), int) (R82). -/
def ln2Const : Nat := (ln2Bits + 2 ^ 65) / 2 ^ 66

/-- RoundNE(2^62 / ln(2), int) (R82). -/
def invLn2Const : Nat := (2 ^ 191 / ln2Bits + 1) / 2

/-- S and E of R81 for a finite nonzero FP32 pattern: the value is S * 2^(E - 23), 2^23 ≤ S < 2^24. -/
def decompose (b : Nat) : Nat × Int :=
  let e : Nat := b / 2 ^ 23 % 256
  let fr : Nat := b % 2 ^ 23
  if e = 0 then
    let l := Nat.log2 fr
    (fr * 2 ^ (23 - l), (l : Int) - 149)
  else (2 ^ 23 + fr, (e : Int) - 127)

/-- x * 2^k. -/
def Ex.scale (x : Ex) (k : Int) : Ex := Ex.mul x (Ex.pow2 k)

/-- VRCP of one FP32 pattern (R81, R82). -/
def vrcp32 (mode b : Nat) : Nat :=
  match real 0 b with
  | .nan => canon 0
  | .inf s => if s then 0x80000000 else 0
  | .fin s 0 _ => if s then 0xFF800000 else 0x7F800000
  | .fin s _ _ =>
    let (S, E) := decompose b
    let i := S / 2 ^ 11 % 4096
    let y0 := Ex.fin false (roundMag 0 false (2 ^ 43) (8193 + 2 * i)) (2 ^ 30)
    let m := Ex.fin false S (2 ^ 23)
    let y1 := Ex.mul y0 (Ex.sub (Ex.ofInt 2) (Ex.mul m y0))
    let y := y1.scale (-E)
    roundTo 0 mode (if s then y.neg else y)

/-- VRSQ of one FP32 pattern (R81, R82). -/
def vrsq32 (mode b : Nat) : Nat :=
  match real 0 b with
  | .nan => canon 0
  | .inf s => if s then canon 0 else 0
  | .fin s 0 _ => if s then 0xFF800000 else 0x7F800000
  | .fin true _ _ => canon 0
  | .fin false _ _ =>
    let (S, E) := decompose b
    let j := S / 2 ^ 12 % 2048
    let even : Bool := decide ((E : Int) % 2 = 0)
    let m := if even then Ex.fin false S (2 ^ 23) else Ex.fin false S (2 ^ 22)
    let E2 := if even then E else E - 1
    -- mid is (4097 + 2j) / 4096 at even E and (4097 + 2j) / 2048 at odd E
    let y0 := Ex.fin false (rsqTable (4097 + 2 * j) (if even then 4096 else 2048)) (2 ^ 30)
    let y1 := (Ex.mul y0 (Ex.sub (Ex.ofInt 3) (Ex.mul m (Ex.mul y0 y0)))).divNat 2
    roundTo 0 mode (y1.scale (-(E2 / 2)))

/-- floor of an exact finite value. -/
def Ex.floorInt : Ex → Int
  | .fin s n d => if s then -((cdiv n d : Nat) : Int) else ((n / d : Nat) : Int)
  | _ => 0

/-- VEXP2 of one FP32 pattern (R81, R82). A value whose magnitude is past the format's range over- or underflows as R59 gives. -/
def vexp2f32 (mode b : Nat) : Nat :=
  match real 0 b with
  | .nan => canon 0
  | .inf s => if s then 0 else 0x7F800000
  | .fin _ 0 _ => 0x3F800000
  | .fin s n d =>
    let x := Ex.fin s n d
    let nI := x.floorInt
    -- beyond these bounds every such result rounds alike; they keep the powers of two small
    let nC := sat nI (-400) 400
    let F := (Ex.mul (Ex.sub x (Ex.ofInt nI)) (Ex.pow2 40)).floorInt.toNat
    let i := F / 2 ^ 28 % 4096
    let r := Ex.fin false (F % 2 ^ 28) (2 ^ 40)
    let T := Ex.fin false (exp2Table i) (2 ^ 62)
    let u := Ex.mul r (Ex.fin false ln2Const (2 ^ 62))
    let corr := Ex.add (Ex.ofInt 1) (Ex.add u ((Ex.mul u u).divNat 2))
    roundTo 0 mode ((Ex.mul T corr).scale nC)

/-- VLOG2 of one FP32 pattern (R81, R82). -/
def vlog2f32 (mode b : Nat) : Nat :=
  match real 0 b with
  | .nan => canon 0
  | .inf s => if s then canon 0 else 0x7F800000
  | .fin _ 0 _ => 0xFF800000
  | .fin true _ _ => canon 0
  | .fin false _ _ =>
    let (S, E) := decompose b
    let i := S / 2 ^ 11 % 4096
    let T := Ex.fin false (log2Table i) (2 ^ 62)
    let rc := roundMag 0 false (2 ^ 74) (4096 + i)
    let z := Ex.sub (Ex.mul (Ex.fin false S (2 ^ 23)) (Ex.fin false rc (2 ^ 62))) (Ex.ofInt 1)
    let z2 := Ex.mul z z
    let z3 := Ex.mul z2 z
    let z4 := Ex.mul z3 z
    let P := Ex.sub (Ex.add (Ex.sub z (z2.divNat 2)) (z3.divNat 3)) (z4.divNat 4)
    let y := Ex.add (Ex.add (Ex.ofInt E) T) (Ex.mul P (Ex.fin false invLn2Const (2 ^ 62)))
    if y.isZero then 0 else roundTo 0 mode y

/-! ### Codebook weights (R69 to R72) -/

/-- The eight weights of a CB2 codeword with block scale e (R71). -/
def cb2Decode (base : Nat → Nat) (idx e : Nat) : List Ex :=
  let ent := base (idx / 256 % 256)
  let m := fun i => ent / 16 ^ i % 16
  let par := (m 0 + m 1 + m 2 + m 3 + m 4 + m 5 + m 6 + m 7) % 2
  let s := fun i => idx / 2 ^ (i + 1) % 2
  let s7 := (par + s 0 + s 1 + s 2 + s 3 + s 4 + s 5 + s 6) % 2
  (upTo 8).map fun i =>
    let mag := 2 * m i + idx % 2
    let neg := (if i = 7 then s7 else s i) == 1
    if mag = 0 then Ex.fin false 0 1 else (Ex.fin neg mag 1).scale ((e : Int) - 131)

/-- The 4-bit magnitude fields, sign bits and shift bit act as R70 gives; entry parity is the sum of the magnitudes mod 2. -/
def cb2Parity (ent : Nat) : Nat := ((upTo 8).map fun i => ent / 16 ^ i % 16).foldl (· + ·) 0 % 2

/-! ### Matrix chains (R62 to R67) -/

/-- Chain length and integer mode of a pair of weight and activation formats; none where R62 has no such pair. -/
def matPair (w a : Nat) : Option (Nat × Bool) :=
  match w, a with
  | 3, 3 => some (64, false)
  | 3, 4 => some (64, false)
  | 4, 3 => some (64, false)
  | 4, 4 => some (64, false)
  | 9, 3 => some (64, false)
  | 9, 4 => some (64, false)
  | 9, 1 => some (32, false)
  | 1, 1 => some (32, false)
  | 2, 2 => some (32, false)
  | 5, 5 => some (64, true)
  | 5, 6 => some (64, true)
  | 5, 10 => some (64, true)
  | 6, 5 => some (64, true)
  | 6, 6 => some (64, true)
  | 6, 10 => some (64, true)
  | _, _ => none

/-- One step of a floating chain: s = RoundNE(s + RoundNE(w * a, FP32), FP32) (R64). -/
def chainStepF (s w a : Ex) : Ex := rf32 (Ex.add s (rf32 (Ex.mul w a)))

/-- ChainSum of R64 over the pairs in use, top to bottom, from +0.0. -/
def chainSumF (ps : List (Ex × Ex)) : Ex := ps.foldl (fun s p => chainStepF s p.1 p.2) (.fin false 0 1)

/-- The integer chain of R67, each step saturated. -/
def chainSumI (ps : List (Int × Int)) : Int := ps.foldl (fun s p => sat32 (s + p.1 * p.2)) 0

/-- The integer value of an exact value that is an integer. -/
def Ex.int : Ex → Int
  | .fin s n d => if s then -((n / d : Nat) : Int) else ((n / d : Nat) : Int)
  | _ => 0

/-- The chain result c as a 32-bit accumulator pattern (R64, R66, R67). ps holds the element pairs of the column in chain order;
those at and above K are not in use; mode 1 is DUALK. -/
def chainResult (integer : Bool) (mode L K : Nat) (ps : List (Ex × Ex)) : Nat :=
  let used := fun lo hi => ((ps.take (min hi K)).drop lo)
  if integer then
    let ci := fun l : List (Ex × Ex) => chainSumI (l.map fun p => (p.1.int, p.2.int))
    trunc 32 (if mode = 1 then sat32 (ci (used 0 (L / 2)) + ci (used (L / 2) L)) else ci (used 0 L))
  else
    roundTo 0 0 (if mode = 1 then Ex.add (chainSumF (used 0 (L / 2))) (chainSumF (used (L / 2) L)) else chainSumF (used 0 L))

/-- Overwrite and accumulate of R64 and R67; a NaN accumulator is canonical. -/
def accumulate (integer first : Bool) (acc c : Nat) : Nat :=
  if integer then (if first then c else trunc 32 (sat32 (sext acc 32 + sext c 32)))
  else if first then roundTo 0 0 (real 0 c) else roundTo 0 0 (Ex.add (real 0 acc) (real 0 c))

/-! ### Trees (R68) -/

/-- One level of the pairwise tree. -/
def treeLevel {α : Type} (op : α → α → α) : List α → List α
  | a :: b :: r => op a b :: treeLevel op r
  | r => r

/-- The pairwise tree of R68; the fuel is at least the number of levels. -/
def treeFold {α : Type} (op : α → α → α) (d : α) : Nat → List α → α
  | _, [] => d
  | _, [a] => a
  | 0, a :: _ => a
  | n + 1, l => treeFold op d n (treeLevel op l)

/-- The smallest power of two at or above n, fuel 32. -/
def pow2Above (n : Nat) : Nat → Nat → Nat
  | 0, p => p
  | k + 1, p => if n ≤ p then p else pow2Above n k (2 * p)

/-- Pad with an identity to the next power of two (R321). -/
def padTree {α : Type} (ident : α) (l : List α) : List α :=
  l ++ List.replicate (pow2Above l.length 32 1 - l.length) ident

/-! ### Bit-field extraction (R83 to R85) -/

/-- Bit-field extraction pattern fields (R83). -/
def bfxP (pat : Nat) : Nat := bitsOf pat 0 7 + 1
def bfxNF (pat : Nat) : Nat := bitsOf pat 8 4 + 1
def bfxEN (pat : Nat) : Bool := bitOf pat 12
def bfxOff (pat f : Nat) : Nat := bitsOf pat (16 + 11 * f) 7
def bfxW (pat f : Nat) : Nat := bitsOf pat (16 + 11 * f + 7) 3 + 1
def bfxSX (pat f : Nat) : Bool := bitOf pat (16 + 11 * f + 10)

/-- R85: every field below NF ends inside the period. -/
def bfxOk (pat : Nat) : Bool := (upTo (bfxNF pat)).all fun f => decide (bfxOff pat f + bfxW pat f ≤ bfxP pat)

/-- The 8-bit element e of the stream B, given as a little-endian number (R84). -/
def bfxElem (pat B e : Nat) : Nat :=
  let f := e % bfxNF pat
  let lo := e / bfxNF pat * bfxP pat + bfxOff pat f
  let b := bitsOf B lo (bfxW pat f)
  if bfxSX pat f then trunc 8 (sext b (bfxW pat f)) else b

/-- Bytes that an extracting VLD reads (R245). -/
def bfxBytes (pat : Nat) : Nat := cdiv (cdiv 64 (bfxNF pat) * bfxP pat) 8

/-! ### Predictions and tolerance (R235, R236) -/

/-- One element of PRED (R235). -/
def predElem (f kind alpha v1 v2 : Nat) : Nat :=
  if kind = 0 then v1
  else
    let x := real f v1
    let y := real f v2
    let val := if kind = 1 then Ex.sub (Ex.add x x) y else Ex.add x (Ex.mul (real 2 alpha) (Ex.sub x y))
    narrowTo f 0 val

/-- d[i] of TCMP (R236). -/
def tcmpD (f r q : Nat) : Ex :=
  if r = q && !(real f r).isNan then .fin false 0 1 else (Ex.sub (real f r) (real f q)).abs

/-- The 16-byte verdict of TCMP over element pairs (r, q) with tolerance st (R236). -/
def tcmpVerdict (f st : Nat) (ps : List (Nat × Nat)) : List Byte :=
  let a := real 2 (bitsOf st 0 16)
  let r := real 2 (bitsOf st 16 16)
  let bad := a.isNan || r.isNan || Ex.lt a (.fin false 0 1) || Ex.lt r (.fin false 0 1)
  let ds := ps.map fun p => tcmpD f p.1 p.2
  let fails := ps.map fun p => bad || !(Ex.le (tcmpD f p.1 p.2) (Ex.add a (Ex.mul r (real f p.1).abs)))
  let nfail := (fails.filter id).length
  let zero := Ex.fin false 0 1
  let sumD := ds.foldl Ex.add zero
  let sumR := ps.foldl (fun s p => Ex.add s (real f p.1).abs) zero
  let meanOk := Ex.le sumD (Ex.add (Ex.mul (Ex.ofInt ps.length) a) (Ex.mul r sumR))
  let nanSeen := ds.any Ex.isNan
  let pass := if bitOf st 32 then meanOk else nfail == 0
  let maxD := ds.foldl (fun m d => if Ex.lt m d then d else m) zero
  let big := if nanSeen then canon 0 else roundTo 0 0 maxD
  leBytes (pass.toNat + 2 * nanSeen.toNat) 4 ++ leBytes nfail 4 ++ leBytes big 4 ++ leBytes 0 4

/-! ### Rotator arithmetic (R73 to R80) -/

/-- An RB36 row: shared exponent X, invalid bit N, gain count and the mantissas of the elements in use (R73, R80). -/
structure RbRow where
  x : Nat
  n : Bool
  gain : Nat
  m : List Int
deriving DecidableEq, Repr

/-- The RB36 element word of R73. -/
def rbWord (x : Nat) (n : Bool) (m : Int) : Nat := x % 256 * 2 ^ 56 + n.toNat * 2 ^ 55 + trunc 55 m

/-- The row that RB36 element words hold; X and N are read from the first (every element of a row carries the same, R73). -/
def rbOfWords (ws : List Nat) : RbRow :=
  { x := bitsOf (nth 0 ws 0) 56 8, n := bitOf (nth 0 ws 0) 55, gain := 0, m := ws.map fun w => sext w 36 }

/-- RoundNE of an integer times a power of two. -/
def shiftNE (v : Int) (k : Int) : Int :=
  if k < 0 then roundNEInt v (2 ^ k.natAbs) else v * (2 ^ k.natAbs : Nat)

/-- A row of FP32 patterns entering the rotator (R74). Of a row with N = 1 the rule gives neither X nor the mantissas: the model's are zeros (log 56). -/
def rbOfFp32 (ps : List Nat) : RbRow :=
  let bad := ps.any fun p => bitsOf p 23 8 == 255
  if bad then { x := 0, n := true, gain := 0, m := ps.map fun _ => 0 }
  else
    let emax := ps.foldl (fun e p => max e (max 1 (bitsOf p 23 8))) 1
    let x := min 255 (emax + 2)
    let mant := fun p : Nat =>
      let e := bitsOf p 23 8
      let f := bitsOf p 0 23
      let sig : Int := if e = 0 then f else (2 ^ 23 + f : Nat)
      let sg := if bitOf p 31 then -sig else sig
      -- value sig * 2^(e' - 150), times 2^(161 - X)
      shiftNE sg ((max 1 e : Nat) - 150 + 161 - (x : Int))
    { x := x, n := false, gain := 0, m := ps.map mant }

/-- One element leaving the rotator as FP32 (R74). -/
def rbToFp32 (x : Nat) (n : Bool) (m : Int) : Nat :=
  if n then canon 0 else roundTo 0 0 ((Ex.ofInt m).scale ((x : Int) - 161))

/-- The gain constant of R79. -/
def rbG : Int := 41730103940

/-- One gain step on an internal value (R79). -/
def gainStep (v : Int) : Int := roundNEInt (v * rbG) (2 ^ 36)

/-- c gain steps one after another (R80). -/
def gainSteps (c : Nat) (v : Int) : Int := iter (fun _ w => gainStep w) c v

/-- QuadStep of R75. -/
def quadStep (q : Nat) (x y : Int) : Int × Int :=
  match q with
  | 1 => (y, -x)
  | 2 => (-y, x)
  | 3 => (-x, -y)
  | _ => (x, y)

/-- ASR of R61. -/
def asr (v : Int) (i : Nat) : Int := v / (2 ^ i : Nat)

/-- The i-th micro-rotation with direction d (R77). -/
def microRot (d : Bool) (i : Nat) (x y : Int) : Int × Int :=
  if d then (x - asr y i, y + asr x i) else (x + asr y i, y - asr x i)

/-- 28 iterations with directions chosen to annihilate y (R77): the directions and x. -/
def vectoriseLoop (x y : Int) : Nat × Int :=
  let r := iter (fun i (t : Nat × Int × Int) =>
    let d := decide (t.2.2 < 0)
    let p := microRot d i t.2.1 t.2.2
    (t.1 + d.toNat * 2 ^ i, p.1, p.2)) 28 (0, x, y)
  (r.1, r.2.1)

/-- A rotation word of R75. -/
def rotWord (ident exact : Bool) (q d : Nat) : Nat := ident.toNat * 2 ^ 31 + exact.toNat * 2 ^ 30 + q * 2 ^ 28 + d

/-- Vectorise of R77: the word and the new x. -/
def vectorise (x y : Int) : Nat × Int :=
  if y = 0 then (if 0 ≤ x then (rotWord true false 0 0, x) else (rotWord false true 3 0, -x))
  else if x = 0 then (rotWord false true (if 0 < y then 1 else 2) 0, (y.natAbs : Int))
  else
    let q := if 0 < x then 0 else if 0 < y then 1 else 2
    let p := quadStep q x y
    let r := vectoriseLoop p.1 p.2
    (rotWord false false q r.1, r.2)

/-- Fields of a rotation word (R75). -/
def wordI (w : Nat) : Bool := bitOf w 31
def wordZ (w : Nat) : Bool := bitOf w 30

/-- Whether a word runs the 28 iterations and so takes gain (R79). -/
def wordGains (w : Nat) : Bool := !wordI w && !wordZ w

/-- An inner cell's application of a word to a pair (R77). -/
def applyWord (w : Nat) (x y : Int) : Int × Int :=
  if wordI w then (x, y)
  else
    let p := quadStep (bitsOf w 28 2) x y
    if wordZ w then p
    else iter (fun i t => microRot (bitOf w i) i t.1 t.2) 28 p

/-- The range of a 36-bit mantissa. -/
def in36 (m : Int) : Bool := decide (-(2 ^ 35) ≤ m) && decide (m ≤ 2 ^ 35 - 1)

/-- Rounding of a row's internal values back to RB36, and whether the row is saturated (R78). -/
def rbRound (x : Nat) (vs : List Int) : Nat × List Int × Bool :=
  let at' := fun k : Nat => vs.map fun v => roundNEInt v (2 ^ (4 + k))
  let clamp := fun l : List Int => l.map fun m => sat m (-(2 ^ 35)) (2 ^ 35 - 1)
  let k := if (at' 0).all in36 then 0 else if (at' 1).all in36 then 1 else 2
  if x + k ≤ 255 then (x + k, clamp (at' k), !((at' k).all in36))
  else (255, clamp (at' (255 - x)), !((at' (255 - x)).all in36))

/-- Internal values V = 16 M of a row after c gain steps, brought to exponent x (R76, R80). -/
def rbInternal (r : RbRow) (c x : Nat) : List Int :=
  r.m.map fun m =>
    if c = 0 then (if x = r.x then 16 * m else roundNEInt (16 * m) (2 ^ (x - r.x)))
    else
      let v := gainSteps c (16 * m)
      if x = r.x then v else roundNEInt v (2 ^ (x - r.x))

/-- Change the elements from column j on: the columns that meet the cells of row j (R397). -/
def fromCol {α : Type} (j : Nat) (f : α → α) (l : List α) : List α := l.take j ++ (l.drop j).map f

/-- TR row j (a) and an incoming row (b) meet cell row j: equalised and aligned, then rotated at columns j and above by Vectorise's
word, or by the word given (R76 to R80, R230, R231, R398). Answers the rows, the word and whether a row saturated. -/
def rotateRows (deferred : Bool) (given : Option Nat) (j : Nat) (a b : RbRow) : RbRow × RbRow × Nat × Bool :=
  let ca := a.gain - b.gain
  let cb := b.gain - a.gain
  let cnt := min a.gain b.gain
  let x := max a.x b.x
  let va := rbInternal a ca x
  let vb := rbInternal b cb x
  let vec := vectorise (nth 0 va j) (nth 0 vb j)
  let w := given.getD vec.1
  let pairs := fromCol j (fun p => applyWord w p.1 p.2) (va.zip vb)
  let va1 := pairs.map Prod.fst
  let vb1 := pairs.map Prod.snd
  let va2 := if given.isNone then setNth vec.2 va1 j else va1
  let vb2 := if given.isNone then setNth 0 vb1 j else vb1
  let now := wordGains w && (!deferred || cnt = 63)
  let va3 := if now then fromCol j gainStep va2 else va2
  let vb3 := if now then fromCol j gainStep vb2 else vb2
  let cnt1 := if deferred && wordGains w && cnt < 63 then cnt + 1 else cnt
  let ra := rbRound x va3
  let rb := rbRound x vb3
  let n := a.n || b.n
  ({ x := ra.1, n := n, gain := cnt1, m := ra.2.1 }, { x := rb.1, n := n, gain := cnt1, m := rb.2.1 }, w,
    !n && (ra.2.2 || rb.2.2))

/-- The pending gain steps of a row applied, its count set to 0 (R80, RTGAIN and RTREAD). -/
def rbGain (r : RbRow) : RbRow × Bool :=
  let p := rbRound r.x (r.m.map fun m => gainSteps r.gain (16 * m))
  if r.gain = 0 then (r, false) else ({ x := p.1, n := r.n, gain := 0, m := p.2.1 }, !r.n && p.2.2)

end Sys2Proof.Machine
end

