-- ==== Sys2Proof/Machine/State.lean ====
section
/-! DEFINITION. The state of the package as plain data, and what it is right after power-on (R38, R145, R147, R208, R209, R284,
and the rules named at each field). A sparse map's unlisted keys read as the value its accessor in Machine/Ops.lean names. -/

namespace Sys2Proof.Machine

/-- Why a run stops with a fault. -/
inductive Fault where
  /-- A step of a package without power: the spec gives it no behaviour (R445). Raised by the step function; safe. -/
  | unpowered
deriving DecidableEq, Repr

/-- Why the model gives no meaning. -/
inductive Refusal where
  /-- The instruction has no meaning yet in this model. Raised by the dispatcher's arms; safe. -/
  | notModelled (mnemonic : String)
deriving DecidableEq, Repr

/-- An applied clock: nine 24-bit entries (R124). -/
abbrev Clock := List Nat

/-- An s register: 128 bits and a tag (R145). -/
structure SReg where
  bits : BitVec 128
  tag : Bool
deriving DecidableEq, Repr

/-- A register write: an s register, masked lanes of a physical v register, a predicate, masked bits of a lane predicate, a
k-register (R143, R166). -/
inductive RegW where
  | s (n : Nat) (r : SReg)
  | v (phys : Nat) (mask : Nat) (x : BitVec 512)
  | p (n : Nat) (b : Bool)
  | q (n : Nat) (mask val : Nat)
  | k (i : Nat) (x : Word)
deriving DecidableEq, Repr

/-- A fixed-latency result in flight and the position at which it is due (R143). -/
structure FixW where
  due : Nat
  w : RegW
deriving DecidableEq, Repr

/-- Where the bytes of a variable-latency result go (R241, R244 to R247, R261). -/
inductive Dst where
  | none
  | int (d n : Nat) (sx : Bool)
  | wide (d : Nat)
  | vec (phys mask : Nat)
  | bfx (phys mask pat : Nat)
deriving DecidableEq, Repr

/-- A variable-latency result in flight: its bytes so far, how many responses it still waits for, the stamps they carried, the
stamps an acquire must see dominated, and whether it was issued before the current restart region (R126, R143, R157). -/
structure VarW where
  id : Nat
  dst : Dst
  bytes : List Byte
  waiting : Nat
  stamps : List Clock
  /-- Later accesses wait for it (R121); it also needs the die's clock to dominate its stamps (R126). -/
  acq : Bool
  dom : Bool
  old : Bool
  /-- Pages of the TLB entries it went through, as base, size and G (R106), and whether a page of it is strongly ordered (R98). -/
  pages : List (Nat × Nat × Bool) := []
  so : Bool := false
  /-- The result of an engine command, which is no load (R130). -/
  eng : Bool := false
  /-- Bytes that the context's own stores gave, by index (R120), and bytes read from unit scratch: index, key, view (R111). -/
  kept : List Nat := []
  view : List (Nat × Nat × Bool) := []
deriving DecidableEq, Repr

/-- A hold latch: its value unless dropped, and the physical register it names (R140, R141). -/
structure Latch where
  val : Option (BitVec 512)
  reg : Nat
deriving DecidableEq, Repr

/-- The part of a context that a snapshot restores and an eviction saves (R157 Context state). -/
structure Bank where
  s : AMap SReg := []
  v : AMap (BitVec 512) := []
  p : BitVec 16 := 0
  q : AMap (BitVec 16) := []
  k : AMap Word := []
  pc : Nat := 0
deriving DecidableEq, Repr

/-- What a translated byte range stands for: physical memory, an MMIO offset, PCIe space, a remote chip, or a discarded page
that reads as zeros (R95, R102). -/
inductive Loc where
  | mem (key : Nat)
  | mmio (off : Nat)
  | pcie (ta : Nat)
  | chip (ta : Nat)
  | zero
deriving DecidableEq, Repr

/-- A piece of an access inside one 64-byte line: where it lies, which bytes of the access it is, and whether it goes through
the swizzled view of unit scratch (R110). -/
structure Piece where
  loc : Loc
  idx : Nat
  n : Nat
  swz : Bool
deriving DecidableEq, Repr

/-- A store waiting in the gated store buffer: the pieces it writes, their bytes, and the virtual lines it touches (R155). -/
structure GStore where
  pieces : List (Piece × List Byte)
  lines : List Nat
  /-- A page of it is strongly ordered (R98). -/
  so : Bool := false
  /-- Pages of the TLB entries it went through (R106). -/
  pages : List (Nat × Nat × Bool) := []
deriving DecidableEq, Repr

/-- Why a context is blocked (R39). -/
inductive Why where
  | queue (q : Nat)
  | held (rotator : Bool)
  | ring (key k : Nat)
  | deq (qi : Nat)
  | hwq
  | barrier (key : Nat) (dl : Option Nat)
  | waitq (rcb : Nat)
  | time (t : Nat)
  | spec
  | edges
  | svcRing
  | svcResult (token : Nat)
  | remote
  | fault (va : Nat) (wr : Bool)
deriving DecidableEq, Repr

/-- The state of a sequencer context (R38): empty, ready, blocked, stopped by a trap whose record awaits delivery, ended by ENDOP
and waiting for its commands and stores (R185). -/
inductive Status where
  | empty
  | ready
  | blocked (w : Why)
  | trapped
  | ending
deriving DecidableEq, Repr

/-- What a context is bound to (R30, R36). -/
inductive Job where
  | none
  | tile (op lin : Nat) (ix : List Nat)
  /-- The card's address and its 32 bytes as the dispatcher read them at the deal (R35, R36). -/
  | task (die q card idx left bits : Nat)
deriving DecidableEq, Repr

/-- The bound work's names: device context, region, operator record, stream, plane and operator image (R30, R36, R177). -/
structure Work where
  job : Job := .none
  ctxid : Nat := 0
  rcb : Nat := 0
  opcode : Nat := 0
  opc : Nat := 0
  gfe : Nat := 0
  shard : Nat := 0
  img : Nat := 0
  nb : Nat := 0
  /-- The number of the bind, which the commands of the work carry (R158). -/
  uid : Nat := 0
deriving DecidableEq, Repr

/-- A sequencer context. -/
structure Ctx where
  status : Status := .empty
  bank : Bank := {}
  /-- The snapshot of the restart region (R155). -/
  snap : Bank := {}
  /-- Issue position (R142). -/
  pos : Nat := 0
  fix : List FixW := []
  var : List VarW := []
  nextVar : Nat := 0
  latchA : Latch := ⟨none, 0⟩
  latchB : Latch := ⟨none, 0⟩
  latchM : Latch := ⟨none, 0⟩
  /-- The gated store buffer, oldest first (R155). -/
  gated : List GStore := []
  /-- Bytes written through one view of unit scratch and not yet joined with the other: key, view, old byte (R111). -/
  unjoined : List (Nat × Bool × Byte) := []
  /-- Stamps returned to loads since the last acquire (R126, R130). -/
  stamps : List Clock := []
  /-- clk counted against PBOUND (R44). -/
  pcount : Nat := 0
  /-- Issue slots in which the context was ready and did not issue (R40). -/
  w : Nat := 0
  /-- The clk before which the next bundle may not issue (R142). -/
  notBefore : Nat := 0
  work : Work := {}
  /-- Held gravity HG (R269). -/
  hg : Nat := 0
  /-- Carried borrow CB (R376). -/
  cb : Nat := 0
  /-- The target of a taken transfer of the bundle being issued (R177). -/
  next : Option Nat := none
  /-- The bundle being issued acts as irrevocable: it holds such an operation or touches a strongly ordered page (R154, R243). -/
  irrev : Bool := false
  /-- The WAITT deadline kept while blocked (R273). -/
  deadline : Option Nat := none
  /-- TIMEBASE when the bundle, which holds a WAITT, was first presented (R273). -/
  shown : Option Nat := none
  /-- The deadline of the bundle that a service handler has interrupted. -/
  outer : Option Nat := none
  /-- The answer of a step performed at a remote home before issue (R129): sent, or the value and stamp returned. -/
  remote : Option (Option (Nat × Clock)) := none
  /-- An answer given for the bundle at an index that a fault or an eviction has put off: value and stamp (R129, R251). -/
  owed : Option (Nat × Nat × Clock) := none
  /-- A borrow under way: none 0, sent 1, refused 2 (R378). -/
  grav : Nat := 0
  /-- A flush probe of the blocked WAITQ has been sent (R386). -/
  probed : Bool := false
  /-- The bundle waits for an MXGO of the context through EWAIT, FENCE of kind engine or MFK (R223). -/
  onEng : Bool := false
  /-- An EWAIT holds later bundles: range, command and packet numbers below which commands count (R264). -/
  hold : Option (Nat × Nat × Nat × Nat) := none
  /-- A release or fence has sent its markers and only waits (R125). -/
  released : Bool := false
  /-- A service call whose result has not landed (R186), and one that a service handler of the context made (R370): their tokens. -/
  svc : Option Nat := none
  fwSvc : Option Nat := none
  /-- Runs speculatively; bits DOWN and held at ENDOP (R411, R413, R416). -/
  spec : Bool := false
  down : Bool := false
  /-- The speculative write buffer: stores by line, oldest first (R414, R415). -/
  wbuf : List GStore := []
  /-- Marks of the current bundle already acted on, as a bit set C 0, P 1, Y 2, R 3 (R135). -/
  marks : Nat := 0
  /-- A handler of the locked service store runs in this context (R368). -/
  inHandler : Bool := false
  /-- The tile resumed at a checkpoint: CKID (R159), and its replays from it (R363). -/
  resumed : Option Nat := none
  replays : Nat := 0
  /-- The next P mark acts as a Y mark (R369). -/
  pAsY : Bool := false
  /-- The clk of the context's last issue (R349). -/
  issuedAt : Nat := 0
deriving DecidableEq, Repr

/-- A tile register's descriptor and the device context that last wrote it; its bytes lie in State.tileMem (R208). -/
structure TileDesc where
  fmt : Nat
  rows : Nat
  owner : Nat
deriving DecidableEq, Repr

/-- A weight tile: its format, its image bytes, and the codebook table that decodes it (R220, R221). -/
structure WTile where
  fmt : Nat
  img : List Byte
  cb : AMap (BitVec 32)
deriving DecidableEq, Repr

/-- The shadow weights (R209, R221). -/
inductive Shadow where
  | empty
  | filling
  | full (w : WTile)
deriving DecidableEq, Repr

/-- A command in an engine queue of a core (R213, R249): its issuer, the operation with its operands as captured at issue, and
how far it has come. -/
structure EngCmd where
  seq : Nat
  q : Nat
  x : Nat
  ctxid : Nat
  work : Work
  epc : Nat
  op : Instr
  /-- Capability operands as read at issue, in the order of R214's table. -/
  caps : List SReg
  /-- Other captured numbers: nest shadows, scalars, register destinations. -/
  args : List Nat
  /-- Captured vector operand. -/
  vec : BitVec 512
  /-- The context's heap triple at issue (R91, R92). -/
  heap : List Nat
  spec : Bool
  started : Bool
  /-- First unfinished unit (R104). -/
  unit : Nat
  /-- Bytes read by finished units that later units use. -/
  buf : List Byte
  buf2 : List Byte
  /-- Blocked on a translation fault until FRES (R104). -/
  fault : Option (Nat × Bool)
  /-- The variable-latency result it delivers, if any. -/
  var : Option Nat
  /-- A swap has been performed for the coming row (R226). -/
  swapped : Bool
  /-- Moves of GFE records below this number were recorded before it (R131). -/
  pk : Nat := 0
deriving DecidableEq, Repr

/-- A context's work saved by an eviction, and when (R43, R48); a command of it that has ended since with a trap, which the context takes
before its next bundle: cause, address, handle and AUX (R216). -/
structure Saved where
  ctx : Ctx
  since : Nat
  /-- The context of the core that it left. -/
  x : Nat := 0
  ended : Option (EngCmd × List Nat) := none
deriving DecidableEq, Repr

/-- A TLB entry: a leaf for the page at va, tagged with its device context unless G = 1 (R99). -/
structure TlbEnt where
  ctxid : Nat
  va : Nat
  size : Nat
  pte : Nat
  /-- Where the entry was read: the physical address of the PTE (R101). -/
  addr : Nat
deriving DecidableEq, Repr

/-- A core. -/
structure Core where
  tiles : AMap TileDesc := []
  active : Option WTile := none
  shadow : Shadow := .empty
  cbook : AMap (BitVec 32) := []
  tr : AMap RbRow := []
  wr : AMap (BitVec 32) := []
  holdM : Option Nat := none
  holdR : Option Nat := none
  lastM : Option Nat := none
  lastR : Option Nat := none
  cmds : List EngCmd := []
  nextSeq : Nat := 0
  /-- The context that issued last, and issue slots while FW = 1, the latest first: the context, whether context 3 was ready, and whether it
  took the slot under its share. -/
  lastX : Nat := 0
  history : List (Nat × Bool × Bool) := []
  k : AMap Word := []
  svcreq : BitVec 64 := 0
  /-- The service bank: s0 to s15, p1 to p15 (R368). -/
  svcS : AMap SReg := []
  svcP : BitVec 16 := 0
  /-- The context in a handler, and the registers its entry set aside. -/
  handler : Option (Nat × Bank) := none
  /-- clk counted while a request is pending (R369); 2^40 once its deadline has trapped. -/
  dcount : Nat := 0
  /-- The first clk at which the core may issue again (R38, R40). -/
  slotAt : Nat := 0
  /-- The context that a switch has chosen and that issues next, and whether it takes the firmware share (R40, R41). -/
  turn : Option (Nat × Bool) := none
  saved : List Saved := []
  tlb : List TlbEnt := []
  halted : Bool := false
  gated : Bool := false
deriving DecidableEq, Repr

/-- A frame of the frame stack (R285). -/
inductive Frame where
  | loop (d : Nat) (n : Int) (body : Nat)
  | call (ret : Nat)
deriving DecidableEq, Repr

/-- What a GFE waits for besides its next record. -/
inductive GBlock where
  | none
  /-- A value presented to the exchange: register, value, and where the record goes on with which frames (R21). -/
  | exch (d : Nat) (v : Word) (pc : Nat) (frames : List Frame)
  /-- A call made by shard 0 alone whose result the other shards wait for (R345). -/
  | shard0
  /-- A service call by token (R345). -/
  | svc (token : Nat)
  /-- The result of a call, once the clocks of the set's dies dominate the clock that came with it (R345). -/
  | result (v : Nat) (c : Clock)
  /-- QUIET's root by physical address, or a probe under way (R337). -/
  | quiet (root : Nat)
  /-- OPREMOVE waits for the instances of the image at this index (R344). -/
  | removing (first : Nat)
  /-- A trap held until it is delivered and its policy applied. -/
  | trap
deriving DecidableEq, Repr

/-- A speculable handle of a GFE (R408, R409): the SPECIN's fields, the number of the first operator issued after it, the temporaries
that name H1 and H2, the history count and the region. -/
structure SpecHandle where
  hid : Nat
  kind : Nat
  depth : Nat
  mean : Bool
  alpha : Nat
  abs : Nat
  rel : Nat
  since : Nat
  h1 : Nat
  h2 : Nat
  count : Nat
  region : Nat
  /-- A producer has completed and the history has not taken its version yet (R409). -/
  due : Bool
  /-- SPECOFF has been issued (R421). -/
  off : Bool
deriving DecidableEq, Repr

/-- A stream's shard on a GFE (R18 to R25, R284, R285). -/
structure Gfe where
  busy : Bool := false
  ctxid : Nat := 0
  rcb : Nat := 0
  /-- The GFEs of the placement set by shard, as die * 4 + k (R19). -/
  set : List Nat := []
  shard : Nat := 0
  width : Nat := 1
  chips : Nat := 1
  rank : Nat := 0
  /-- Virtual address of the image, its code words, sharding table and attribute count (R276). -/
  img : Nat := 0
  codew : Nat := 0
  shoff : Nat := 0
  nshard : Nat := 0
  /-- Graph offset of the next record (R276). -/
  pc : Nat := 32
  frames : List Frame := []
  g : AMap Word := []
  block : GBlock := .none
  halted : Bool := false
  /-- The stream number of the launch, the same on every shard. -/
  stream : Nat := 0
  /-- Fuse run: group number of the last record and whether it runs fused (R32, R33). -/
  fuse : Nat := 0
  fused : Bool := false
  /-- The member of the run issued last. -/
  fuseLast : Option Nat := none
  specs : List SpecHandle := []
  /-- Since when the next record waits to issue (R48). -/
  since : Nat := 0
  /-- QUIETs, and SYSCALLs of every shard, that this shard has come past, by which the shards meet (R337, R345). -/
  joint : Nat := 0
  /-- The release of a SYSCALL has sent its markers (R125, R345). -/
  released : Bool := false
  /-- Collectives issued, by which their parts meet (R331). -/
  collSeq : Nat := 0
  /-- When the stream was launched, in order of launches (R350). -/
  launched : Nat := 0
deriving DecidableEq, Repr

/-- A handle of an operator instance: identifier, reads it, writes it, highest level allowed (R116, R340). -/
structure OpHandle where
  hid : Nat
  rd : Bool
  wr : Bool
  level : Nat
deriving DecidableEq, Repr

/-- Where an operator instance stands in speculation (R410 to R421). -/
inductive SpecPhase where
  | no
  /-- Runs on a predicted input. -/
  | running
  /-- Waits for the producers and the compares. -/
  | judging
deriving DecidableEq, Repr

/-- A tile that a stop or a trap left to run again (R159, R363): its linear number and indices; the checkpoint it restarts at, with the
index of its C-marked bundle; NC0 to NC5; HG and CB; how often it has run again; the saved ranges as handle, offset and bytes. -/
structure TileRun where
  lin : Nat
  ix : List Nat
  ckid : Option Nat := none
  pc : Nat := 0
  nc : List Nat := []
  hg : Nat := 0
  cb : Nat := 0
  replays : Nat := 0
  saved : List (Nat × Nat × List Byte) := []
deriving DecidableEq, Repr

/-- An operator instance (R22 to R33). -/
structure OpInst where
  id : Nat
  gfe : Nat
  stream : Nat
  ctxid : Nat
  rcb : Nat
  shard : Nat
  width : Nat
  chips : Nat
  rank : Nat
  /-- Graph offset of the record, its fuse group, and the record itself (R276, R277). -/
  opc : Nat
  fuse : Nat
  record : Instr
  /-- Scalar operand values as evaluated at issue (R286). -/
  vals : List Nat
  handles : List OpHandle
  /-- Earlier operators it waits for (R23). -/
  deps : List Nat
  /-- Loop nest: unfolded counts, counts by level and walk order (R26, R28). -/
  blocks : List Nat
  counts : List Nat
  order : Nat
  /-- The walker: linear number of the next tile, its code in the walk order, and the number of tiles (R27). -/
  nextTile : Nat := 0
  code : Nat := 0
  total : Nat
  done : Nat := 0
  /-- Wait to bind its next tile, since when, and steps gained by aging (R48). -/
  since : Nat := 0
  aged : Nat := 0
  /-- The installed operator's image; none for an architected operator. -/
  image : Option Nat := none
  /-- A lowered instance: the record's operand handle it converts and the opcode its trap reports (R312). -/
  low : Option (Nat × Nat) := none
  /-- Temporaries released when it completes (R312). -/
  temps : List Nat := []
  /-- Temporaries that stand for operands: handle, temporary, whether as an output (R312). -/
  subs : List (Nat × Nat × Bool) := []
  /-- Temporaries that keep the entries of handles redefined since it issued: handle, temporary (log 27). -/
  olds : List (Nat × Nat) := []
  /-- TAPPEND: the temporary that keeps the handle in its old region until the first tile has taken its contents (R306). -/
  grow : Option Nat := none
  /-- A tile's access faulted in translation and waits for FRES: address, linear number (R103, log 12). -/
  stall : Option (Nat × Nat) := none
  last : Bool := false
  /-- The fuse-group member whose tiles its own follow (R32), and the group's first member; 0 where it is its own. -/
  follows : Option Nat := none
  lead : Nat := 0
  /-- Number of the collective in its stream, and whether this part has given its contribution (R331). -/
  seq : Nat := 0
  given : Bool := false
  phase : SpecPhase := .no
  /-- The speculable handle it predicts, by the handle and its history region; the operator it speculates behind, predicting nothing; those whose
  shadows it reads beside its prediction (R410, R413). -/
  specHid : Nat := 0
  specReg : Nat := 0
  behind : Option Nat := none
  upon : List Nat := []
  /-- Prediction buffer and shadows, by the handle each stands for (R412). -/
  shadows : List (Nat × Nat) := []
  verdicts : List Bool := []
  /-- Tiles whose compare has been issued (R417). -/
  asked : List Nat := []
  /-- Tiles that a stop at a C mark left unfinished (R159), tiles to run again (R363), and the checkpoints that tiles in progress
  resumed at (R363). -/
  stopped : List TileRun := []
  again : List TileRun := []
  kept : List TileRun := []
  /-- Ended by a trap of its own (R300, R326, R331). -/
  failed : Bool := false
  /-- Bytes of a message placed before a fault stopped it (R334), elements that a TLOAD or TSTORE has moved (R300). -/
  placed : Nat := 0
deriving DecidableEq, Repr

/-- A block granted by a region allocator (R114): die, level, unit the level's memory belongs to, offset, size, owner and handle. -/
structure Block where
  id : Nat
  die : Nat
  level : Nat
  place : Nat
  off : Nat
  size : Nat
  ctxid : Nat
  rcb : Nat
  hid : Nat
  plane : Nat
  views : List Nat
  /-- The operator, or first member of a fuse group, whose tile's bind placed it (R115); 0 for a block placed otherwise. -/
  by_ : Nat := 0
deriving DecidableEq, Repr

/-- A block that a pre-empted region gave up (R45): its virtual address then, the views in it as handle, offset and length, and the
releases that wait on it as handle, device context, plane and operators below a number. -/
structure Displaced where
  block : Block
  va : Nat
  views : List (Nat × Nat × Nat)
  releases : List (Nat × Nat × Nat × Nat)
deriving DecidableEq, Repr

/-- An installed operator of a device context (R340, R341). -/
structure Installed where
  ctxid : Nat
  opcode : Nat
  first : Nat
  nb : Nat
  entry : Nat
  til : Nat
  cnts : List Nat
  foot : List Nat
  live : List (Nat × Nat × Nat × Nat)
  pbound : Nat
  idem : Bool
  removed : Bool
deriving DecidableEq, Repr

/-- A registered region: RCB address, its recorded physical location, whether a device context's root (R432, R434). -/
structure Region where
  rcb : Nat
  phys : Nat
  parent : Nat
  root : Bool
deriving DecidableEq, Repr

/-- A copy queue (R250, R435). -/
structure CopyQueue where
  id : Nat
  ctxid : Nat
  hdr : Nat
  /-- 16 * die + cluster, and the copy unit of the cluster. -/
  cluster : Nat
  unit : Nat
  plane : Nat
  rcb : Nat
  /-- Its header or a slot cannot be reached until FRES (R104). -/
  stall : Option Nat
deriving DecidableEq, Repr

/-- A copy packet taken by a copy unit (R254): its 64 bytes, slot, producer and progress. -/
structure Packet where
  id : Nat
  cq : Nat
  slot : Nat
  bytes : List Byte
  /-- Producer: context key + 1 and EPC, or 0. -/
  by_ : Nat
  epc : Nat
  work : Work
  started : Bool
  done : Nat
  status : Nat
  finished : Bool
  moved : Nat
  /-- Blocked on a translation fault until FRES: the address and the cause (R104, R358). -/
  fault : Option (Nat × Nat)
  /-- Number of the producer's command on its core (R131), and whether another chip published it (R377). -/
  seq : Nat := 0
  chip : Bool := false
  /-- The address of the block that a reducing copy is at work on (R256). -/
  block : Option Nat := none
  /-- It has passed its checks (R254); beats or elements finished of the row, block or tile in progress (R104). -/
  checked : Bool := false
  sub : Nat := 0
  /-- How often its region's policy has replayed it (R256, R363). -/
  runs : Nat := 0
deriving DecidableEq, Repr

/-- An MSI source's address and data (R426). -/
structure MsiCfg where
  addr : Nat
  data : Nat
deriving DecidableEq, Repr

/-- A device context (R8, R9, R431 to R433). -/
structure DevCtx where
  resident : Bool := false
  created : Bool := false
  suspending : Bool := false
  /-- A CTXRESUME under way: 1 while the root region waits for GFEs, 2 once it has them (R432). -/
  resuming : Nat := 0
  ptroot : Nat := 0
  htbase : Nat := 0
  htcount : Nat := 0
  htplanes : Nat := 1
  heap : List Nat := [0, 0, 0]
  /-- HBM pools by die: base and size (R433). -/
  pools : List (Nat × Nat) := []
  rootRcb : Nat := 0
  trapMsi : MsiCfg := ⟨0, 0⟩
  svcMsi : MsiCfg := ⟨0, 0⟩
  regions : List Region := []
  ringMsis : AMap MsiCfg := []
deriving DecidableEq, Repr

/-- The unit that a trap concerns, which its policy or FRES acts on (R358 to R363): a context; a core's engine command; a GFE; an operator or
a tile of it without a context; a packet; a copy queue; a hardware queue's card; an unmap. -/
inductive TrapUnit where
  | none
  | ctx (ck : Nat)
  | cmd (core seq : Nat)
  | gfe (k : Nat)
  | op (id : Nat)
  | packet (id : Nat)
  | copyQueue (id : Nat)
  | card (qi : Nat)
  | unmap (qi : Nat)
deriving DecidableEq, Repr

/-- A trap record on its way (R314, R365): its 64 bytes and whose trap it is. -/
structure TrapRec where
  bytes : List Byte
  ctxid : Nat
  rcb : Nat
  /-- Context key + 1, or 0. -/
  ck : Nat
  /-- GFE + 1, or 0. -/
  gk : Nat
  op : Nat
  cause : Nat
  /-- A translation fault resolvable by FRES (R358). -/
  res : Bool
  held : Bool
  spec : Bool
  unit : TrapUnit
  /-- No ring could take it when it was tried (R365). -/
  stuck : Bool := false
  /-- The region whose policy decides, where the record names that of the data (R3, R359). -/
  pol : Option Nat := none
  /-- What a FRES written before its delivery asked: nothing 0, retry 1, fail 2 (R358, R366). -/
  after : Nat := 0
deriving DecidableEq, Repr

/-- An element of a hardware queue: 16 bytes of data, or a job card with the plane of its appender (R268, R270, R452). -/
structure QElem where
  val : Nat
  plane : Nat
  /-- The clk at which it was appended (R48). -/
  since : Nat
deriving DecidableEq, Repr

/-- A hardware queue of a die (R352 to R355): `faulted` while its head card or its backing area waits for FRES (R37, R452). -/
structure HwQueue where
  qcfg : BitVec 64 := 0
  qrcb : BitVec 64 := 0
  qsave : BitVec 64 := 0
  qsig : BitVec 64 := 0
  elems : List QElem := []
  /-- Places reserved by SPAWN, and blocked DEQs by order of blocking. -/
  waiters : List Nat := []
  high : Bool := false
  checked : Bool := false
  faulted : Bool := false
  /-- The address at which it faulted (R358). -/
  faultAt : Nat := 0
  /-- STATE before an unmap (R358, R452). -/
  before : Nat := 0
  /-- A write has left the signal word nonzero while EN is 1: a wake is due (R353). -/
  due : Bool := false
deriving DecidableEq, Repr

/-- A combiner slot (R385). -/
structure Comb where
  root : Nat
  reserve : Nat
  acc : Nat
  used : Nat
deriving DecidableEq, Repr

/-- Steps that both read and write at a home (R129). -/
inductive Rmw where
  | atom (aop : Nat) (w8 : Bool) (b : Nat)
  | acas (w8 : Bool) (b c : Nat)
  | barinit (cnt : Nat)
  | bararr (n : Nat)
  /-- A BARWAIT's test, with its deadline; and a waiter's leave (R267). -/
  | bartest (t : Nat) (dl : Option Nat)
  | barleave (ck : Nat)
  | rawait (k : Nat)
  | rapeek (k : Nat)
  | rarel (n : Nat)
  | claim
deriving DecidableEq, Repr

/-- An access of a control-core hart, or of a remote chip, as domain 8, and a hart's FENCE (R127, R128, R424). Addresses are those of
inbound traffic. -/
inductive HostAccess where
  | store (hart addr : Nat) (bytes : List Nat)
  | load (hart addr n : Nat)
  | rmw (hart addr : Nat) (r : Rmw)
  | fence (hart : Nat)
deriving DecidableEq, Repr

/-- What a hart's FENCE waits for: the clocks that came with its loads since the last, and whether one is under way (R127, R130). -/
structure Hart where
  stamps : List Clock := []
  fencing : Bool := false
deriving DecidableEq, Repr

/-- Who acts next (log 1): a context issuing its next bundle, a GFE taking its next record, an event of the opcode table, an access of a control
core or a remote chip, or time passing by so many clk and TIMEBASE ticks. -/
inductive Actor where
  | ctx (core x : Nat)
  | gfe (g : Nat)
  | event (i : Instr)
  | host (a : HostAccess)
  | tick (clk ticks : Nat)
deriving DecidableEq, Repr

/-- What travels on a route (R124, R126). -/
inductive Traffic where
  | write (p : Piece) (bytes : List Byte) (ack : Nat)
  | marker
  | read (p : Piece) (ck id : Nat)
  | rmw (r : Rmw) (key : Nat) (ck id : Nat) (pre : Bool) (epc : Nat)
  | inbound (p : Piece) (bytes : List Byte) (port : Nat) (chip : Bool)
deriving DecidableEq, Repr

/-- A message with its stamp. -/
structure Msg where
  stamp : Clock
  t : Traffic
deriving DecidableEq, Repr

/-- A store not yet acknowledged (R121): issuing context and the number of its bind, home domain, performed at its home, of target
type 7. -/
structure Ack where
  id : Nat
  ck : Nat
  uid : Nat
  dom : Nat
  performed : Bool
  chip : Bool
  /-- Pages of the TLB entries it went through (R106), and whether a page of it is strongly ordered (R98). -/
  pages : List (Nat × Nat × Bool) := []
  so : Bool := false
  /-- Bytes of the own die's memory as they were before it: an engine of the context may still read them (R218). -/
  old : List (Nat × Byte) := []
deriving DecidableEq, Repr

/-- A message of the gravity machinery on its way (R375, R378, R385, R386). A root is named by the physical address of its RCB; a
waiter is a context's key + 1 or 10,000 + GFE; a borrow names the bind of the work that asks. -/
inductive GravMsg where
  | flush (root amount : Nat)
  | probe (root die waiter : Nat)
  | close (root die : Nat)
  | borrow (root die uid : Nat)
deriving DecidableEq, Repr

/-- Gravity of a stopped context that has accesses or commands under way (R383): the context as it stood, and its core. -/
structure Returning where
  core : Nat
  ctx : Ctx
deriving DecidableEq, Repr

/-- A waiting launch (R436). -/
structure LaunchRec where
  addr : Nat
  ctxid : Nat
  rcb : Nat
  img : Nat
  width : Nat
  chips : Nat
  rank : Nat
  regs : List Nat
  since : Nat
deriving DecidableEq, Repr

/-- A service call waiting for its result (R428, R429). -/
structure SvcCall where
  token : Nat
  num : Nat
  ctxid : Nat
  rcb : Nat
  /-- Context key + 1, or 0; GFE + 1, or 0. -/
  ck : Nat
  gk : Nat
deriving DecidableEq, Repr

/-- A message between parts: a SEND or RECV waiting for its match, or a peer's contribution (R331, R332). -/
structure PartMsg where
  stream : Nat
  opc : Nat
  seq : Nat
  part : Nat
  peer : Nat
  tag : Nat
  bytes : List Byte
deriving DecidableEq, Repr

/-- What leaves the package and what the outside is told, in order. -/
inductive Output where
  | msi (addr data : Nat)
  | pcieWrite (ta : Nat) (bytes : List Byte)
  | pcieRead (ta n : Nat)
  | chipWrite (ta : Nat) (bytes : List Byte)
  | chipRead (ta n : Nat)
  | chipRmw (ta : Nat) (r : Rmw)
  | inboundData (port addr : Nat) (bytes : List Byte)
  | inboundFault (port addr cause : Nat)
  | hostData (hart addr : Nat) (bytes : List Byte)
  | spdm (req : Nat) (bytes : List Byte)
  | heartbeat (epoch : Nat)
  | claim (epoch chip : Nat)
  | wired (source arg : Nat)
  | portEvent (port : Nat)
  | partMessage (stream peer tag : Nat) (bytes : List Byte)
deriving DecidableEq, Repr

/-- Root-of-trust, election and start state (R443 to R447). -/
structure Root where
  /-- The 16 measurement registers. -/
  meas : AMap (List Byte) := []
  spdmVersion : Bool := false
  spdmCaps : Bool := false
  spdmAlgs : Bool := false
  transcript : List Nat := []
  epoch : Nat := 0
  claims : List (Nat × Nat) := []
  windowAt : Option Nat := none
  leader : Option Nat := none
  lastBeat : Nat := 0
  /-- Failed warm starts in a row. -/
  failures : Nat := 0
  /-- A warm start is under way that has not reached the control-core firmware. -/
  warming : Bool := false
  /-- Images of this start have begun to load, and no election has settled yet (R447). -/
  loading : Bool := false
  /-- The control-core firmware runs. -/
  up : Bool := false
  /-- Dies whose start steps have saved results. -/
  kept : List Nat := []
deriving DecidableEq, Repr

/-- Who acts: the core and context, or the GFE, of the step; and the domain whose units access memory in it, 8 for the I/O die. -/
structure Act where
  core : Nat := 0
  x : Nat := 0
  gfe : Nat := 0
  die : Nat := 8
deriving DecidableEq, Repr

/-- The state of the package. -/
structure State where
  schedule : List Actor := []
  act : Act := {}
  /-- The counter that free values read and advance (log 5). -/
  fresh : Nat := 0
  /-- Elapsed clk (log 10), and TIMEBASE (R427, log 9). -/
  clk : Nat := 0
  time : Nat := 0
  powered : Bool := true
  mem : Memory := []
  /-- The bytes of the tile registers: core * 65,536 + t * 4,096 + offset (R208). -/
  tileMem : Memory := []
  /-- Sequencer contexts by 4 * core + x (R38). -/
  ctxs : AMap Ctx := []
  cores : AMap Core := []
  /-- Cluster TLBs by 16 * die + cluster (R99). -/
  ctlb : AMap (List TlbEnt) := []
  /-- Installed bundles of the microcode store, the same in every core (R153). -/
  store : AMap (BitVec 256) := []
  gfes : AMap Gfe := []
  ops : List OpInst := []
  nextOp : Nat := 1
  nextUid : Nat := 1
  nextStream : Nat := 0
  devs : AMap DevCtx := []
  installed : List Installed := []
  blocks : List Block := []
  nextBlock : Nat := 0
  /-- Entries of temporaries, which no Handle Table holds, by numbers from 65,536 (R312). -/
  temps : AMap (List Byte) := []
  nextTemp : Nat := 65536
  /-- Global extents that TDEF gave a handle (R298, R300, R309), and the handles whose last use has been issued or whose source was
  released, by (8 * device context + plane) * 2^32 + handle (R117, R295). -/
  extents : AMap (List Nat) := []
  /-- Preferred levels of TPLACE, by the same key (R299). -/
  prefer : AMap Nat := []
  gone : List Nat := []
  /-- Blocks whose release waits for earlier operators: block, handle, device context, plane, operators below this number (R117). -/
  releases : List (Nat × Nat × Nat × Nat × Nat) := []
  /-- Last owning device context + 1 of a 4 KiB granule, by window offset / 4,096 (R109). -/
  granules : AMap Nat := []
  /-- SDCTL, SDVA, GRADDR of each die; PSDCTL, PSDVA (R105, R107, R390). -/
  sdctl : AMap Word := []
  sdva : AMap Word := []
  graddr : AMap Word := []
  psdctl : Word := 0
  psdva : Word := 0
  /-- First address of the command that an engine works on, as SDVA gave it at its start, by die; 8 for the package's (R105). -/
  sdfirst : AMap Nat := []
  /-- Hardware queues by 256 * die + q (R352). -/
  queues : AMap HwQueue := []
  combs : AMap (List Comb) := []
  grav : List GravMsg := []
  /-- Waiters counted in a barrier object's WAITERS, by its key and context key (R267). -/
  barWaits : List (Nat × Nat) := []
  /-- Dies that have still to answer a close notice, by root (R375). -/
  closing : AMap Nat := []
  /-- Waiters that a change of a root's counters found it quiet for: root, waiter (R386). -/
  wakes : List (Nat × Nat) := []
  /-- Gravity of stopped contexts that returns once their accesses have been performed (R383, R393). -/
  returning : List Returning := []
  /-- Applied clocks of the nine domains (R124), routes by 9 * src + dst. -/
  ac : AMap Clock := []
  routes : AMap (List Msg) := []
  acks : List Ack := []
  nextAck : Nat := 0
  traps : List TrapRec := []
  packets : List Packet := []
  nextPacket : Nat := 0
  copyQueues : List CopyQueue := []
  /-- 64-byte lines of memory that another chip has written and no copy unit has taken a packet from since (R377). -/
  chipLines : List Nat := []
  nextCq : Nat := 0
  pkgRing : Option (Nat × Nat) := none
  launches : List LaunchRec := []
  svcCalls : List SvcCall := []
  parts : List PartMsg := []
  /-- Registers of the I/O die by MMIO offset (R425). -/
  io : AMap Word := []
  /-- Islands: busy, and the level being reached (R448). -/
  islands : AMap (Bool × Nat) := []
  /-- Service requests of the locked store's firmware to the I/O die (R370). -/
  fwRing : List (List Byte) := []
  /-- Dies in service, started dies, reduced service (R446). -/
  dies : List Nat := []
  reduced : Bool := false
  root : Root := {}
  out : List Output := []
  /-- Posted writes outstanding per port (R127), and the harts of the control cores. -/
  posted : AMap Nat := []
  harts : AMap Hart := []
  /-- Writes of LAUNCH, by value, and map commands, by queue, that wait for memory behind a route: the latter with true (log 20). -/
  waiting : List (Bool × Nat) := []
  /-- Reads of the outside so far, which number its answers (log 15). -/
  outside : Nat := 0
  /-- Regions asked to pre-empt: device context and RCB (R350). -/
  preempts : List (Nat × Nat) := []
  /-- Streams of pre-empted regions: device context, RCB, and the saved GFE of each shard (R46, R316). -/
  parked : List (Nat × Nat × List Gfe) := []
  /-- Blocks that stopped operators gave up and that no resumption has placed again (R45, R46). -/
  displaced : List Displaced := []
deriving DecidableEq, Repr

/-- The package right after power-on: every field at its default, islands and registers of the I/O die as their accessors give
(log 4, 14, 19). -/
def State.reset : State := {}

end Sys2Proof.Machine
end

