-- ==== Sys2Proof/Machine/Regs.lean ====
section
/-! DEFINITION. Named access to the state: contexts, cores, registers with their special behaviour (R145, R146, R150), results in
flight (R143), hold latches (R140), and the fields of RCBs (R10 to R13). -/

namespace Sys2Proof.Machine

/-! ### Contexts and cores -/

/-- The key of the acting context. -/
def Act.ck (a : Act) : Nat := 4 * a.core + a.x

/-- A sequencer context by its key 4 * core + x. -/
def State.ctxAt (s : State) (ck : Nat) : Ctx := AMap.get {} s.ctxs ck

/-- The acting context. -/
def State.ctx (s : State) : Ctx := s.ctxAt s.act.ck

def State.setCtxAt (s : State) (ck : Nat) (c : Ctx) : State := { s with ctxs := AMap.ins ck c s.ctxs }

def State.onCtxAt (s : State) (ck : Nat) (f : Ctx → Ctx) : State := s.setCtxAt ck (f (s.ctxAt ck))

/-- Change the acting context alone. -/
def State.onCtx (s : State) (f : Ctx → Ctx) : State := s.onCtxAt s.act.ck f

/-- A core by its number 128 * die + n. -/
def State.coreAt (s : State) (n : Nat) : Core := AMap.get {} s.cores n

def State.core (s : State) : Core := s.coreAt s.act.core

def State.onCoreAt (s : State) (n : Nat) (f : Core → Core) : State := { s with cores := AMap.ins n (f (s.coreAt n)) s.cores }

def State.onCore (s : State) (f : Core → Core) : State := s.onCoreAt s.act.core f

/-- A GFE by its number 4 * die + k. -/
def State.gfeAt (s : State) (n : Nat) : Gfe := AMap.get {} s.gfes n

def State.onGfeAt (s : State) (n : Nat) (f : Gfe → Gfe) : State := { s with gfes := AMap.ins n (f (s.gfeAt n)) s.gfes }

/-- The acting GFE. -/
def State.gfe (s : State) : Gfe := s.gfeAt s.act.gfe

def State.onGfe (s : State) (f : Gfe → Gfe) : State := s.onGfeAt s.act.gfe f

/-- The die of a core. -/
def dieOfCore (core : Nat) : Nat := core / 128

/-- A device context. -/
def State.dev (s : State) (c : Nat) : DevCtx := AMap.get {} s.devs c

def State.onDev (s : State) (c : Nat) (f : DevCtx → DevCtx) : State := { s with devs := AMap.ins c (f (s.dev c)) s.devs }

/-- An operator instance by its identifier. -/
def findOp : List OpInst → Nat → Option OpInst
  | [], _ => none
  | o :: os, i => if o.id = i then some o else findOp os i

/-- Change one operator instance. -/
def onOp (i : Nat) (f : OpInst → OpInst) : List OpInst → List OpInst
  | [] => []
  | o :: os => if o.id = i then f o :: os else o :: onOp i f os

def State.op? (s : State) (i : Nat) : Option OpInst := findOp s.ops i

/-- The entry that stands for an operand of an operator: a lowered temporary, or what the handle's entry was when the operator issued, if a
record has redefined it since (R312, log 27). -/
def OpInst.under (o : OpInst) (out : Bool) (hid : Nat) : Nat :=
  match o.subs.find? fun p => p.1 == hid && p.2.2 == out with
  | some p => p.2.1
  | none => ((o.olds.find? fun p => p.1 == hid).map Prod.snd).getD hid

def State.onOp (s : State) (i : Nat) (f : OpInst → OpInst) : State := { s with ops := Machine.onOp i f s.ops }

/-- A hardware queue by 256 * die + q. -/
def State.queue (s : State) (i : Nat) : HwQueue := AMap.get {} s.queues i

def State.onQueue (s : State) (i : Nat) (f : HwQueue → HwQueue) : State := { s with queues := AMap.ins i (f (s.queue i)) s.queues }

/-- Say something to the outside. -/
def State.say (s : State) (o : Output) : State := { s with out := s.out ++ [o] }

/-! ### Registers (R145) -/

/-- The k-register of a context; PBOUND, LC and the others of R147 that the context holds. -/
def Bank.kreg (b : Bank) (i : Nat) : Nat := (AMap.get (0 : Word) b.k i).toNat

/-- An s register with its tag. -/
def Bank.sreg (b : Bank) (n : Nat) : SReg := AMap.get ⟨0, false⟩ b.s n

/-- Bits [63:0] of an s register, the tag not checked (R145, R166). -/
def Bank.int (b : Bank) (n : Nat) : Nat := (b.sreg n).bits.toNat % 2 ^ 64

/-- A predicate; p0 reads true. -/
def Bank.pred (b : Bank) (n : Nat) : Bool := n == 0 || b.p.getLsbD n

/-- A lane predicate as a number; q0 reads all ones. -/
def Bank.lanes (b : Bank) (n : Nat) : Nat := if n = 0 then 0xFFFF else (AMap.get (0 : BitVec 16) b.q n).toNat

/-- The physical register that vn names (R150). -/
def Bank.phys (b : Bank) (n : Nat) : Nat :=
  if 512 ≤ n && decide (n < 512 + b.kreg 0x23) then 512 + (n - 512 + b.kreg 0x22) % b.kreg 0x23 else n

/-- A physical v register. -/
def Bank.vphys (b : Bank) (n : Nat) : BitVec 512 := AMap.get 0 b.v n

/-- The value of vn. -/
def Bank.vreg (b : Bank) (n : Nat) : BitVec 512 := b.vphys (b.phys n)

/-- The 512-bit mask of the lanes whose bits are set. -/
def laneMask (m : Nat) : Nat :=
  iter (fun l acc => if bitOf m l then acc + (2 ^ 32 - 1) * 2 ^ (32 * l) else acc) 16 0

/-- Masked lanes of one value over another (R137). -/
def mergeLanes (mask : Nat) (old new : BitVec 512) : BitVec 512 :=
  let m := BitVec.ofNat 512 (laneMask mask)
  (new &&& m) ||| (old &&& ~~~m)

/-- One register write; writes to p0 and q0 are discarded (R145). -/
def Bank.write (b : Bank) : RegW → Bank
  | .s n r => { b with s := AMap.ins n r b.s }
  | .v n m x => { b with v := AMap.ins n (mergeLanes m (b.vphys n) x) b.v }
  | .p n t => if n = 0 then b else { b with p := if t then b.p ||| BitVec.ofNat 16 (2 ^ n) else b.p &&& ~~~(BitVec.ofNat 16 (2 ^ n)) }
  | .q n m x =>
    if n = 0 then b
    else
      let mm := BitVec.ofNat 16 m
      { b with q := AMap.ins n ((BitVec.ofNat 16 x &&& mm) ||| (AMap.get 0 b.q n &&& ~~~mm)) b.q }
  | .k i x => { b with k := AMap.ins i x b.k }

/-- Register writes in order. -/
def Bank.writes (b : Bank) (ws : List RegW) : Bank := ws.foldl Bank.write b

/-- WriteInt of R166. -/
def intW (d v : Nat) : RegW := .s d ⟨BitVec.ofNat 128 (v % 2 ^ 64), false⟩

/-- WriteInt of an integer. -/
def intWI (d : Nat) (v : Int) : RegW := intW d (trunc 64 v)

/-- The predicate pair: t to pd and not t to pc (R166). -/
def pairW (pd pc : Nat) (t : Bool) : List RegW := [.p pd t, .p pc (!t)]

/-! ### Results in flight (R143) -/

/-- Keep fixed-latency results in the order in which they land: by due position, the later issued last. -/
def insFix (f : FixW) : List FixW → List FixW
  | [] => [f]
  | g :: r => if f.due < g.due then f :: g :: r else g :: insFix f r

/-- Results of latency n written by the bundle at the present position. -/
def Ctx.later (c : Ctx) (n : Nat) (ws : List RegW) : Ctx :=
  { c with fix := ws.foldl (fun l w => insFix ⟨c.pos + n, w⟩ l) c.fix }

/-- Land the results due at or before a position. -/
def landFix (pos : Nat) : List FixW → Bank → List FixW × Bank
  | [], b => ([], b)
  | f :: r, b => if f.due ≤ pos then landFix pos r (b.write f.w) else (f :: r, b)

/-- The context as its bundle at the present position reads it. -/
def Ctx.landed (c : Ctx) : Ctx := { c with fix := (landFix c.pos c.fix c.bank).1, bank := (landFix c.pos c.fix c.bank).2 }

/-- Every fixed-latency result at its final value (R155, R144). -/
def Ctx.settled (c : Ctx) : Ctx := { c with fix := [], bank := c.bank.writes (c.fix.map FixW.w) }

/-- The k-registers a rollback leaves unchanged: CAUSE to FADDR and TILEIX0 to TILEIX5 (R157). -/
def trapRegs : List Nat := [0, 1, 2, 3, 4, 8, 9, 10, 11, 12, 13]

/-- A bank restored from a snapshot, the trap registers kept. -/
def restoreBank (snap now : Bank) : Bank :=
  { snap with k := trapRegs.foldl (fun m i => AMap.ins i (AMap.get 0 now.k i) m) snap.k }

/-- Begin a restart region: the snapshot holds the bank with results in flight at their final values, and variable results still
in flight count as older than the region (R155, R157). -/
def Ctx.newRegion (c : Ctx) : Ctx :=
  { c with snap := c.settled.bank, var := c.var.map fun v => { v with old := true } }

/-- Drop the latches' values and keep their register numbers (R141). -/
def Ctx.dropLatches (c : Ctx) : Ctx :=
  { c with latchA := { c.latchA with val := none }, latchB := { c.latchB with val := none }, latchM := { c.latchM with val := none } }

/-- The register write of a landed variable-latency result (R241, R244, R245). -/
def dstWrites (d : Dst) (bs : List Byte) : List RegW :=
  match d with
  | .none => []
  | .int d n sx =>
    let v := leNat (bs.take n)
    [if sx then intWI d (sext v (8 * n)) else intW d v]
  | .wide d => [.s d ⟨BitVec.ofNat 128 (leNat (bs.take 16)), false⟩]
  | .vec n m => [.v n m (BitVec.ofNat 512 (leNat (bs.take 64)))]
  | .bfx n m pat =>
    let b := leNat bs
    [.v n m (BitVec.ofNat 512 (leNat ((upTo 64).map fun e => BitVec.ofNat 8 (bfxElem pat b e))))]

/-- The register a result goes to: kind (0 s, 1 v) and number. -/
def dstReg : Dst → Option (Nat × Nat)
  | .none => none
  | .int d _ _ => some (0, d)
  | .wide d => some (0, d)
  | .vec n _ => some (1, n)
  | .bfx n _ _ => some (1, n)

/-- Put a variable-latency result in flight with the bytes already known. -/
def Ctx.inFlight (c : Ctx) (d : Dst) (bs : List Byte) (waiting : Nat) (acq dom : Bool) : Ctx :=
  { c with var := c.var ++ [{ id := c.nextVar, dst := d, bytes := bs, waiting := waiting, stamps := [], acq := acq, dom := dom, old := false }], nextVar := c.nextVar + 1 }

/-- Land the result with index k: into the bank, and into the snapshot when the region began after it was issued (R157). -/
def Ctx.landVar (c : Ctx) (k : Nat) : Ctx :=
  match c.var.drop k with
  | [] => c
  | v :: _ =>
    let ws := dstWrites v.dst v.bytes
    { c with bank := c.bank.writes ws, snap := if v.old then c.snap.writes ws else c.snap, var := dropNth c.var k,
             stamps := c.stamps ++ v.stamps }

/-! ### Hold latches (R140, R141) -/

/-- The value of V-slot position a, and the latch after it is read. -/
def holdRead (b : Bank) (l : Latch) (h : Bool) (n : Nat) : BitVec 512 × Latch :=
  if h then
    match l.val with
    | some x => (x, l)
    | none => (b.vphys l.reg, ⟨some (b.vphys l.reg), l.reg⟩)
  else (b.vreg n, ⟨some (b.vreg n), b.phys n⟩)

/-! ### Tile registers (R146, R208) -/

/-- The core's tile register that tn names through the window, or none past TCNTM1. -/
def Bank.tile (b : Bank) (n : Nat) : Option Nat :=
  if n ≤ bitsOf (b.kreg 0x42) 4 4 then some ((bitsOf (b.kreg 0x42) 0 4 + n) % 16) else none

/-- Where the bytes of core tile register t lie in State.tileMem. -/
def tileKey (core t : Nat) : Nat := core * 65536 + t * 4096

def Core.tile (c : Core) (t : Nat) : TileDesc := AMap.get ⟨0, 64, 64⟩ c.tiles t

def Core.trRow (c : Core) (j : Nat) : RbRow := AMap.get ⟨0, false, 0, List.replicate 32 0⟩ c.tr j

/-- A word register; cleared it is the identity (R209). -/
def Core.word (c : Core) (j : Nat) : Nat := (AMap.get (0x80000000 : BitVec 32) c.wr j).toNat

def Core.kreg (c : Core) (i : Nat) : Nat := (AMap.get (0 : Word) c.k i).toNat

/-- A command that a context's bound work issued, wherever the work has gone since (R43). -/
def EngCmd.mine (e : EngCmd) (c : Ctx) : Bool := e.work.uid == c.work.uid

/-- Engine commands in queue q (R213). -/
def Core.inQueue (c : Core) (q : Nat) : Nat := (c.cmds.filter fun e => e.q == q).length

/-- Queue depths: matrix 0, weight 1, rotator 2, permute 3, compare 4, move 5 (R213, R249). -/
def queueDepth (q : Nat) : Nat := if q = 0 then 16 else 8

/-! ### Regions (R10 to R13) -/

/-- The registered region of a device context at an RCB address. -/
def findRegion : List Region → Nat → Option Region
  | [], _ => none
  | r :: rs, a => if r.rcb = a then some r else findRegion rs a

/-- A number in an RCB, at its recorded physical location (R373); 0 for a region that is not registered. -/
def State.rcbField (s : State) (ctxid rcb off n : Nat) : Nat :=
  match findRegion (s.dev ctxid).regions rcb with
  | some r => s.mem.readNat (r.phys + off) n
  | none => 0

/-- Write a number in an RCB. -/
def State.setRcb (s : State) (ctxid rcb off n v : Nat) : State :=
  match findRegion (s.dev ctxid).regions rcb with
  | some r => { s with mem := s.mem.writeNat (r.phys + off) n v }
  | none => s

/-- The regions from one up to its root, nearest first (R10 PARENT). The parent is the one recorded when the region was registered, whatever PARENT
is made to hold later (log 24). -/
def regionPath (rs : List Region) (rcb : Nat) : Nat → List Region
  | 0 => []
  | k + 1 =>
    match findRegion rs rcb with
    | none => []
    | some r => if r.root || r.parent = 0 then [r] else r :: regionPath rs r.parent k

/-- The path of a region within its device context. -/
def State.path (s : State) (ctxid rcb : Nat) : List Region :=
  regionPath (s.dev ctxid).regions rcb ((s.dev ctxid).regions.length + 1)

/-- Whether a region's own OVR bit is set; a root behaves as if all were (R11). -/
def State.ovr (s : State) (r : Region) (bit : Nat) : Bool := r.root || r.parent == 0 || bitOf (s.mem.readNat (r.phys + 8) 4) bit

/-- The nearest region of a path that gives a field (R12). -/
def State.holder (s : State) (bit : Nat) : List Region → Option Region
  | [] => none
  | r :: rs => if s.ovr r bit then some r else s.holder bit rs

/-- The effective value of an inheritable field (R12). -/
def State.effective (s : State) (ctxid rcb bit off n : Nat) : Nat :=
  match s.holder bit (s.path ctxid rcb) with
  | some r => s.mem.readNat (r.phys + off) n
  | none => 0

/-- Effective PRIO (R12). -/
def State.prio (s : State) (ctxid rcb : Nat) : Nat := s.effective ctxid rcb 5 0x0E 1 % 16

/-- Effective fault policy; 3 is stop (R10). -/
def State.policy (s : State) (ctxid rcb : Nat) : Nat := let p := s.effective ctxid rcb 7 0x0F 1 % 4; if p = 3 then 0 else p

/-- STATE of a region. -/
def State.rstate (s : State) (ctxid rcb : Nat) : Nat := bitsOf (s.rcbField ctxid rcb 0x0F 1) 4 3

/-- Write STATE. -/
def State.setRstate (s : State) (ctxid rcb v : Nat) : State :=
  let o := s.rcbField ctxid rcb 0x0F 1
  s.setRcb ctxid rcb 0x0F 1 (o - bitsOf o 4 3 * 16 + v * 16)

/-- A budget that is unlimited (R17). -/
def unlimited : Nat := 0x7FFFFFFFFFFFFFFF

/-- Charge (or, negative, credit) a budget on every region of the path that holds it and is limited (R13, R14, R17). -/
def State.charge (s : State) (ctxid rcb bit off : Nat) (amount : Int) : State :=
  (s.path ctxid rcb).foldl (fun s r =>
    if s.ovr r bit then
      let v := s.mem.readNat (r.phys + off) 8
      if v = unlimited then s else { s with mem := s.mem.writeNat (r.phys + off) 8 (trunc 64 (sext v 64 - amount)) }
    else s) s

/-- Whether a charge keeps every limited budget on the path at 0 or above (R15). -/
def State.fits (s : State) (ctxid rcb bit off amount : Nat) : Bool :=
  (s.path ctxid rcb).all fun r =>
    !(s.ovr r bit) || (let v := s.mem.readNat (r.phys + off) 8; v == unlimited || decide ((amount : Int) ≤ sext v 64))

/-- Some ISSUEBUD on the path is 0 or less (R15). -/
def State.issueSpent (s : State) (ctxid rcb : Nat) : Bool :=
  (s.path ctxid rcb).any fun r =>
    s.ovr r 0 && (let v := s.mem.readNat (r.phys + 0x18) 8; v != unlimited && decide (sext v 64 ≤ 0))

/-- The bundle at an index of the microcode store, if one is installed (R153). -/
def State.bundle? (s : State) (i : Nat) : Option Bundle := (AMap.find? s.store i).map fun b => decodeBundle b.toNat

/-- Work bound to a context. -/
def Ctx.bound (c : Ctx) : Bool :=
  match c.work.job with
  | .none => false
  | _ => true

end Sys2Proof.Machine
end

