-- ==== Sys2Proof/Machine/Translate.lean ====
section
/-! DEFINITION. Addresses: the on-chip window and its ownership map (R87, R89, R109, R110), the heap triple (R91), the page
tables, TLBs and discarded pages (R93 to R102), and the split of an access into pieces. -/

namespace Sys2Proof.Machine

/-! ### Physical places -/

/-- Memory keys: HBM byte a is key a, below 2^39; scratch at canonical window offset o is key 2^55 + o. -/
def scratchBase : Nat := 2 ^ 55

/-- The first virtual address of the on-chip window. -/
def windowVa : Nat := 2 ^ 55

/-- The linear offset of a swizzled-view offset of unit scratch (R110). -/
def unswizzle (o : Nat) : Nat :=
  o - bitsOf o 6 5 * 64 + Nat.xor (bitsOf o 6 5) (bitsOf o 11 5) * 64

/-- Where a window offset lies (R87): its level 1 die, 2 cluster, 3 unit, 4 accumulator store; its canonical offset, in the linear
view for unit scratch; whether the address was in the swizzled view. -/
structure WinPlace where
  level : Nat
  off : Nat
  swz : Bool
deriving DecidableEq, Repr

/-- Decode a window offset below 2^43; none for a reserved offset (R87). -/
def windowPlace (o : Nat) : Option WinPlace :=
  let slot := o % 2 ^ 40
  let base := o - slot
  if slot < 2 ^ 27 then some ⟨1, o, false⟩
  else if 2 ^ 32 ≤ slot && decide (slot < 2 ^ 32 + 2 ^ 28) then some ⟨2, o, false⟩
  else if 2 ^ 33 ≤ slot && decide (slot < 2 ^ 33 + 128 * 2 ^ 22) then
    let r := slot % 2 ^ 22
    if r < 2 ^ 21 then some ⟨3, o, false⟩
    else some ⟨3, base + (slot - r) + unswizzle (r - 2 ^ 21), true⟩
  else if 3 * 2 ^ 32 ≤ slot && decide (slot < 3 * 2 ^ 32 + 128 * 2 ^ 22) then
    if slot % 2 ^ 22 < 3 * 2 ^ 20 then some ⟨4, o, false⟩ else none
  else none

/-- The canonical window offset of the first byte of a level's memory: die scratch, a cluster's, or a core's. -/
def levelBase (die level place : Nat) : Nat :=
  die * 2 ^ 40 + (if level = 1 then 0 else if level = 2 then 2 ^ 32 + place * 2 ^ 24
    else if level = 3 then 2 ^ 33 + place * 2 ^ 22 else 3 * 2 ^ 32 + place * 2 ^ 22)

/-- The canonical window offset of a granted scratch block. -/
def Block.base (b : Block) : Nat := levelBase b.die b.level b.place + b.off

/-- A granule's owner: the byte lies inside a scratch block granted to a region of the device context (R89). -/
def State.owns (s : State) (ctxid off : Nat) : Bool :=
  s.blocks.any fun b => b.level != 0 && b.ctxid == ctxid && decide (b.base ≤ off / 4096 * 4096)
    && decide (off / 4096 * 4096 < b.base + b.size)

/-- The home domain of a memory key: a die (R95). -/
def homeDie (key : Nat) : Nat := if key < scratchBase then key / 2 ^ 36 % 8 else (key - scratchBase) / 2 ^ 40

/-- The domain a location is served by: its die, or 8 for what lies behind the I/O die (R95, R124). -/
def Loc.domain : Loc → Nat
  | .mem key => homeDie key
  | .zero => 9
  | _ => 8

/-! ### Page tables (R93 to R98) -/

/-- An access of the kinds that permissions tell apart (R98). -/
inductive Acc where
  | read
  | write
  | atomic
deriving DecidableEq, Repr

/-- The cause of a page fault (R96). -/
def Acc.cause : Acc → Nat
  | .read => 6
  | _ => 7

def Acc.writes : Acc → Bool
  | .read => false
  | _ => true

/-- Who translates: a device context, its heap bounds and offset, whether the code is in the locked service store, the core
whose TLBs serve it (none for a unit that walks), and the domain that reads page tables and memory for it (8 the I/O die). -/
structure TEnv where
  ctxid : Nat
  hbase : Nat
  hlimit : Nat
  hoff : Nat
  fw : Bool
  core : Option Nat
  die : Nat
deriving DecidableEq, Repr

/-- Page size by PS (R94). -/
def pageSize (ps : Nat) : Nat := if ps = 0 then 2 ^ 12 else if ps = 1 then 2 ^ 16 else if ps = 2 then 2 ^ 21 else 2 ^ 30

def pteV (p : Nat) : Bool := bitOf p 0
def pteR (p : Nat) : Bool := bitOf p 1
def pteW (p : Nat) : Bool := bitOf p 2
def pteX (p : Nat) : Bool := bitOf p 3
def pteU (p : Nat) : Bool := bitOf p 4
def pteG (p : Nat) : Bool := bitOf p 5
def pteA (p : Nat) : Bool := bitOf p 6
def pteD (p : Nat) : Bool := bitOf p 7
def pteTT (p : Nat) : Nat := bitsOf p 8 3
def pteDisc (p : Nat) : Bool := bitOf p 11
def pteFrame (p : Nat) : Nat := bitsOf p 12 40
def ptePS (p : Nat) : Nat := bitsOf p 52 4
def pteSO (p : Nat) : Bool := bitOf p 56 || pteTT p == 5

/-- The target address of a virtual address in a leaf's page (R95, R97). -/
def leafTA (p va : Nat) : Nat := pteFrame p * 4096 / pageSize (ptePS p) * pageSize (ptePS p) + va % pageSize (ptePS p)

/-- A target address within its type's range (R95, R96). -/
def taOk (tt ta : Nat) : Bool :=
  if tt = 0 then decide (ta < 2 ^ 39)
  else if tt ≤ 4 then
    decide (ta < 2 ^ 43) && (match windowPlace ta with
      | some w => w.level == tt
      | none => false)
  else true

/-- Whether a leaf at a level is well formed for an access at va (R96); FRAME and TT of a discarded page are ignored (R102). -/
def leafOk (p level va : Nat) : Bool :=
  let ps := ptePS p
  (if level = 0 then decide (ps ≤ 1) else if level = 1 then ps == 2 else if level = 2 then ps == 3 else false)
    && (pteDisc p || ((ps == 1 || pteFrame p * 4096 % pageSize ps == 0) && taOk (pteTT p) (leafTA p va)))

/-- What a walk ends in: a page fault, a leaf with its address in HBM, or the wait for a table's home. -/
inductive Walk where
  | fault
  | leaf (pte addr : Nat)
  | wait
deriving DecidableEq, Repr

/-- The index field of a level (R93). -/
def vaIndex (va level : Nat) : Nat := if level = 4 then bitsOf va 48 8 else bitsOf va (12 + 9 * level) 9

/-! ### What another domain's memory asks of a unit (R124, R126) -/

/-- The applied clock of a domain; zeros at the start (log 14). -/
def State.clockOf (s : State) (d : Nat) : Clock := AMap.get [] s.ac d

/-- Entry j of a clock. -/
def Clock.at (c : Clock) (j : Nat) : Nat := nth 0 c j

/-- a ≥ b modulo 2^24 (R124). -/
def clockGe (a b : Nat) : Bool := decide ((a + 2 ^ 24 - b % 2 ^ 24) % 2 ^ 24 < 2 ^ 23)

/-- Every entry of a at or past b's (R126). -/
def dominates (a b : Clock) : Bool := (upTo 9).all fun j => clockGe (Clock.at a j) (Clock.at b j)

/-- Whether a unit on one domain may reach another's memory now: no traffic stands before it on the route, and the home's applied
clock is past its own, as a read that leaves now would find it (R124, R126; log 20). The device keeps its own records, as domain 9, without a
route. -/
def State.reachable (s : State) (src dst : Nat) : Bool :=
  src == dst || src == 9 || ((AMap.get [] s.routes (9 * src + dst)).isEmpty && dominates (s.clockOf dst) (s.clockOf src))

/-- The same for a read that acquires at package scope: its answer's stamp too is dominated (R100, R126). -/
def State.acquirable (s : State) (src dst : Nat) : Bool :=
  s.reachable src dst && (src == dst || src == 9 || dominates (s.clockOf src) (s.clockOf dst))

/-- Append traffic to a route with the sender's clock as its stamp (R124). -/
def State.send (s : State) (src dst : Nat) (t : Traffic) : State :=
  { s with routes := AMap.ins (9 * src + dst) (AMap.get [] s.routes (9 * src + dst) ++ [⟨s.clockOf src, t⟩]) s.routes }

/-- Walk from a table at a level downward (R96); `fuel` counts the levels left. A table on another domain is read once an acquire
at package scope may read it (R100). A non-leaf entry that names a table outside the HBM ends the walk in a fault (log 57). -/
def walkFrom (m : Memory) (may : Nat → Bool) (va : Nat) : Nat → Nat → Walk
  | 0, table =>
    let a := table + 8 * vaIndex va 0
    let p := m.readNat a 8
    if !(may a) then .wait
    else if pteV p && bitsOf p 57 7 == 0 && !(pteW p && !pteR p) && (pteR p || pteX p) && leafOk p 0 va then .leaf p a else .fault
  | level + 1, table =>
    let a := table + 8 * vaIndex va (level + 1)
    let p := m.readNat a 8
    if !(may a) then .wait
    else if !pteV p || bitsOf p 57 7 != 0 || (pteW p && !pteR p) then .fault
    else if pteR p || pteX p then (if leafOk p (level + 1) va then .leaf p a else .fault)
    else if pteTT p != 0 || decide (2 ^ 39 ≤ pteFrame p * 4096) then .fault
    else walkFrom m may va level (pteFrame p * 4096)

/-- The walk of a device context for a domain's unit (R93, R96, R100). -/
def State.walk (s : State) (die ctxid va : Nat) : Walk := walkFrom s.mem (fun a => s.acquirable die (homeDie a)) va 4 (s.dev ctxid).ptroot

/-- A TLB entry covers an address for a device context (R99). -/
def TlbEnt.covers (e : TlbEnt) (ctxid va : Nat) : Bool :=
  (pteG e.pte || e.ctxid == ctxid) && decide (e.va ≤ va) && decide (va < e.va + e.size)

/-- The first entry that covers an address. -/
def tlbFind : List TlbEnt → Nat → Nat → Option TlbEnt
  | [], _, _ => none
  | e :: es, c, va => if e.covers c va then some e else tlbFind es c va

/-- The entry of the core's TLB, else of the cluster's (R99). -/
def State.tlb (s : State) (core ctxid va : Nat) : Option TlbEnt :=
  match tlbFind (s.coreAt core).tlb ctxid va with
  | some e => some e
  | none => tlbFind (AMap.get [] s.ctlb (core / 8)) ctxid va

/-- The leaf an access uses: a TLB entry, unless it writes through one whose D is 0 and the PTE has changed, when the walk starts
again (R101), where the PTE's home can be reached; else a walk. -/
def State.leaf (s : State) (e : TEnv) (va : Nat) (acc : Acc) : Walk :=
  match e.core.bind fun c => s.tlb c e.ctxid va with
  | some t =>
    if acc.writes && !pteD t.pte && !pteDisc t.pte then
      (if !(s.acquirable e.die (homeDie t.addr)) then .wait
       else if s.mem.readNat t.addr 8 % 64 == t.pte % 64 && s.mem.readNat t.addr 8 / 256 == t.pte / 256 then .leaf t.pte t.addr
       else s.walk e.die e.ctxid va)
    else .leaf t.pte t.addr
  | none => s.walk e.die e.ctxid va

/-- What translating one address gives: a fault's cause, 0 standing for the wait for another domain (log 20), or its place with the view, strong ordering, and the leaf used. -/
inductive Xlat where
  | fault (cause : Nat)
  | ok (loc : Loc) (swz so : Bool) (leaf : Option (Nat × Nat))
deriving DecidableEq, Repr

/-- An address of the on-chip window, or a target address of types 1 to 4 (R89, R95). -/
def State.xlatWindow (s : State) (e : TEnv) (o : Nat) (acc : Acc) (so : Bool) (leaf : Option (Nat × Nat)) : Xlat :=
  match windowPlace o with
  | none => .fault acc.cause
  | some w => if s.owns e.ctxid w.off then .ok (.mem (scratchBase + w.off)) w.swz so leaf else .fault acc.cause

/-- Permissions of a leaf (R98, R102). -/
def leafFault (p : Nat) (e : TEnv) (acc : Acc) : Option Nat :=
  if !pteU p && !e.fw then some acc.cause
  else match acc with
    | .read => if pteR p then none else some 6
    | _ => if !pteW p then some 7 else if pteDisc p then some 8 else none

/-- Translate one address that has passed the heap check (R86, R88 step 4). -/
def State.xlat (s : State) (e : TEnv) (va : Nat) (acc : Acc) : Xlat :=
  if windowVa ≤ va then
    (if va < windowVa + 2 ^ 43 then s.xlatWindow e (va - windowVa) acc false none else .fault acc.cause)
  else if e.hbase ≤ va && decide (va < e.hlimit) then
    (let a := (va + e.hoff) % 2 ^ 56
     if a < 2 ^ 39 then .ok (.mem a) false false none else .fault 9)
  else
    match s.leaf e va acc with
    | .fault => .fault acc.cause
    | .wait => .fault 0
    | .leaf p a =>
      match leafFault p e acc with
      | some c => .fault c
      | none =>
        if pteDisc p then .ok .zero false false (some (p, a))
        else
          let ta := leafTA p va
          let lf := some (p, a)
          match pteTT p with
          | 0 => .ok (.mem ta) false (pteSO p) lf
          | 5 => .ok (.mmio ta) false true lf
          | 6 => .ok (.pcie ta) false (pteSO p) lf
          | 7 => .ok (.chip ta) false (pteSO p) lf
          | _ => s.xlatWindow e ta acc (pteSO p) lf

/-- The effects of a translation: the walker sets A, and D for a write, and fills the core's and the cluster's TLB, leaving out
the oldest entry of a full one; a hit fills only the core's from the cluster's (R99, R101, log 8). -/
def State.walked (s : State) (e : TEnv) (va : Nat) (acc : Acc) : Option (Nat × Nat) → State
  | none => s
  | some (p, a) =>
    let p1 := p + (if pteA p then 0 else 64) + (if acc.writes && !pteD p && !pteDisc p then 128 else 0)
    let old := s.mem.readNat a 8
    let s1 := if p1 = p then s
      else { s with mem := s.mem.writeNat a 8 (old + (if bitOf old 6 then 0 else 64)
        + (if acc.writes && !pteDisc p && !bitOf old 7 then 128 else 0)) }
    match e.core with
    | none => s1
    | some c =>
      let size := pageSize (ptePS p)
      let ent : TlbEnt := ⟨e.ctxid, va / size * size, size, p1, a⟩
      let fill := fun (cap : Nat) (l : List TlbEnt) => (ent :: l.filter fun t => !(t.covers e.ctxid va)).take cap
      let near := p1 == p && (tlbFind (s.coreAt c).tlb e.ctxid va).isSome
      let far := p1 == p && (s.tlb c e.ctxid va).isSome
      let s2 := if near then s1 else s1.onCoreAt c fun k => { k with tlb := fill 256 k.tlb }
      if far then s2 else { s2 with ctlb := AMap.ins (c / 8) (fill 4096 (AMap.get [] s2.ctlb (c / 8))) s2.ctlb }

/-- A fault with cause 0x08 removes the page's entries from the core's and its cluster's TLB (R102). -/
def State.dropEntry (s : State) (core ctxid va : Nat) : State :=
  let s1 := s.onCoreAt core fun k => { k with tlb := k.tlb.filter fun t => !(t.covers ctxid va) }
  { s1 with ctlb := AMap.ins (core / 8) ((AMap.get [] s1.ctlb (core / 8)).filter fun t => !(t.covers ctxid va)) s1.ctlb }

/-! ### Whole accesses -/

/-- Split n bytes at va into parts inside one 64-byte line: address, index of its first byte, length; fuel bounds the parts. -/
def lineSplit : Nat → Nat → Nat → Nat → List (Nat × Nat × Nat)
  | 0, _, _, _ => []
  | k + 1, va, idx, n =>
    if n = 0 then []
    else
      let m := min n (64 - va % 64)
      (va, idx, m) :: lineSplit k (va + m) (idx + m) (n - m)

/-- What translating an access gives: its pieces, strong ordering, and the leaves used; or the cause and the first address at
fault, cause 0 standing for the wait for another domain (log 20). -/
inductive AccX where
  | fault (cause va : Nat)
  | ok (ps : List Piece) (so : Bool) (leaves : List (Nat × Option (Nat × Nat)))
deriving DecidableEq, Repr

/-- The pieces, strong ordering and leaves of an access that translates. -/
def AccX.pieces : AccX → List Piece
  | .ok ps _ _ => ps
  | .fault _ _ => []

def AccX.so : AccX → Bool
  | .ok _ b _ => b
  | .fault _ _ => false

def AccX.leaves : AccX → List (Nat × Option (Nat × Nat))
  | .ok _ _ ls => ls
  | .fault _ _ => []

/-- The pages of the leaves used: base, size and G (R106). -/
def leafPages (ls : List (Nat × Option (Nat × Nat))) : List (Nat × Nat × Bool) :=
  ls.filterMap fun l => l.2.map fun p => (l.1 / pageSize (ptePS p.1) * pageSize (ptePS p.1), pageSize (ptePS p.1), pteG p.1)

def AccX.pages (x : AccX) : List (Nat × Nat × Bool) := leafPages x.leaves

/-- Translate the parts of an access. -/
def State.xlatParts (s : State) (e : TEnv) (acc : Acc) : List (Nat × Nat × Nat) → AccX
  | [] => .ok [] false []
  | (va, idx, n) :: r =>
    match s.xlat e va acc with
    | .fault c => .fault c va
    | .ok loc swz so leaf =>
      match s.xlatParts e acc r with
      | .fault c a => .fault c a
      | .ok ps so2 ls => .ok (⟨loc, idx, n, swz⟩ :: ps) (so || so2) ((va, leaf) :: ls)

/-- A piece in an accumulator store. -/
def Piece.inAcc (p : Piece) : Bool :=
  match p.loc with
  | .mem key =>
    decide (scratchBase ≤ key) && (match windowPlace (key - scratchBase) with
      | some w => w.level == 4
      | none => false)
  | _ => false

/-- MMIO accesses are 8-byte aligned accesses of 8 bytes at a listed offset (R425); the list of offsets is Machine/Mmio.lean's, so
only the shape is checked here. -/
def mmioShape (ps : List Piece) : Bool :=
  ps.all fun p => match p.loc with
    | .mmio off => off % 8 == 0 && p.n == 8 && ps.length == 1
    | _ => true

/-- The offsets of the MMIO map (R425). -/
def mmioListed (o : Nat) : Bool :=
  (decide (o ≤ 0x60) && o % 8 == 0)
    || (decide (0x1000 ≤ o) && decide (o < 0x1000 + 8 * 1056) && o % 8 == 0)
    || (decide (0x1000000 ≤ o) && decide (o < 0x1800000) && o % 8 == 0 &&
        (let r := o % 0x100000
         decide (r ≤ 0x18) || (decide (0x1000 ≤ r) && decide (r < 0x5000) && decide (r % 0x40 ≤ 0x20))
           || (decide (0x8000 ≤ r) && decide (r < 0x8400))))

/-- The place after n bytes of a place. -/
def Loc.plus (l : Loc) (n : Nat) : Loc :=
  match l with
  | .mem k => .mem (k + n)
  | .mmio o => .mmio (o + n)
  | .pcie a => .pcie (a + n)
  | .chip a => .chip (a + n)
  | .zero => .zero

/-- Join pieces that follow each other: an access to a strongly ordered page is never split below its size (R98). -/
def joinPieces : List Piece → List Piece
  | [] => []
  | p :: ps =>
    match joinPieces ps with
    | q :: r => if q.loc = p.loc.plus p.n && q.swz = p.swz then { p with n := p.n + q.n } :: r else p :: q :: r
    | [] => [p]

/-- The heap check of n bytes at va (R91): the access passes, or faults with cause 0x09. -/
def TEnv.heapOk (e : TEnv) (va n : Nat) : Bool :=
  let anyIn := decide (e.hbase < e.hlimit) && decide (va < e.hlimit) && decide (e.hbase < va + n)
  let allIn := decide (e.hbase ≤ va) && decide (va + n ≤ e.hlimit)
  n == 0 || !anyIn || (allIn && decide ((va + e.hoff) % 2 ^ 56 + n ≤ 2 ^ 39))

/-- Translate n bytes at va: the heap check of R91, then each part, then what R90, R98 and R425 ask of the whole access. -/
def State.xlatAccess (s : State) (e : TEnv) (acc : Acc) (va n : Nat) : AccX :=
  if !(e.heapOk va n) then .fault 9 va
  else
    match s.xlatParts e acc (lineSplit (n / 64 + 2) va 0 n) with
    | .fault c a => .fault c a
    | .ok ps so ls =>
      if ps.any Piece.inAcc && (va % 4 != 0 || n % 4 != 0) then .fault acc.cause va
      else if !(mmioShape ps) || ps.any (fun p => match p.loc with
          | .mmio o => !(mmioListed o)
          | _ => false) then .fault acc.cause va
      else if (ps.any fun p => match p.loc with
          | .chip _ => true
          | _ => false) && Config.remoteFault s.clk va then .fault (if acc = .read then 6 else 7) va
      else .ok (if so then joinPieces ps else ps) so ls

/-- The walker's effects over a whole access. -/
def State.walkedAll (s : State) (e : TEnv) (acc : Acc) (ls : List (Nat × Option (Nat × Nat))) : State :=
  ls.foldl (fun s l => s.walked e l.1 acc l.2) s

/-- The translation environment of a context: its heap k-registers (R91) and, at a bundle of the locked service store, its freedom
from the U check (R94, R98). -/
def State.envOf (s : State) (ck : Nat) : TEnv :=
  let c := s.ctxAt ck
  ⟨c.work.ctxid, c.bank.kreg 0x10, min (c.bank.kreg 0x11) (2 ^ 55), c.bank.kreg 0x12, decide (7680 ≤ c.bank.pc), some (ck / 4), dieOfCore (ck / 4)⟩

/-- A unit of the acting domain that translates for a device context by its own walk and the context's heap triple (R92, R99). -/
def State.unitEnv (s : State) (ctxid : Nat) : TEnv :=
  let h := (s.dev ctxid).heap
  ⟨ctxid, nth 0 h 0, min (nth 0 h 1) (2 ^ 55), nth 0 h 2, true, none, s.act.die⟩

/-- The environment in which the device keeps its own records in a device context's memory (log 17). -/
def State.ownEnv (s : State) (ctxid : Nat) : TEnv := { s.unitEnv ctxid with die := 9 }

/-- The state with a domain's units acting. -/
def State.onDie (s : State) (d : Nat) : State := { s with act := { s.act with die := d } }

/-- Whether every piece of an access can be read from a domain: its memory, or through the I/O die what lies behind that. -/
def State.allReachable (s : State) (die : Nat) (ps : List Piece) : Bool :=
  ps.all fun p => match p.loc with
    | .mem key => s.reachable die (homeDie key)
    | .zero => true
    | _ => s.reachable die 8

/-- The same for a write, which goes to what lies behind the I/O die as traffic of its own. -/
def State.allWritable (s : State) (die : Nat) (ps : List Piece) : Bool :=
  ps.all fun p => match p.loc with
    | .mem key => s.reachable die (homeDie key)
    | _ => true

/-- Whether every piece of an access can be read as an acquire at package scope from a domain. -/
def State.allAcquirable (s : State) (die : Nat) (ps : List Piece) : Bool :=
  ps.all fun p => match p.loc with
    | .mem key => s.acquirable die (homeDie key)
    | .zero => true
    | _ => s.acquirable die 8

/-- Bytes that a unit reads at once: memory bytes as they are, zeros for a discarded page, and what the outside
answers for PCIe and remote chips (log 15). -/
def State.pieceBytes (s : State) (p : Piece) : List Byte :=
  match p.loc with
  | .mem key => s.mem.readBytes key p.n
  | .zero => List.replicate p.n 0
  | _ => (upTo p.n).map (Config.outsideByte s.outside)

/-- Read n bytes for a unit, or the fault; cause 0 where another domain's memory cannot be reached yet (log 20). -/
def State.unitRead (s : State) (e : TEnv) (va n : Nat) : Except (Nat × Nat) (List Byte) :=
  match s.xlatAccess e .read va n with
  | .fault c a => .error (c, a)
  | .ok ps _ _ => if s.allReachable e.die ps then .ok (ps.flatMap s.pieceBytes) else .error (0, va)

/-- The same as an acquire at package scope (R126, R254). -/
def State.unitAcquire (s : State) (e : TEnv) (va n : Nat) : Except (Nat × Nat) (List Byte) :=
  if s.allAcquirable e.die (s.xlatAccess e .read va n).pieces then s.unitRead e va n else .error (0, va)

/-- Where the first byte of a queue's signal word lies, if it is memory (R352). -/
def State.sigPlace (s : State) (q : HwQueue) : Option Nat :=
  match s.xlatAccess (s.unitEnv (bitsOf q.qrcb.toNat 56 6)) .read (q.qsig.toNat % 2 ^ 56) 8 with
  | .ok (⟨.mem key, _, _, _⟩ :: _) _ _ => some key
  | _ => none

/-- A write of n bytes from a place on has been performed: a wake is due at every queue with EN 1 whose signal word it meets and leaves nonzero
(R353). -/
def State.signalled (s : State) (key n : Nat) : State :=
  if s.queues.any fun p => bitOf p.2.qsig.toNat 63 then
    { s with queues := s.queues.map fun (p : Nat × HwQueue) =>
        match s.sigPlace p.2 with
        | some k => if bitOf p.2.qsig.toNat 63 && decide (k < key + n) && decide (key < k + 8) && s.mem.readNat k 8 != 0 then (p.1, { p.2 with due := true }) else p
        | none => p }
  else s

/-- Write bytes to a memory piece. -/
def State.putPiece (s : State) (p : Piece) (bs : List Byte) : State :=
  match p.loc with
  | .mem key => { s with mem := s.mem.writeBytes key (bs.take p.n) }.signalled key p.n
  | .pcie ta => s.say (.pcieWrite ta (bs.take p.n))
  | .chip ta => s.say (.chipWrite ta (bs.take p.n))
  | _ => s

/-- Write a piece for a unit of a domain: memory at once, nothing to a discarded page, other targets as traffic to the I/O die. -/
def State.unitPut (s : State) (die : Nat) (p : Piece) (bs : List Byte) : State :=
  match p.loc with
  | .mem _ => s.putPiece p bs
  | .zero => s
  | _ => if 8 ≤ die then s.putPiece p bs else { s.send die 8 (.write p (bs.take p.n) s.nextAck) with nextAck := s.nextAck + 1 }

/-- Write the bytes of an access piece by piece. -/
def State.putPieces (s : State) (die : Nat) (ps : List Piece) (bs : List Byte) : State :=
  ps.foldl (fun s p => s.unitPut die p (bs.drop p.idx)) s

/-- Write bytes for a unit, or the fault. -/
def State.unitWrite (s : State) (e : TEnv) (va : Nat) (bs : List Byte) : Except (Nat × Nat) State :=
  match s.xlatAccess e .write va bs.length with
  | .fault c a => .error (c, a)
  | .ok ps _ ls => if s.allWritable e.die ps then .ok ((s.walkedAll e .write ls).putPieces e.die ps bs) else .error (0, va)

end Sys2Proof.Machine
end

