-- ==== Sys2Proof/Machine/Ops.lean ====
section
/-! DEFINITION. The shared operations: taking a trap (R157, R314, R315), rolling back on a translation fault (R103, R157), the gated
store buffer (R155, R156), loads and stores of a context (R111, R119 to R123), vector clocks and routes (R124 to R126), and the
verdict that decides what a slot operation does. -/

namespace Sys2Proof.Machine

/-! ### Clocks and routes (R124 to R126) -/

/-- A clock with entry j replaced. -/
def clockSet (c : Clock) (j v : Nat) : Clock := (upTo 9).map fun i => if i = j then v % 2 ^ 24 else Clock.at c i

/-- Advance the clock of domain d and send markers carrying it on every route from d (R125 steps 2 and 3). -/
def State.sendMarkers (s : State) (d : Nat) : State :=
  let c := s.clockOf d
  let s1 := { s with ac := AMap.ins d (clockSet c d (Clock.at c d + 1)) s.ac }
  (upTo 9).foldl (fun s e => if e = d then s else s.send d e .marker) s1

/-- A release would pass the window of R125: more than 2^22 past what some domain in service has applied. -/
def State.windowFull (s : State) (d : Nat) : Bool :=
  (8 :: s.dies).any fun e =>
    e != d && decide (2 ^ 22 < (Clock.at (s.clockOf d) d + 1 + 2 ^ 24 - Clock.at (s.clockOf e) d % 2 ^ 24) % 2 ^ 24)

/-- Note a store that has not been acknowledged (R121), with its pages and their kind (R98, R106). -/
def State.addAck (s : State) (ck uid dom : Nat) (performed chip : Bool) (pages : List (Nat × Nat × Bool)) (so : Bool) : State :=
  { s with
    acks := s.acks ++ [{ id := s.nextAck, ck := ck, uid := uid, dom := dom, performed := performed, chip := chip, pages := pages, so := so }]
    nextAck := s.nextAck + 1 }

/-- Keep the bytes that the latest store replaced, which an engine may still read (R218). -/
def State.keepOld (s : State) (old : List (Nat × Byte)) : State :=
  { s with acks := s.acks.map fun (a : Ack) => if a.id + 1 = s.nextAck then { a with old := old } else a }

/-- Acknowledgements that a context still waits for: those of its bound work, wherever an eviction has taken it (R43). -/
def State.unacked (s : State) (ck : Nat) : List Ack :=
  let uid := (s.ctxAt ck).work.uid
  s.acks.filter fun a => a.uid == uid && (uid != 0 || a.ck == ck)

/-! ### Trap records (R314) -/

/-- What a trap says: cause, handle, faulting address or code, and AUX (R314, R315). -/
structure TrapInfo where
  cause : Nat
  faddr : Nat := 0
  handle : Nat := 0
  aux : Nat := 0
deriving DecidableEq, Repr

/-- Whose trap it is, for the record's fields. -/
structure TrapWho where
  ctxid : Nat
  rcb : Nat
  opcode : Nat
  opc : Nat
  shard : Nat
  epc : Nat
  wher : Nat
  tix : List Nat
  tv : Bool
  bv : Bool
  low : Bool
  spec : Bool
deriving DecidableEq, Repr

/-- The 64 bytes of a trap record (R314). -/
def trapBytes (fdom time : Nat) (w : TrapWho) (t : TrapInfo) : List Byte :=
  leBytes t.cause 1 ++ leBytes (w.tv.toNat + 2 * w.bv.toNat + 4 * w.low.toNat + 8 * w.spec.toNat) 1 ++ leBytes (w.ctxid % 64) 1
    ++ leBytes 0 1 ++ leBytes (w.shard % 8) 2 ++ leBytes fdom 2 ++ leBytes w.wher 2 ++ leBytes (w.opcode % 1024) 2 ++ leBytes w.opc 4
    ++ leBytes t.handle 2 ++ leBytes w.epc 2 ++ ((upTo 6).flatMap fun i => leBytes (nth 0 w.tix i) 2)
    ++ leBytes (t.faddr % 2 ^ 56) 8 ++ leBytes w.rcb 8 ++ leBytes time 8 ++ leBytes t.aux 8

/-- Effective fault domain (R12). -/
def State.fdom (s : State) (ctxid rcb : Nat) : Nat := s.effective ctxid rcb 6 0x0C 2

/-- WHERE of a context: context, core, cluster, die (R314). -/
def whereOf (ck : Nat) : Nat := ck % 4 * 1024 + ck / 4 % 8 * 128 + ck / 32 % 16 * 8 + ck / 512

/-- Who a context is. -/
def Ctx.who (c : Ctx) (ck : Nat) : TrapWho :=
  { ctxid := c.work.ctxid, rcb := c.work.rcb, opcode := c.work.opcode, opc := c.work.opc, shard := c.work.shard,
    epc := c.bank.pc, wher := whereOf ck, tix := (upTo 6).map fun i => c.bank.kreg (8 + i), tv := true, bv := true, low := false,
    spec := c.spec }

/-- The operator instance a context's tile belongs to. -/
def Ctx.opId (c : Ctx) : Nat :=
  match c.work.job with
  | .tile op _ _ => op
  | _ => 0

/-- The record that a context's trap leaves waiting for delivery (R365); one taken while speculating is held (R416). -/
def State.trapRecOf (s : State) (ck : Nat) (t : TrapInfo) (res : Bool) : TrapRec :=
  let c := s.ctxAt ck
  { bytes := trapBytes (s.fdom c.work.ctxid c.work.rcb) s.time (c.who ck) t, ctxid := c.work.ctxid, rcb := c.work.rcb, ck := ck + 1,
    gk := 0, op := c.opId, cause := t.cause, res := res, held := c.spec, spec := c.spec,
    unit := .ctx ck }

/-- A context takes a trap before its bundle has any effect: it stops, its latches drop, and its record awaits delivery, which
writes CAUSE, EPC, OPC, HANDLE and FADDR and applies the fault policy (R141, R157, R359, R365). -/
def takeTrapAt (ck : Nat) (t : TrapInfo) (s : State) : State :=
  let s1 := { s with traps := s.traps ++ [s.trapRecOf ck t false] }
  s1.onCtxAt ck fun c => { c.dropLatches with status := .trapped, marks := 0, w := 0 }

/-- The acting context takes a trap. -/
def takeTrap (t : TrapInfo) (s : State) : State := takeTrapAt s.act.ck t s

/-- Roll a context back to the first bundle of its restart region (R157). -/
def Ctx.rollback (c : Ctx) : Ctx :=
  { c.dropLatches with
    bank := restoreBank c.snap c.bank, pos := 0, fix := [], var := c.var.filter (fun v => v.old), gated := [],
    next := none, irrev := false, marks := 0, released := false, remote := none, grav := 0, probed := false, onEng := false, w := 0 }

/-- What a home has answered for the bundle a context stands at: a claim stays claimed for the bundle's next try (R251). -/
def Ctx.answered (c : Ctx) : Option (Nat × Nat × Clock) :=
  match c.remote with
  | some (some a) => some (c.bank.pc, a)
  | _ => c.owed

/-- A translation fault of an access of the acting context: it rolls back, its record is written with the first address at fault,
and it blocks until the fault is resolved (R103), its count against PBOUND as it was (log 70). A fault with cause 0x08 removes the page's TLB
entries (R102). -/
def takeFault (cause va : Nat) (s : State) : State :=
  let ck := s.act.ck
  let s0 := if cause = 8 then s.dropEntry s.act.core (s.ctxAt ck).work.ctxid va else s
  let s1 := { s0 with traps := s0.traps ++ [s0.trapRecOf ck ⟨cause, va, 0, 0⟩ true] }
  s1.onCtxAt ck fun c => { c.rollback with status := .blocked (.fault va (cause != 6)), owed := c.answered }

/-! ### Steps performed at a home (R129, R251, R258 to R262, R265 to R267) -/

/-- Results that are no value: an error with its cause, and a condition that does not hold. -/
def rmwErr (cause : Nat) : Nat := 2 ^ 200 + cause
def rmwNo : Nat := 2 ^ 201

/-- The new value of an atomic's location (R261). -/
def atomicVal (aop w old b : Nat) : Nat :=
  match aop with
  | 0 => (old + b) % 2 ^ w
  | 1 => Nat.land old b
  | 2 => Nat.lor old b
  | 3 => Nat.xor old b
  | 4 => if sext old w ≤ sext b w then old else b
  | 5 => if sext old w ≤ sext b w then b else old
  | 6 => min old b
  | 7 => max old b
  | 8 => b
  | _ => roundTo 0 RNE (Ex.add (real 0 old) (real 0 b))

/-- A ring header in memory (R258). -/
structure Ring where
  rslot : Nat
  wslot : Nat
  nslot : Nat
  slotsz : Nat
  dir : Bool
  fill : Nat
  /-- Malformed (R451). -/
  bad : Bool
deriving DecidableEq, Repr

/-- Read a ring header. -/
def Memory.ring (m : Memory) (key : Nat) : Ring :=
  let n := m.readNat (key + 8) 2
  let z := m.readNat (key + 10) 2
  let d := m.readNat (key + 12) 4
  { rslot := m.readNat key 4, wslot := m.readNat (key + 4) 4, nslot := n, slotsz := z, dir := bitOf d 0, fill := m.readNat (key + 16) 16,
    bad := n == 0 || decide (128 < n) || z == 0 || decide (1024 < z) || d / 2 != 0 || m.readBytes (key + 32) 32 != List.replicate 32 0 }

/-- Slots filled and not consumed. -/
def Ring.used (r : Ring) : Nat := (r.wslot + 2 ^ 32 - r.rslot) % 2 ^ 32

/-- Slot k of the consuming side, and of the filling side, and whether it is in the state that side expects (R259, R260). -/
def Ring.takeSlot (r : Ring) (k : Nat) : Nat := (r.rslot + k) % r.nslot
def Ring.putSlot (r : Ring) (k : Nat) : Nat := (r.wslot + k) % r.nslot
def Ring.canTake (r : Ring) (k : Nat) : Bool := bitOf r.fill (r.takeSlot k) && decide (k < r.used)
def Ring.canPut (r : Ring) (k : Nat) : Bool := !(bitOf r.fill (r.putSlot k)) && decide (r.used + k < r.nslot)

/-- The offset of a slot from the ring base. -/
def Ring.offset (r : Ring) (i : Nat) : Nat := 64 + 64 * r.slotsz * i

/-- Write the counters and the FILL bits. -/
def Memory.putRing (m : Memory) (key : Nat) (r : Ring) : Memory :=
  ((m.writeNat key 4 (r.rslot % 2 ^ 32)).writeNat (key + 4) 4 (r.wslot % 2 ^ 32)).writeNat (key + 16) 16 r.fill

/-- Clear or set one FILL bit. -/
def Ring.setFill (r : Ring) (i : Nat) (b : Bool) : Ring :=
  { r with fill := r.fill - (if bitOf r.fill i then 2 ^ i else 0) + (if b then 2 ^ i else 0) }

/-- The consuming side frees the slot at RSLOT; the filling side hands on the slot at WSLOT. -/
def Ring.taken (r : Ring) : Ring := { r.setFill (r.takeSlot 0) false with rslot := (r.rslot + 1) % 2 ^ 32 }
def Ring.filled (r : Ring) : Ring := { r.setFill (r.putSlot 0) true with wslot := (r.wslot + 1) % 2 ^ 32 }

/-- The context's side of a ring at distance k: the slot, and whether it is in the state the side expects (R260). -/
def Ring.side (r : Ring) (k : Nat) : Nat × Bool := if r.dir then (r.putSlot k, r.canPut k) else (r.takeSlot k, r.canTake k)

/-- Fields of a barrier object (R265). -/
def barExp (o : Nat) : Nat := bitsOf o 116 12
def barArr (o : Nat) : Nat := bitsOf o 104 12
def barPh (o : Nat) : Nat := bitsOf o 100 4
def barBad (o : Nat) : Bool := bitOf o 97 || bitOf o 96
def barWaiters (o : Nat) : Nat := bitsOf o 48 16

/-- Replace n bits of a number. -/
def putBits (v lo n x : Nat) : Nat := v - bitsOf v lo n * 2 ^ lo + x % 2 ^ n * 2 ^ lo

/-- Write a barrier object. -/
def State.putBar (s : State) (key o : Nat) : State := { s with mem := s.mem.writeNat key 16 o }

/-- Every context blocked on a barrier object becomes ready, and WAITERS falls to 0. -/
def State.wakeBar (s : State) (key : Nat) : State :=
  let s1 := s.putBar key (putBits (s.mem.readNat key 16) 48 16 0)
  { s1 with barWaits := s1.barWaits.filter fun w => w.1 != key
            ctxs := s1.ctxs.map fun p => (p.1, match p.2.status with
      | .blocked (.barrier k _) => if k = key then { p.2 with status := .ready } else p.2
      | _ => p.2) }

/-- A context is counted in a barrier object as it blocks there; it is counted no more, if it still is (R267). -/
def State.joinBar (s : State) (key ck : Nat) : State :=
  let o := s.mem.readNat key 16
  { s.putBar key (putBits o 48 16 (barWaiters o + 1)) with barWaits := s.barWaits ++ [(key, ck)] }

def State.quitBar (s : State) (key ck : Nat) : State :=
  let o := s.mem.readNat key 16
  if s.barWaits.contains (key, ck) then
    { s.putBar key (putBits o 48 16 (barWaiters o - 1)) with barWaits := s.barWaits.filter fun w => w != (key, ck) }
  else s

/-- One arrival (R266). -/
def barArrive (key n : Nat) (s : State) : Nat × State :=
  let o := s.mem.readNat key 16
  if barExp o = 0 then (rmwErr 0x0D, (s.putBar key (putBits o 97 1 1)).wakeBar key)
  else if barBad o then (rmwErr 0x0D, s)
  else if barExp o < barArr o + n then (rmwErr 0x0D, (s.putBar key (putBits o 96 1 1)).wakeBar key)
  else if barArr o + n = barExp o then
    let o1 := putBits (putBits (putBits o 104 12 0) 100 4 (barPh o + 1)) 64 32 s.time
    (barPh o + 16, (s.putBar key o1).wakeBar key)
  else (barPh o, s.putBar key (putBits o 104 12 (barArr o + n)))

/-- A step performed at a home: its result and the state after it. -/
def performRmw (r : Rmw) (key : Nat) (s : State) : Nat × State :=
  match r with
  | .atom aop w8 b =>
    let n := if w8 then 8 else 4
    let old := s.mem.readNat key n
    (old, { s with mem := s.mem.writeNat key n (atomicVal aop (8 * n) old (b % 2 ^ (8 * n))) })
  | .acas w8 b c =>
    let n := if w8 then 8 else 4
    let old := s.mem.readNat key n
    (old, if old = b % 2 ^ (8 * n) then { s with mem := s.mem.writeNat key n c } else s)
  | .barinit cnt => (0, s.putBar key (cnt * 2 ^ 116))
  | .bararr n => barArrive key n s
  | .bartest t dl =>
    let o := s.mem.readNat key 16
    (if barPh o != t then 1 else if barBad o then rmwErr 0x0D else if dl.any fun c => decide (c ≤ s.time) then 2 else 0, s)
  | .barleave ck => (0, s.quitBar key ck)
  | .rawait k =>
    let r := s.mem.ring key
    if r.bad then (rmwErr 0x0E, s) else ((if (r.side k).2 then r.offset (r.side k).1 else rmwNo), s)
  | .rapeek k =>
    let r := s.mem.ring key
    if r.bad then (rmwErr 0x0E, s) else ((if (r.side k).2 then r.offset (r.side k).1 else 2 ^ 64 - 1), s)
  | .rarel n =>
    let r := s.mem.ring key
    if r.bad || !((upTo n).all fun k => (r.side k).2) then (rmwErr 0x0E, s)
    else (0, { s with mem := s.mem.putRing key (iter (fun _ x => if x.dir then x.filled else x.taken) n r) })
  | .claim =>
    let w := s.mem.readNat key 8
    let n := 2 ^ (s.mem.readNat (key + 0x18) 1 % 16)
    if (w + 2 ^ 64 - s.mem.readNat (key + 8) 8) % 2 ^ 64 < n then
      ((s.mem.readNat (key + 0x10) 8 + 64 * (w % n)) % 2 ^ 56, { s with mem := s.mem.writeNat key 8 (w + 1) })
    else (rmwNo, s)

/-! ### Blocking (R39) -/

/-- What blocking for a reason changes besides the context: a waiter is counted in its barrier object, and a DEQ takes its turn (R267, R268). -/
def State.noteBlock (s : State) (ck : Nat) (w : Why) : State :=
  match w with
  | .barrier key _ => s.joinBar key ck
  | .deq qi => s.onQueue qi fun q => if q.waiters.contains ck then q else { q with waiters := q.waiters ++ [ck] }
  | _ => s

/-- A context leaves its block otherwise than by what it waited for: it is counted no more, which another die's home learns by a message, and
gives up its turn. -/
def State.leaveBlock (s : State) (ck : Nat) : State :=
  match (s.ctxAt ck).status with
  | .blocked (.barrier key _) =>
    if homeDie key = dieOfCore (ck / 4) then s.quitBar key ck
    else s.send (dieOfCore (ck / 4)) (homeDie key) (.rmw (.barleave ck) key ck 0 true 0)
  | .blocked (.deq qi) => s.onQueue qi fun q => { q with waiters := q.waiters.filter fun k => k != ck }
  | _ => s

/-- A block by which an answer from a home said no: the step is asked for again when the context is ready (R260, R267, R251). -/
def Why.asksAgain : Why → Bool
  | .ring _ _ => true
  | .barrier _ _ => true
  | .hwq => true
  | _ => false

/-- The acting context blocks at its bundle, which has no effect (R39). WAITT keeps its deadline (R273); a step that a home has performed
for the bundle stays performed (R129). -/
def blockCtx (w : Why) (s : State) : State :=
  (s.noteBlock s.act.ck w).onCtx fun c => { c with
    status := .blocked w
    pcount := 0
    w := 0
    remote := if w.asksAgain then (match c.remote with
      | some (some _) => none
      | r => r) else c.remote
    deadline := match w with
      | .time t => some t
      | _ => c.deadline }

/-! ### Performing stores (R119, R121, R124) -/

/-- The key of a piece's memory, if it is memory. -/
def Piece.key? (p : Piece) : Option Nat :=
  match p.loc with
  | .mem k => some k
  | _ => none

/-- A piece of target type 7. -/
def Piece.isChip (p : Piece) : Bool :=
  match p.loc with
  | .chip _ => true
  | _ => false

/-- Perform one piece of a context's store: at its home when that is the context's own die, else as traffic on the route to its
home (R124, log 6). A discarded page takes no write (R102). -/
def State.perform (ck : Nat) (pages : List (Nat × Nat × Bool)) (so : Bool) (s : State) (pb : Piece × List Byte) : State :=
  let die := dieOfCore (ck / 4)
  let uid := (s.ctxAt ck).work.uid
  let p := pb.1
  match p.loc with
  | .zero => s
  | .mem key =>
    if homeDie key = die then
      ((s.putPiece p pb.2).addAck ck uid die true false pages so).keepOld ((upTo p.n).map fun i => (key + i, s.mem.read (key + i)))
    else (s.send die (homeDie key) (.write p pb.2 s.nextAck)).addAck ck uid (homeDie key) false false pages so
  | _ => (s.send die 8 (.write p pb.2 s.nextAck)).addAck ck uid 8 false p.isChip pages so

/-- Whether a piece of a speculating context's store goes to the speculative write buffer: everything but the core's own unit
scratch and accumulator store (R414). -/
def Piece.buffered (ck : Nat) (p : Piece) : Bool :=
  match p.loc with
  | .mem key =>
    if key < scratchBase then true
    else match windowPlace (key - scratchBase) with
      | some w => !(decide (3 ≤ w.level) && decide (dieOfCore (ck / 4) = (key - scratchBase) / 2 ^ 40)
          && decide (bitsOf (key - scratchBase) 22 7 = ck / 4 % 128))
      | none => true
  | _ => true

/-- Perform a gated store, or buffer it while the context speculates (R414, R415). -/
def State.performStore (ck : Nat) (s : State) (g : GStore) : State :=
  let held := fun p : Piece × List Byte => (s.ctxAt ck).spec && p.1.buffered ck
  let now := g.pieces.filter fun p => !(held p)
  let later := g.pieces.filter held
  let s1 := now.foldl (State.perform ck g.pages g.so) s
  if later.isEmpty then s1 else s1.onCtxAt ck fun c => { c with wbuf := c.wbuf ++ [{ g with pieces := later }] }

/-- The gated stores of a context commit: they are performed in program order (R155). -/
def commitAt (ck : Nat) (s : State) : State :=
  let g := (s.ctxAt ck).gated
  let s1 := s.onCtxAt ck fun c => { c with gated := [] }
  g.foldl (State.performStore ck) s1

/-- The gated stores of the acting context commit. -/
def commitGated (s : State) : State := commitAt s.act.ck s

/-- Entries of the gated store buffer in use: the distinct 64-byte lines (R155). -/
def dedup : List Nat → List Nat
  | [] => []
  | x :: xs => if xs.contains x then dedup xs else x :: dedup xs

def Ctx.linesUsed (c : Ctx) (more : List Nat) : Nat := (dedup (c.gated.flatMap GStore.lines ++ more)).length

/-- The 64-byte lines of an access. -/
def linesOf (va n : Nat) : List Nat := (lineSplit (n / 64 + 2) va 0 n).map fun p => p.1 / 64

/-! ### Reading as a context (R111, R120) -/

/-- How far into n bytes at a place another place lies, if it lies there. -/
def Loc.within (a : Loc) (n : Nat) (b : Loc) : Option Nat :=
  match a, b with
  | .mem j, .mem k => if j ≤ k && decide (k < j + n) then some (k - j) else none
  | .mmio j, .mmio k => if j ≤ k && decide (k < j + n) then some (k - j) else none
  | .pcie j, .pcie k => if j ≤ k && decide (k < j + n) then some (k - j) else none
  | .chip j, .chip k => if j ≤ k && decide (k < j + n) then some (k - j) else none
  | _, _ => none

/-- The last byte that buffered stores hold for a target address, with the view it was written through (R120). -/
def bufferedByte (l : Loc) : List GStore → Option (Byte × Bool) → Option (Byte × Bool)
  | [], acc => acc
  | g :: gs, acc =>
    bufferedByte l gs (g.pieces.foldl (fun a p => match p.1.loc.within p.1.n l with
      | some i => some (nth 0 p.2 i, p.1.swz)
      | none => a) acc)

/-- The byte that a context's own buffered stores give. -/
def Ctx.ownByte (c : Ctx) (l : Loc) : Option Byte := (bufferedByte l c.gated (bufferedByte l c.wbuf none)).map Prod.fst

/-- The old byte of a write through the other view of unit scratch that nothing has joined yet, where the free choice takes it (R111,
log 7). -/
def Ctx.staleByte (c : Ctx) (fresh key : Nat) (swz : Bool) : Option Byte :=
  match c.unjoined.find? fun u => u.1 == key && u.2.1 != swz with
  | some u => if Config.freeBool (fresh + key) then some u.2.2 else none
  | none => none

def State.staleByte (s : State) (ck : Nat) (l : Loc) (swz : Bool) : Option Byte :=
  match l with
  | .mem key => (s.ctxAt ck).staleByte s.fresh key swz
  | _ => none

/-- A byte of a load that is known at issue: an old byte of R111, else the context's own latest store (R120), else memory of its own die
(log 6), and zero of a discarded page. -/
def State.knownByte (s : State) (ck : Nat) (l : Loc) (swz : Bool) : Option Byte :=
  (s.staleByte ck l swz).or (((s.ctxAt ck).ownByte l).or (match l with
    | .mem key => if homeDie key = dieOfCore (ck / 4) then some (s.mem.read key) else none
    | .zero => some 0
    | _ => none))

/-- One byte of memory as a context reads it. -/
def State.ctxByte (s : State) (ck key : Nat) (swz : Bool) : Byte := (s.knownByte ck (.mem key) swz).getD (s.mem.read key)

/-- Put bytes into a byte list at an index. -/
def spliceBytes (l : List Byte) (i : Nat) (bs : List Byte) : List Byte := l.take i ++ bs ++ l.drop (i + bs.length)

/-- The same, but indices in a list keep their bytes. -/
def fillBytes (kept : List Nat) (l : List Byte) (i : Nat) (bs : List Byte) : List Byte :=
  spliceBytes l i ((upTo bs.length).map fun j => if kept.contains (i + j) then nth 0 l (i + j) else nth 0 bs j)

/-- The bytes of an access that are known at issue; zeros stand for bytes still to come. -/
def State.localBytes (s : State) (ck n : Nat) (ps : List Piece) : List Byte :=
  ps.foldl (fun l p => spliceBytes l p.idx ((upTo p.n).map fun i => (s.knownByte ck (p.loc.plus i) p.swz).getD 0)) (List.replicate n 0)

/-- The pieces that another domain serves, each asked for whole (R124, R126, R243). -/
def State.farPieces (s : State) (ck : Nat) (ps : List Piece) : List Piece :=
  ps.filter fun p => (upTo p.n).any fun i => (s.knownByte ck (p.loc.plus i) p.swz).isNone

/-- The indices of an access whose bytes are known at issue, which an answer leaves as they are. -/
def State.keptBytes (s : State) (ck : Nat) (ps : List Piece) : List Nat :=
  ps.flatMap fun p => (((upTo p.n).filter fun i => (s.knownByte ck (p.loc.plus i) p.swz).isSome).map (p.idx + ·))

/-- A memory key of a unit scratch. -/
def inUnit (key : Nat) : Bool :=
  decide (scratchBase ≤ key) && (match windowPlace (key - scratchBase) with
    | some w => w.level == 3
    | none => false)

/-- The bytes of unit scratch that pieces touch: index in the access, key, view (R111). -/
def unitBytes (ps : List Piece) : List (Nat × Nat × Bool) :=
  ps.flatMap fun p => match p.loc with
    | .mem key => if inUnit key then (upTo p.n).map fun i => (p.idx + i, key + i, p.swz) else []
    | _ => []

/-- Issue a load: known bytes at once, a message for every piece another domain serves (R126), the walker's effects, and the
result in flight (R143). -/
def issueLoad (d : Dst) (n : Nat) (acq dom : Bool) (x : AccX) (e : TEnv) (s : State) : State :=
  let ck := s.act.ck
  let far := s.farPieces ck x.pieces
  let id := (s.ctxAt ck).nextVar
  let v : VarW :=
    { id := id, dst := d, bytes := s.localBytes ck n x.pieces, waiting := far.length, stamps := [], acq := acq, dom := dom, old := false,
      pages := x.pages, so := x.so, kept := if far.isEmpty then [] else s.keptBytes ck x.pieces, view := unitBytes x.pieces }
  let s1 := s.onCtxAt ck fun c => { c with var := c.var ++ [v], nextVar := c.nextVar + 1 }
  let s2 := far.foldl (fun s p => s.send (dieOfCore (ck / 4)) p.loc.domain (.read p ck id)) s1
  { s2.walkedAll e .read x.leaves with fresh := s2.fresh + 1 }

/-- Note the bytes of unit scratch that a store writes through a view (R111). -/
def State.unjoin (s : State) (ck : Nat) (ps : List Piece) : List (Nat × Bool × Byte) :=
  (unitBytes ps).map fun u => (u.2.1, u.2.2, s.ctxByte ck u.2.1 u.2.2)

/-- A read in flight that meets a later write of the same byte through the other view: the free choice may take the new byte (R111). -/
def VarW.crossed (fresh : Nat) (bs : List Byte) (ws : List (Nat × Nat × Bool)) (v : VarW) : VarW :=
  v.view.foldl (fun v r => match ws.find? fun w => w.2.1 == r.2.1 && w.2.2 != r.2.2 with
    | some w =>
      if Config.freeBool (fresh + r.2.1) then { v with bytes := spliceBytes v.bytes r.1 [nth 0 bs w.1], kept := r.1 :: v.kept } else v
    | none => v) v

/-- Gate a store (R123, R155): it waits in the buffer; an access to a strongly ordered page, and one that says so, is performed at once
(R243), and so is one on a shadow, whatever is gated (R414). -/
def issueStore (x : AccX) (bs : List Byte) (lines : List Nat) (now shadow : Bool) (e : TEnv) (s : State) : State :=
  let ck := s.act.ck
  let g : GStore := { pieces := x.pieces.map fun p => (p, (bs.drop p.idx).take p.n), lines := lines, so := x.so, pages := x.pages }
  let u := s.unjoin ck x.pieces
  let s1 := (s.walkedAll e .write x.leaves).onCtxAt ck fun c => { c with
    gated := if shadow then c.gated else c.gated ++ [g]
    unjoined := c.unjoined ++ u
    var := c.var.map (VarW.crossed s.fresh bs (unitBytes x.pieces)) }
  let s2 := { s1 with fresh := s1.fresh + 1 }
  if shadow then g.pieces.foldl (State.perform ck g.pages g.so) s2
  else if now || x.so then (commitAt ck s2).onCtxAt ck fun c => { c with irrev := true } else s2

/-- The two views of unit scratch are joined (R111). -/
def joinViews (s : State) : State :=
  s.onCtx fun c => { c with unjoined := [], var := c.var.map fun (v : VarW) => { v with view := [] } }

/-! ### Verdicts -/

/-- What the checks of a slot operation decide: it takes effect; it traps; its access faults in translation; it blocks; it waits in
issue, perhaps for an MXGO; the gated stores must commit first; a step at a remote home must be asked for; a step at a home is performed
and traps; a release must send its markers; gravity
must be borrowed from the home (R378); a flush probe must be sent (R386). -/
inductive Verdict where
  | ok
  | trap (t : TrapInfo)
  | fault (cause va : Nat)
  | block (w : Why)
  | wait
  | waitEng
  | commit
  | ask (dom : Nat) (r : Rmw) (key : Nat)
  | rmwTrap (r : Rmw) (key : Nat) (t : TrapInfo)
  | markers
  | borrow (root : Nat)
  | probe (root : Nat)
deriving DecidableEq, Repr

/-- The later verdict decides only where the earlier one lets it. -/
def Verdict.and (a b : Verdict) : Verdict :=
  match a with
  | .ok => b
  | v => v

/-- A condition that must hold, else a trap. -/
def need (c : Bool) (t : TrapInfo) : Verdict := if c then .ok else .trap t

/-- Carry a verdict out: the operation's own effect, or what stands in its place. -/
def runVerdict (v : Verdict) (s : State) (f : State → State) : State :=
  match v with
  | .ok => f s
  | .trap t => takeTrap t s
  | .fault c a => takeFault c a s
  | .block w => blockCtx w s
  | .wait => s
  | .waitEng => s.onCtx fun c => { c with onEng := true }
  | .commit => (commitGated s).onCtx Ctx.newRegion
  | .ask dom r key =>
    (s.send (dieOfCore s.act.core) dom (.rmw r key s.act.ck s.ctx.work.uid true 0)).onCtx fun c =>
      { c.newRegion with status := .blocked .remote, remote := some none, w := 0 }
  | .rmwTrap r key t => takeTrap t (performRmw r key s).2
  | .markers => (s.sendMarkers (dieOfCore s.act.core)).onCtx fun c => { c with released := true }
  | .borrow root => { s with grav := s.grav ++ [GravMsg.borrow root (dieOfCore s.act.core) s.ctx.work.uid] }.onCtx fun c => { c with grav := 1 }
  | .probe root =>
    { s with
      grav := s.grav ++ (upTo 8).map fun d => GravMsg.probe root d (s.act.ck + 1)
      wakes := s.wakes.filter fun w => w != (root, s.act.ck + 1) }.onCtx fun c =>
      { c with status := .blocked (.waitq root), probed := true, pcount := 0, w := 0 }

/-- The shape of every slot operation's meaning: its checks, then its effect. -/
def slotOp (v : Verdict) (s : State) (f : State → State) : Host.Outcome State Fault Refusal := .next (runVerdict v s f)

/-- A meaning that always has its effect. -/
def always (s : State) (f : State → State) : Host.Outcome State Fault Refusal := .next (f s)

/-! ### Releases and acquires (R121, R125, R128) -/

/-- What a release at a scope waits for before its own store: the gated stores commit; earlier loads have returned; at die scope or
narrower every earlier store is acknowledged; at package or system scope earlier stores homed on the own die are performed, at
system scope every type-7 access is acknowledged, and the clock has advanced with its markers sent. -/
def releaseVerdict (scope : Nat) (s : State) : Verdict :=
  let c := s.ctx
  let ck := s.act.ck
  let die := dieOfCore s.act.core
  if !c.gated.isEmpty then .commit
  else if c.var.any fun v => !v.eng then .wait
  else if scope ≤ 3 then (if (s.unacked ck).isEmpty then .ok else .wait)
  else if (s.unacked ck).any fun a => a.dom == die && !a.performed then .wait
  else if scope = 5 && (s.unacked ck).any Ack.chip then .wait
  else if c.released then .ok
  else if s.windowFull die then .wait
  else .markers

/-- Earlier acquires are performed before any later access (R121). -/
def acquireDone (s : State) : Verdict := if s.ctx.var.any VarW.acq then .wait else .ok

/-- Take a free value's argument: the counter, and the state with it advanced (log 5). -/
def State.draw (s : State) : Nat × State := (s.fresh, { s with fresh := s.fresh + 1 })

end Sys2Proof.Machine
end

