-- ==== Sys2Proof/Machine/Operands.lean ====
section
/-! DEFINITION. Operand forms: capabilities (R112, R172 to R175, R214), memory operands of the X slot (R238, R243), tile operands
(R146), and scalar operand words (R279). -/

namespace Sys2Proof.Machine

/-! ### Capability fields (R174) -/

def SReg.num (r : SReg) : Nat := r.bits.toNat
def SReg.base (r : SReg) : Nat := bitsOf r.num 72 56
def SReg.len (r : SReg) : Nat := bitsOf r.num 32 40
def SReg.permR (r : SReg) : Bool := bitOf r.num 31
def SReg.permW (r : SReg) : Bool := bitOf r.num 30
def SReg.permE (r : SReg) : Bool := bitOf r.num 29
def SReg.permN (r : SReg) : Bool := bitOf r.num 28
/-- S: the range is shadowed for speculation (R412, R414). -/
def SReg.permS (r : SReg) : Bool := bitOf r.num 27
def SReg.fmt (r : SReg) : Nat := bitsOf r.num 20 4
def SReg.res (r : SReg) : Nat := bitsOf r.num 16 4
def SReg.hid (r : SReg) : Nat := bitsOf r.num 0 16

/-- A capability's 128 bits (R174): base, length, permissions R W E N S as a 5-bit number with R highest, format, residency,
handle. -/
def capBits (base len perm fmt res hid : Nat) : Nat :=
  base % 2 ^ 56 * 2 ^ 72 + len % 2 ^ 40 * 2 ^ 32 + perm % 32 * 2 ^ 27 + fmt % 16 * 2 ^ 20 + res % 16 * 2 ^ 16 + hid % 2 ^ 16

/-- A tagged capability. -/
def mkCap (base len perm fmt res hid : Nat) : SReg := ⟨BitVec.ofNat 128 (capBits base len perm fmt res hid), true⟩

/-- Permission and residency needs of a capability operand: R, W, E, and the residencies allowed (R214). -/
structure CapNeed where
  r : Bool
  w : Bool
  resLo : Nat
  resHi : Nat
  minLen : Nat
deriving DecidableEq, Repr

/-- The checks of R214, in their order: tag 0x03, permission or residency 0x05, length 0x04. -/
def capVerdict (c : SReg) (n : CapNeed) : Verdict :=
  (need c.tag ⟨3, 0, 0, 0⟩).and <|
  (need ((!n.r || c.permR) && (!n.w || c.permW) && c.permE && decide (n.resLo ≤ c.res) && decide (c.res ≤ n.resHi)) ⟨5, 0, c.hid, 0⟩).and <|
  need (decide (n.minLen ≤ c.len)) ⟨4, 0, c.hid, 0⟩

/-! ### Memory operands (R238) -/

/-- Whether a capability grants an access's kind. -/
def SReg.grants (r : SReg) (acc : Acc) : Bool :=
  match acc with
  | .read => r.permR
  | .write => r.permW
  | .atomic => r.permR && r.permW

/-- The address of n bytes at offset o of an operand. -/
def operandVa (r : SReg) (o : Int) : Nat :=
  if r.tag then trunc 56 ((r.base : Int) + o) else trunc 56 ((r.num % 2 ^ 56 : Nat) + o)

/-- The capability checks of a memory operand: permission 0x05, then bounds 0x04; none for a plain address (R238). -/
def operandVerdict (r : SReg) (acc : Acc) (o : Int) (n : Nat) : Verdict :=
  if r.tag then
    (need (r.grants acc) ⟨5, 0, r.hid, 0⟩).and (need (decide (0 ≤ o) && decide (o + n ≤ r.len)) ⟨4, 0, r.hid, 0⟩)
  else .ok

/-- The alignment check of R243: 0x06 for an LDA, 0x07 for the others. -/
def alignVerdict (cause va n : Nat) : Verdict := need (n == 0 || va % n == 0) ⟨cause, va, 0, 0⟩

/-- The verdict of a translated access: the heap check is a precise trap, the causes of R103 are translation faults. -/
def AccX.verdict : AccX → Verdict
  | .ok _ _ _ => .ok
  | .fault c a => if c = 0 then .wait else if c = 9 then .trap ⟨9, a, 0, 0⟩ else .fault c a

/-- The first piece's memory key. -/
def AccX.key (x : AccX) : Nat :=
  match x.pieces with
  | p :: _ => (p.key?).getD 0
  | [] => 0

/-- An access of the acting context, translated. -/
def State.access (s : State) (acc : Acc) (va n : Nat) : AccX := s.xlatAccess (s.envOf s.act.ck) acc va n

/-- Accesses to strongly ordered pages that the context has made and that are not performed yet (R98). -/
def State.soPending (s : State) : Bool :=
  s.ctx.var.any VarW.so || (s.unacked s.act.ck).any fun a => a.so && !a.performed

/-- An access to a strongly ordered page is held while speculating, commits the gated stores first (R243, R414), and is performed after
the context's earlier ones (R98). -/
def soVerdict (x : AccX) (s : State) : Verdict :=
  if !x.so then .ok
  else if s.ctx.spec then .block .spec
  else if !s.ctx.gated.isEmpty then .commit
  else if s.soPending then .wait
  else .ok

/-- An access to a strongly ordered page makes its bundle irrevocable. -/
def markSo (x : AccX) (s : State) : State := if x.so then s.onCtx fun c => { c with irrev := true } else s

/-- Combine the translations of the parts of one operation, in order. -/
def AccX.append (a b : AccX) : AccX :=
  match a, b with
  | .fault c v, _ => .fault c v
  | _, .fault c v => .fault c v
  | .ok p1 s1 l1, .ok p2 s2 l2 => .ok (p1 ++ p2) (s1 || s2) (l1 ++ l2)

/-- Shift the pieces of an access to where its bytes stand in a larger operand. -/
def AccX.shift (k : Nat) : AccX → AccX
  | .fault c v => .fault c v
  | .ok ps so ls => .ok (ps.map fun p => { p with idx := p.idx + k }) so ls

/-- Atomics, barrier and ring operations need a target of memory other than the accumulator store: types 4, 5 and 6 fault with 0x07
(R243); a barrier or ring lies in memory of type 0 to 3 (R258, R265), so they do not reach a remote chip. -/
def rmwTarget (chipOk : Bool) (x : AccX) (va : Nat) : Verdict :=
  if x.pieces.any (fun p => p.inAcc || (match p.loc with
    | .mmio _ => true
    | .pcie _ => true
    | .chip _ => !chipOk
    | _ => false)) then .fault 7 va else .ok

/-! ### Tile operands (R146) -/

/-- A tile operand inside the window, else 0x05. -/
def tileVerdict (b : Bank) (n : Nat) : Verdict := need (b.tile n).isSome ⟨5, 0, 0, 0⟩

/-- The core tile register of an operand that passed the check. -/
def Bank.tileNo (b : Bank) (n : Nat) : Nat := (b.tile n).getD 0

/-! ### Scalar operand words (R279) -/

/-- The value of a scalar operand word on the acting GFE, modulo 2^64; base 2 counts parts across dies and chips (R309). -/
def Gfe.sow (g : Gfe) : Sow → Nat
  | .imm i => trunc 64 i
  | .reg n => (AMap.get (0 : Word) g.g n).toNat
  | .regPlus n k => trunc 64 (((AMap.get (0 : Word) g.g n).toNat : Int) + k)
  | .part sel k =>
    let base := if sel = 0 then g.shard else if sel = 1 then g.rank else g.shard + g.width * g.rank
    trunc 64 ((base : Int) + k)

end Sys2Proof.Machine
end

