-- ==== Sys2Proof/Machine/MmioRead.lean ====
section
/-! DEFINITION. What a read of a device MMIO register returns (R425 and the rules of each register), and the accesses that engines
and other units make: the view they use of unit scratch (R110, R214), far pieces, and reads of the outside. -/

namespace Sys2Proof.Machine

/-- A register of the I/O die that holds what was written or computed (R425). -/
def State.ioReg (s : State) (o : Nat) : Nat := (AMap.get (0 : Word) s.io o).toNat

def State.setIo (s : State) (o v : Nat) : State := { s with io := AMap.ins o (BitVec.ofNat 64 v) s.io }

/-- DEVSTAT: the dies in service and reduced service (R446). -/
def State.devstat (s : State) : Nat :=
  (upTo 8).foldl (fun a d => a + (if s.dies.contains d then 2 ^ d else 0)) 0 + 256 * s.reduced.toNat

/-- ISLANDi: LVL, 15 until it is written (log 14), and bit 63 while a change is in progress (R448). -/
def State.island (s : State) (i : Nat) : Nat :=
  (AMap.get (15 : Word) s.io (0x1000 + 8 * i)).toNat % 16 + (AMap.get (false, 0) s.islands i).1.toNat * 2 ^ 63

/-- The value an MMIO register reads (R425); write-only triggers read zero. -/
def State.mmioRead (s : State) (o : Nat) : Nat :=
  if o = 0x00 then s.psdctl.toNat
  else if o = 0x08 then s.psdva.toNat
  else if o = 0x18 || o = 0x20 || o = 0x30 then 0
  else if o = 0x38 then s.devstat
  else if o < 0x1000 then s.ioReg o
  else if o < 0x1000000 then s.island ((o - 0x1000) / 8)
  else
    let d := (o - 0x1000000) / 0x100000
    let r := o % 0x100000
    if r = 0 then (AMap.get 0 s.sdctl d).toNat
    else if r = 8 then (AMap.get 0 s.sdva d).toNat
    else if r = 0x10 then (AMap.get 0 s.graddr d).toNat
    else if r = 0x18 then 0
    else if 0x1000 ≤ r && decide (r < 0x5000) then
      let q := s.queue (256 * d + (r - 0x1000) / 0x40)
      match r % 0x40 with
      | 0x00 => q.qcfg.toNat
      | 0x08 => q.qrcb.toNat
      | 0x10 => q.qsave.toNat
      | 0x18 => q.qsig.toNat
      | _ => 0
    else (s.coreAt (128 * d + (r - 0x8000) / 8)).svcreq.toNat

/-! ### Pieces as a unit reads them -/

/-- The bytes of one piece, and the state after the read: a read of the outside takes the next answer (log 15). -/
def State.readPiece (s : State) (p : Piece) : List Byte × State :=
  match p.loc with
  | .mem key => (s.mem.readBytes key p.n, s)
  | .zero => (List.replicate p.n 0, s)
  | .mmio off => ((leBytes (s.mmioRead (off / 8 * 8)) 8).take p.n, s)
  | .pcie ta => ((upTo p.n).map (Config.outsideByte s.outside), { s.say (.pcieRead ta p.n) with outside := s.outside + 1 })
  | .chip ta => ((upTo p.n).map (Config.outsideByte s.outside), { s.say (.chipRead ta p.n) with outside := s.outside + 1 })

/-- The bytes of an access, piece by piece. -/
def State.readPieces (s : State) : List Piece → List Byte × State
  | [] => ([], s)
  | p :: ps =>
    let a := s.readPiece p
    let b := a.2.readPieces ps
    (a.1 ++ b.1, b.2)

/-- A piece as a unit sees it that addresses unit scratch through one view: the offset is read as an offset of that view (R110). -/
def Piece.viewed (swz : Bool) (p : Piece) : Piece :=
  match p.loc with
  | .mem key =>
    if scratchBase ≤ key && p.swz != swz then
      match windowPlace (key - scratchBase) with
      | some w =>
        if w.level = 3 then
          let r := (key - scratchBase) % 2 ^ 21
          { p with loc := .mem (key - r + unswizzle r), swz := swz }
        else p
      | none => p
    else p
  | _ => p

def AccX.viewed (swz : Bool) : AccX → AccX
  | .fault c v => .fault c v
  | .ok ps so ls => .ok (ps.map (Piece.viewed swz)) so ls

/-- What a unit's access comes to: bytes with the state after it, a fault, or waiting for a route. -/
inductive UnitRd where
  | ok (bs : List Byte) (s : State)
  | fault (cause va : Nat)
  | wait
deriving DecidableEq, Repr

/-- The byte that a store of a context's work replaced and that one of its engines may still read, where the free choice takes it: nothing
orders the store before the command until it is acknowledged (R218). -/
def State.lateByte (s : State) (core uid key : Nat) : Option Byte :=
  match s.acks.find? fun a => a.uid == uid && a.ck / 4 == core && a.old.any fun o => o.1 == key with
  | some a => if Config.freeBool (s.fresh + key) then (a.old.find? fun o => o.1 == key).map Prod.snd else none
  | none => none

/-- The memory keys of the bytes of pieces. -/
def pieceKeys (ps : List Piece) : List (Option Nat) :=
  ps.flatMap fun p => (upTo p.n).map fun i => p.key?.map (· + i)

/-- Read n bytes at va for a unit of a die, by the given view of unit scratch; `late` gives the bytes that are still old. -/
def State.unitLoad (s : State) (e : TEnv) (die : Nat) (swz : Bool) (late : Nat → Option Byte) (va n : Nat) : UnitRd :=
  match (s.xlatAccess e .read va n).viewed swz with
  | .fault c a => if c = 0 then .wait else .fault c a
  | .ok ps _ ls =>
    if s.allReachable die ps then
      let r := (s.walkedAll e .read ls).readPieces ps
      .ok (List.zipWith (fun k b => (k.bind late).getD b) (pieceKeys ps) r.1) r.2
    else .wait

/-- Write bytes at va for a unit of a die: memory at once, other targets as traffic to the I/O die; `ck` and `uid` name the context whose write
it counts as (R104, R126). -/
def State.unitStore (s : State) (e : TEnv) (die ck uid : Nat) (swz : Bool) (va : Nat) (bs : List Byte) : UnitRd :=
  match (s.xlatAccess e .write va bs.length).viewed swz with
  | .fault c a => if c = 0 then .wait else .fault c a
  | .ok ps so ls =>
    if s.allWritable die ps then
      .ok [] (ps.foldl (fun s p =>
        let part := (bs.drop p.idx).take p.n
        match p.loc with
        | .mem _ => s.putPiece p part
        | .zero => s
        | _ => (s.send die 8 (.write p part s.nextAck)).addAck ck uid 8 false p.isChip (if e.core.isSome then leafPages ls else []) so) (s.walkedAll e .write ls))
    else .wait

end Sys2Proof.Machine
end

