-- ==== Sys2Proof/Machine/Handles.lean ====
section
/-! DEFINITION. The Handle Table: entries, layouts and element offsets, and the capabilities minted from entries (R31, R112, R113,
R292, R294). -/

namespace Sys2Proof.Machine

/-- A Handle Table entry (R112). -/
structure HEnt where
  hid : Nat
  valid : Bool
  ndim : Nat
  pin : Nat
  version : Nat
  shard : Nat
  fmt : Nat
  layout : Nat
  /-- STR1 to STR5. -/
  str : List Nat
  /-- DIM0 to DIM5. -/
  dim : List Nat
  cap : Nat
deriving DecidableEq, Repr

def HEnt.base (h : HEnt) : Nat := bitsOf h.cap 72 56
def HEnt.len (h : HEnt) : Nat := bitsOf h.cap 32 40
/-- R W E N S as five bits, R highest. -/
def HEnt.perm (h : HEnt) : Nat := bitsOf h.cap 27 5
def HEnt.canRead (h : HEnt) : Bool := bitOf h.perm 4
def HEnt.canWrite (h : HEnt) : Bool := bitOf h.perm 3
def HEnt.res (h : HEnt) : Nat := bitsOf h.cap 16 4
def HEnt.placed (h : HEnt) : Bool := h.res != 15
def HEnt.ext (h : HEnt) (k : Nat) : Nat := if k < h.ndim then nth 0 h.dim k else 1
def HEnt.dims (h : HEnt) : List Nat := h.dim.take h.ndim
def HEnt.stride (h : HEnt) (k : Nat) : Nat := nth 0 h.str (k - 1)
/-- The entry's capability as a tagged register. -/
def HEnt.reg (h : HEnt) : SReg := ⟨BitVec.ofNat 128 h.cap, true⟩

/-- The 64 bytes of an entry. -/
def HEnt.bytes (h : HEnt) : List Byte :=
  leBytes h.cap 16 ++ ((upTo 6).flatMap fun k => leBytes (nth 0 h.dim k) 3) ++ ((upTo 5).flatMap fun k => leBytes (nth 0 h.str k) 4)
    ++ leBytes h.layout 1 ++ leBytes (h.fmt % 16) 1 ++ leBytes h.shard 2 ++ leBytes (h.version % 2 ^ 32) 4
    ++ leBytes (h.valid.toNat * 2 ^ 15 + h.ndim % 8 * 2 ^ 12 + h.pin % 16 * 2 ^ 8) 2

/-- An entry from its 64 bytes. -/
def HEnt.ofBytes (hid : Nat) (l : List Byte) : HEnt :=
  let at' := fun i n => leNat ((l.drop i).take n)
  let fl := at' 0x3E 2
  { hid := hid, valid := bitOf fl 15, ndim := bitsOf fl 12 3, pin := bitsOf fl 8 4, version := at' 0x3A 4, shard := at' 0x38 2,
    fmt := at' 0x37 1 % 16, layout := at' 0x36 1, str := (upTo 5).map fun k => at' (0x22 + 4 * k) 4,
    dim := (upTo 6).map fun k => at' (0x10 + 3 * k) 3, cap := at' 0 16 }

/-- Where an entry lies (R112, R292). -/
def State.entryVa (s : State) (ctxid plane hid : Nat) : Nat := (s.dev ctxid).htbase + plane * 2 ^ 22 + 64 * hid

/-- An entry whatever its VALID bit, or a temporary's; none for the null handle, an identifier past the table, or a table that cannot be read.
The device alone writes entries (R112), always at their home, so no write of one ever stands on a route. -/
def State.rawEntry (s : State) (ctxid plane hid : Nat) : Option HEnt :=
  if 65536 ≤ hid then (AMap.find? s.temps hid).map (HEnt.ofBytes hid)
  else if hid = 0 || (s.dev ctxid).htcount ≤ hid then none
  else match s.unitRead (s.ownEnv ctxid) (s.entryVa ctxid plane hid) 64 with
    | .ok l => some (HEnt.ofBytes hid l)
    | .error _ => none

/-- The walker's effects of a unit's read: A of every PTE used (R101, R102). -/
def State.readBy (s : State) (ctxid va n : Nat) : State :=
  s.walkedAll (s.unitEnv ctxid) .read (s.xlatAccess (s.unitEnv ctxid) .read va n).leaves

/-- A VALID entry. -/
def State.entry (s : State) (ctxid plane hid : Nat) : Option HEnt :=
  match s.rawEntry ctxid plane hid with
  | some h => if h.valid then some h else none
  | none => none

/-- Write an entry. -/
def State.setEntry (s : State) (ctxid plane : Nat) (h : HEnt) : State :=
  if 65536 ≤ h.hid then { s with temps := AMap.ins h.hid h.bytes s.temps }
  else match s.unitWrite (s.ownEnv ctxid) (s.entryVa ctxid plane h.hid) h.bytes with
  | .ok t => t
  | .error _ => s

/-! ### Layouts (R113, R294) -/

/-- Dense strides STR1 to STR5 of layout 0, zero past NDIM. -/
def denseStrides (dims : List Nat) : List Nat :=
  (upTo 5).map fun k => if k + 1 < dims.length then (dims.take (k + 1)).foldl (· * ·) 1 else 0

/-- Dense strides of layout 1: the tiled size of the dimensions below (R294). -/
def tiledStrides (dims : List Nat) : List Nat :=
  let row := cdiv (nth 1 dims 0) 64 * 4096
  let plane := cdiv (nth 1 dims 1) 64 * row
  (upTo 5).map fun k =>
    if k + 1 < dims.length then (if k = 0 then row else plane * ((dims.drop 2).take (k - 1)).foldl (· * ·) 1) else 0

/-- Elements of a dense tensor of layout 0 or 1. -/
def denseCount (layout : Nat) (dims : List Nat) : Nat :=
  if layout = 1 then cdiv (nth 1 dims 1) 64 * (cdiv (nth 1 dims 0) 64 * 4096) * (dims.drop 2).foldl (· * ·) 1 else dims.foldl (· * ·) 1

/-- Bytes of n elements of a format: whole bytes, rounded up; a CB2 weight tensor counts its images (R220, R322). -/
def fmtSize (f n : Nat) : Nat := cdiv (n * fmtWidth f) 8

/-- The element number of coordinates under layouts 0 and 1, and of the inner dimensions under layout 2. -/
def HEnt.index (h : HEnt) (ix : List Nat) : Nat :=
  let i := fun k => nth 0 ix k
  if h.layout = 1 then
    i 1 / 64 * h.stride 1 + i 0 / 64 * 4096 + i 1 % 64 * 64 + i 0 % 64 + ((upTo 4).foldl (fun a k => a + i (k + 2) * h.stride (k + 2)) 0)
  else i 0 + ((upTo 5).foldl (fun a k => a + i (k + 1) * (if k + 1 < h.ndim then h.stride (k + 1) else 0)) 0)

/-- Fields of a layout-2 entry's last word, held in STR5: RLOG, BLOG, block-table handle (R294). -/
def HEnt.rlog (h : HEnt) : Nat := bitsOf (nth 0 h.str 4) 21 4
def HEnt.blog (h : HEnt) : Nat := bitsOf (nth 0 h.str 4) 16 5
def HEnt.bth (h : HEnt) : Nat := bitsOf (nth 0 h.str 4) 0 16

/-- A 32-bit little-endian number at a virtual address, as a unit reads it, or the fault. -/
def State.word32 (s : State) (ctxid va : Nat) : Except (Nat × Nat) Nat :=
  match s.unitRead (s.unitEnv ctxid) va 4 with
  | .ok l => .ok (leNat l)
  | .error x => .error x

/-- The bit offset of an element from the capability's base, whole bytes except for 4-bit formats (R113), or the fault of its block-table word. -/
def State.elemPlace (s : State) (ctxid plane : Nat) (h : HEnt) (ix : List Nat) : Except (Nat × Nat) Nat :=
  if h.layout = 2 then
    let o := h.ndim - 1
    let io := nth 0 ix o
    let inner := h.index (setNth 0 ix o)
    let tb := match s.entry ctxid plane h.bth with
      | some t => t.base
      | none => 0
    match s.word32 ctxid (tb + 4 * (io / 2 ^ h.rlog)) with
    | .ok blk => .ok (blk * 2 ^ h.blog * 8 + (io % 2 ^ h.rlog * h.stride o + inner) * fmtWidth h.fmt)
    | .error x => .error x
  else .ok (h.index ix * fmtWidth h.fmt)

/-- The same where the word can be read. -/
def State.elemBit (s : State) (ctxid plane : Nat) (h : HEnt) (ix : List Nat) : Nat := (s.elemPlace ctxid plane h ix).toOption.getD 0

/-- The pattern of an element, as a unit of the device reads it, or the fault: cause and address. -/
def State.readElem (s : State) (ctxid plane : Nat) (h : HEnt) (ix : List Nat) : Except (Nat × Nat) Nat :=
  match s.elemPlace ctxid plane h ix with
  | .error x => .error x
  | .ok b =>
    match s.unitRead (s.unitEnv ctxid) (h.base + b / 8) (cdiv (b % 8 + fmtWidth h.fmt) 8) with
    | .ok l => .ok (bitsOf (leNat l) (b % 8) (fmtWidth h.fmt))
    | .error x => .error x

/-- The walker's effects of reading an element. -/
def State.readElemBy (s : State) (ctxid plane : Nat) (h : HEnt) (ix : List Nat) : State :=
  let b := s.elemBit ctxid plane h ix
  s.readBy ctxid (h.base + b / 8) (cdiv (b % 8 + fmtWidth h.fmt) 8)

/-- Write an element's pattern; a 4-bit element keeps its byte's other half. -/
def State.writeElem (s : State) (ctxid plane : Nat) (h : HEnt) (ix : List Nat) (v : Nat) : Except (Nat × Nat) State :=
  match s.elemPlace ctxid plane h ix with
  | .error x => .error x
  | .ok b =>
    let va := h.base + b / 8
    let w := fmtWidth h.fmt
    let e := s.unitEnv ctxid
    if w % 8 = 0 then s.unitWrite e va (leBytes v (w / 8))
    else match s.unitRead e va 1 with
      | .error x => .error x
      | .ok l =>
        let o := leNat l
        s.unitWrite e va (leBytes (o - bitsOf o (b % 8) w * 2 ^ (b % 8) + v % 2 ^ w * 2 ^ (b % 8)) 1)

/-- Elements of a handle's local shard. -/
def HEnt.count (h : HEnt) : Nat := h.dims.foldl (· * ·) 1

/-- Bytes of a handle's local shard: what its dense form takes, a codebook tensor its images of 1,152 bytes (R220, R294, R322). -/
def HEnt.size (h : HEnt) : Nat :=
  if h.fmt = 9 then cdiv (h.ext 0) 64 * cdiv (h.ext 1) 64 * 1152 * ((h.dims.drop 2).foldl (· * ·) 1)
  else fmtSize h.fmt (denseCount h.layout h.dims)

/-- A codebook tensor as the tensor of its images (R220, R322), which move whole: format number 16 stands for an image, and the columns
of images come before the rows, as they are stored (log 58). -/
def HEnt.cells (h : HEnt) : HEnt :=
  if h.fmt = 9 then
    let d := (if h.ndim < 2 then [cdiv (h.ext 0) 64] else [cdiv (h.ext 1) 64, cdiv (h.ext 0) 64]) ++ h.dims.drop 2
    { h with fmt := 16, layout := 0, dim := d, ndim := d.length, str := denseStrides d }
  else h

/-- A codebook tensor as one row of its images. -/
def HEnt.cellRow (h : HEnt) : HEnt :=
  if h.fmt = 9 then { h with fmt := 16, layout := 0, dim := [h.size / 1152], ndim := 1, str := denseStrides [h.size / 1152] } else h

/-- A dimension, and an index along it, of a tensor of images. -/
def HEnt.cellDim (h : HEnt) (k : Nat) : Nat := if h.fmt = 16 && decide (2 ≤ h.ndim) && decide (k < 2) then 1 - k else k
def HEnt.cellAt (h : HEnt) (k n : Nat) : Nat := if h.fmt = 16 && decide (k < 2) then n / 64 else n

/-- Coordinates of the n-th element in dense order, dimension 0 fastest. -/
def coords : List Nat → Nat → List Nat
  | [], _ => []
  | d :: ds, n => (if d = 0 then 0 else n % d) :: coords ds (if d = 0 then n else n / d)

/-- The dense element number of coordinates. -/
def denseIndex : List Nat → List Nat → Nat
  | d :: ds, i :: is => i + d * denseIndex ds is
  | _, _ => 0

end Sys2Proof.Machine
end

