-- ==== Sys2Proof/Machine/Flags.lean ====
section
/-! DEFINITION. Predicates and status: the conditions of scalar and vector compares (R170, R199), predicate logic (R171), and the
eight status lines of DISPATCH (R182). -/

namespace Sys2Proof.Machine

/-- The condition codes of R170 on 64-bit values. -/
def condHolds (cond a b : Nat) : Bool :=
  match cond with
  | 0 => a == b
  | 1 => a != b
  | 2 => decide (sext a 64 < sext b 64)
  | 3 => decide (sext b 64 ≤ sext a 64)
  | 4 => decide (sext a 64 ≤ sext b 64)
  | 5 => decide (sext b 64 < sext a 64)
  | 6 => decide (a < b)
  | 7 => decide (b ≤ a)
  | 8 => decide (a ≤ b)
  | 9 => decide (b < a)
  | _ => false

/-- The vector conditions of R199 on element patterns of format f. -/
def vcondHolds (f cond a b : Nat) : Bool :=
  let x := real f a
  let y := real f b
  let nan := x.isNan || y.isNan
  match cond with
  | 0 => Ex.eqv x y
  | 1 => nan || !(Ex.eqv x y)
  | 2 => Ex.lt x y
  | 3 => Ex.le y x
  | 4 => Ex.le x y
  | 5 => Ex.lt y x
  | 6 => nan
  | _ => false

/-- PAND, POR and PXOR on inverted inputs (R171): op 0, 1, 2; neg = 2 NA + NB. -/
def predLogic (op neg : Nat) (a b : Bool) : Bool :=
  let x := a != bitOf neg 1
  let y := b != bitOf neg 0
  match op with
  | 0 => x && y
  | 1 => x || y
  | _ => x != y

/-- A command of a queue that a context issued and that has not completed. -/
def Core.busy (c : Core) (uid : Nat) (qs : List Nat) : Bool := c.cmds.any fun e => e.work.uid == uid && qs.contains e.q

/-- The status lines of R182 for a context, line 0 in bit 0. -/
def statusLines (c : Core) (k : Ctx) : Nat :=
  let x := k.work.uid
  let full := match c.shadow with
    | .full _ => true
    | _ => false
  (c.busy x [0, 1]).toNat + 2 * (c.busy x [2]).toNat + 4 * (c.busy x [3]).toNat + 8 * (c.busy x [5]).toNat + 16 * full.toNat
    + 32 * (k.bank.kreg 0x20 == 0).toNat + 64 * (k.bank.kreg 0x21 == 0).toNat + 128 * k.spec.toNat

/-- The selected lines packed upward in line order (R183). -/
def packLines (smask st : Nat) : Nat × Nat :=
  iter (fun i (p : Nat × Nat) => if bitOf smask i then (p.1 + (bitOf st i).toNat * 2 ^ p.2, p.2 + 1) else p) 8 (0, 0)

end Sys2Proof.Machine
end

