-- ==== Sys2Proof/Machine/Scalar.lean ====
section
/-! DEFINITION. The S slot: integer, compare, predicate, capability, k-register and control operations (R166 to R184, R187). A
result takes effect after its latency (R143), so the slots of one bundle never see each other's results (R138). -/

namespace Sys2Proof.Machine

/-- A fixed-latency integer result computed from the context's bank. -/
def intOp (lat d : Nat) (f : Bank → Nat) (s : State) : Host.Outcome State Fault Refusal :=
  always s fun s => s.onCtx fun c => c.later lat [intW d (f c.bank)]

/-! ### Integer operations (R168, R169) -/

/-- MOV copies all 129 bits. -/
def execMov (d a : Nat) (s : State) : Host.Outcome State Fault Refusal :=
  always s fun s => s.onCtx fun c => c.later 1 [.s d (c.bank.sreg a)]

/-- LI. -/
def execLi (d : Nat) (imm : Int) (s : State) : Host.Outcome State Fault Refusal := intOp 1 d (fun _ => trunc 64 imm) s

/-- LIH reads sd as a source. -/
def execLih (d imm : Nat) (s : State) : Host.Outcome State Fault Refusal :=
  intOp 1 d (fun b => imm * 2 ^ 42 + b.int d % 2 ^ 42) s

/-- ADD. -/
def execAdd (d a b : Nat) (s : State) : Host.Outcome State Fault Refusal := intOp 1 d (fun k => k.int a + k.int b) s

/-- ADDI. -/
def execAddi (d a : Nat) (imm : Int) (s : State) : Host.Outcome State Fault Refusal :=
  intOp 1 d (fun k => trunc 64 ((k.int a : Int) + imm)) s

/-- SUB. -/
def execSub (d a b : Nat) (s : State) : Host.Outcome State Fault Refusal :=
  intOp 1 d (fun k => trunc 64 ((k.int a : Int) - k.int b)) s

/-- MUL. -/
def execMul (d a b : Nat) (s : State) : Host.Outcome State Fault Refusal := intOp 3 d (fun k => k.int a * k.int b) s

/-- An operand as mode 0 signed or mode 1 unsigned reads it. -/
def asMode (mode v : Nat) : Int := if mode = 1 then (v : Int) else sext v 64

/-- MULH: both signed, both unsigned, or a signed and b unsigned. -/
def mulhVal (mode a b : Nat) : Int :=
  (if mode = 1 then (a : Int) else sext a 64) * (if mode = 0 then sext b 64 else (b : Int)) / (2 ^ 64 : Nat)

def execMulh (d a b mode : Nat) (s : State) : Host.Outcome State Fault Refusal :=
  intOp 3 d (fun k => trunc 64 (mulhVal mode (k.int a) (k.int b))) s

/-- Quotient and remainder of R169, each modulo 2^64. -/
def divRem (mode a b : Nat) : Nat × Nat :=
  let x := asMode mode a
  let y := asMode mode b
  if y = 0 then (2 ^ 64 - 1, a % 2 ^ 64)
  else
    let q := x.tdiv y
    (trunc 64 q, trunc 64 (x - y * q))

/-- DIV. -/
def execDiv (d a b mode : Nat) (s : State) : Host.Outcome State Fault Refusal :=
  intOp 18 d (fun k => (divRem mode (k.int a) (k.int b)).1) s

/-- REM. -/
def execRem (d a b mode : Nat) (s : State) : Host.Outcome State Fault Refusal :=
  intOp 18 d (fun k => (divRem mode (k.int a) (k.int b)).2) s

/-- AND. -/
def execAnd (d a b : Nat) (s : State) : Host.Outcome State Fault Refusal := intOp 1 d (fun k => Nat.land (k.int a) (k.int b)) s

/-- OR. -/
def execOr (d a b : Nat) (s : State) : Host.Outcome State Fault Refusal := intOp 1 d (fun k => Nat.lor (k.int a) (k.int b)) s

/-- XOR. -/
def execXor (d a b : Nat) (s : State) : Host.Outcome State Fault Refusal := intOp 1 d (fun k => Nat.xor (k.int a) (k.int b)) s

/-- The three shifts of R168. -/
def shlVal (a n : Nat) : Nat := a * 2 ^ n
def shrVal (a n : Nat) : Nat := a / 2 ^ n
def sraVal (a n : Nat) : Nat := trunc 64 (asr (sext a 64) n)

/-- SHL by b[5:0]. -/
def execShl (d a b : Nat) (s : State) : Host.Outcome State Fault Refusal := intOp 1 d (fun k => shlVal (k.int a) (k.int b % 64)) s

/-- SHL by the immediate amount. -/
def execShlImm (d a n : Nat) (s : State) : Host.Outcome State Fault Refusal := intOp 1 d (fun k => shlVal (k.int a) n) s

/-- SHR by b[5:0]. -/
def execShr (d a b : Nat) (s : State) : Host.Outcome State Fault Refusal := intOp 1 d (fun k => shrVal (k.int a) (k.int b % 64)) s

/-- SHR by the immediate amount. -/
def execShrImm (d a n : Nat) (s : State) : Host.Outcome State Fault Refusal := intOp 1 d (fun k => shrVal (k.int a) n) s

/-- SRA by b[5:0]. -/
def execSra (d a b : Nat) (s : State) : Host.Outcome State Fault Refusal := intOp 1 d (fun k => sraVal (k.int a) (k.int b % 64)) s

/-- SRA by the immediate amount. -/
def execSraImm (d a n : Nat) (s : State) : Host.Outcome State Fault Refusal := intOp 1 d (fun k => sraVal (k.int a) n) s

/-- MIN. -/
def execMin (d a b mode : Nat) (s : State) : Host.Outcome State Fault Refusal :=
  intOp 1 d (fun k => if asMode mode (k.int a) ≤ asMode mode (k.int b) then k.int a else k.int b) s

/-- MAX. -/
def execMax (d a b mode : Nat) (s : State) : Host.Outcome State Fault Refusal :=
  intOp 1 d (fun k => if asMode mode (k.int a) ≤ asMode mode (k.int b) then k.int b else k.int a) s

/-- SEL clears the tag of its result. -/
def execSel (d n a b : Nat) (s : State) : Host.Outcome State Fault Refusal :=
  intOp 1 d (fun k => if k.pred n then k.int a else k.int b) s

/-! ### Compares and predicates (R170, R171) -/

/-- A predicate pair computed from the bank. -/
def pairOp (pd pc : Nat) (f : Bank → Bool) (s : State) : Host.Outcome State Fault Refusal :=
  always s fun s => s.onCtx fun c => c.later 1 (pairW pd pc (f c.bank))

/-- CMP. -/
def execCmp (pd pc a b cond : Nat) (s : State) : Host.Outcome State Fault Refusal :=
  pairOp pd pc (fun k => condHolds cond (k.int a) (k.int b)) s

/-- CMPI compares with the sign-extended pattern. -/
def execCmpi (pd pc a : Nat) (imm : Int) (cond : Nat) (s : State) : Host.Outcome State Fault Refusal :=
  pairOp pd pc (fun k => condHolds cond (k.int a) (trunc 64 imm)) s

/-- A predicate computed from two. -/
def predOp (op pd pa pb neg : Nat) (s : State) : Host.Outcome State Fault Refusal :=
  always s fun s => s.onCtx fun c => c.later 1 [.p pd (predLogic op neg (c.bank.pred pa) (c.bank.pred pb))]

/-- PAND. -/
def execPand (pd pa pb neg : Nat) (s : State) : Host.Outcome State Fault Refusal := predOp 0 pd pa pb neg s

/-- POR. -/
def execPor (pd pa pb neg : Nat) (s : State) : Host.Outcome State Fault Refusal := predOp 1 pd pa pb neg s

/-- PXOR. -/
def execPxor (pd pa pb neg : Nat) (s : State) : Host.Outcome State Fault Refusal := predOp 2 pd pa pb neg s

/-! ### Capabilities (R172 to R175) -/

/-- CNARROW's checks, in order. -/
def cnarrowVerdict (c : SReg) (a b : Nat) : Verdict :=
  (need c.tag ⟨3, 0, 0, 0⟩).and <| (need c.permN ⟨5, 0, c.hid, 0⟩).and <|
    need (decide (a ≤ c.len) && decide (b ≤ c.len - a)) ⟨4, 0, c.hid, 0⟩

/-- The narrowed capability: base raised by a, length b, every other bit and the tag unchanged. -/
def cnarrowed (c : SReg) (a b : Nat) : SReg :=
  ⟨BitVec.ofNat 128 ((c.base + a) % 2 ^ 56 * 2 ^ 72 + b % 2 ^ 40 * 2 ^ 32 + c.num % 2 ^ 32), c.tag⟩

/-- The checks of CNARROW. -/
def cnarrowCheck (c a b : Nat) (s : State) : Verdict :=
  let k := s.ctx.bank
  cnarrowVerdict (k.sreg c) (k.int a) (k.int b)

/-- CNARROW. -/
def execCnarrow (c a b : Nat) (s : State) : Host.Outcome State Fault Refusal :=
  slotOp (cnarrowCheck c a b s) s fun s =>
    s.onCtx fun x => x.later 1 [.s c (cnarrowed (x.bank.sreg c) (x.bank.int a) (x.bank.int b))]

/-- Permissions R, W, E, N kept only where the mask bit is 1; S unchanged. -/
def cpermed (c : SReg) (keep : Nat) : SReg :=
  ⟨BitVec.ofNat 128 (c.num - bitsOf c.num 28 4 * 2 ^ 28 + Nat.land (bitsOf c.num 28 4) keep * 2 ^ 28), c.tag⟩

/-- The checks of CPERM. -/
def cpermCheck (c : Nat) (s : State) : Verdict :=
  need (s.ctx.bank.sreg c).tag ⟨3, 0, 0, 0⟩

/-- CPERM. -/
def execCperm (c keep : Nat) (s : State) : Host.Outcome State Fault Refusal :=
  slotOp (cpermCheck c s) s fun s =>
    s.onCtx fun x => x.later 1 [.s c (cpermed (x.bank.sreg c) keep)]

/-- CGET's fields. -/
def cgetField (r : SReg) (field : Nat) : Nat :=
  match field with
  | 0 => r.base
  | 1 => r.len
  | 2 => bitsOf r.num 27 5
  | 3 => r.fmt
  | 4 => r.res
  | 5 => r.hid
  | 6 => r.tag.toNat
  | _ => r.base + r.len

/-- CGET. -/
def execCget (d a field : Nat) (s : State) : Host.Outcome State Fault Refusal := intOp 1 d (fun k => cgetField (k.sreg a) field) s

/-- CTEST. -/
def execCtest (pd pc a mask : Nat) (s : State) : Host.Outcome State Fault Refusal :=
  pairOp pd pc (fun k => (k.sreg a).tag && Nat.land (bitsOf (k.sreg a).num 27 5) mask == mask) s

/-! ### k-registers (R147 to R151, R176) -/

/-- The context runs in the locked service store (R153). -/
def Ctx.locked (c : Ctx) : Bool := decide (7680 ≤ c.bank.pc)

/-- The value MFK reads. -/
def State.kread (s : State) (k : Nat) : Nat :=
  if k = 0x60 then s.time else if k = 0x48 || k = 0x49 then s.core.kreg k else s.ctx.bank.kreg k

/-- MFK of NCn waits until every MXGO that the context issued has completed or stopped (R158). -/
def mfkVerdict (k : Nat) (s : State) : Verdict :=
  if 0x28 ≤ k && decide (k ≤ 0x2D) && s.core.cmds.any (fun e => e.mine s.ctx && e.fault.isNone && (match e.op with
    | .mxgo _ => true
    | _ => false)) then .waitEng else .ok

/-- The checks of MFK. -/
def mfkCheck (k : Nat) (s : State) : Verdict :=
  mfkVerdict k s

/-- MFK. -/
def execMfk (d k : Nat) (s : State) : Host.Outcome State Fault Refusal :=
  slotOp (mfkCheck k s) s fun s => s.onCtx fun c => c.later 1 [intW d (s.kread k)]

/-- The bits of a k-register that a write keeps; reserved bits are ignored and read as zero (R7, R147). -/
def kWritten (k v : Nat) : Nat :=
  if k = 0x00 then v % 2 ^ 8
  else if k = 0x01 then v % 2 ^ 13
  else if k = 0x02 then v % 2 ^ 42
  else if k = 0x03 then v % 2 ^ 16
  else if k = 0x04 then v % 2 ^ 56
  else if k ≤ 0x0D then v % 2 ^ 16
  else if k ≤ 0x12 then bitsOf v 6 50 * 64
  else if k = 0x20 then v % 2 ^ 32
  else if k = 0x21 then v % 16
  else if k = 0x24 then bitsOf v 56 4 * 2 ^ 56 + bitsOf v 6 50 * 64
  else if k ≤ 0x2D then v % 2 ^ 64
  else if k ≤ 0x35 then v % 2 ^ 48
  else if k = 0x40 then v % 2 ^ 32
  else if k = 0x41 then v % 2
  else if k = 0x42 then v % 256
  else if k = 0x48 then v % 2 ^ 32
  else if k = 0x49 then bitsOf v 8 1 * 256 + min (v % 32) 16
  else if k = 0x50 then v % 2 ^ 64 - bitsOf v 7 1 * 2 ^ 7 - bitsOf v 13 3 * 2 ^ 13
  else if k = 0x53 then 0
  else v % 2 ^ 64

/-- The set of tile numbers of a window is inside another's (R148). -/
def windowInside (new old : Nat) : Bool :=
  (upTo (bitsOf new 4 4 + 1)).all fun n =>
    decide (((new % 16 + n) % 16 + 16 - old % 16) % 16 ≤ bitsOf old 4 4)

/-- MTK's checks: the access class (R147, R148, R92) outside the locked store, and RSZ's values (R151). -/
def mtkVerdict (k v : Nat) (c : Ctx) : Verdict :=
  let b := c.bank
  let open5 := need c.locked ⟨5, 0, 0, 0⟩
  if k = 0x23 then need (v % 2 ^ 10 % 16 == 0 && decide (v % 2 ^ 10 ≤ 512)) ⟨2, 0, 0, 0⟩
  else if k ≤ 0x0D || (0x28 ≤ k && decide (k ≤ 0x2D)) || k = 0x48 || k = 0x49 || k = 0x60 then open5
  else if k = 0x10 then need (c.locked || decide (b.kreg 0x10 < kWritten k v)) ⟨5, 0, 0, 0⟩
  else if k = 0x11 then need (c.locked || decide (kWritten k v < b.kreg 0x11)) ⟨5, 0, 0, 0⟩
  else if k = 0x12 then open5
  else if k = 0x42 then need (c.locked || windowInside (v % 256) (b.kreg 0x42)) ⟨5, 0, 0, 0⟩
  else .ok

/-- The register writes of an accepted MTK: RSZ sets RRB to 0, RRB is taken modulo RSZ (R151). -/
def mtkWrites (k v : Nat) (b : Bank) : List RegW :=
  if k = 0x23 then [.k 0x23 (BitVec.ofNat 64 (v % 2 ^ 10)), .k 0x22 0]
  else if k = 0x22 then
    [.k 0x22 (BitVec.ofNat 64 (if b.kreg 0x23 = 0 then 0 else v % 2 ^ 9 % b.kreg 0x23))]
  else [.k k (BitVec.ofNat 64 (kWritten k v))]

/-- The checks of MTK. -/
def mtkCheck (k a : Nat) (s : State) : Verdict :=
  let v := s.ctx.bank.int a
  mtkVerdict k v s.ctx

/-- MTK: the core's registers and TIMEBASE are written at once, the context's take effect for later bundles (R149). From the locked store,
writes of R-access registers and of TWIN are irrevocable, and TIMEBASE never steps back (R427, log 34). -/
def execMtk (k a : Nat) (s : State) : Host.Outcome State Fault Refusal :=
  let v := s.ctx.bank.int a
  slotOp (mtkCheck k a s) s fun s =>
    let s1 := if k = 0x48 || k = 0x49 then s.onCore fun c => { c with k := AMap.ins k (BitVec.ofNat 64 (kWritten k v)) c.k }
      else if k = 0x60 then { s with time := max s.time v }
      else s.onCtx fun c => c.later 1 (mtkWrites k v c.bank)
    s1.onCtx fun c => { c with
      irrev := c.irrev || (c.locked && (decide (k ≤ 0x0D)
        || (decide (0x28 ≤ k) && decide (k ≤ 0x2D)) || k == 0x42 || k == 0x48 || k == 0x49 || k == 0x60)) }

/-! ### Control transfer (R177 to R180) -/

/-- A transfer stays in the image that holds the bundle, or in the locked store (R153, R177). -/
def targetOk (c : Ctx) (t : Nat) : Bool :=
  if c.locked then decide (7680 ≤ t) else decide (c.work.img ≤ t) && decide (t < c.work.img + c.work.nb)

/-- The check of a transfer's target. -/
def transferVerdict (c : Ctx) (t : Nat) : Verdict := need (targetOk c t) ⟨5, 0, 0, 0⟩

/-- Go to a target after this bundle. -/
def Ctx.goto (c : Ctx) (t : Nat) : Ctx := { c with next := some t }

/-- The checks of BR. -/
def brCheck (a : Nat) (s : State) : Verdict :=
  let t := s.ctx.bank.int a % 8192
  transferVerdict s.ctx t

/-- BR. -/
def execBr (a : Nat) (s : State) : Host.Outcome State Fault Refusal :=
  let t := s.ctx.bank.int a % 8192
  slotOp (brCheck a s) s fun s => s.onCtx fun c => c.goto t

/-- The checks of BRI. -/
def briCheck (t : Nat) (s : State) : Verdict :=
  transferVerdict s.ctx t

/-- BRI. -/
def execBri (t : Nat) (s : State) : Host.Outcome State Fault Refusal :=
  slotOp (briCheck t s) s fun s => s.onCtx fun c => c.goto t

/-- The checks of CALLM. -/
def callmCheck (t : Nat) (s : State) : Verdict :=
  transferVerdict s.ctx t

/-- CALLM writes the absolute index of the next bundle. -/
def execCallm (d t : Nat) (s : State) : Host.Outcome State Fault Refusal :=
  slotOp (callmCheck t s) s fun s =>
    s.onCtx fun c => (c.later 1 [intW d (c.bank.pc + 1)]).goto t

/-- The checks of RETM. -/
def retmCheck (a : Nat) (s : State) : Verdict :=
  let t := s.ctx.bank.int a % 8192
  if s.ctx.inHandler then .ok else transferVerdict s.ctx t

/-- RETM; in a handler, a target outside the locked store returns to the Y-marked bundle (R153, R368). -/
def execRetm (a : Nat) (s : State) : Host.Outcome State Fault Refusal :=
  let t := s.ctx.bank.int a % 8192
  slotOp (retmCheck a s) s fun s => s.onCtx fun c => c.goto t

/-- The writes of LOOP: LC, EC, RSZ, RRB and p8 to p15 (R152, R179). -/
def loopWrites (count stages : Nat) : List RegW :=
  [.k 0x20 (BitVec.ofNat 64 (count - 1)), .k 0x21 (BitVec.ofNat 64 (if count = 0 then 0 else stages)), .k 0x23 0, .k 0x22 0,
    .p 8 (count != 0), .p 9 false, .p 10 false, .p 11 false, .p 12 false, .p 13 false, .p 14 false, .p 15 false]

/-- LOOP with its count in the slot. -/
def execLoop (count stM1 : Nat) (s : State) : Host.Outcome State Fault Refusal :=
  always s fun s => s.onCtx fun c => c.later 1 (loopWrites count (stM1 + 1))

/-- LOOP with its count in a register. -/
def execLoopReg (a stM1 : Nat) (s : State) : Host.Outcome State Fault Refusal :=
  always s fun s => s.onCtx fun c => c.later 1 (loopWrites (c.bank.int a % 2 ^ 32) (stM1 + 1))

/-- LoopStep of R152: whether to continue, and the writes; none when it does not rotate. -/
def loopStep (b : Bank) : Bool × List RegW :=
  let lc := b.kreg 0x20
  let ec := b.kreg 0x21
  let rot (ins : Bool) : List RegW :=
    ((upTo 7).map fun i => RegW.p (9 + i) (b.pred (8 + i))) ++ [.p 8 ins]
      ++ (if 0 < b.kreg 0x23 then [RegW.k 0x22 (BitVec.ofNat 64 ((b.kreg 0x22 + b.kreg 0x23 - 1) % b.kreg 0x23))] else [])
  if 0 < lc then (true, RegW.k 0x20 (BitVec.ofNat 64 (lc - 1)) :: rot true)
  else if 1 < ec then (true, RegW.k 0x21 (BitVec.ofNat 64 (ec - 1)) :: rot false)
  else if ec = 1 then (false, RegW.k 0x21 0 :: rot false)
  else (false, [])

/-- The checks of BRLOOP. -/
def brloopCheck (t : Nat) (s : State) : Verdict :=
  let r := loopStep s.ctx.bank
  if r.1 then transferVerdict s.ctx t else .ok

/-- BRLOOP (R180): its target is checked only when it transfers. -/
def execBrloop (t : Nat) (s : State) : Host.Outcome State Fault Refusal :=
  let r := loopStep s.ctx.bank
  slotOp (brloopCheck t s) s fun s =>
    s.onCtx fun c =>
      let c1 := c.later 1 r.2
      if r.1 then c1.goto t else c1

/-! ### DISPATCH (R181 to R184) -/

/-- The table index of R183. -/
def dispatchIndex (a sh na smask st nlog : Nat) : Nat :=
  let p := packLines smask st
  (a / 2 ^ sh % 2 ^ na * 2 ^ p.2 + p.1) % 2 ^ nlog

/-- The address of the entry. -/
def State.dispatchVa (s : State) (a sh na smask : Nat) : Nat :=
  let b := s.ctx.bank
  (bitsOf (b.kreg 0x24) 6 50 * 64 + 2 * dispatchIndex (b.int a) sh na smask (statusLines s.core s.ctx)
    (bitsOf (b.kreg 0x24) 56 4)) % 2 ^ 56

/-- The load of the entry: translated by the page tables or the window, with no heap (R183, log 21). -/
def State.dispatchAccess (s : State) (a sh na smask : Nat) : AccX :=
  s.xlatAccess { s.envOf s.act.ck with hbase := 0, hlimit := 0 } .read (s.dispatchVa a sh na smask) 2

/-- The entry as a plain load of the context returns it (R120). -/
def State.dispatchEntry (s : State) (x : AccX) : Nat :=
  leNat (x.pieces.flatMap fun p =>
    let bs := (s.readPiece p).1
    (upTo p.n).map fun i => (s.knownByte s.act.ck (p.loc.plus i) p.swz).getD (nth 0 bs i))

/-- The target of an entry: relative to the image that holds the bundle, or to the locked store (R177, R184). -/
def Ctx.dispatchTarget (c : Ctx) (e : Nat) : Nat := ((if c.locked then 7680 else c.work.img) + e % 8192) % 8192

/-- The entry is read where its home serves the load at once, which answers with its clock (R126, log 20); then its own checks. -/
def dispatchVerdict (a sh na smask : Nat) (s : State) : Verdict :=
  if 9 ≤ bitsOf (s.ctx.bank.kreg 0x24) 56 4 then .trap ⟨2, 0, 0, 0⟩
  else
    let x := s.dispatchAccess a sh na smask
    let die := dieOfCore s.act.core
    let e := s.dispatchEntry x
    (acquireDone s).and <| x.verdict.and <| (soVerdict x s).and <|
      if !((s.farPieces s.act.ck x.pieces).all fun p => s.reachable die p.loc.domain) then .wait
      else if bitsOf e 13 2 != 0 then .trap ⟨2, 0, 0, 0⟩
      else if bitOf e 15 then transferVerdict s.ctx (s.ctx.dispatchTarget e)
      else .ok

/-- The checks of DISPATCH. -/
def dispatchCheck (a sh na smask : Nat) (s : State) : Verdict :=
  dispatchVerdict a sh na smask s

/-- DISPATCH. -/
def execDispatch (a sh na smask : Nat) (s : State) : Host.Outcome State Fault Refusal :=
  slotOp (dispatchCheck a sh na smask s) s fun s =>
    let x := s.dispatchAccess a sh na smask
    let e := s.dispatchEntry x
    let far := s.farPieces s.act.ck x.pieces
    let s1 := far.foldl (fun t p => (t.readPiece p).2) (s.walkedAll (s.envOf s.act.ck) .read x.leaves)
    let s2 := (markSo x { s1 with fresh := s1.fresh + 1 }).onCtx fun c => { c with stamps := c.stamps ++ far.map fun p => s.clockOf p.loc.domain }
    if bitOf e 15 then s2.onCtx fun c => c.goto (c.dispatchTarget e) else s2

/-! ### TRAP (R187) -/

/-- The checks of TRAP. -/
def trapCheck (code : Nat) (_ : State) : Verdict :=
  .trap ⟨0x13, code, 0, 0⟩

/-- TRAP raises cause 0x13 with FADDR its code. -/
def execTrap (code : Nat) (s : State) : Host.Outcome State Fault Refusal :=
  slotOp (trapCheck code s) s fun s => s

end Sys2Proof.Machine
end

