-- ==== Sys2Proof/Machine/Vector.lean ====
section
/-! DEFINITION. The V slot: elementwise arithmetic, conversion, compares, bitwise operations, reductions, moves and lane predicates
(R190 to R207), with the hold latches of R140 and the lane write rule of R192. -/

namespace Sys2Proof.Machine

/-! ### Elements (R57, R192) -/

/-- Elements per vector of a format. -/
def vecCount (f : Nat) : Nat := 512 / fmtWidth f

/-- The elements of a vector, element 0 first. -/
def vecElems (f : Nat) (v : BitVec 512) : List Nat := (upTo (vecCount f)).map fun i => bitsOf v.toNat (fmtWidth f * i) (fmtWidth f)

/-- A number with fields of w bits, the first lowest. -/
def packFields (w : Nat) : List Nat → Nat
  | [] => 0
  | e :: es => e % 2 ^ w + 2 ^ w * packFields w es

/-- A vector of elements. -/
def vecPack (f : Nat) (l : List Nat) : BitVec 512 := BitVec.ofNat 512 (packFields (fmtWidth f) l)

/-- Element i of a list of elements. -/
def elem (l : List Nat) (i : Nat) : Nat := nth 0 l i

/-! ### The shapes of vector operations -/

/-- The context after a V operation read its positions: a read position loads its latch (R140). -/
def Ctx.latched (c : Ctx) (f : VFields) (readsB : Bool) : Ctx :=
  { c with latchA := (holdRead c.bank c.latchA f.ha f.va).2,
           latchB := if readsB then (holdRead c.bank c.latchB f.hb f.vb).2 else c.latchB }

/-- Position a and position b as the operation reads them. -/
def Ctx.posA (c : Ctx) (f : VFields) : BitVec 512 := (holdRead c.bank c.latchA f.ha f.va).1
def Ctx.posB (c : Ctx) (f : VFields) : BitVec 512 := (holdRead c.bank c.latchB f.hb f.vb).1

/-- A V operation that reads a, or a and b, and writes masked lanes of vd. -/
def vecOp (lat : Nat) (readsB : Bool) (f : VFields) (mask : Bank → Nat) (r : Ctx → BitVec 512) (s : State) :
    Host.Outcome State Fault Refusal :=
  always s fun s => s.onCtx fun c => (c.latched f readsB).later lat [.v (c.bank.phys f.vd) (mask c.bank) (r c)]

/-- The mask of R192. -/
def vecMask (f : VFields) (b : Bank) : Nat := b.lanes f.qp

/-- An elementwise operation on a. -/
def vecMap1 (lat : Nat) (f : VFields) (g : Nat → Nat) (s : State) : Host.Outcome State Fault Refusal :=
  vecOp lat false f (vecMask f) (fun c => vecPack f.fmt ((vecElems f.fmt (c.posA f)).map g)) s

/-- An elementwise operation on a and b. -/
def vecMap2 (lat : Nat) (f : VFields) (g : Nat → Nat → Nat) (s : State) : Host.Outcome State Fault Refusal :=
  vecOp lat true f (vecMask f)
    (fun c => vecPack f.fmt (List.zipWith g (vecElems f.fmt (c.posA f)) (vecElems f.fmt (c.posB f)))) s

/-- An elementwise operation on a, b and c. -/
def vecMap3 (lat : Nat) (f : VFields) (g : Nat → Nat → Nat → Nat) (s : State) : Host.Outcome State Fault Refusal :=
  vecOp lat true f (vecMask f)
    (fun c => vecPack f.fmt (List.zipWith (fun k p => g p.1 p.2 k) (vecElems f.fmt (c.bank.vreg f.vc))
      (List.zip (vecElems f.fmt (c.posA f)) (vecElems f.fmt (c.posB f))))) s

/-! ### Arithmetic (R193 to R195) -/

/-- VADD. -/
def execVadd (f : VFields) (s : State) : Host.Outcome State Fault Refusal :=
  vecMap2 3 f (fun a b => roundTo f.fmt f.rnd (Ex.add (real f.fmt a) (real f.fmt b))) s

/-- VSUB. -/
def execVsub (f : VFields) (s : State) : Host.Outcome State Fault Refusal :=
  vecMap2 3 f (fun a b => roundTo f.fmt f.rnd (Ex.sub (real f.fmt a) (real f.fmt b))) s

/-- VMUL. -/
def execVmul (f : VFields) (s : State) : Host.Outcome State Fault Refusal :=
  vecMap2 4 f (fun a b => roundTo f.fmt f.rnd (Ex.mul (real f.fmt a) (real f.fmt b))) s

/-- VFMA rounds once. -/
def execVfma (f : VFields) (s : State) : Host.Outcome State Fault Refusal :=
  vecMap3 4 f (fun a b c => roundTo f.fmt f.rnd (Ex.add (Ex.mul (real f.fmt a) (real f.fmt b)) (real f.fmt c))) s

/-- VMIN. -/
def execVmin (f : VFields) (s : State) : Host.Outcome State Fault Refusal := vecMap2 3 f (patMin f.fmt) s

/-- VMAX. -/
def execVmax (f : VFields) (s : State) : Host.Outcome State Fault Refusal := vecMap2 3 f (patMax f.fmt) s

/-- VCLAMP is VMIN(VMAX(A, B), C). -/
def execVclamp (f : VFields) (s : State) : Host.Outcome State Fault Refusal :=
  vecMap3 3 f (fun a b c => patMin f.fmt (patMax f.fmt a b) c) s

/-- VABS. -/
def execVabs (f : VFields) (s : State) : Host.Outcome State Fault Refusal :=
  vecMap1 3 f (fun a => roundTo f.fmt 0 (real f.fmt a).abs) s

/-- VNEG. -/
def execVneg (f : VFields) (s : State) : Host.Outcome State Fault Refusal :=
  vecMap1 3 f (fun a => roundTo f.fmt 0 (real f.fmt a).neg) s

/-! ### Transcendental operations (R196) -/

/-- VRCP. -/
def execVrcp (f : VFields) (s : State) : Host.Outcome State Fault Refusal := vecMap1 8 f (vrcp32 f.rnd) s

/-- VRSQ. -/
def execVrsq (f : VFields) (s : State) : Host.Outcome State Fault Refusal := vecMap1 8 f (vrsq32 f.rnd) s

/-- VEXP2. -/
def execVexp2 (f : VFields) (s : State) : Host.Outcome State Fault Refusal := vecMap1 8 f (vexp2f32 f.rnd) s

/-- VLOG2. -/
def execVlog2 (f : VFields) (s : State) : Host.Outcome State Fault Refusal := vecMap1 8 f (vlog2f32 f.rnd) s

/-! ### Conversion and scaling (R197, R198) -/

/-- The result vector of VCVT. -/
def vcvtResult (sf df part mode : Nat) (v : BitVec 512) : BitVec 512 :=
  let ws := fmtWidth sf
  let wd := fmtWidth df
  let m := 512 / max ws wd
  let a := vecElems sf v
  if ws ≤ wd then vecPack df ((upTo m).map fun i => cvt (elem a (part * m + i)) sf df mode)
  else vecPack df (List.replicate (part * m) 0 ++ (upTo m).map fun i => cvt (elem a i) sf df mode)

/-- The lanes a VCVT may write, before QP. -/
def vcvtLanes (sf df part : Nat) : Nat :=
  let ws := fmtWidth sf
  let wd := fmtWidth df
  if ws ≤ wd then 0xFFFF else (2 ^ (16 * wd / ws) - 1) * 2 ^ (part * (16 * wd / ws))

/-- VCVT: the source format in VC[3:0], PART in VC[5:4]. -/
def execVcvt (f : VFields) (s : State) : Host.Outcome State Fault Refusal :=
  vecOp 3 false f (fun b => Nat.land (b.lanes f.qp) (vcvtLanes (bitsOf f.vc 0 4) f.fmt (bitsOf f.vc 4 2)))
    (fun c => vcvtResult (bitsOf f.vc 0 4) f.fmt (bitsOf f.vc 4 2) f.rnd (c.posA f)) s

/-- VSCALE's element: an exponent past every format's range acts as one just past it. -/
def vscaleElem (f mode a b : Nat) : Nat := roundTo f mode ((real f a).scale (sat (sext b (fmtWidth f)) (-1024) 1024))

/-- VSCALE. -/
def execVscale (f : VFields) (s : State) : Host.Outcome State Fault Refusal := vecMap2 4 f (vscaleElem f.fmt f.rnd) s

/-! ### Compare and select (R199, R200) -/

/-- The lane predicate of VCMP, lane l in bit l. -/
def vcmpLanes (f cond j : Nat) (a b : BitVec 512) : Nat :=
  let n := 32 / fmtWidth f
  iter (fun l acc => acc + (vcondHolds f cond (elem (vecElems f a) (n * l + j)) (elem (vecElems f b) (n * l + j))).toNat * 2 ^ l) 16 0

/-- VCMP: t to the QP bits of qd and not t to those of qc. -/
def execVcmp (f : VFields) (s : State) : Host.Outcome State Fault Refusal :=
  always s fun s => s.onCtx fun c =>
    let t := vcmpLanes f.fmt (bitsOf f.vc 4 4) (bitsOf f.vc 8 2) (c.posA f) (c.posB f)
    let m := c.bank.lanes f.qp
    (c.latched f true).later 3 [.q f.vd m t, .q (bitsOf f.vc 0 4) m (0xFFFF - t)]

/-- VSEL by the lanes of qn. -/
def execVsel (f : VFields) (s : State) : Host.Outcome State Fault Refusal :=
  vecOp 3 true f (vecMask f) (fun c => mergeLanes (c.bank.lanes f.vc) (c.posB f) (c.posA f)) s

/-! ### Bitwise operations and shifts (R201, R202) -/

/-- VAND. -/
def execVand (f : VFields) (s : State) : Host.Outcome State Fault Refusal :=
  vecOp 3 true f (vecMask f) (fun c => c.posA f &&& c.posB f) s

/-- VOR. -/
def execVor (f : VFields) (s : State) : Host.Outcome State Fault Refusal :=
  vecOp 3 true f (vecMask f) (fun c => c.posA f ||| c.posB f) s

/-- VXOR. -/
def execVxor (f : VFields) (s : State) : Host.Outcome State Fault Refusal :=
  vecOp 3 true f (vecMask f) (fun c => c.posA f ^^^ c.posB f) s

/-- The two element shifts of R202, by an amount that counts as the width when it is more. -/
def vshlElem (f a n : Nat) : Nat := if fmtWidth f ≤ n then 0 else a * 2 ^ n % 2 ^ fmtWidth f
def vshrElem (f a n : Nat) : Nat :=
  let k := min n (fmtWidth f)
  if f = 6 then a / 2 ^ k else trunc (fmtWidth f) (asr (sext a (fmtWidth f)) k)

/-- VSHL. -/
def execVshl (f : VFields) (s : State) : Host.Outcome State Fault Refusal := vecMap2 3 f (vshlElem f.fmt) s

/-- VSHL with its amount in VC[5:0]. -/
def execVshlImm (f : VFields) (s : State) : Host.Outcome State Fault Refusal :=
  vecMap1 3 f (fun a => vshlElem f.fmt a (bitsOf f.vc 0 6)) s

/-- VSHR. -/
def execVshr (f : VFields) (s : State) : Host.Outcome State Fault Refusal := vecMap2 3 f (vshrElem f.fmt) s

/-- VSHR with its amount in VC[5:0]. -/
def execVshrImm (f : VFields) (s : State) : Host.Outcome State Fault Refusal :=
  vecMap1 3 f (fun a => vshrElem f.fmt a (bitsOf f.vc 0 6)) s

/-! ### Reductions and moves (R203 to R205) -/

/-- The identity of a reduction as a 32-bit pattern: add, min, max in FP32 or INT32 (R203). -/
def redIdent (float : Bool) (op : Nat) : Nat :=
  match op with
  | 0 => if float then 0x80000000 else 0
  | 1 => if float then 0x7F800000 else 0x7FFFFFFF
  | _ => if float then 0xFF800000 else 0x80000000

/-- Elements widened to FP32 or INT32, those of masked lanes replaced by the identity. -/
def redInputs (f op mask : Nat) (v : BitVec 512) : List Nat :=
  let per := 32 / fmtWidth f
  (upTo (vecCount f)).map fun i =>
    if bitOf mask (i / per) then
      (if isFloat f then cvt (elem (vecElems f v) i) f 0 0 else cvt (elem (vecElems f v) i) f 8 0)
    else redIdent (isFloat f) op

/-- VRED's 32-bit result. -/
def vredResult (f op mode mask : Nat) (v : BitVec 512) : Nat :=
  let l := redInputs f op mask v
  if isFloat f then
    match op with
    | 0 => treeFold (fun a b => roundTo 0 mode (Ex.add (real 0 a) (real 0 b))) 0 8 l
    | 1 => treeFold (patMin 0) 0 8 l
    | _ => treeFold (patMax 0) 0 8 l
  else
    match op with
    | 0 => trunc 32 (sat32 (l.foldl (fun t a => t + sext a 32) 0))
    | 1 => treeFold (patMin 8) 0 8 l
    | _ => treeFold (patMax 8) 0 8 l

/-- VRED writes lane 0 whatever QP holds. -/
def execVred (f : VFields) (s : State) : Host.Outcome State Fault Refusal :=
  vecOp 6 false f (fun _ => 1) (fun c => BitVec.ofNat 512 (vredResult f.fmt (bitsOf f.vc 0 2) f.rnd (c.bank.lanes f.qp) (c.posA f))) s

/-- VBCAST of the element VC[5:0]. -/
def execVbcast (f : VFields) (s : State) : Host.Outcome State Fault Refusal :=
  vecOp 3 false f (vecMask f) (fun c => vecPack f.fmt ((upTo (vecCount f.fmt)).map fun _ => elem (vecElems f.fmt (c.posA f)) (bitsOf f.vc 0 6))) s

/-- VEXT: the window from element VC[5:0] on across a and b. -/
def execVext (f : VFields) (s : State) : Host.Outcome State Fault Refusal :=
  vecOp 3 true f (vecMask f) (fun c => vecPack f.fmt (((vecElems f.fmt (c.posA f) ++ vecElems f.fmt (c.posB f)).drop (bitsOf f.vc 0 6)).take
    (vecCount f.fmt))) s

/-- VPERM: an index at or past n gives 0. -/
def execVperm (f : VFields) (s : State) : Host.Outcome State Fault Refusal :=
  vecOp 3 true f (vecMask f) (fun c => vecPack f.fmt ((vecElems f.fmt (c.posB f)).map fun x => elem (vecElems f.fmt (c.posA f)) x)) s

/-- VIOTA reads no vector register. -/
def execViota (f : VFields) (s : State) : Host.Outcome State Fault Refusal :=
  always s fun s => s.onCtx fun c => c.later 3 [.v (c.bank.phys f.vd) (c.bank.lanes f.qp)
    (vecPack f.fmt ((upTo (vecCount f.fmt)).map fun i => narrowTo f.fmt f.rnd (Ex.ofInt (sext f.vc 10 + i * sext f.vb 10))))]

/-! ### Lane predicates (R206) -/

/-- A lane predicate computed from others, under QP. -/
def lanesOp (f : VFields) (g : Bank → Nat) (s : State) : Host.Outcome State Fault Refusal :=
  always s fun s => s.onCtx fun c => c.later 1 [.q f.vd (c.bank.lanes f.qp) (g c.bank)]

/-- QAND. -/
def execQand (f : VFields) (s : State) : Host.Outcome State Fault Refusal :=
  lanesOp f (fun b => Nat.land (b.lanes f.va) (b.lanes f.vb)) s

/-- QOR. -/
def execQor (f : VFields) (s : State) : Host.Outcome State Fault Refusal :=
  lanesOp f (fun b => Nat.lor (b.lanes f.va) (b.lanes f.vb)) s

/-- QNOT. -/
def execQnot (f : VFields) (s : State) : Host.Outcome State Fault Refusal :=
  lanesOp f (fun b => 0xFFFF - b.lanes f.va) s

end Sys2Proof.Machine
end

