-- ==== Sys2Proof/Machine/Matrix.lean ====
section
/-! DEFINITION. The M slot as it issues (R208 to R237): operand checks (R214), taking a unit (R210), entering an engine queue (R213)
and holding back while speculating (R217). What a queued command does when its engine runs it is Machine/Engine.lean's. -/

namespace Sys2Proof.Machine

/-! ### Checks -/

/-- Capability operands checked in order, the first failure deciding (R214). -/
def capsVerdict : List (SReg × CapNeed) → Verdict
  | [] => .ok
  | (c, n) :: r => (capVerdict c n).and (capsVerdict r)

/-- A source of residency lo to hi with at least so many bytes; a destination; both. -/
def srcNeed (lo hi len : Nat) : CapNeed := ⟨true, false, lo, hi, len⟩
def dstNeed (lo hi len : Nat) : CapNeed := ⟨false, true, lo, hi, len⟩

/-- Commands of a unit that its last holder left when it was stopped: they run before another context takes the unit (R210, R399, log 107). -/
def Core.leftover (c : Core) (rot : Bool) (mine : EngCmd → Bool) : Bool :=
  c.cmds.any fun e => (if rot then e.q == 2 else decide (e.q < 2)) && !(mine e)

/-- Another context holds the unit (R210). -/
def heldVerdict (rot : Bool) (s : State) : Verdict :=
  match (if rot then s.core.holdR else s.core.holdM) with
  | some x => if x = s.act.x then .ok else .block (.held rot)
  | none => if s.core.leftover rot fun e => e.mine s.ctx then .block (.held rot) else .ok

/-- The command's queue is full (R213). -/
def queueVerdict (q : Nat) (s : State) : Verdict := if s.core.inQueue q < queueDepth q then .ok else .block (.queue q)

/-- A speculating context holds a command that writes a capability with S = 0 and residency 0, 1 or 2 (R217). -/
def shadowVerdict (ws : List SReg) (s : State) : Verdict :=
  if s.ctx.spec && ws.any (fun c => !c.permS && decide (c.res ≤ 2)) then .block .spec else .ok

/-- A command that takes no unit. -/
def freeVerdict (q : Nat) (ws : List SReg) (s : State) : Verdict := (queueVerdict q s).and (shadowVerdict ws s)

/-- A command that takes a unit. -/
def unitVerdict (rot : Bool) (q : Nat) (ws : List SReg) (s : State) : Verdict := (heldVerdict rot s).and (freeVerdict q ws s)

/-! ### Effects at issue -/

/-- The cleared state of the matrix array and of the rotator array (R209). -/
def Core.clearMatrix (c : Core) : Core := { c with active := none, shadow := .empty, cbook := [] }
def Core.clearRotator (c : Core) : Core := { c with tr := [], wr := [] }

/-- Take a unit; it is cleared when its previous holder was of another device context (R209, R210). -/
def Core.take (c : Core) (rot : Bool) (x ctxid : Nat) : Core :=
  if rot then
    let c1 := if c.lastR.isSome && c.lastR != some ctxid then c.clearRotator else c
    { c1 with holdR := some x, lastR := some ctxid }
  else
    let c1 := if c.lastM.isSome && c.lastM != some ctxid then c.clearMatrix else c
    { c1 with holdM := some x, lastM := some ctxid }

/-- Take a unit for the acting context unless it holds it already. -/
def takeUnit (rot : Bool) (s : State) : State :=
  s.onCore fun c => if (if rot then c.holdR else c.holdM) = some s.act.x then c else c.take rot s.act.x s.ctx.work.ctxid

/-- The command a context issues, with its operands as the bundle reads them (R138, R213). -/
def newCmd (s : State) (q : Nat) (op : Instr) (caps : List SReg) (args : List Nat) (vec : BitVec 512) (var : Option Nat) : EngCmd :=
  let c := s.ctx
  { seq := s.core.nextSeq, q := q, x := s.act.x, ctxid := c.work.ctxid, work := c.work, epc := c.bank.pc, op := op, caps := caps,
    args := args, vec := vec, heap := [c.bank.kreg 0x10, c.bank.kreg 0x11, c.bank.kreg 0x12], spec := c.spec, started := false,
    unit := 0, buf := [], buf2 := [], fault := none, var := var, swapped := false, pk := s.nextPacket }

/-- Enter an engine queue; a destination register waits for the command's result (R143, R213). -/
def issueCmd (q : Nat) (op : Instr) (caps : List SReg) (args : List Nat) (vec : BitVec 512) (dst : Option Dst) (s : State) : State :=
  let e := newCmd s q op caps args vec (dst.map fun _ => s.ctx.nextVar)
  let s1 := match dst with
    | some d => s.onCtx fun c => { c.inFlight d [] 1 false false with var := (c.inFlight d [] 1 false false).var.map fun (v : VarW) => if v.id = c.nextVar then { v with eng := true } else v }
    | none => s
  s1.onCore fun k => { k with nextSeq := k.nextSeq + 1, cmds := k.cmds ++ [e] }

/-! ### Tile operations (R219) -/

/-- The checks of TCFG. -/
def tcfgCheck (tn : Nat) (s : State) : Verdict :=
  (tileVerdict s.ctx.bank tn).and (freeVerdict 3 [] s)

/-- TCFG. -/
def execTcfg (tn fmt rowsM1 : Nat) (s : State) : Host.Outcome State Fault Refusal :=
  slotOp (tcfgCheck tn s) s fun s =>
    issueCmd 3 (.tcfg tn fmt rowsM1) [] [s.ctx.bank.tileNo tn] 0 none s

/-- The checks of TZERO. -/
def tzeroCheck (tn : Nat) (s : State) : Verdict :=
  (tileVerdict s.ctx.bank tn).and (freeVerdict 3 [] s)

/-- TZERO. -/
def execTzero (tn : Nat) (s : State) : Host.Outcome State Fault Refusal :=
  slotOp (tzeroCheck tn s) s fun s => issueCmd 3 (.tzero tn) [] [s.ctx.bank.tileNo tn] 0 none s

/-! ### Weights (R220 to R222) -/

/-- The image size of a weight format (R220). -/
def imageSize (fmt : Nat) : Nat := if fmt = 9 then 1152 else 4096

/-- The checks of WLOAD. -/
def wloadCheck (src : Nat) (ts : Bool) (fmt : Nat) (s : State) : Verdict :=
  let b := s.ctx.bank
  (if ts then tileVerdict b src else capVerdict (b.sreg src) (srcNeed 0 3 (imageSize fmt))).and (unitVerdict false 1 [] s)

/-- WLOAD from a capability or a tile register. -/
def execWload (src : Nat) (ts : Bool) (fmt : Nat) (s : State) : Host.Outcome State Fault Refusal :=
  slotOp (wloadCheck src ts fmt s) s
    fun s => issueCmd 1 (.wload src ts fmt) [s.ctx.bank.sreg src] [s.ctx.bank.tileNo src] 0 none (takeUnit false s)

/-- The checks of CBLOAD. -/
def cbloadCheck (sa : Nat) (s : State) : Verdict :=
  (capVerdict (s.ctx.bank.sreg sa) (srcNeed 0 3 1024)).and (unitVerdict false 1 [] s)

/-- CBLOAD. -/
def execCbload (sa : Nat) (s : State) : Host.Outcome State Fault Refusal :=
  slotOp (cbloadCheck sa s) s fun s =>
    issueCmd 1 (.cbload sa) [s.ctx.bank.sreg sa] [] 0 none (takeUnit false s)

/-! ### The nest and MXGO (R224 to R227) -/

/-- MXNEST from a register: bits [47:0] of sa. -/
def execMxnest (lvl sa : Nat) (s : State) : Host.Outcome State Fault Refusal :=
  always s fun s => s.onCtx fun c => c.later 1 [.k (0x30 + lvl) (BitVec.ofNat 64 (c.bank.int sa % 2 ^ 48))]

/-- The immediate form's value. -/
def nestImm (ws : Bool) (cnt : Nat) (astr cstr : Int) : Nat := cnt * 2 ^ 32 + ws.toNat * 2 ^ 31 + trunc 15 astr * 2 ^ 16 + trunc 16 cstr

/-- MXNEST from immediates. -/
def execMxnestImm (lvl : Nat) (ws : Bool) (cnt : Nat) (astr cstr : Int) (s : State) : Host.Outcome State Fault Refusal :=
  always s fun s => s.onCtx fun c => c.later 1 [.k (0x30 + lvl) (BitVec.ofNat 64 (nestImm ws cnt astr cstr))]

/-- An MXGO source: a capability or a tile register. -/
def mxgoSrcVerdict (b : Bank) (cap : Bool) (n : Nat) : Verdict :=
  if cap then capVerdict (b.sreg n) (srcNeed 3 3 64) else tileVerdict b n

/-- The checks of MXGO. -/
def mxgoCheck (f : MxgoF) (s : State) : Verdict :=
  let b := s.ctx.bank
  (mxgoSrcVerdict b f.asel f.a).and <| (if f.mode = 2 then mxgoSrcVerdict b f.bsel f.b else .ok).and <|
    (capVerdict (b.sreg f.sc) ⟨true, true, 4, 4, 256⟩).and (unitVerdict false 0 [b.sreg f.sc] s)

/-- MXGO captures NS0 to NS5 at issue (R225). -/
def execMxgo (f : MxgoF) (s : State) : Host.Outcome State Fault Refusal :=
  slotOp (mxgoCheck f s) s fun s =>
    let b := s.ctx.bank
    issueCmd 0 (.mxgo f) [b.sreg f.a, b.sreg f.b, b.sreg f.sc]
      ([b.tileNo f.a, b.tileNo f.b] ++ (upTo 6).map fun i => b.kreg (0x30 + i)) 0 none (takeUnit false s)

/-! ### Accumulator operations (R228, R229) -/

/-- The checks of ACCRD. -/
def accrdCheck (sc fmt : Nat) (off : Nat) (s : State) : Verdict :=
  (capVerdict (s.ctx.bank.sreg sc) (srcNeed 4 4 (64 * off + 4 * vecCount fmt))).and (freeVerdict 0 [] s)

/-- ACCRD: every lane of vd is written. -/
def execAccrd (sc vd ss fmt : Nat) (at32 scl : Bool) (off : Nat) (s : State) : Host.Outcome State Fault Refusal :=
  slotOp (accrdCheck sc fmt off s) s fun s =>
    let b := s.ctx.bank
    issueCmd 0 (.accrd sc vd ss fmt at32 scl off) [b.sreg sc] [b.int ss % 2 ^ 32] 0 (some (.vec (b.phys vd) 0xFFFF)) s

/-- The checks of ACCWR. -/
def accwrCheck (sc : Nat) (off : Nat) (s : State) : Verdict :=
  (capVerdict (s.ctx.bank.sreg sc) (dstNeed 4 4 (64 * off + 64))).and (freeVerdict 0 [s.ctx.bank.sreg sc] s)

/-- ACCWR, with its own hold latch. -/
def execAccwr (sc va : Nat) (ha : Bool) (off : Nat) (s : State) : Host.Outcome State Fault Refusal :=
  slotOp (accwrCheck sc off s) s fun s =>
    let r := holdRead s.ctx.bank s.ctx.latchM ha va
    issueCmd 0 (.accwr sc va ha off) [s.ctx.bank.sreg sc] [] r.1 none (s.onCtx fun c => { c with latchM := r.2 })

/-- The checks of ACCZ. -/
def acczCheck (sc nl off : Nat) (s : State) : Verdict :=
  (capVerdict (s.ctx.bank.sreg sc) (dstNeed 4 4 (64 * (off + nl)))).and (freeVerdict 0 [s.ctx.bank.sreg sc] s)

/-- ACCZ. -/
def execAccz (sc nl off : Nat) (s : State) : Host.Outcome State Fault Refusal :=
  slotOp (acczCheck sc nl off s) s fun s =>
    issueCmd 0 (.accz sc nl off) [s.ctx.bank.sreg sc] [] 0 none s

/-! ### Rotator operations (R230 to R232) -/

/-- The checks of RTLOAD. -/
def rtloadCheck (sa : Nat) (rf : Bool) (s : State) : Verdict :=
  (capVerdict (s.ctx.bank.sreg sa) (srcNeed 3 3 (if rf then 8 else 4))).and (unitVerdict true 2 [] s)

/-- RTLOAD. -/
def execRtload (sa nrM1 ncM1 : Nat) (rf gm : Bool) (str : Nat) (s : State) : Host.Outcome State Fault Refusal :=
  slotOp (rtloadCheck sa rf s) s fun s =>
    issueCmd 2 (.rtload sa nrM1 ncM1 rf gm str) [s.ctx.bank.sreg sa] [] 0 none (takeUnit true s)

/-- The checks of RTAPPLY. -/
def rtapplyCheck (sa sb sw : Nat) (rf uw : Bool) (s : State) : Verdict :=
  let b := s.ctx.bank
  let e := if rf then 8 else 4
  (capVerdict (b.sreg sa) (srcNeed 3 3 e)).and <| (capVerdict (b.sreg sb) (dstNeed 3 3 e)).and <|
    (if uw then .ok else capVerdict (b.sreg sw) (srcNeed 3 3 128)).and (unitVerdict true 2 [b.sreg sb] s)

/-- RTAPPLY. -/
def execRtapply (sa sb sw nrM1 ncM1 : Nat) (rf gm uw : Bool) (str : Nat) (s : State) : Host.Outcome State Fault Refusal :=
  slotOp (rtapplyCheck sa sb sw rf uw s) s fun s =>
    let b := s.ctx.bank
    issueCmd 2 (.rtapply sa sb sw nrM1 ncM1 rf gm uw str) [b.sreg sa, b.sreg sb, b.sreg sw] [] 0 none (takeUnit true s)

/-- The checks of RTREAD. -/
def rtreadCheck (s : State) : Verdict :=
  unitVerdict true 2 [] s

/-- RTREAD. -/
def execRtread (vd row : Nat) (half : Bool) (s : State) : Host.Outcome State Fault Refusal :=
  slotOp (rtreadCheck s) s fun s =>
    issueCmd 2 (.rtread vd row half) [] [] 0 (some (.vec (s.ctx.bank.phys vd) 0xFFFF)) (takeUnit true s)

/-- The checks of RTCLR. -/
def rtclrCheck (s : State) : Verdict :=
  unitVerdict true 2 [] s

/-- RTCLR. -/
def execRtclr (s : State) : Host.Outcome State Fault Refusal :=
  slotOp (rtclrCheck s) s fun s => issueCmd 2 .rtclr [] [] 0 none (takeUnit true s)

/-- The checks of RTGAIN. -/
def rtgainCheck (s : State) : Verdict :=
  unitVerdict true 2 [] s

/-- RTGAIN. -/
def execRtgain (s : State) : Host.Outcome State Fault Refusal :=
  slotOp (rtgainCheck s) s fun s => issueCmd 2 .rtgain [] [] 0 none (takeUnit true s)

/-- The checks of RTWORDS. -/
def rtwordsCheck (sa : Nat) (s : State) : Verdict :=
  (capVerdict (s.ctx.bank.sreg sa) (dstNeed 0 3 128)).and (unitVerdict true 2 [s.ctx.bank.sreg sa] s)

/-- RTWORDS. -/
def execRtwords (sa : Nat) (s : State) : Host.Outcome State Fault Refusal :=
  slotOp (rtwordsCheck sa s) s fun s =>
    issueCmd 2 (.rtwords sa) [s.ctx.bank.sreg sa] [] 0 none (takeUnit true s)

/-! ### Permute operations (R233, R234) -/

/-- The checks of PTRANS. -/
def ptransCheck (dst src : Nat) (ds ss : Bool) (s : State) : Verdict :=
  let b := s.ctx.bank
  (if ss then capVerdict (b.sreg src) (srcNeed 3 3 4096) else tileVerdict b src).and <|
    (if ds then capVerdict (b.sreg dst) (dstNeed 3 3 4096) else tileVerdict b dst).and
      (freeVerdict 3 (if ds then [b.sreg dst] else []) s)

/-- PTRANS between tile registers or capabilities; the capability checks come before the window's. -/
def execPtrans (dst src : Nat) (ds ss : Bool) (ew : Nat) (s : State) : Host.Outcome State Fault Refusal :=
  slotOp (ptransCheck dst src ds ss s) s fun s =>
    let b := s.ctx.bank
    issueCmd 3 (.ptrans dst src ds ss ew) [b.sreg src, b.sreg dst] [b.tileNo src, b.tileNo dst] 0 none s

/-- The checks of PGATHER. -/
def pgatherCheck (tn sa si nM1 : Nat) (s : State) : Verdict :=
  let b := s.ctx.bank
  (capVerdict (b.sreg sa) (srcNeed 3 3 64)).and <| (capVerdict (b.sreg si) (srcNeed 3 3 (2 * (nM1 + 1)))).and <|
    (tileVerdict b tn).and (freeVerdict 3 [] s)

/-- PGATHER. -/
def execPgather (tn sa si nM1 : Nat) (s : State) : Host.Outcome State Fault Refusal :=
  slotOp (pgatherCheck tn sa si nM1 s) s fun s =>
    let b := s.ctx.bank
    issueCmd 3 (.pgather tn sa si nM1) [b.sreg sa, b.sreg si] [b.tileNo tn] 0 none s

/-! ### Prediction and tolerance compare (R235, R236) -/

/-- Bytes per element of a format of whole bytes. -/
def fmtBytes (f : Nat) : Nat := fmtWidth f / 8

/-- The checks of PRED. -/
def predCheck (sd sa sb fmt kind : Nat) (s : State) : Verdict :=
  let b := s.ctx.bank
  let d := b.sreg sd
  (capVerdict d (dstNeed 0 3 (fmtBytes fmt))).and <| (capVerdict (b.sreg sa) (srcNeed 0 3 d.len)).and <|
    (if kind = 0 then .ok else capVerdict (b.sreg sb) (srcNeed 0 3 d.len)).and <|
    (need (d.len % fmtBytes fmt == 0) ⟨4, 0, d.hid, 0⟩).and (freeVerdict 4 [d] s)

/-- PRED; sb is not read by HOLD. -/
def execPred (sd sa sb fmt kind alpha : Nat) (s : State) : Host.Outcome State Fault Refusal :=
  slotOp (predCheck sd sa sb fmt kind s) s fun s =>
    let b := s.ctx.bank
    issueCmd 4 (.pred sd sa sb fmt kind alpha) [b.sreg sd, b.sreg sa, b.sreg sb] [] 0 none s

/-- The checks of TCMP. -/
def tcmpCheck (sa sb sc fmt : Nat) (s : State) : Verdict :=
  let b := s.ctx.bank
  let a := b.sreg sa
  (capVerdict a (srcNeed 0 3 (fmtBytes fmt))).and <| (capVerdict (b.sreg sb) (srcNeed 0 3 a.len)).and <|
    (capVerdict (b.sreg sc) (dstNeed 0 3 16)).and <|
    (need (a.len % fmtBytes fmt == 0) ⟨4, 0, a.hid, 0⟩).and (freeVerdict 4 [b.sreg sc] s)

/-- TCMP. -/
def execTcmp (sa sb sc st fmt : Nat) (cm : Bool) (s : State) : Host.Outcome State Fault Refusal :=
  slotOp (tcmpCheck sa sb sc fmt s) s fun s =>
    let b := s.ctx.bank
    issueCmd 4 (.tcmp sa sb sc st fmt cm) [b.sreg sa, b.sreg sb, b.sreg sc] [b.int st] 0 none s

end Sys2Proof.Machine
end

