-- ==== Sys2Proof/Machine/Engine.lean ====
section
/-! DEFINITION. The engines of a core: scoreboard edges (R131, R215), the units of each command (R104, R219 to R236, R248, R251,
R395), faults after issue (R216), and the events that start, advance, swap and end a command. -/

namespace Sys2Proof.Machine

/-! ### Footprints and edges (R131, R215) -/

/-- A virtual byte range. -/
structure Range where
  lo : Nat
  len : Nat
deriving DecidableEq, Repr

def Range.meets (a b : Range) : Bool := decide (a.lo < b.lo + b.len) && decide (b.lo < a.lo + a.len)

def capRange (r : SReg) : Range := ⟨r.base, r.len⟩

/-- The k-th captured capability of a command. -/
def EngCmd.capAt (e : EngCmd) (k : Nat) : SReg := nth ⟨0, false⟩ e.caps k

/-- The k-th captured number. -/
def EngCmd.argAt (e : EngCmd) (k : Nat) : Nat := nth 0 e.args k

/-- The rows of a tile move (R248). -/
def moveRows (r : SReg) (nrM1 str : Nat) : List Range := (upTo (nrM1 + 1)).map fun k => ⟨r.base + 64 * str * k, 64⟩

/-- The rows a rotator command streams (R230). -/
def rowsRange (r : SReg) (nr nc str : Nat) (rf : Bool) : List Range := (upTo nr).map fun k => ⟨r.base + 4 * str * k, (if rf then 8 else 4) * nc⟩

/-- The read set of a command: byte ranges and core tile registers. -/
def EngCmd.reads (e : EngCmd) : List Range × List Nat :=
  match e.op with
  | .wload _ ts fmt => if ts then ([], [e.argAt 0]) else ([⟨(e.capAt 0).base, imageSize fmt⟩], [])
  | .cbload _ => ([⟨(e.capAt 0).base, 1024⟩], [])
  | .mxgo f =>
    ((if f.asel then [capRange (e.capAt 0)] else []) ++ (if f.mode == 2 && f.bsel then [capRange (e.capAt 1)] else []),
      (if f.asel then [] else [e.argAt 0]) ++ (if f.mode == 2 && !f.bsel then [e.argAt 1] else []))
  | .accrd _ _ _ fmt _ _ off => ([⟨(e.capAt 0).base + 64 * off, 4 * vecCount fmt⟩], [])
  | .rtload _ nrM1 ncM1 rf _ str => (rowsRange (e.capAt 0) (nrM1 + 1) (ncM1 + 1) str rf, [])
  | .rtapply _ _ _ nrM1 ncM1 rf _ uw str =>
    (rowsRange (e.capAt 0) (nrM1 + 1) (ncM1 + 1) str rf ++ (if uw then [] else [⟨(e.capAt 2).base, 128⟩]), [])
  | .ptrans _ _ _ ss _ => if ss then ([⟨(e.capAt 0).base, 4096⟩], []) else ([], [e.argAt 0])
  | .pgather _ _ _ nM1 => ([capRange (e.capAt 0), ⟨(e.capAt 1).base, 2 * (nM1 + 1)⟩], [])
  | .pred _ _ _ _ kind _ =>
    (⟨(e.capAt 1).base, (e.capAt 0).len⟩ :: (if kind = 0 then [] else [⟨(e.capAt 2).base, (e.capAt 0).len⟩]), [])
  | .tcmp _ _ _ _ _ _ => ([capRange (e.capAt 0), ⟨(e.capAt 1).base, (e.capAt 0).len⟩], [])
  | .tmov _ _ _ ss nrM1 str => if ss then (moveRows (e.capAt 0) nrM1 str, []) else ([], [e.argAt 0])
  | .cpyput _ _ _ => ([capRange (e.capAt 0), capRange (e.capAt 2)], [])
  | _ => ([], [])

/-- The write set of a command. -/
def EngCmd.writes (e : EngCmd) : List Range × List Nat :=
  match e.op with
  | .tcfg _ _ _ => ([], [e.argAt 0])
  | .tzero _ => ([], [e.argAt 0])
  | .mxgo _ => ([capRange (e.capAt 2)], [])
  | .accwr _ _ _ off => ([⟨(e.capAt 0).base + 64 * off, 64⟩], [])
  | .accz _ nl off => ([⟨(e.capAt 0).base + 64 * off, 64 * nl⟩], [])
  | .rtapply _ _ _ nrM1 ncM1 rf _ _ str => (rowsRange (e.capAt 1) (nrM1 + 1) (ncM1 + 1) str rf, [])
  | .rtwords _ => ([⟨(e.capAt 0).base, 128⟩], [])
  | .ptrans _ _ ds _ _ => if ds then ([⟨(e.capAt 1).base, 4096⟩], []) else ([], [e.argAt 1])
  | .pgather _ _ _ _ => ([], [e.argAt 0])
  | .pred _ _ _ _ _ _ => ([capRange (e.capAt 0)], [])
  | .tcmp _ _ _ _ _ _ => (if 1 < e.args.length then [] else [⟨(e.capAt 2).base, 16⟩], [])
  | .tmov _ _ ds _ nrM1 str => if ds then (moveRows (e.capAt 1) nrM1 str, []) else ([], [e.argAt 1])
  | .cpyput _ _ _ => ([capRange (e.capAt 1), capRange (e.capAt 3)], [])
  | _ => ([], [])

def anyMeet (a b : List Range) : Bool := a.any fun x => b.any fun y => x.meets y

/-- A later command must wait for an earlier one: their ranges or tile registers overlap and one of them writes. -/
def conflicts (early late : EngCmd) : Bool :=
  anyMeet early.writes.1 (late.reads.1 ++ late.writes.1) || anyMeet early.reads.1 late.writes.1
    || early.writes.2.any (fun t => (late.reads.2 ++ late.writes.2).contains t) || early.reads.2.any (fun t => late.writes.2.contains t)

/-- The commands issued before a command. -/
def Core.before (c : Core) (seq : Nat) : List EngCmd := c.cmds.filter fun e => decide (e.seq < seq)

def findCmd : List EngCmd → Nat → Option EngCmd
  | [], _ => none
  | e :: es, n => if e.seq = n then some e else findCmd es n

/-- A packet's publication; the packet's ranges hold its moves, not the publication (R131, R251). -/
def EngCmd.publishes (e : EngCmd) : Bool :=
  match e.op with
  | .cpyput _ _ _ => true
  | _ => false

/-- The edges allow a command to start: it heads its queue, and no earlier recorded command conflicts (R213, R215). -/
def Core.mayStart (c : Core) (e : EngCmd) : Bool :=
  !e.started && decide (e.q ≤ 5) && !(c.before e.seq).any (fun f => f.q == e.q || (!e.publishes && conflicts f e))

/-- The ranges that a GFE record's move reads, or writes: those of its operator's operands. -/
def State.moveRange (s : State) (p : Packet) (wr : Bool) : List Range :=
  match s.op? (p.cq - 10000) with
  | some o => (o.handles.filter fun h => if wr then h.wr else h.rd).filterMap fun h =>
      (s.rawEntry o.ctxid o.shard (o.under h.wr h.hid)).map fun e => capRange e.reg
  | none => []

/-- A command waits for the recorded moves of GFE records that were issued before it and overlap it (R131, R331). -/
def State.moveHolds (s : State) (e : EngCmd) : Bool :=
  s.packets.any fun p => decide (p.id < e.pk) && decide (10000 ≤ p.cq) && !p.finished && p.work.ctxid == e.ctxid
    && (anyMeet (s.moveRange p true) (e.reads.1 ++ e.writes.1) || anyMeet (s.moveRange p false) e.writes.1)

/-- The recorded move of an operator waits for the engine commands of its die that were issued before it and overlap it (R131, R331). -/
def State.moveWaits (s : State) (o : OpInst) : Bool :=
  s.packets.any fun p => p.cq == 10000 + o.id && s.cores.any fun c => c.1 / 128 == o.gfe / 4 && c.2.cmds.any fun e =>
    decide (e.pk ≤ p.id) && e.ctxid == o.ctxid
      && (anyMeet (s.moveRange p true) (e.reads.1 ++ e.writes.1) || anyMeet (s.moveRange p false) e.writes.1)

def onCmd (n : Nat) (f : EngCmd → EngCmd) : List EngCmd → List EngCmd
  | [] => []
  | e :: es => if e.seq = n then f e :: es else e :: onCmd n f es

/-! ### What a unit comes to -/

/-- One unit of a command: more units follow, it is finished (with the bytes of its result), it faults in translation, it ends with
a trap, or it must wait for a swap or a route. -/
inductive UnitOut where
  | more (e : EngCmd) (s : State)
  | done (res : List Byte) (s : State)
  | fault (cause va : Nat) (wr : Bool)
  | trap (t : TrapInfo)
  | wait
deriving DecidableEq, Repr

/-- The translation environment of a command: its context's heap triple at issue (R91, R99). -/
def engEnv (core : Nat) (e : EngCmd) : TEnv :=
  ⟨e.ctxid, nth 0 e.heap 0, min (nth 0 e.heap 1) (2 ^ 55), nth 0 e.heap 2, decide (7680 ≤ e.epc), some core, dieOfCore core⟩

/-- A fault of a unit's access: translation faults stop the command, a heap fault ends it (R104, R216). -/
def unitFault (cause va : Nat) (wr : Bool) (hid : Nat) : UnitOut := if cause = 9 then .trap ⟨9, va, hid, 0⟩ else .fault cause va wr

/-- Change the context whose work issued a command: where it is bound, or as an eviction saved it; no other work (R43, R158). -/
def State.onIssuer (s : State) (core : Nat) (e : EngCmd) (f : Ctx → Ctx) : State :=
  if e.mine (s.ctxAt (4 * core + e.x)) then s.onCtxAt (4 * core + e.x) f
  else s.onCoreAt core fun k => { k with saved := k.saved.map fun (v : Saved) => if e.mine v.ctx then { v with ctx := f v.ctx } else v }

/-- That context. -/
def State.issuer (s : State) (core : Nat) (e : EngCmd) : Option Ctx :=
  let c := s.ctxAt (4 * core + e.x)
  if e.mine c then some c else ((s.coreAt core).saved.find? fun v => e.mine v.ctx).map Saved.ctx

/-- A write of a command to unit scratch is its context's, through one view (R111). -/
def State.noteWrite (s : State) (core : Nat) (e : EngCmd) (swz : Bool) (va : Nat) (bs : List Byte) (t : State) : State :=
  let us := unitBytes ((s.xlatAccess (engEnv core e) .write va bs.length).viewed swz).pieces
  if us.isEmpty then t
  else t.onIssuer core e fun c => { c with
    unjoined := c.unjoined ++ us.map fun u => (u.2.1, u.2.2, s.mem.read u.2.1)
    var := c.var.map (VarW.crossed s.fresh bs us) }

/-- Read n bytes of operand r at an offset, then go on; outside the capability or misaligned it ends with cause 0x04 (R214). -/
def eRead (s : State) (core : Nat) (e : EngCmd) (swz : Bool) (r : SReg) (off : Int) (n align : Nat) (k : List Byte → State → UnitOut) :
    UnitOut :=
  let va := trunc 56 ((r.base : Int) + off)
  if off < 0 || decide ((r.len : Int) < off + n) || va % align != 0 then .trap ⟨4, va, r.hid, 0⟩
  else match s.unitLoad (engEnv core e) (dieOfCore core) swz (fun key => ((s.issuer core e).bind fun c => c.staleByte s.fresh key swz).or
      (s.lateByte core e.work.uid key)) va n with
    | .ok bs t => k bs t
    | .fault c a => unitFault c a false r.hid
    | .wait => .wait

/-- Write bytes of operand r at an offset, then go on. -/
def eWrite (s : State) (core : Nat) (e : EngCmd) (swz : Bool) (r : SReg) (off : Int) (bs : List Byte) (align : Nat)
    (k : State → UnitOut) : UnitOut :=
  let va := trunc 56 ((r.base : Int) + off)
  if off < 0 || decide ((r.len : Int) < off + bs.length) || va % align != 0 then .trap ⟨4, va, r.hid, 0⟩
  else match s.unitStore (engEnv core e) (dieOfCore core) (4 * core + e.x) e.work.uid swz va bs with
    | .ok _ t => k (s.noteWrite core e swz va bs t)
    | .fault c a => unitFault c a true r.hid
    | .wait => .wait

/-- A row of an operand lies inside its capability and is aligned to its elements, or ends the command with cause 0x04 (R214). -/
def rowFits (r : SReg) (off len align : Nat) (k : UnitOut) : UnitOut :=
  if r.len < off + len || (r.base + off) % align != 0 then .trap ⟨4, trunc 56 ((r.base + off : Nat) : Int), r.hid, 0⟩ else k

/-- Read beat j of 64 bytes of a row, whose bounds are checked as a whole (R104, R214). -/
def rowBeat (s : State) (core : Nat) (e : EngCmd) (r : SReg) (off len align j : Nat) (k : List Byte → State → UnitOut) : UnitOut :=
  rowFits r off len align (eRead s core e false r (off + 64 * j : Nat) (min 64 (len - 64 * j)) align k)

/-- The next unit of the same command. -/
def EngCmd.next (e : EngCmd) : EngCmd := { e with unit := e.unit + 1 }

/-- After a unit: finished when the count is reached. -/
def after (n : Nat) (e : EngCmd) (s : State) : UnitOut := if n ≤ e.unit + 1 then .done [] s else .more e.next s

/-! ### Tile registers -/

/-- Bytes of a tile register. -/
def State.tileBytes (s : State) (core t off n : Nat) : List Byte := s.tileMem.readBytes (tileKey core t + off) n

/-- Write bytes of a tile register for a device context. -/
def State.putTile (s : State) (core t off ctxid : Nat) (bs : List Byte) : State :=
  { s with tileMem := s.tileMem.writeBytes (tileKey core t + off) bs }.onCoreAt core fun c =>
    { c with tiles := AMap.ins t { c.tile t with owner := ctxid } c.tiles }

/-- Change a tile register's descriptor. -/
def State.onTile (s : State) (core t : Nat) (f : TileDesc → TileDesc) : State :=
  s.onCoreAt core fun c => { c with tiles := AMap.ins t (f (c.tile t)) c.tiles }

/-! ### Weights and rows of the matrix array (R220, R226) -/

def byteAt (l : List Byte) (i : Nat) : Nat := (nth 0 l i).toNat

/-- Weight (k, n) of a weight tile. -/
def WTile.elem (w : WTile) (k n : Nat) : Ex :=
  if w.fmt = 9 then
    let idx := byteAt w.img (16 * n + 2 * (k / 8)) + 256 * byteAt w.img (16 * n + 2 * (k / 8) + 1)
    let l := cb2Decode (fun i => (AMap.get (0 : BitVec 32) w.cb i).toNat) idx (byteAt w.img (1024 + 2 * n + k / 32))
    nth (.fin false 0 1) l (k % 8)
  else if fmtWidth w.fmt = 16 then real w.fmt (byteAt w.img (64 * n + 2 * k) + 256 * byteAt w.img (64 * n + 2 * k + 1))
  else real w.fmt (byteAt w.img (64 * n + k))

/-- Chain element k of an activation row; format 10 is read as INT8. -/
def actElem (afmt : Nat) (row : List Byte) (k : Nat) : Ex :=
  if fmtWidth afmt = 16 then real afmt (byteAt row (2 * k) + 256 * byteAt row (2 * k + 1))
  else real (if afmt = 10 then 5 else afmt) (byteAt row k)

/-- One output column. -/
def mxColumn (w : WTile) (f : MxgoF) (L K : Nat) (integer first : Bool) (arow brow acc : List Byte) (n : Nat) : List Byte :=
  let row := if f.mode = 2 && decide (32 ≤ n) then brow else arow
  let ps := (upTo L).map fun k => (w.elem k n, actElem f.afmt row k)
  leBytes (accumulate integer first (leNat ((acc.drop (4 * n)).take 4)) (chainResult integer f.mode L K ps)) 4

/-- Fields of a nest level (R158, R224). -/
def nestCnt (v : Nat) : Nat := bitsOf v 32 16
def nestIdx (v : Nat) : Nat := bitsOf v 48 16
def nestWs (v : Nat) : Bool := bitOf v 31
def nestA (v : Nat) : Int := sext (bitsOf v 16 15) 15
def nestC (v : Nat) : Int := sext (bitsOf v 0 16) 16
def nestSet (v i : Nat) : Nat := v % 2 ^ 48 + i % 2 ^ 16 * 2 ^ 48

/-- Add to the lowest index and carry: where a level passes its count, it and the levels below start again and the next level counts
on; the top level may reach its count. `low` holds the levels already passed. -/
def nestGo (low : List Nat) : Nat → List Nat → List Nat
  | _, [] => low
  | inc, [v] => low ++ [nestSet v (nestIdx v + inc)]
  | inc, v :: w :: r =>
    if nestCnt v ≤ nestIdx v + inc then nestGo ((low ++ [v]).map fun x => nestSet x 0) 1 (w :: r)
    else nestGo (low ++ [nestSet v (nestIdx v + inc)]) 0 (w :: r)

/-- The next index vector. -/
def nestNext (l : List Nat) : List Nat := nestGo [] 1 l

/-- No vector is left: some count is 0, or the top level has reached its count. -/
def nestDone (l : List Nat) : Bool := l.any (fun v => nestCnt v == 0) || (match l.getLast? with
  | some v => decide (nestCnt v ≤ nestIdx v)
  | none => true)

/-- The sum over levels of index times a stride, times 64. -/
def nestOff (stride : Nat → Int) (l : List Nat) : Int := 64 * l.foldl (fun a v => a + nestIdx v * stride v) 0

/-- Nest registers stored into NC0 to NC5; a rollback restores the snapshot's (R157, R158). -/
def Ctx.putNest (c : Ctx) (l : List Nat) : Ctx :=
  { c with bank := { c.bank with k := (upTo l.length).foldl (fun m i => AMap.ins (0x28 + i) (BitVec.ofNat 64 (nth 0 l i)) m) c.bank.k } }

/-- Store an MXGO's nest registers in its context. -/
def State.setNest (s : State) (core : Nat) (e : EngCmd) (l : List Nat) : State := s.onIssuer core e fun c => c.putNest l

/-- The nest levels in use and the ones above them. -/
def EngCmd.levels (e : EngCmd) (f : MxgoF) : List Nat := (e.args.drop 2).take (f.nlm1 + 1)
def EngCmd.rest (e : EngCmd) (f : MxgoF) : List Nat := (e.args.drop 2).drop (f.nlm1 + 1)

/-- A source row: of a tile register below its ROWS, or of a capability. -/
def mxgoRow (s : State) (core : Nat) (e : EngCmd) (cap : Bool) (k : Nat) (off : Int) (afmt : Nat) (cont : List Byte → State → UnitOut) :
    UnitOut :=
  if cap then eRead s core e true (e.capAt k) off 64 (fmtWidth afmt / 8 + (if afmt = 10 then 1 else 0)) cont
  else
    let t := e.argAt k
    if 0 ≤ off && off + 64 ≤ 4096 && decide (off.toNat / 64 < ((s.coreAt core).tile t).rows) then cont (s.tileBytes core t off.toNat 64) s
    else .trap ⟨4, trunc 56 off, 0, 0⟩

/-- One row of an MXGO (R226). With no row left it completes, whatever its formats (log 72). -/
def mxgoUnit (s : State) (core : Nat) (e : EngCmd) (f : MxgoF) : UnitOut :=
  let ls := e.levels f
  if nestDone ls then
    let fin := (ls.take f.nlm1).map (fun v => nestSet v 0) ++ (ls.drop f.nlm1).map fun v => nestSet v (nestCnt v)
    .done [] (s.setNest core e (fin ++ e.rest f))
  else if !e.swapped then .wait
  else
    match (s.coreAt core).active with
    | none => .trap ⟨2, 0, 0, 0⟩
    | some w =>
      match matPair w.fmt f.afmt with
      | none => .trap ⟨2, 0, 0, 0⟩
      | some (L, integer) =>
        let wsl := ls.filter nestWs
        let first := wsl.all fun v => nestIdx v == 0
        let last := wsl.all fun v => nestIdx v + 1 == nestCnt v
        let K := if last && f.kr != 0 then f.kr else L
        let aoff := nestOff nestA ls
        let coff := nestOff nestC ls
        mxgoRow s core e f.asel 0 aoff f.afmt fun arow s1 =>
          let rest := fun (brow : List Byte) (s2 : State) =>
            eRead s2 core e true (e.capAt 2) coff 256 4 fun acc s3 =>
              let out := (upTo 64).flatMap (mxColumn w f L K integer (!f.acc && first) arow brow acc)
              eWrite s3 core e true (e.capAt 2) coff out 4 fun s4 =>
                let nx := nestNext ls
                let moved := (ls.zip nx).any fun p => nestWs p.1 && nestIdx p.1 != nestIdx p.2
                .more { e.next with args := e.args.take 2 ++ nx ++ e.rest f, swapped := !moved } (s4.setNest core e (nx ++ e.rest f))
          if f.mode = 2 then mxgoRow s1 core e f.bsel 1 aoff f.afmt rest else rest [] s1

/-! ### Rotator rows (R230 to R232) -/

/-- Split bytes into numbers of n bytes. -/
def numsOf (n : Nat) : Nat → List Byte → List Nat
  | 0, _ => []
  | k + 1, l => leNat (l.take n) :: numsOf n k (l.drop n)

/-- A row entering the rotator, columns past NC as 0. -/
def rowIn (rf : Bool) (nc : Nat) (bs : List Byte) : RbRow :=
  let r := if rf then rbOfWords (numsOf 8 nc bs) else rbOfFp32 (numsOf 4 nc bs)
  { r with m := r.m ++ List.replicate (32 - nc) 0 }

/-- A row leaving it, NC columns. -/
def rowOut (rf : Bool) (nc : Nat) (r : RbRow) : List Byte :=
  (r.m.take nc).flatMap fun m => if rf then leBytes (rbWord r.x r.n m) 8 else leBytes (rbToFp32 r.x r.n m) 4

/-- One row through the triangle: by words computed, or by WR as it stands. -/
def streamRow (apply deferred : Bool) (c : Core) (y : RbRow) : Core × RbRow :=
  (upTo 32).foldl (fun (p : Core × RbRow) j =>
    let r := rotateRows deferred (if apply then some (p.1.word j) else none) j (p.1.trRow j) p.2
    ({ p.1 with tr := AMap.ins j r.1 p.1.tr,
                wr := if apply then p.1.wr else AMap.ins j (BitVec.ofNat 32 r.2.2.1) p.1.wr }, r.2.1)) (c, y)

/-- Every row's pending gain applied (RTGAIN). -/
def Core.gainAll (c : Core) : Core := (upTo 32).foldl (fun c j => { c with tr := AMap.ins j (rbGain (c.trRow j)).1 c.tr }) c

/-! ### Units of the other commands -/

/-- D[qb + i][c] = S[qb + c][i] over elements of e bytes (R233). -/
def transposed (ew : Nat) (src : List Byte) : List Byte :=
  let e := 2 ^ ew
  let b := 64 / e
  (upTo 4096).map fun n =>
    let row := n / 64
    let col := n % 64
    nth 0 src ((row / b * b + col / e) * 64 + row % b * e + col % e)

/-- The elements of bytes in a format. -/
def elemsOfBytes (f : Nat) (bs : List Byte) : List Nat := numsOf (fmtBytes f) (bs.length / fmtBytes f) bs

/-- One unit of a command that is not an MXGO. -/
def otherUnit (s : State) (core : Nat) (e : EngCmd) : UnitOut :=
  let c := s.coreAt core
  match e.op with
  | .tcfg _ fmt rowsM1 => .done [] (s.onTile core (e.argAt 0) fun _ => ⟨fmt, rowsM1 + 1, e.ctxid⟩)
  | .tzero _ => .done [] (s.putTile core (e.argAt 0) 0 e.ctxid (List.replicate 4096 0))
  | .wload _ ts fmt =>
    let full := fun (img : List Byte) (t : State) => t.onCoreAt core fun k => { k with shadow := .full ⟨fmt, img, k.cbook⟩ }
    if ts then .done [] (full ((s.tileBytes core (e.argAt 0) 0 4096).take (imageSize fmt)) s)
    else eRead s core e true (e.capAt 0) (64 * e.unit) 64 (if fmtWidth fmt = 16 then 2 else 1) fun bs t =>
      let img := e.buf ++ bs
      if imageSize fmt ≤ 64 * (e.unit + 1) then .done [] (full img t) else .more { e.next with buf := img } t
  | .cbload _ =>
    eRead s core e true (e.capAt 0) (64 * e.unit) 64 4 fun bs t =>
      after 16 e (t.onCoreAt core fun k => { k with cbook := (upTo 16).foldl (fun m i =>
        AMap.ins (16 * e.unit + i) (BitVec.ofNat 32 (leNat ((bs.drop (4 * i)).take 4))) m) k.cbook })
  | .accrd _ _ _ fmt at32 scl off =>
    let len := 4 * vecCount fmt
    rowFits (e.capAt 0) (64 * off) len 4 <| eRead s core e true (e.capAt 0) (64 * (off + e.unit) : Nat) 64 4 fun bs t =>
      let acc := e.buf ++ bs
      let sc := if scl then real 0 (e.argAt 0) else Ex.ofInt 1
      let out := (numsOf 4 (vecCount fmt) acc).map fun a => writeAs fmt (Ex.mul (if at32 then Ex.ofInt (sext a 32) else real 0 a) sc)
      if len ≤ 64 * (e.unit + 1) then .done (leBytes (vecPack fmt out).toNat 64) t else .more { e.next with buf := acc } t
  | .accwr _ _ _ off => eWrite s core e true (e.capAt 0) (64 * off) (leBytes e.vec.toNat 64) 4 fun t => .done [] t
  | .accz _ nl off =>
    if nl = 0 then .done [] s
    else eWrite s core e true (e.capAt 0) (64 * (off + e.unit)) (List.replicate 64 0) 4 fun t => after nl e t
  | .rtload _ nrM1 ncM1 rf gm str =>
    let w := if rf then 8 else 4
    let n := cdiv (w * (ncM1 + 1)) 64
    rowBeat s core e (e.capAt 0) (4 * str * (e.unit / n)) (w * (ncM1 + 1)) w (e.unit % n) fun bs t =>
      if e.unit % n + 1 < n then .more { e.next with buf := e.buf ++ bs } t
      else after ((nrM1 + 1) * n) { e with buf := [] }
        (t.onCoreAt core fun k => (streamRow false gm k (rowIn rf (ncM1 + 1) (e.buf ++ bs))).1)
  | .rtapply _ _ _ nrM1 ncM1 rf gm uw str =>
    let w := if rf then 8 else 4
    let pre := if uw then 0 else 2
    if e.unit < pre then
      rowFits (e.capAt 2) 0 128 4 <| eRead s core e false (e.capAt 2) (64 * e.unit) 64 4 fun bs t => .more e.next (t.onCoreAt core fun k => { k with
        wr := (upTo 16).foldl (fun m j => AMap.ins (16 * e.unit + j) (BitVec.ofNat 32 (leNat ((bs.drop (4 * j)).take 4))) m) k.wr })
    else
      let len := w * (ncM1 + 1)
      let n := cdiv len 64
      let u := e.unit - pre
      let at' := 4 * str * (u / (2 * n))
      let j := u % (2 * n)
      let total := (nrM1 + 1) * (2 * n) + pre
      if j < n then
        -- a row that cannot be written is not read
        rowFits (e.capAt 1) at' len w <|
        rowBeat s core e (e.capAt 0) at' len w j fun bs t =>
          if j + 1 < n then .more { e.next with buf := e.buf ++ bs } t
          else
            let r := streamRow true gm (t.coreAt core) (rowIn rf (ncM1 + 1) (e.buf ++ bs))
            .more { e.next with buf := [], buf2 := rowOut rf (ncM1 + 1) (rbGain r.2).1 } (t.onCoreAt core fun k => { k with tr := r.1.tr })
      else eWrite s core e false (e.capAt 1) (at' + 64 * (j - n)) ((e.buf2.drop (64 * (j - n))).take 64) w fun t => after total e t
  | .rtread _ row half =>
    let r := (rbGain (c.trRow row)).1
    let out := (upTo 16).flatMap fun l =>
      let k := (if half then 16 else 0) + l
      leBytes (if k < row then 0 else rbToFp32 r.x r.n (nth 0 r.m k)) 4
    .done out (s.onCoreAt core fun k => { k with tr := AMap.ins row r k.tr })
  | .rtclr => .done [] (s.onCoreAt core Core.clearRotator)
  | .rtgain => .done [] (s.onCoreAt core Core.gainAll)
  | .rtwords _ =>
    eWrite s core e false (e.capAt 0) (64 * e.unit) ((upTo 16).flatMap fun j => leBytes (c.word (16 * e.unit + j)) 4) 4 fun t => after 2 e t
  | .ptrans _ _ ds ss ew =>
    if e.unit < 64 then
      if ss then eRead s core e false (e.capAt 0) (64 * e.unit) 64 (2 ^ ew) fun bs t => .more { e.next with buf := e.buf ++ bs } t
      else .more { e with unit := 64, buf := s.tileBytes core (e.argAt 0) 0 4096 } s
    else
      let out := transposed ew e.buf
      if ds then eWrite s core e false (e.capAt 1) (64 * (e.unit - 64)) ((out.drop (64 * (e.unit - 64))).take 64) (2 ^ ew) fun t => after 128 e t
      else
        let t := s.putTile core (e.argAt 1) 0 e.ctxid out
        .done [] (t.onTile core (e.argAt 1) fun d => { d with rows := 64, fmt := if ss then d.fmt else (c.tile (e.argAt 0)).fmt })
  | .pgather _ _ _ nM1 =>
    eRead s core e false (e.capAt 1) (2 * e.unit) 2 2 fun ib t =>
      eRead t core e false (e.capAt 0) (64 * leNat ib) 64 1 fun bs t2 =>
        let t3 := t2.putTile core (e.argAt 0) (64 * e.unit) e.ctxid bs
        after (nM1 + 1) e (if nM1 ≤ e.unit then t3.onTile core (e.argAt 0) fun d => { d with rows := nM1 + 1 } else t3)
  | .pred _ _ _ fmt kind alpha =>
    let d := e.capAt 0
    let n := min 64 (d.len - 64 * e.unit)
    let z := fmtBytes fmt
    eRead s core e false (e.capAt 1) (64 * e.unit) n z fun a t =>
      let fin := fun (b : List Byte) (t2 : State) =>
        let out := (List.zip (elemsOfBytes fmt a) (if kind = 0 then elemsOfBytes fmt a else elemsOfBytes fmt b)).flatMap fun p =>
          leBytes (predElem fmt kind alpha p.1 p.2) z
        eWrite t2 core e false d (64 * e.unit) out z fun t3 => after (cdiv d.len 64) e t3
      if kind = 0 then fin [] t else eRead t core e false (e.capAt 2) (64 * e.unit) n z fin
  | .tcmp _ _ _ _ fmt _ =>
    let a := e.capAt 0
    let z := fmtBytes fmt
    if e.unit < cdiv a.len 64 then
      let n := min 64 (a.len - 64 * e.unit)
      eRead s core e false a (64 * e.unit) n z fun x t =>
        eRead t core e false (e.capAt 1) (64 * e.unit) n z fun y t2 => .more { e.next with buf := e.buf ++ x, buf2 := e.buf2 ++ y } t2
    else
      let v := tcmpVerdict fmt (e.argAt 0) (List.zip (elemsOfBytes fmt e.buf) (elemsOfBytes fmt e.buf2))
      -- a compare that the speculation controller issued answers to it alone (R417); one of microcode writes sc
      if 1 < e.args.length then .done v (s.onOp (e.argAt 1) fun o => if o.phase = .judging then
          { o with verdicts := o.verdicts ++ [bitOf (byteAt v 0) 0] } else o)
      else eWrite s core e false (e.capAt 2) 0 v 1 fun t => .done [] t
  | .tmov _ _ ds ss nrM1 str =>
    let put := fun (bs : List Byte) (t : State) =>
      if ds then eWrite t core e true (e.capAt 1) (64 * str * e.unit) bs 64 fun t2 => after (nrM1 + 1) e t2
      else
        let t2 := t.putTile core (e.argAt 1) (64 * e.unit) e.ctxid bs
        after (nrM1 + 1) e (if nrM1 ≤ e.unit then t2.onTile core (e.argAt 1) fun d =>
          { d with rows := nrM1 + 1, fmt := if ss then d.fmt else ((t2.coreAt core).tile (e.argAt 0)).fmt } else t2)
    if ss then eRead s core e true (e.capAt 0) (64 * str * e.unit) 64 64 put else put (s.tileBytes core (e.argAt 0) (64 * e.unit) 64) s
  | .cpyput _ _ _ =>
    -- publication: CTL with V = 1 (R251)
    match s.unitStore (engEnv core e) (dieOfCore core) (4 * core + e.x) e.work.uid false (e.argAt 1) (leBytes (Nat.lor (e.vec.toNat % 2 ^ 32) (2 ^ 31)) 4) with
    | .ok _ t => .done [] t
    | .fault cz a => unitFault cz a true 0
    | .wait => .wait
  | _ => .done [] s

/-- One unit of a command. -/
def cmdUnit (s : State) (core : Nat) (e : EngCmd) : UnitOut :=
  match e.op with
  | .mxgo f => mxgoUnit s core e f
  | _ => otherUnit s core e

/-! ### Ends of a command -/

/-- Deliver a result to the register that waits for it (R143). -/
def State.deliver (s : State) (ck id : Nat) (bs : List Byte) (stamp : List Clock) : State :=
  s.onCtxAt ck fun c => { c with var := c.var.map fun v =>
    if v.id = id then { v with bytes := bs, waiting := v.waiting - 1, stamps := v.stamps ++ stamp } else v }

/-- The capabilities of a packet that a context publishes in the queue at a header, which its core's scoreboard records until the packet
completes: source, destination, block table, ring (R131); none where no queue has the header. -/
def State.packetCaps (s : State) (ctxid hdr v : Nat) : List SReg :=
  match s.copyQueues.find? fun q => q.ctxid == ctxid && q.hdr == hdr with
  | none => []
  | some q =>
    let h := fun (hid : Nat) => match s.entry q.ctxid q.plane hid with
      | some x => x.reg
      | none => ⟨0, false⟩
    let f := fun k => bitsOf v (8 * k) 16
    [h (f 4), h (f 6), if bitOf v 15 then h (f 0x32) else ⟨0, false⟩, if f 0x35 = 0 then ⟨0, false⟩ else h (f 0x35)]

/-- A command leaves its queue unfinished; a filling shadow is empty again. -/
def Core.dropCmd (c : Core) (e : EngCmd) : Core :=
  { c with
    cmds := c.cmds.filter fun f => f.seq != e.seq
    shadow := match e.op, c.shadow with
      | .wload _ _ _, .filling => .empty
      | _, sh => sh }

/-- A finished command leaves its queue; a published packet stays recorded as entry 6 until it completes. -/
def State.finishCmd (s : State) (core : Nat) (e : EngCmd) (res : List Byte) : State :=
  let s1 := match e.var with
    | some id => s.deliver (4 * core + e.x) id res []
    | none => s
  if e.publishes && !e.caps.isEmpty then s1.onCoreAt core fun c => { c with cmds := onCmd e.seq (fun f => { f with q := 6 }) c.cmds }
  else s1.onCoreAt core fun c => c.dropCmd e

/-- The trap record of a command: its context and bundle (R216). -/
def State.cmdRec (s : State) (core : Nat) (e : EngCmd) (t : TrapInfo) (res : Bool) : TrapRec :=
  let ck := 4 * core + e.x
  let c := (s.issuer core e).getD {}
  let w : TrapWho := { (c.who ck) with ctxid := e.work.ctxid, rcb := e.work.rcb, opcode := e.work.opcode, opc := e.work.opc,
                                       shard := e.work.shard, epc := e.epc, spec := e.spec }
  { bytes := trapBytes (s.fdom e.work.ctxid e.work.rcb) s.time w t, ctxid := e.work.ctxid, rcb := e.work.rcb, ck := ck + 1, gk := 0,
    op := c.opId, cause := t.cause, res := res, held := c.spec, spec := c.spec,
    unit := .cmd core e.seq }

/-- The context of a command takes its trap: before its next bundle, or in place of its wait (R216). -/
def State.cmdTrap (s : State) (core : Nat) (e : EngCmd) (t : TrapInfo) : State :=
  let ck := 4 * core + e.x
  let s1 := { s with traps := s.traps ++ [{ s.cmdRec core e t false with unit := .ctx ck }] }
  (s1.leaveBlock ck).onCtxAt ck fun c => { c.dropLatches with status := .trapped, marks := 0, w := 0 }

/-- A command ends at its unfinished unit (R216). An evicted context takes the trap once it is bound again; one of work that a stop has
ended traps no later work. -/
def State.endCmd (s : State) (core : Nat) (e : EngCmd) (t : TrapInfo) : State :=
  let s1 := s.onCoreAt core fun c => c.dropCmd e
  if e.mine (s.ctxAt (4 * core + e.x)) then s1.cmdTrap core e t
  else
    let note := fun (v : Saved) =>
      if e.mine v.ctx && v.ended.isNone then { v with ended := some (e, [t.cause, t.faddr, t.handle, t.aux]) } else v
    s1.onCoreAt core fun k => { k with saved := k.saved.map note }

/-- A command stops at a translation fault, or aborts with a discarded page's entry dropped (R102, R104). -/
def State.stopCmd (s : State) (core : Nat) (e : EngCmd) (cause va : Nat) (wr : Bool) : State :=
  let s1 := if cause = 8 then s.dropEntry core e.ctxid va else s
  let s2 := { s1 with traps := s1.traps ++ [s1.cmdRec core e ⟨cause, va, 0, 0⟩ true] }
  s2.onCoreAt core fun c => { c with cmds := onCmd e.seq (fun f => { f with fault := some (va, wr) }) c.cmds }

/-- Run up to n units of a command, as far as it goes. -/
def runUnits : Nat → Nat → EngCmd → State → State
  | 0, core, e, s => s.onCoreAt core fun c => { c with cmds := onCmd e.seq (fun _ => e) c.cmds }
  | n + 1, core, e, s =>
    let keep := fun (t : State) => t.onCoreAt core fun c => { c with cmds := onCmd e.seq (fun _ => e) c.cmds }
    match cmdUnit s core e with
    | .more e1 s1 => runUnits n core e1 s1
    | .done res s1 => s1.finishCmd core e res
    | .fault c a w => (keep s).stopCmd core e c a w
    | .trap t => s.endCmd core e t
    | .wait => keep s

/-! ### Events -/

/-- ENGINE_COMMAND_START: an MXGO loads NC0 to NC5, or keeps them with RSM; a WLOAD waits for an empty shadow (R221, R225). -/
def startCmd (core seq : Nat) (s : State) : State :=
  let c := s.coreAt core
  match findCmd c.cmds seq with
  | none => s
  | some e =>
    if !c.mayStart e || (s.onDie (dieOfCore core)).moveHolds e then s
    else
      match e.op with
      | .mxgo f =>
        let ns := if f.rsm then (upTo 6).map fun i => ((s.issuer core e).getD {}).bank.kreg (0x28 + i) else (e.args.drop 2).map fun v => nestSet v 0
        let own := ns.take (f.nlm1 + 1)
        let ls := (if own.any fun v => nestCnt v == 0 then own else nestGo [] 0 own) ++ ns.drop (f.nlm1 + 1)
        let e1 := { e with started := true, args := e.args.take 2 ++ ls, swapped := !f.swp }
        (s.setNest core e ls).onCoreAt core fun k => { k with cmds := onCmd seq (fun _ => e1) k.cmds }
      | .wload _ _ _ =>
        if c.shadow = .empty then
          s.onCoreAt core fun k => { k with cmds := onCmd seq (fun f => { f with started := true }) k.cmds, shadow := .filling }
        else s
      | _ => s.onCoreAt core fun k => { k with cmds := onCmd seq (fun f => { f with started := true }) k.cmds }

/-- ENGINE_COMMAND_START. -/
def execEngineCommandStart (core seq : Nat) (s : State) : Host.Outcome State Fault Refusal := always s (startCmd core seq)

/-- ENGINE_COMMAND_COMPLETE: run so many units of a started command, to its end when they suffice (log 11). -/
def completeCmd (core seq units : Nat) (s : State) : State :=
  match findCmd (s.coreAt core).cmds seq with
  | none => s
  | some e =>
    if e.started && e.fault.isNone && decide (e.q ≤ 5) then
      let t := runUnits units core e (s.onDie (dieOfCore core))
      { t with fresh := t.fresh + 1 }
    else s

def execEngineCommandComplete (core seq units : Nat) (s : State) : Host.Outcome State Fault Refusal := always s (completeCmd core seq units)

/-- An EWAIT in force waits for a command (R264). -/
def Ctx.holdsOn (c : Ctx) (e : EngCmd) : Bool :=
  match c.hold with
  | some (lo, len, n, _) => decide (e.seq < n) && anyMeet [⟨lo, len⟩] (e.reads.1 ++ e.writes.1)
  | none => false

end Sys2Proof.Machine
end

