-- ==== Sys2Proof/Machine/Gravity.lean ====
section
/-! DEFINITION. Gravity: roots and their counters (R373 to R375), combiners (R384, R385), split and borrow (R378), returns (R383),
and the events of the gravity machinery. A root is named by the recorded physical address of its RCB (R373). -/

namespace Sys2Proof.Machine

/-! ### Roots (R373 to R375) -/

/-- CTRL.ROOT of an RCB at a physical address. -/
def State.isRoot (s : State) (phys : Nat) : Bool := bitOf (s.mem.readNat (phys + 0x0F) 1) 7

/-- The root of a region (R373): the nearest region with ROOT = 1 on its path. -/
def State.rootOf (s : State) (ctxid rcb : Nat) : Option Nat :=
  ((s.path ctxid rcb).find? fun r => s.isRoot r.phys).map Region.phys

def State.issued (s : State) (root : Nat) : Nat := s.mem.readNat (root + 0x40) 8
def State.returned (s : State) (root : Nat) : Nat := s.mem.readNat (root + 0x48) 8
def State.gflags (s : State) (root : Nat) : Nat := s.mem.readNat (root + 0x50) 8
/-- CLOSED (R374). -/
def State.closed (s : State) (root : Nat) : Bool := bitOf (s.gflags root) 0
/-- Quiet: RETURNED = ISSUED (R375). -/
def State.quiet (s : State) (root : Nat) : Bool := s.returned root == s.issued root

/-- A probe of a waiter that a die has not answered yet (R386). -/
def State.probing (s : State) (root waiter : Nat) : Bool :=
  s.grav.any fun m => match m with
    | .probe r _ w => r == root && w == waiter
    | _ => false

/-- The waiters of a root: contexts that have sent probes, and GFEs at QUIET (R386). -/
def State.waitersAt (s : State) (root : Nat) : List Nat :=
  (s.ctxs.filterMap fun p => if p.2.probed && p.2.status == .blocked (.waitq root) then some (p.1 + 1) else none)
    ++ s.gfes.filterMap fun p => match p.2.block with
      | .quiet r => if r = root then some (10000 + p.1) else none
      | _ => none

/-- The test after a change of the counters or the last answer of a probe: every waiter whose probes are answered is to wake (R386). -/
def State.testQuiet (s : State) (root : Nat) : State :=
  if s.quiet root then
    { s with wakes := s.wakes ++ ((s.waitersAt root).filter fun w => !(s.probing root w) && !(s.wakes.contains (root, w))).map fun w => (root, w) }
  else s

/-- An atomic addition to a counter of the root at its home, a release at package scope, with the waiters' test after it (R375, R386). -/
def State.rootAdd (s : State) (root off amount : Nat) : State :=
  State.testQuiet (root := root) <| { s with mem := s.mem.writeNat (root + off) 8 ((s.mem.readNat (root + off) 8 + amount) % 2 ^ 64) }.sendMarkers (homeDie root)

/-- Set bits of GFLAGS. -/
def State.setGflag (s : State) (root mask : Nat) : State :=
  { s with mem := s.mem.writeNat (root + 0x50) 8 (Nat.lor (s.gflags root) mask) }

/-- LOST is set by the return of a stopped or discarded holder's gravity (R374, R382, R393). -/
def State.setLost (s : State) (root : Nat) : State := s.setGflag root 2

/-! ### Combiners (R384, R385) -/

/-- The slots of a die's combiner, the least recently used first. -/
def State.slots (s : State) (die : Nat) : List Comb := AMap.get [] s.combs die

def State.setSlots (s : State) (die : Nat) (l : List Comb) : State := { s with combs := AMap.ins die l s.combs }

def findSlot : List Comb → Nat → Option Comb
  | [], _ => none
  | c :: cs, r => if c.root = r then some c else findSlot cs r

/-- Send a flush; an amount of 0 sends nothing. -/
def State.sendFlush (s : State) (root amount : Nat) : State := if amount = 0 then s else { s with grav := s.grav ++ [.flush root amount] }

/-- Free a slot after a full flush: ACC + RESERVE. -/
def State.freeSlot (s : State) (die root : Nat) : State :=
  match findSlot (s.slots die) root with
  | none => s
  | some c => (s.setSlots die ((s.slots die).filter fun k => k.root != root)).sendFlush root (c.acc + c.reserve)

/-- The slot of a root, most recent, allocated if it has none: the least recently used of 64 is flushed in full and taken (R385). -/
def State.touchSlot (s : State) (die root : Nat) : State :=
  match findSlot (s.slots die) root with
  | some c => s.setSlots die ((s.slots die).filter (fun k => k.root != root) ++ [{ c with used := s.time }])
  | none =>
    let s1 := if 64 ≤ (s.slots die).length then
        (match s.slots die with
         | c :: _ => s.freeSlot die c.root
         | [] => s)
      else s
    s1.setSlots die (s1.slots die ++ [⟨root, 0, 0, s.time⟩])

/-- Change a root's slot. -/
def State.onSlot (s : State) (die root : Nat) (f : Comb → Comb) : State :=
  s.setSlots die ((s.slots die).map fun c => if c.root = root then f c else c)

def State.reserve (s : State) (die root : Nat) : Nat :=
  match findSlot (s.slots die) root with
  | some c => c.reserve
  | none => 0

/-- A return to the die's combiner; an ACC that reaches 2^24 is flushed and the slot kept (R383 to R385). -/
def State.giveBack (s : State) (die root amount : Nat) : State :=
  if amount = 0 then s
  else
    let s1 := (s.touchSlot die root).onSlot die root fun c => { c with acc := c.acc + amount }
    match findSlot (s1.slots die) root with
    | some c => if 2 ^ 24 ≤ c.acc then (s1.onSlot die root fun k => { k with acc := 0 }).sendFlush root c.acc else s1
    | none => s1

/-- A return of a region's holder; nothing in a region without a root (R377). -/
def State.giveBackTo (s : State) (die ctxid rcb amount : Nat) (lost : Bool) : State :=
  match s.rootOf ctxid rcb with
  | none => s
  | some r =>
    let s1 := s.giveBack die r amount
    if lost && amount != 0 then s1.setLost r else s1

/-- LOST of a region's root, if it has one (R37, R382). -/
def State.loseGrav (s : State) (ctxid rcb : Nat) : State :=
  match s.rootOf ctxid rcb with
  | some r => s.setLost r
  | none => s

/-! ### Split and borrow (R378) -/

/-- A refill at the home: ISSUED grows by 2^30 and the slot's reserve with it. -/
def State.refill (s : State) (die root : Nat) : State :=
  ((s.rootAdd root 0x40 (2 ^ 30)).touchSlot die root).onSlot die root fun c => { c with reserve := c.reserve + 2 ^ 30 }

/-- Take 2^20 from the reserve. -/
def State.takeReserve (s : State) (die root : Nat) : State :=
  (s.touchSlot die root).onSlot die root fun c => { c with reserve := c.reserve - 2 ^ 20 }

/-- Split underflows. -/
def splitShort (g k : Nat) : Bool := decide (g < k + 1)

/-- A piece of a split among k that does not underflow, and what the holder keeps. -/
def splitPiece (g k : Nat) : Nat × Nat := (g / (k + 1), g - k * (g / (k + 1)))

/-- The split of a holder whose borrow, if it needs one, the die's reserve covers: piece, rest, state. -/
def State.split (s : State) (die root g k : Nat) : (Nat × Nat) × State :=
  if splitShort g k then (splitPiece (g + 2 ^ 20) k, s.takeReserve die root) else (splitPiece g k, s)

/-- Whether a split can go on: no underflow, or a reserve that covers the borrow. -/
def State.canSplit (s : State) (die root g k : Nat) : Bool := !(splitShort g k) || decide (2 ^ 20 ≤ s.reserve die root)

/-- The verdict of a context's split (R378, R388): borrow at the home first where the die's reserve does not cover it; a refusal
traps with cause 0x0F. -/
def splitVerdict (k : Nat) (s : State) : Verdict :=
  let c := s.ctx
  match s.rootOf c.work.ctxid c.work.rcb with
  | none => .ok
  | some r =>
    if s.canSplit (dieOfCore s.act.core) r c.hg k then .ok
    else if c.grav = 2 then .trap ⟨0x0F, 0, 0, 0⟩
    else if c.grav = 1 then .wait
    else .borrow r

/-- Split the acting context's HG among k pieces: the piece, and the state with HG lowered; 0 in a region without a root (R377). -/
def State.splitHg (s : State) (k : Nat) : Nat × State :=
  let c := s.ctx
  match s.rootOf c.work.ctxid c.work.rcb with
  | none => (0, s)
  | some r =>
    let p := s.split (dieOfCore s.act.core) r c.hg k
    (p.1.1, p.2.onCtx fun x => { x with hg := p.1.2, grav := 0 })

/-- A split at the start of a chunk's next task, with its refill made at the home at once; a refused one gives 0 and keeps the rest
(R381). -/
def State.splitNow (s : State) (die root g : Nat) : (Nat × Nat) × State :=
  if s.canSplit die root g 1 then s.split die root g 1
  else if s.closed root then ((0, g), s)
  else (s.refill die root).split die root g 1

/-! ### Close notices (R375) -/

/-- Quiescence roots registered in the package, by physical address. -/
def State.roots (s : State) : List Nat :=
  (s.devs.flatMap fun d => d.2.regions.map Region.phys).filter s.isRoot

/-- CLOSED changed from 0 to 1 between two states: the home sends a close notice to every die. Notices of an earlier closing that are out still are
counted too, so DRAINED waits for every die's answer to this one. -/
def State.noticeClosed (before after : State) : State :=
  before.roots.foldl (fun s r =>
    if !(before.closed r) && s.closed r then
      { s with grav := s.grav ++ (upTo 8).map (fun d => .close r d), closing := AMap.ins r (AMap.get 0 s.closing r + 8) s.closing }
    else if before.closed r && !(s.closed r) then
      -- DRAINED is cleared with CLOSED (R374)
      { s with mem := s.mem.writeNat (r + 0x50) 8 (s.gflags r - bitsOf (s.gflags r) 2 1 * 4) }
    else s) after

/-! ### Events -/

/-- Take the k-th gravity message of a kind. -/
def takeGrav (p : GravMsg → Bool) : Nat → List GravMsg → Option (GravMsg × List GravMsg)
  | _, [] => none
  | k, m :: ms =>
    if p m then
      (if k = 0 then some (m, ms) else (takeGrav p (k - 1) ms).map fun r => (r.1, m :: r.2))
    else (takeGrav p k ms).map fun r => (r.1, m :: r.2)

/-- The answer of a borrow for the work of a bind, where it still waits: 2^20 of the die's reserve join what it holds in the same step, or the
refusal is noted (R378). An answer that nothing waits for leaves the reserve. -/
def State.borrowAnswer (s : State) (die root uid : Nat) (ok : Bool) : State :=
  match List.find? (fun (p : Nat × Ctx) => p.2.work.uid == uid && p.2.grav == 1) s.ctxs with
  | none => s
  | some (ck, _) =>
    if ok then (s.takeReserve die root).onCtxAt ck fun c => { c with grav := 0, hg := c.hg + 2 ^ 20 }
    else s.onCtxAt ck fun c => { c with grav := 2 }

/-- BORROW_REFILL: the k-th borrow of a die reaches the home. -/
def borrowRefill (die k : Nat) (s : State) : State :=
  match takeGrav (fun m => match m with
    | .borrow _ d _ => d == die
    | _ => false) k s.grav with
  | some (.borrow r _ w, ms) =>
    let s1 := { s with grav := ms }
    if s.closed r then s1.borrowAnswer die r w false else (s1.refill die r).borrowAnswer die r w true
  | _ => s

def execBorrowRefill (die k : Nat) (s : State) : Host.Outcome State Fault Refusal := always s (borrowRefill die k)

/-- COMBINER_IDLE_FLUSH: the k-th slot of a die's combiner after 1,241 ticks without a return or borrow. -/
def idleFlush (die k : Nat) (s : State) : State :=
  match (s.slots die).drop k with
  | c :: _ => if c.used + 1241 ≤ s.time then s.freeSlot die c.root else s
  | [] => s

def execCombinerIdleFlush (die k : Nat) (s : State) : Host.Outcome State Fault Refusal := always s (idleFlush die k)

/-- FLUSH_PROBE: the k-th probe waiting at a die flushes and frees the root's slot; the message leaving the list is its answer. -/
def flushProbe (die k : Nat) (s : State) : State :=
  match takeGrav (fun m => match m with
    | .probe _ d _ => d == die
    | _ => false) k s.grav with
  | some (.probe r _ _, ms) => (({ s with grav := ms }).freeSlot die r).testQuiet r
  | _ => s

def execFlushProbe (die k : Nat) (s : State) : Host.Outcome State Fault Refusal := always s (flushProbe die k)

/-- CLOSE_NOTICE: the die's slot for the closed root is flushed and freed; the last die sets DRAINED. -/
def closeNotice (die k : Nat) (s : State) : State :=
  match takeGrav (fun m => match m with
    | .close _ d => d == die
    | _ => false) k s.grav with
  | some (.close r _, ms) =>
    let s1 := ({ s with grav := ms }).freeSlot die r
    let n := AMap.get 0 s1.closing r - 1
    let s2 := { s1 with closing := if n = 0 then AMap.era r s1.closing else AMap.ins r n s1.closing }
    if n = 0 && s2.closed r then s2.setGflag r 4 else s2
  | _ => s

def execCloseNotice (die k : Nat) (s : State) : Host.Outcome State Fault Refusal := always s (closeNotice die k)

/-- GRAVITY_FLUSH_ARRIVAL: RETURNED grows; waiters test again when they are next presented (R375, R386). -/
def flushArrival (k : Nat) (s : State) : State :=
  match takeGrav (fun m => match m with
    | .flush _ _ => true
    | _ => false) k s.grav with
  | some (.flush r a, ms) => ({ s with grav := ms }).rootAdd r 0x48 a
  | _ => s

def execGravityFlushArrival (k : Nat) (s : State) : Host.Outcome State Fault Refusal := always s (flushArrival k)

/-- GRVAL: a return written by software, to the root that GRADDR names; ignored where it names none. What the reserved bits hold is ignored
(R7, R390). -/
def grvalWrite (die v : Nat) (s : State) : State :=
  let a := (AMap.get (0 : Word) s.graddr die).toNat
  match findRegion (s.dev (bitsOf a 56 6)).regions (a % 2 ^ 56) with
    | some r => if s.isRoot r.phys then s.giveBack die r.phys (v % 2 ^ 40) else s
    | none => s

def execGrval (die v : Nat) (s : State) : Host.Outcome State Fault Refusal := always s (grvalWrite die v)

/-- Every probe that a waiter sent has been answered, and the root is quiet or has been found so since (R386). -/
def State.rootQuiet (s : State) (root waiter : Nat) : Bool := !(s.probing root waiter) && (s.quiet root || s.wakes.contains (root, waiter))

end Sys2Proof.Machine
end

