-- ==== Sys2Proof/Machine/MemOps.lean ====
section
/-! DEFINITION. The X slot: loads and stores (R241 to R247), tile moves and copy packets as they issue (R248, R251), rings (R260),
atomics (R261, R262), fences and engine waits (R263, R264), barriers (R266, R267), queues and tasks (R268 to R272), time (R273). -/

namespace Sys2Proof.Machine

/-! ### Shared checks -/

/-- Effects held until commit in a speculating context (R274, R414). -/
def specVerdict (s : State) : Verdict := if s.ctx.spec then .block .spec else .ok

/-- A load's order after earlier acquires, which its walk too comes after (R100), then its translation and page kind. -/
def loadVerdict (x : AccX) (s : State) : Verdict := (acquireDone s).and (x.verdict.and (soVerdict x s))

/-- The 64-byte target lines of pieces (R415): in memory, behind a PCIe port, on another chip. -/
def targetLines (ps : List Piece) : List Nat :=
  ps.filterMap fun p => match p.loc with
    | .mem k => some (k / 64 * 4)
    | .pcie k => some (k / 64 * 4 + 1)
    | .chip k => some (k / 64 * 4 + 2)
    | _ => none

/-- Entries of the speculative write buffer after the gated stores and one more store (R415). -/
def specLines (ps : List Piece) (s : State) : Nat :=
  let c := s.ctx
  (dedup (targetLines ((c.wbuf ++ c.gated).flatMap (fun g => g.pieces.map Prod.fst) ++ ps
    |>.filter (Piece.buffered s.act.ck)))).length

/-- A gated store: its buffer must have room (R156), and the speculative write buffer too (R415). -/
def storeVerdict (shadow : Bool) (x : AccX) (lines : List Nat) (s : State) : Verdict :=
  (loadVerdict x s).and <|
    if s.ctx.spec && !shadow && decide (128 < specLines x.pieces s) then .block .spec
    else if !shadow && decide (64 < s.ctx.linesUsed lines) && !s.ctx.gated.isEmpty then .commit
    else .ok

/-- The environment of the acting context. -/
def State.env (s : State) : TEnv := s.envOf s.act.ck

/-- A release or an acquire joins the views of unit scratch (R111); a later acquire at a scope waits for the die's clock (R126). -/
def joinIf (b : Bool) (s : State) : State := if b then joinViews s else s

/-- The address of an operand of the acting context. -/
def State.opVa (s : State) (sa : Nat) (o : Int) : Nat := operandVa (s.ctx.bank.sreg sa) o

/-- Capability checks of an operand of the acting context. -/
def State.opVerdict (s : State) (sa : Nat) (acc : Acc) (o : Int) (n : Nat) : Verdict := operandVerdict (s.ctx.bank.sreg sa) acc o n

/-- A store of a speculating context through a capability with S = 1 (R414); others are ordinary (R418). -/
def State.shadowed (s : State) (sa : Nat) : Bool := s.ctx.spec && (s.ctx.bank.sreg sa).tag && (s.ctx.bank.sreg sa).permS

/-! ### Scalar loads and stores (R241, R242) -/

/-- Bytes of an access size. -/
def szBytes (sz : Nat) : Nat := 2 ^ sz

/-- The destination of LD and LDA. -/
def loadDst (sd sz : Nat) (sx : Bool) : Dst := if sz = 4 then .wide sd else .int sd (szBytes sz) sx

/-- The bytes of s[d] that ST and STL write. -/
def storeBytes (b : Bank) (sd sz : Nat) : List Byte := leBytes (b.sreg sd).num (szBytes sz)

/-- The checks of LD. -/
def ldCheck (sa sz : Nat) (imm : Int) (s : State) : Verdict :=
  let n := szBytes sz
  let x := s.access .read (s.opVa sa imm) n
  (s.opVerdict sa .read imm n).and (loadVerdict x s)

/-- LD. -/
def execLd (sd sa sz : Nat) (sx : Bool) (_ : Nat) (imm : Int) (s : State) : Host.Outcome State Fault Refusal :=
  let n := szBytes sz
  let x := s.access .read (s.opVa sa imm) n
  slotOp (ldCheck sa sz imm s) s fun s =>
    markSo x (issueLoad (loadDst sd sz sx) n false false x s.env s)

/-- The checks of LDA. -/
def ldaCheck (sa sz : Nat) (imm : Int) (s : State) : Verdict :=
  let n := szBytes sz
  let va := s.opVa sa imm
  let x := s.access .read va n
  ((s.opVerdict sa .read imm n).and (alignVerdict 6 va n)).and (loadVerdict x s)

/-- LDA: an acquire at SCOPE. -/
def execLda (sd sa sz : Nat) (sx : Bool) (scope : Nat) (imm : Int) (s : State) : Host.Outcome State Fault Refusal :=
  let n := szBytes sz
  let va := s.opVa sa imm
  let x := s.access .read va n
  slotOp (ldaCheck sa sz imm s) s fun s =>
    joinViews (markSo x (issueLoad (loadDst sd sz sx) n true (decide (4 ≤ scope)) x s.env s))

/-- The checks of ST. -/
def stCheck (sa sz : Nat) (imm : Int) (s : State) : Verdict :=
  let n := szBytes sz
  let va := s.opVa sa imm
  let x := s.access .write va n
  (s.opVerdict sa .write imm n).and (storeVerdict (s.shadowed sa) x (linesOf va n) s)

/-- ST. -/
def execSt (sd sa sz : Nat) (_ : Bool) (_ : Nat) (imm : Int) (s : State) : Host.Outcome State Fault Refusal :=
  let n := szBytes sz
  let va := s.opVa sa imm
  let x := s.access .write va n
  slotOp (stCheck sa sz imm s) s fun s =>
    issueStore x (storeBytes s.ctx.bank sd sz) (linesOf va n) false (s.shadowed sa) s.env s

/-- The checks of STL. -/
def stlCheck (sa sz : Nat) (scope : Nat) (imm : Int) (s : State) : Verdict :=
  let n := szBytes sz
  let va := s.opVa sa imm
  let x := s.access .write va n
  ((s.opVerdict sa .write imm n).and (alignVerdict 7 va n)).and <|
    (loadVerdict x s).and ((specVerdict s).and (releaseVerdict scope s))

/-- STL: a release at SCOPE, then its own store. -/
def execStl (sd sa sz : Nat) (_ : Bool) (scope : Nat) (imm : Int) (s : State) : Host.Outcome State Fault Refusal :=
  let n := szBytes sz
  let va := s.opVa sa imm
  let x := s.access .write va n
  slotOp (stlCheck sa sz scope imm s) s fun s =>
    joinViews (issueStore x (storeBytes s.ctx.bank sd sz) (linesOf va n) true (s.shadowed sa) s.env s)

/-! ### Vector loads and stores (R244 to R247) -/

/-- Maximal runs of set bits of a 16-bit mask: first lane and count. -/
def runsFrom : Nat → Nat → Nat → List (Nat × Nat)
  | 0, _, _ => []
  | k + 1, m, l =>
    if bitOf m l then
      match runsFrom k m (l + 1) with
      | (f, c) :: r => if f = l + 1 then (l, c + 1) :: r else (l, 1) :: (f, c) :: r
      | [] => [(l, 1)]
    else runsFrom k m (l + 1)

def laneRuns (m : Nat) : List (Nat × Nat) := runsFrom 16 m 0

/-- Checks of the parts of a vector access: offset, bytes. -/
def partsVerdict (r : SReg) (acc : Acc) : List (Int × Nat × Nat) → Verdict
  | [] => .ok
  | (o, _, n) :: ps => (operandVerdict r acc o n).and (partsVerdict r acc ps)

/-- Translation of the parts: offset from the base register, index in the vector, bytes. -/
def State.partsXlat (s : State) (r : SReg) (acc : Acc) : List (Int × Nat × Nat) → AccX
  | [] => .ok [] false []
  | (o, i, n) :: ps => ((s.access acc (operandVa r o) n).shift i).append (s.partsXlat r acc ps)

/-- The access of the parts: the heap check of every part, each an access of its own (log 22), then their translation (R88). -/
def State.partsAccess (s : State) (r : SReg) (acc : Acc) (ps : List (Int × Nat × Nat)) : AccX :=
  match ps.find? fun p => !(s.env.heapOk (operandVa r p.1) p.2.2) with
  | some p => .fault 9 (operandVa r p.1)
  | none => s.partsXlat r acc ps

/-- The virtual lines of the parts. -/
def partLines (r : SReg) (ps : List (Int × Nat × Nat)) : List Nat := ps.flatMap fun p => linesOf (operandVa r p.1) p.2.2

/-- The parts of VLD and VST: the active lanes, joined where they adjoin. Each part is an access of its own to the heap check (log 22). -/
def lanesParts (imm : Int) (m : Nat) : List (Int × Nat × Nat) := (laneRuns m).map fun p => (imm + 4 * p.1, 4 * p.1, 4 * p.2)

/-- The 256-bit pattern in BFXP0 to BFXP3 (R84). -/
def Bank.bfxPattern (b : Bank) : Nat := b.kreg 0x50 + b.kreg 0x51 * 2 ^ 64 + b.kreg 0x52 * 2 ^ 128 + b.kreg 0x53 * 2 ^ 192

/-- The checks of a vector load, and of a vector store. -/
def vecLoadCheck (sa : Nat) (ps : List (Int × Nat × Nat)) (pre : Verdict) (s : State) : Verdict :=
  let r := s.ctx.bank.sreg sa
  (pre.and (partsVerdict r .read ps)).and (loadVerdict (s.partsAccess r .read ps) s)

def vecStoreCheck (sa : Nat) (ps : List (Int × Nat × Nat)) (s : State) : Verdict :=
  let r := s.ctx.bank.sreg sa
  (partsVerdict r .write ps).and (storeVerdict (s.shadowed sa) (s.partsAccess r .write ps) (partLines r ps) s)

/-- A vector load of some parts into masked lanes. -/
def vecLoad (sa : Nat) (ps : List (Int × Nat × Nat)) (d : Dst) (n : Nat) (pre : Verdict) (s : State) :
    Host.Outcome State Fault Refusal :=
  let r := s.ctx.bank.sreg sa
  let x := s.partsAccess r .read ps
  slotOp (vecLoadCheck sa ps pre s) s fun s =>
    markSo x (issueLoad d n false false x s.env s)

/-- A vector store of some parts. -/
def vecStore (sa : Nat) (ps : List (Int × Nat × Nat)) (bs : List Byte) (s : State) : Host.Outcome State Fault Refusal :=
  let r := s.ctx.bank.sreg sa
  let x := s.partsAccess r .write ps
  slotOp (vecStoreCheck sa ps s) s fun s =>
    issueStore x bs (partLines r ps) false (s.shadowed sa) s.env s

/-- VLD; with BFX the pattern unpacks ceil(ceil(64 / NF) P / 8) bytes (R245). -/
def execVld (vd sa qp : Nat) (bfx : Bool) (imm : Int) (s : State) : Host.Outcome State Fault Refusal :=
  let b := s.ctx.bank
  let m := b.lanes qp
  if bfx then
    let pat := b.bfxPattern
    let n := bfxBytes pat
    vecLoad sa [(imm, 0, n)] (.bfx (b.phys vd) m pat) n (need (bfxEN pat && bfxOk pat) ⟨2, 0, 0, 3⟩) s
  else vecLoad sa (lanesParts imm m) (.vec (b.phys vd) m) 64 .ok s

/-- VST. -/
def execVst (vs sa qp : Nat) (_ : Bool) (imm : Int) (s : State) : Host.Outcome State Fault Refusal :=
  let b := s.ctx.bank
  vecStore sa (lanesParts imm (b.lanes qp)) (leBytes (b.vreg vs).toNat 64) s

/-- The parts of VLDS: an element with an inactive lane is read as its active lanes are. -/
def stridedParts (imm st : Int) (esz m : Nat) : List (Int × Nat × Nat) :=
  let e := 4 * 2 ^ esz
  (upTo (64 / e)).flatMap fun j =>
    let lanes := bitsOf m (j * 2 ^ esz) (2 ^ esz)
    (laneRuns lanes).map fun p => (imm + j * st + 4 * p.1, e * j + 4 * p.1, 4 * p.2)

/-- VLDS. -/
def execVlds (vd sa qp sb esz : Nat) (imm : Int) (s : State) : Host.Outcome State Fault Refusal :=
  let b := s.ctx.bank
  let m := b.lanes qp
  vecLoad sa (stridedParts imm (sext (b.int sb) 64) esz m) (.vec (b.phys vd) m) 64 .ok s

/-- The parts of VGATHER and VSCATTER, lanes ascending (R247). -/
def indexedParts (imm : Int) (v : BitVec 512) (scl m : Nat) : List (Int × Nat × Nat) :=
  ((upTo 16).filter (bitOf m)).map fun l => (imm + (bitsOf v.toNat (32 * l) 32 * 2 ^ scl : Nat), 4 * l, 4)

/-- VGATHER. -/
def execVgather (vd sa qp vb scl : Nat) (imm : Int) (s : State) : Host.Outcome State Fault Refusal :=
  let b := s.ctx.bank
  vecLoad sa (indexedParts imm (b.vreg vb) scl (b.lanes qp)) (.vec (b.phys vd) (b.lanes qp)) 64 .ok s

/-- VSCATTER. -/
def execVscatter (vs sa qp vb scl : Nat) (imm : Int) (s : State) : Host.Outcome State Fault Refusal :=
  let b := s.ctx.bank
  vecStore sa (indexedParts imm (b.vreg vb) scl (b.lanes qp)) (leBytes (b.vreg vs).toNat 64) s

/-! ### Tile moves (R248, R249) -/

/-- A capability operand of TMOV: R214's checks, then a base aligned to 64 bytes. -/
def tmovCap (r : SReg) (w : Bool) (nrM1 str : Nat) : Verdict :=
  (capVerdict r ⟨!w, w, 0, 3, 64 * (str * nrM1 + 1)⟩).and (need (r.base % 64 == 0) ⟨4, r.base, r.hid, 0⟩)

/-- The checks of TMOV. -/
def tmovCheck (dst src : Nat) (ds ss : Bool) (nrM1 str : Nat) (s : State) : Verdict :=
  let b := s.ctx.bank
  (if ss then tmovCap (b.sreg src) false nrM1 str else tileVerdict b src).and <|
    (if ds then tmovCap (b.sreg dst) true nrM1 str else tileVerdict b dst).and
      ((freeVerdict 5 (if ds then [b.sreg dst] else []) s).and (acquireDone s))

/-- TMOV, after earlier acquires (R121). -/
def execTmov (dst src : Nat) (ds ss : Bool) (nrM1 str : Nat) (s : State) : Host.Outcome State Fault Refusal :=
  slotOp (tmovCheck dst src ds ss nrM1 str s) s fun s =>
    let b := s.ctx.bank
    issueCmd 5 (.tmov dst src ds ss nrM1 str) [b.sreg src, b.sreg dst] [b.tileNo src, b.tileNo dst] 0 none s

/-! ### Steps at a home (R129) -/

/-- A step decided before issue: on the own die its result as it would be now; else what the home answered. -/
def preStep (r : Rmw) (key : Nat) (s : State) (k : Nat → Clock → Verdict) : Verdict :=
  if homeDie key = dieOfCore s.act.core then k (performRmw r key s).1 (s.clockOf (homeDie key))
  else match s.ctx.remote with
    | none => .ask (homeDie key) r key
    | some none => .block .remote
    | some (some (v, c)) => k v c

/-- Its result and the state after it, when the bundle issues. -/
def preDone (r : Rmw) (key : Nat) (s : State) : Nat × State :=
  if homeDie key = dieOfCore s.act.core then
    let p := performRmw r key s
    (p.1, (s.noticeClosed p.2).signalled key 8)
  else match s.ctx.remote with
    | some (some (v, _)) => (v, s)
    | _ => (0, s)

/-- A step at a home that an issuing bundle sends or performs; its value lands as a variable-latency result (R129, R261). -/
def postStep (r : Rmw) (x : AccX) (d : Dst) (n : Nat) (acq dom : Bool) (s : State) : State :=
  let die := dieOfCore s.act.core
  let far := fun (dst key : Nat) (t : State) =>
    (t.send die dst (.rmw r key t.act.ck t.ctx.nextVar false t.ctx.bank.pc)).onCtx fun c =>
      let f := c.inFlight d [] 1 acq dom
      { f with var := f.var.map fun (v : VarW) => if v.id = c.nextVar then { v with so := x.so, pages := x.pages } else v }
  let s1 := s.walkedAll s.env .atomic x.leaves
  match x.pieces with
  | p :: _ =>
    match p.loc with
    | .mem key =>
      if homeDie key = die then
        let q := performRmw r key s1
        ((s1.noticeClosed q.2).signalled key 8).onCtx fun c => c.inFlight d (leBytes q.1 n) 0 acq dom
      else far (homeDie key) key s1
    | .chip ta => far 8 (2 ^ 60 + ta) s1
    | _ => s1
  | [] => s1

/-! ### Copy queues (R251) -/

/-- The bytes of an access are written by the acting context at once. -/
def State.performAll (s : State) (x : AccX) (bs : List Byte) : State :=
  x.pieces.foldl (fun t p => t.perform s.act.ck x.pages x.so (p, (bs.drop p.idx).take p.n)) s

/-- The packet slot is written through the context's own translation. -/
def cpyputVerdict (sa : Nat) (imm : Int) (s : State) : Verdict :=
  let va := s.opVa sa imm
  let x := s.access .atomic va 64
  (((s.opVerdict sa .atomic imm 64).and (alignVerdict 7 va 64)).and ((acquireDone s).and (x.verdict.and (rmwTarget false x va)))).and <|
    (specVerdict s).and <| (releaseVerdict 4 s).and <| (soVerdict x s).and <| (queueVerdict 5 s).and <|
    preStep .claim x.key s fun v _ =>
      if v = rmwNo then .block .hwq else (s.access .write v 64).verdict

/-- The checks of CPYPUT. -/
def cpyputCheck (sa : Nat) (imm : Int) (s : State) : Verdict :=
  cpyputVerdict sa imm s

/-- CPYPUT: claim, write the packet with V = 0, and queue its publication; the core records the packet's capabilities from now on (R131). -/
def execCpyput (vs sa : Nat) (imm : Int) (s : State) : Host.Outcome State Fault Refusal :=
  slotOp (cpyputCheck sa imm s) s fun s =>
    let va := s.opVa sa imm
    let x := s.access .atomic va 64
    let p := preDone .claim x.key (s.walkedAll s.env .atomic x.leaves)
    let w := p.2.access .write p.1 64
    let v := (s.ctx.bank.vreg vs).toNat
    let bs := leBytes (v - bitsOf v 31 1 * 2 ^ 31) 64
    let s1 := (p.2.walkedAll s.env .write w.leaves).performAll w bs
    joinViews (issueCmd 5 (.cpyput vs sa imm) (s1.packetCaps s.ctx.work.ctxid va v) [va, p.1] (s.ctx.bank.vreg vs) none s1)

/-! ### Rings (R260) -/

/-- Checks of a ring operand: a capability with R and W, and a header in memory. -/
def ringVerdict (sa : Nat) (s : State) : Verdict :=
  let r := s.ctx.bank.sreg sa
  let x := s.access .atomic r.base 64
  (need r.tag ⟨3, 0, 0, 0⟩).and <| (operandVerdict r .atomic 0 64).and <| (acquireDone s).and <|
    (x.verdict.and (rmwTarget false x r.base)).and (soVerdict x s)

/-- The key of the header. -/
def State.ringKey (s : State) (sa : Nat) : Nat := (s.access .atomic (s.ctx.bank.sreg sa).base 64).key

/-- The walker's effects of the header's access. -/
def State.ringWalked (s : State) (sa : Nat) : State :=
  let x := s.access .atomic (s.ctx.bank.sreg sa).base 64
  markSo x (s.walkedAll s.env .atomic x.leaves)

/-- The checks of RAWAIT. -/
def rawaitCheck (sa k : Nat) (s : State) : Verdict :=
  (ringVerdict sa s).and <| preStep (.rawait k) (s.ringKey sa) s fun v _ =>
    if v = rmwErr 0x0E then .trap ⟨0x0E, 0, 0, 0⟩ else if v = rmwNo then .block (.ring (s.ringKey sa) k) else .ok

/-- RAWAIT. -/
def execRawait (sd sa k : Nat) (s : State) : Host.Outcome State Fault Refusal :=
  slotOp (rawaitCheck sa k s) s fun s =>
    let p := preDone (.rawait k) (s.ringKey sa) s
    joinViews ((p.2.ringWalked sa).onCtx fun c => c.inFlight (.int sd 8 false) (leBytes p.1 8) 0 false false)

/-- The checks of RAPEEK. -/
def rapeekCheck (sa k : Nat) (s : State) : Verdict :=
  (ringVerdict sa s).and <| preStep (.rapeek k) (s.ringKey sa) s fun v _ =>
    if v = rmwErr 0x0E then .trap ⟨0x0E, 0, 0, 0⟩ else .ok

/-- RAPEEK. -/
def execRapeek (sd sa k : Nat) (s : State) : Host.Outcome State Fault Refusal :=
  slotOp (rapeekCheck sa k s) s fun s =>
    let p := preDone (.rapeek k) (s.ringKey sa) s
    joinIf (p.1 != 2 ^ 64 - 1) ((p.2.ringWalked sa).onCtx fun c => c.inFlight (.int sd 8 false) (leBytes p.1 8) 0 false false)

/-- The checks of RAREL. -/
def rarelCheck (sa nM1 : Nat) (s : State) : Verdict :=
  (ringVerdict sa s).and <| (specVerdict s).and <| (releaseVerdict 3 s).and <|
    preStep (.rarel (nM1 + 1)) (s.ringKey sa) s fun v _ => if v = rmwErr 0x0E then .trap ⟨0x0E, 0, 0, 0⟩ else .ok

/-- RAREL: a release at die scope. -/
def execRarel (sa nM1 : Nat) (s : State) : Host.Outcome State Fault Refusal :=
  slotOp (rarelCheck sa nM1 s) s fun s =>
    joinViews ((preDone (.rarel (nM1 + 1)) (s.ringKey sa) s).2.ringWalked sa)

/-! ### Atomics (R261, R262) -/

/-- Checks of an atomic on n bytes: capability, alignment, translation, target, then order. -/
def atomicVerdict (sa : Nat) (imm : Int) (n : Nat) (chip rel : Bool) (scope : Nat) (s : State) : Verdict :=
  let va := s.opVa sa imm
  let x := s.access .atomic va n
  (((s.opVerdict sa .atomic imm n).and (alignVerdict 7 va n)).and ((acquireDone s).and (x.verdict.and (rmwTarget chip x va)))).and <|
    (specVerdict s).and <|
    (if rel then releaseVerdict scope s else if s.ctx.gated.isEmpty then .ok else .commit).and (soVerdict x s)

/-- ORD as acquire and release. -/
def ordAcq (ord : Nat) : Bool := bitOf ord 0
def ordRel (ord : Nat) : Bool := bitOf ord 1

/-- The checks of ATOM. -/
def atomCheck (sa : Nat) (w8 : Bool) (ord scope : Nat) (imm : Int) (s : State) : Verdict :=
  let n := if w8 then 8 else 4
  atomicVerdict sa imm n true (ordRel ord) scope s

/-- ATOM. -/
def execAtom (sd sa sb aop : Nat) (w8 : Bool) (ord scope : Nat) (nret : Bool) (imm : Int) (s : State) :
    Host.Outcome State Fault Refusal :=
  let n := if w8 then 8 else 4
  slotOp (atomCheck sa w8 ord scope imm s) s fun s =>
    joinIf (ord != 0) (postStep (.atom aop w8 (s.ctx.bank.int sb)) (s.access .atomic (s.opVa sa imm) n)
      (if nret then .none else .int sd n false) n (ordAcq ord) (ordAcq ord && decide (4 ≤ scope)) s)

/-- The checks of ACAS. -/
def acasCheck (sa : Nat) (w8 : Bool) (ord scope : Nat) (imm : Int) (s : State) : Verdict :=
  let n := if w8 then 8 else 4
  atomicVerdict sa imm n true (ordRel ord) scope s

/-- ACAS. -/
def execAcas (sd sa sb sc : Nat) (w8 : Bool) (ord scope : Nat) (imm : Int) (s : State) : Host.Outcome State Fault Refusal :=
  let n := if w8 then 8 else 4
  slotOp (acasCheck sa w8 ord scope imm s) s fun s =>
    joinIf (ord != 0) (postStep (.acas w8 (s.ctx.bank.int sb) (s.ctx.bank.int sc)) (s.access .atomic (s.opVa sa imm) n)
      (.int sd n false) n (ordAcq ord) (ordAcq ord && decide (4 ≤ scope)) s)

/-! ### Fences and engine waits (R130, R263, R264) -/

/-- The die's clock dominates every stamp returned to earlier loads. -/
def State.stampsSeen (s : State) : Bool := s.ctx.stamps.all (dominates (s.clockOf (dieOfCore s.act.core)))

/-- Which engine name of EMASK a command answers to. -/
def EngCmd.kindBit (e : EngCmd) : Nat :=
  match e.op with
  | .cpyput _ _ _ => 6
  | _ => e.q

/-- Commands of the acting context that an engine fence waits for. -/
def State.fenced (s : State) (emask : Nat) : List EngCmd := s.core.cmds.filter fun e => e.mine s.ctx && bitOf emask e.kindBit

/-- What a fence waits for. -/
def fenceVerdict (kind scope emask : Nat) (s : State) : Verdict :=
  let c := s.ctx
  let loads : Verdict := if c.var.any fun v => !v.eng then .wait else .ok
  let seen : Verdict := if s.stampsSeen then .ok else .wait
  let stores : Verdict := if !c.gated.isEmpty then .commit else if (s.unacked s.act.ck).isEmpty then .ok else .wait
  match kind with
  | 0 => loads.and (if 4 ≤ scope then seen else .ok)
  | 1 => releaseVerdict scope s
  | 2 => stores.and <| loads.and <| seen.and (releaseVerdict scope s)
  | 3 =>
    let es := s.fenced emask
    if es.any fun e => (match e.op with
      | .mxgo _ => true
      | _ => false) then .waitEng
    else if !es.isEmpty then .wait else stores.and loads
  | _ => stores.and <| loads.and seen

/-- The checks of FENCE. -/
def fenceCheck (kind scope emask : Nat) (s : State) : Verdict :=
  (acquireDone s).and (fenceVerdict kind scope emask s)

/-- FENCE. -/
def execFence (kind scope emask : Nat) (s : State) : Host.Outcome State Fault Refusal :=
  slotOp (fenceCheck kind scope emask s) s fun s =>
    joinViews (s.onCtx fun c => { c with stamps := if (kind == 0 && decide (4 ≤ scope)) || kind == 2 || kind == 4 then [] else c.stamps })

/-- The checks of EWAIT. -/
def ewaitCheck (sa : Nat) (s : State) : Verdict :=
  need (s.ctx.bank.sreg sa).tag ⟨3, 0, 0, 0⟩

/-- EWAIT: later bundles wait for the overlapping commands issued before it. -/
def execEwait (sa : Nat) (s : State) : Host.Outcome State Fault Refusal :=
  slotOp (ewaitCheck sa s) s fun s =>
    s.onCtx fun c => { c with hold := some ((c.bank.sreg sa).base, (c.bank.sreg sa).len, s.core.nextSeq, s.nextPacket) }

/-- The ranges that the scoreboard records for a command (R131). -/
def EngCmd.ranges (e : EngCmd) : List Range := e.reads.1 ++ e.writes.1

/-- The hold of an EWAIT still stands: an overlapping command or recorded TLOAD issued before it has not completed. -/
def State.held (s : State) (core : Nat) (c : Ctx) : Bool :=
  match c.hold with
  | none => false
  | some (lo, len, n, pk) =>
    (s.coreAt core).cmds.any (fun e => decide (e.seq < n) && anyMeet [⟨lo, len⟩] e.ranges)
      || s.packets.any fun p => decide (p.id < pk) && p.by_ == 0 && !p.finished && p.work.ctxid == c.work.ctxid
          && decide (10000 ≤ p.cq) && anyMeet [⟨lo, len⟩] (s.moveRange p false ++ s.moveRange p true)

/-! ### Barriers (R266, R267) -/

/-- The checks of BARINIT. -/
def barinitCheck (sa scope : Nat) (imm : Int) (s : State) : Verdict :=
  atomicVerdict sa imm 16 false true scope s

/-- BARINIT: a release at SCOPE. -/
def execBarinit (sa scope cnt : Nat) (imm : Int) (s : State) : Host.Outcome State Fault Refusal :=
  slotOp (barinitCheck sa scope imm s) s fun s =>
    joinViews (postStep (.barinit cnt) (s.access .atomic (s.opVa sa imm) 16) .none 0 false false s)

/-- The arrivals of a BARARR. -/
def bararrCount (rc : Bool) (n : Nat) (b : Bank) : Nat := if rc then b.int n else n

/-- The barrier's key. -/
def State.barKey (s : State) (sa : Nat) (imm : Int) : Nat := (s.access .atomic (s.opVa sa imm) 16).key

/-- The checks of BARARR. -/
def bararrCheck (sa scope : Nat) (rc : Bool) (n : Nat) (imm : Int) (s : State) : Verdict :=
  let k := bararrCount rc n s.ctx.bank
  (atomicVerdict sa imm 16 false true scope s).and <| (need (k != 0 && decide (k ≤ 4095)) ⟨0x0D, 0, 0, 0⟩).and <|
    preStep (.bararr k) (s.barKey sa imm) s fun v _ =>
      if v != rmwErr 0x0D then .ok
      else if homeDie (s.barKey sa imm) = dieOfCore s.act.core then .rmwTrap (.bararr k) (s.barKey sa imm) ⟨0x0D, 0, 0, 0⟩
      else .trap ⟨0x0D, 0, 0, 0⟩

/-- BARARR: a release at SCOPE; an error changes the object as the step says and traps. -/
def execBararr (sd sa scope : Nat) (rc : Bool) (n : Nat) (imm : Int) (s : State) : Host.Outcome State Fault Refusal :=
  slotOp (bararrCheck sa scope rc n imm s) s fun s =>
    let p := preDone (.bararr (bararrCount rc n s.ctx.bank)) (s.barKey sa imm) s
    joinViews (p.2.onCtx fun c => c.inFlight (.int sd 8 false) (leBytes p.1 8) 0 false false)

/-- What a BARWAIT comes to: the verdict, or how it ends (R267). -/
def barwaitVerdict (sa scope : Nat) (dl : Bool) (sb sc : Nat) (imm : Int) (s : State) : Verdict :=
  let va := s.opVa sa imm
  let x := s.access .atomic va 16
  let b := s.ctx.bank
  let t := b.int sb % 16
  let late := dl && decide (b.int sc ≤ s.time)
  let until' := if dl then some (b.int sc) else none
  let stay : Verdict := if late then .ok else .block (.barrier x.key until')
  (((s.opVerdict sa .atomic imm 16).and (alignVerdict 7 va 16)).and ((acquireDone s).and (x.verdict.and (rmwTarget false x va)))).and <|
    (soVerdict x s).and <|
    if homeDie x.key = dieOfCore s.act.core then
      let o := s.mem.readNat x.key 16
      if barPh o != t then .ok else if barBad o then .trap ⟨0x0D, 0, 0, 0⟩ else stay
    else match s.ctx.remote with
      | none => .ask (homeDie x.key) (.bartest t until') x.key
      | some none => .block .remote
      | some (some (v, c)) =>
        if v = 1 then (if scope ≤ 3 || dominates (s.clockOf (dieOfCore s.act.core)) c then .ok else .wait)
        else if v = 2 then .ok
        else .trap ⟨0x0D, 0, 0, 0⟩

/-- The value for pd when it ends: true exactly when the phase has moved. -/
def barwaitMoved (sa sb : Nat) (imm : Int) (s : State) : Bool :=
  let k := s.barKey sa imm
  if homeDie k = dieOfCore s.act.core then barPh (s.mem.readNat k 16) != s.ctx.bank.int sb % 16
  else match s.ctx.remote with
    | some (some (v, _)) => v == 1
    | _ => false

/-- The checks of BARWAIT. -/
def barwaitCheck (sa scope : Nat) (dl : Bool) (sb sc : Nat) (imm : Int) (s : State) : Verdict :=
  barwaitVerdict sa scope dl sb sc imm s

/-- BARWAIT. -/
def execBarwait (pd sa scope : Nat) (dl : Bool) (sb sc : Nat) (imm : Int) (s : State) : Host.Outcome State Fault Refusal :=
  slotOp (barwaitCheck sa scope dl sb sc imm s) s fun s =>
    let m := barwaitMoved sa sb imm s
    let x := s.access .atomic (s.opVa sa imm) 16
    joinIf m (markSo x ((s.walkedAll s.env .atomic x.leaves).onCtx fun c => c.later 1 [.p pd m]))

/-! ### Queues and tasks (R268, R270, R352 to R354) -/

/-- Fields of QCFG (R352). -/
def HwQueue.state (q : HwQueue) : Nat := bitsOf q.qcfg.toNat 62 2
def HwQueue.isTask (q : HwQueue) : Bool := bitOf q.qcfg.toNat 59
def HwQueue.slot (q : HwQueue) : Nat := bitsOf q.qcfg.toNat 53 6
def HwQueue.cap (q : HwQueue) : Nat := 2 ^ bitsOf q.qcfg.toNat 49 4
def HwQueue.hwm (q : HwQueue) : Nat := bitsOf q.qcfg.toNat 33 16
def HwQueue.lwm (q : HwQueue) : Nat := bitsOf q.qcfg.toNat 17 16
/-- The owning region: device context and RCB address. -/
def HwQueue.owner (q : HwQueue) : Nat × Nat := (bitsOf q.qrcb.toNat 56 6, q.qrcb.toNat % 2 ^ 56)

/-- The queue of a die that a region's slot maps to: one that has been configured, a mapped one first. -/
def State.slotQueue (s : State) (die ctxid rcb slot : Nat) : Option Nat :=
  let l := ((upTo 256).map fun q => 256 * die + q).filter fun i =>
    let q := s.queue i
    decide (4 ≤ bitsOf q.qcfg.toNat 49 4) && q.owner == (ctxid, rcb) && q.slot == slot
  match l.find? fun i => (s.queue i).state != 0 with
  | some i => some i
  | none => l.head?

/-- The slot number of an operand. -/
def slotNo (b : Bank) (slot : Nat) (rq : Bool) : Nat := if rq then b.int slot else slot

/-- The acting context's queue. -/
def State.ownQueue (s : State) (slot : Nat) (rq : Bool) : Option Nat :=
  s.slotQueue (dieOfCore s.act.core) s.ctx.work.ctxid s.ctx.work.rcb (slotNo s.ctx.bank slot rq)

/-- A slot above 63, one with no queue, or a queue of the other type traps with cause 0x0E (R268, R270). -/
def slotVerdict (slot : Nat) (rq task : Bool) (s : State) : Verdict :=
  if 63 < slotNo s.ctx.bank slot rq then .trap ⟨0x0E, 0, 0, 0⟩
  else match s.ownQueue slot rq with
    | none => .trap ⟨0x0E, 0, 0, 0⟩
    | some i => need ((s.queue i).isTask == task) ⟨0x0E, 0, 0, 0⟩

/-- The queue number in bounds of a checked operand. -/
def State.queueNo (s : State) (slot : Nat) (rq : Bool) : Nat := (s.ownQueue slot rq).getD 0

/-- A context bound to work dealt from a queue (R354). -/
def Ctx.dealtFrom (c : Ctx) (qi : Nat) : Bool :=
  match c.work.job with
  | .task die q _ _ _ _ => 256 * die + q == qi
  | _ => false

/-- Room for one more element: mapped, below capacity, and not held by the high watermark (R268, R354). -/
def roomVerdict (qi : Nat) (s : State) : Verdict :=
  let q := s.queue qi
  if q.state = 0 || q.state = 3 || decide (q.cap ≤ q.elems.length) || (decide (q.hwm < q.elems.length) && !s.ctx.dealtFrom qi) then
    .block .hwq
  else .ok

/-- Append an element; a depth above HWM raises priorities until it falls below LWM (R354). -/
def HwQueue.append (q : HwQueue) (e : QElem) : HwQueue :=
  let l := q.elems ++ [e]
  { q with elems := l, high := q.high || decide (q.hwm < l.length) }

/-- Remove the oldest element. -/
def HwQueue.remove (q : HwQueue) : HwQueue :=
  let l := q.elems.drop 1
  { q with elems := l, high := q.high && !decide (l.length < q.lwm), checked := false }

/-- The checks of ENQ. -/
def enqCheck (slot : Nat) (rq : Bool) (s : State) : Verdict :=
  (slotVerdict slot rq false s).and <| (specVerdict s).and <| (roomVerdict (s.queueNo slot rq) s).and <|
    (acquireDone s).and (releaseVerdict 3 s)

/-- ENQ: a release at die scope. -/
def execEnq (slot : Nat) (rq : Bool) (sa : Nat) (s : State) : Host.Outcome State Fault Refusal :=
  slotOp (enqCheck slot rq s) s fun s =>
    joinViews (s.onQueue (s.queueNo slot rq) fun q => q.append ⟨(s.ctx.bank.sreg sa).num, 0, s.clk⟩)

/-- A DEQ's turn: blocked DEQs take elements in the order in which they blocked. -/
def turnOf : List Nat → Nat → Nat → Nat
  | [], _, n => n
  | w :: ws, ck, n => if w = ck then n else turnOf ws ck (n + 1)

def deqVerdict (slot : Nat) (rq : Bool) (s : State) : Verdict :=
  let i := s.queueNo slot rq
  let q := s.queue i
  (slotVerdict slot rq false s).and <| (specVerdict s).and <| (acquireDone s).and <|
    if q.state = 1 && decide (turnOf q.waiters s.act.ck 0 < q.elems.length) then
      (if s.ctx.gated.isEmpty then .ok else .commit)
    else .block (.deq i)

/-- The checks of DEQ. -/
def deqCheck (slot : Nat) (rq : Bool) (s : State) : Verdict :=
  deqVerdict slot rq s

/-- DEQ: an acquire at die scope. -/
def execDeq (sd slot : Nat) (rq : Bool) (s : State) : Host.Outcome State Fault Refusal :=
  slotOp (deqCheck slot rq s) s fun s =>
    let i := s.queueNo slot rq
    let v := match (s.queue i).elems with
      | e :: _ => e.val
      | [] => 0
    let s1 := s.onQueue i fun q => { q.remove with waiters := q.waiters.filter fun k => k != s.act.ck }
    joinViews (s1.onCtx fun c => c.inFlight (.wide sd) (leBytes v 16) 0 false false)

/-- SPAWN: place, split, write the card, append. -/
def spawnVerdict (slot : Nat) (rq : Bool) (sa : Nat) (imm : Int) (s : State) : Verdict :=
  let va := s.opVa sa imm
  let x := s.access .atomic va 32
  (slotVerdict slot rq true s).and <| ((s.opVerdict sa .atomic imm 32).and (alignVerdict 7 va 32)).and <| ((acquireDone s).and x.verdict).and <|
    (soVerdict x s).and <| (specVerdict s).and <| (roomVerdict (s.queueNo slot rq) s).and <|
    (releaseVerdict 3 s).and (splitVerdict 1 s)

/-- The checks of SPAWN. -/
def spawnCheck (slot : Nat) (rq : Bool) (sa : Nat) (imm : Int) (s : State) : Verdict :=
  spawnVerdict slot rq sa imm s

def execSpawn (slot : Nat) (rq : Bool) (sa : Nat) (imm : Int) (s : State) : Host.Outcome State Fault Refusal :=
  slotOp (spawnCheck slot rq sa imm s) s fun s =>
    let va := s.opVa sa imm
    let p := s.splitHg 1
    let w := p.2.access .write (va + 0x18) 5
    let n := p.2.access .write (va + 0x10) 4
    let put := fun (x : AccX) (bs : List Byte) (t : State) =>
      (t.walkedAll s.env .write x.leaves).performAll x bs
    joinViews ((put n (leBytes 0 4) (put w (leBytes p.1 5) p.2)).onQueue (s.queueNo slot rq) fun q =>
      q.append ⟨va, s.ctx.work.shard % 8, s.clk⟩)

/-- GSPLIT with its count. -/
def gsplitCount (rk : Bool) (k : Nat) (b : Bank) : Nat := if rk then b.int k else k

/-- The checks of GSPLIT. -/
def gsplitCheck (rk : Bool) (k : Nat) (s : State) : Verdict :=
  let n := gsplitCount rk k s.ctx.bank
  (need (decide (n ≤ 4095)) ⟨0x0E, 0, 0, 0⟩).and <| (specVerdict s).and (if n = 0 then .ok else splitVerdict n s)

def execGsplit (sd : Nat) (rk : Bool) (k : Nat) (s : State) : Host.Outcome State Fault Refusal :=
  let n := gsplitCount rk k s.ctx.bank
  slotOp (gsplitCheck rk k s) s fun s =>
    let p := if n = 0 then (s.ctx.hg, s) else s.splitHg n
    p.2.onCtx fun c => c.inFlight (.int sd 8 false) (leBytes p.1 8) 0 false false

/-- The checks of GRET. -/
def gretCheck (sb : Nat) (s : State) : Verdict :=
  let b := s.ctx.bank.int sb
  (need (b / 2 ^ 40 == 0) ⟨0x0E, 0, 0, 0⟩).and <| (specVerdict s).and <| (acquireDone s).and (releaseVerdict 5 s)

/-- GRET: a release at system scope, then a return to the die's combiner. -/
def execGret (sb : Nat) (s : State) : Host.Outcome State Fault Refusal :=
  slotOp (gretCheck sb s) s fun s =>
    let c := s.ctx
    joinViews (s.giveBackTo (dieOfCore s.act.core) c.work.ctxid c.work.rcb (c.bank.int sb) false)

/-- The recorded address of the root that WAITQ names, or none where it traps. -/
def State.waitqRoot (s : State) (sa : Nat) : Option Nat :=
  let c := s.ctx
  match findRegion (s.dev c.work.ctxid).regions (c.bank.int sa % 2 ^ 56) with
  | none => none
  | some r =>
    if !s.isRoot r.phys || ((c.hg != 0 || c.cb != 0) && s.rootOf c.work.ctxid c.work.rcb == some r.phys) then none else some r.phys

/-- WAITQ: probes, then blocks until every probe is answered and the root is quiet; its wake is an acquire at system scope. -/
def waitqVerdict (sa : Nat) (s : State) : Verdict :=
  (acquireDone s).and <|
    match s.waitqRoot sa with
    | none => .trap ⟨0x0E, 0, 0, 0⟩
    | some r =>
      if !s.ctx.probed then .probe r
      else if !s.rootQuiet r (s.act.ck + 1) then .block (.waitq r)
      else if dominates (s.clockOf (dieOfCore s.act.core)) (s.clockOf (homeDie r)) then .ok else .wait

/-- The checks of WAITQ. -/
def waitqCheck (sa : Nat) (s : State) : Verdict :=
  waitqVerdict sa s

def execWaitq (sa : Nat) (s : State) : Host.Outcome State Fault Refusal :=
  slotOp (waitqCheck sa s) s joinViews

/-! ### Time (R273) -/

/-- TIME. -/
def execTime (sd : Nat) (s : State) : Host.Outcome State Fault Refusal :=
  always s fun s => s.onCtx fun c => c.inFlight (.int sd 8 false) (leBytes s.time 8) 0 false false

/-- The deadline of WAITT: kept from the first presentation, whose time a relative one counts from. -/
def waittDeadline (sa : Nat) (rel : Bool) (s : State) : Nat :=
  match s.ctx.deadline with
  | some t => t
  | none => if rel then s.ctx.shown.getD s.time + s.ctx.bank.int sa else s.ctx.bank.int sa

/-- The checks of WAITT. -/
def waittCheck (sa : Nat) (rel : Bool) (s : State) : Verdict :=
  let t := waittDeadline sa rel s
  if t ≤ s.time then .ok else .block (.time t)

/-- WAITT. -/
def execWaitt (sa : Nat) (rel : Bool) (s : State) : Host.Outcome State Fault Refusal :=
  slotOp (waittCheck sa rel s) s fun s => s

end Sys2Proof.Machine
end

