-- ==== Sys2Proof/Machine/Alloc.lean ====
section
/-! DEFINITION. The region allocator (R109, R114 to R117): buddy regions of each level, budgets, placement and demotion, release. -/

namespace Sys2Proof.Machine

/-- Granule of a level by residency code (R114). -/
def granuleOf (level : Nat) : Nat := if level = 0 then 2 ^ 21 else if level ≤ 2 then 2 ^ 16 else 2 ^ 12

/-- Largest region of a scratch level. -/
def largestOf (level : Nat) : Nat := if level = 1 then 2 ^ 27 else if level = 2 then 2 ^ 24 else 2 ^ 21

/-- A size rounded to a region: a power of two, at least the granule. -/
def regionSize (level n : Nat) : Nat := iter (fun _ s => if s < n then 2 * s else s) 64 (granuleOf level)

/-- The HBM pool of a device context on a die: base and size (R433). -/
def State.pool (s : State) (ctxid die : Nat) : Nat × Nat := nth (0, 0) (s.dev ctxid).pools die

/-- Bytes a level offers at a place; the accumulator store's two trees end at 3 MiB. -/
def State.levelBytes (s : State) (ctxid die level : Nat) : Nat :=
  if level = 0 then (s.pool ctxid die).2 else if level = 4 then 3 * 2 ^ 20 else largestOf level

/-- A block of HBM is a context's own; scratch is shared. -/
def Block.inLevel (b : Block) (ctxid die level place : Nat) : Bool :=
  b.level == level && b.die == die && b.place == place && (level != 0 || b.ctxid == ctxid)

/-- A region of a level that no granted region meets. -/
def State.freeAt (s : State) (ctxid die level place off size : Nat) : Bool :=
  !(s.blocks.any fun b => b.inLevel ctxid die level place && decide (b.off < off + size) && decide (off < b.off + b.size))

/-- The first free aligned offset among n candidates from one on (log 18); the 2 MiB tree of the accumulator store holds no region
across its end. -/
def State.firstFree (s : State) (ctxid die level place size : Nat) : Nat → Nat → Option Nat
  | 0, _ => none
  | n + 1, k => if s.freeAt ctxid die level place (k * size) size then some (k * size) else s.firstFree ctxid die level place size n (k + 1)

/-- The budget a level draws on: override bit and RCB offset (R11, R14). -/
def budgetOf (level : Nat) : Nat × Nat :=
  if level = 0 then (4, 0x38) else if level = 1 then (3, 0x30) else if level = 2 then (2, 0x28) else (1, 0x20)

/-- Remove the entries of an address range: its bytes read as zero. -/
def Memory.clear (m : Memory) (lo n : Nat) : Memory := m.filter fun c => !(decide (lo ≤ c.1) && decide (c.1 < lo + n))

/-- Grant of scratch to a device context: zeroed when another one last owned any of its granules (R109). -/
def State.own (s : State) (ctxid lo size : Nat) : State :=
  let gs := (upTo (size / 4096)).map fun i => lo / 4096 + i
  let dirty := gs.any fun g => AMap.get 0 s.granules g != 0 && AMap.get 0 s.granules g != ctxid + 1
  { s with mem := if dirty then s.mem.clear (scratchBase + lo) size else s.mem,
           granules := gs.foldl (fun m g => AMap.ins g (ctxid + 1) m) s.granules }

/-- The key of a handle in the maps kept beside the Handle Tables. -/
def hkey (ctxid plane hid : Nat) : Nat := (8 * ctxid + plane) * 2 ^ 32 + hid

/-- The preferred level that TPLACE recorded for a handle (R299). -/
def State.preferred (s : State) (ctxid plane hid : Nat) : Option Nat := AMap.find? s.prefer (hkey ctxid plane hid)

/-- Who asks for a region. -/
structure Asker where
  ctxid : Nat
  rcb : Nat
  plane : Nat
  die : Nat
  /-- The core of a bind, as its number within the die; none at issue, when any core of the die may be taken (log 26). -/
  core : Option Nat
  /-- The cluster that the operator's other handles confine its tiles to, if any (R115, log 26). -/
  cluster : Option Nat := none
deriving DecidableEq, Repr

/-- Where a level's regions lie for an asker: the places to try, in order. -/
def Asker.places (a : Asker) (level : Nat) : List Nat :=
  if level ≤ 1 then [0]
  else if level = 2 then (match a.core, a.cluster with
    | some c, _ => [c / 8]
    | none, some c => [c]
    | none, none => upTo 16)
  else match a.core with
    | some c => [c]
    | none => upTo 128

/-- A free region of a level: its place and offset. -/
def State.findPlace (s : State) (a : Asker) (level size : Nat) : List Nat → Option (Nat × Nat)
  | [] => none
  | p :: ps =>
    match s.firstFree a.ctxid a.die level p size (s.levelBytes a.ctxid a.die level / size) 0 with
    | some o => some (p, o)
    | none => s.findPlace a level size ps

/-- Grant a region for a handle at a level, or none (R114, R15). -/
def State.grant (s : State) (a : Asker) (hid level bytes : Nat) : Option (Block × State) :=
  let size := regionSize level bytes
  let (bit, off) := budgetOf level
  if level != 0 && decide (largestOf level < size) then none
  else if !(s.fits a.ctxid a.rcb bit off size) then none
  else match s.findPlace a level size (a.places level) with
    | none => none
    | some (p, o) =>
      let b : Block :=
        { id := s.nextBlock, die := a.die, level := level, place := p, off := o, size := size, ctxid := a.ctxid, rcb := a.rcb, hid := hid,
          plane := a.plane, views := [] }
      let s1 := { s with blocks := s.blocks ++ [b], nextBlock := s.nextBlock + 1 }.charge a.ctxid a.rcb bit off size
      some (b, if level = 0 then s1 else s1.own a.ctxid b.base size)

/-- The virtual address of a granted region. One in HBM is aligned to its size from the pool's base on (log 25). -/
def State.blockVa (s : State) (b : Block) : Nat := if b.level = 0 then (s.pool b.ctxid b.die).1 + b.off else windowVa + b.base

/-- The levels open to a handle, in the order tried (R116, R299). -/
def levelsOf (pin highest : Nat) (prefer : Option Nat) : List Nat :=
  if pin != 15 then [pin]
  else if highest = 4 then [4]
  else
    let l := (upTo (highest + 1)).reverse
    match prefer with
    | some p => if l.contains p then p :: l.filter (fun q => q != p) else l
    | none => l

/-- Try levels in order: the region granted, or the last level tried. -/
def State.grantFirst (s : State) (a : Asker) (hid : Nat) (bytes : Nat → Nat) : List Nat → Nat → Except Nat (Block × State)
  | [], lastLevel => .error lastLevel
  | l :: ls, _ =>
    match s.grant a hid l (bytes l) with
    | some r => .ok r
    | none => s.grantFirst a hid bytes ls l

/-- An entry's capability for a placement, with the permissions it has. -/
def HEnt.place (h : HEnt) (va len level : Nat) : HEnt :=
  { h with cap := capBits va len h.perm h.fmt level (h.hid % 65536) }

/-- Place a handle: the state with its entry updated, or the trap's FADDR (R116). -/
def State.placeHandle (s : State) (a : Asker) (h : HEnt) (levels : List Nat) : Except Nat State :=
  match s.grantFirst a h.hid (fun _ => h.size) levels 0 with
  | .ok (b, t) => .ok (t.setEntry a.ctxid a.plane (h.place (t.blockVa b) h.size b.level))
  | .error l => .error (regionSize l h.size + l)

/-- Free a block and credit its budget (R14, R117). -/
def State.freeBlock (s : State) (id : Nat) : State :=
  match s.blocks.find? fun b => b.id == id with
  | none => s
  | some b =>
    let (bit, off) := budgetOf b.level
    { s with blocks := s.blocks.filter fun c => c.id != id }.charge b.ctxid b.rcb bit off (-(b.size : Int))

/-- Make an entry unplaced if it still lies in a block (R117, R295). -/
def State.unplaceIn (s : State) (va : Nat) (b : Block) (hid : Nat) : State :=
  match s.rawEntry b.ctxid b.plane hid with
  | some h => if h.placed && decide (va ≤ h.base) && decide (h.base < va + b.size) then s.setEntry b.ctxid b.plane (h.place 0 0 15) else s
  | none => s

/-- Release a block: its handle and the handle's views become unplaced, and a later read of a view traps (R295). -/
def State.releaseBlock (s : State) (id : Nat) : State :=
  match s.blocks.find? fun b => b.id == id with
  | none => s
  | some b =>
    let t := ((b.hid :: b.views).foldl (fun t h => t.unplaceIn (s.blockVa b) b h) s).freeBlock id
    { t with gone := t.gone ++ b.views.map (hkey b.ctxid b.plane) }

/-- A new entry that no Handle Table holds. -/
def State.newTemp (s : State) (e : HEnt) : Nat × State :=
  (s.nextTemp, { s with temps := AMap.ins s.nextTemp { e with hid := s.nextTemp }.bytes s.temps, nextTemp := s.nextTemp + 1 })

/-- Release a temporary's regions, those that tiles took on their cores too, and forget its entry. -/
def State.dropTemp (s : State) (hid : Nat) : State :=
  let s1 := (s.blocks.filter fun b => b.hid == hid && decide (65536 ≤ hid)).foldl (fun t b => t.releaseBlock b.id) s
  { s1 with temps := AMap.era hid s1.temps }

/-- A block whose release is asked for. -/
def State.leaving (s : State) (id : Nat) : Bool := s.releases.any fun r => r.1 == id

/-- An entry lies in a block. -/
def State.inBlock (s : State) (h : HEnt) (b : Block) : Bool :=
  h.placed && decide (s.blockVa b ≤ h.base) && decide (h.base < s.blockVa b + b.size)

/-- The block a handle owns and lies in. -/
def State.blockOf (s : State) (ctxid plane hid : Nat) : Option Block :=
  match s.rawEntry ctxid plane hid with
  | some h => s.blocks.find? fun b => b.ctxid == ctxid && b.plane == plane && b.hid == hid && s.inBlock h b && !(s.leaving b.id)
  | none => none

/-- The block a handle owns or is a view in, and lies in. -/
def State.blockWith (s : State) (ctxid plane hid : Nat) : Option Block :=
  match s.rawEntry ctxid plane hid with
  | some h =>
    s.blocks.find? fun b => b.ctxid == ctxid && b.plane == plane && (b.hid == hid || b.views.contains hid) && s.inBlock h b && !(s.leaving b.id)
  | none => none

/-- The number that stands for the blocks which the binds of earlier operators' tiles have still to place (R115, R117). -/
def laterBlocks : Nat := 2 ^ 64

/-- Ask for the release of a handle's regions once every earlier-issued operator that names it has completed: those it has, and those that
the tiles of such operators have still to place (R117). `bound` bounds the operators. -/
def State.askRelease (s : State) (ctxid plane hid bound : Nat) : State :=
  let own := s.blocks.filter fun b => b.ctxid == ctxid && b.plane == plane && b.hid == hid && !(s.leaving b.id)
  { s with releases := s.releases ++ own.map (fun b => (b.id, hid, ctxid, plane, bound)) ++ [(laterBlocks, hid, ctxid, plane, bound)] }

/-- An operator names a block's handle or a view in it. -/
def State.opNames (s : State) (o : OpInst) (ctxid plane : Nat) (block : Nat) : Bool :=
  o.ctxid == ctxid && o.shard == plane && (match s.blocks.find? fun b => b.id == block with
    | some b => o.handles.any fun h => h.hid == b.hid || o.under h.wr h.hid == b.hid || b.views.contains h.hid
    | none => false)

/-- An operator before a bound still holds a release back. -/
def State.holdsRelease (s : State) (o : OpInst) (r : Nat × Nat × Nat × Nat × Nat) : Bool :=
  decide (o.id < r.2.2.2.2) && (if r.1 = laterBlocks then
      o.ctxid == r.2.2.1 && o.shard == r.2.2.2.1 && o.handles.any fun h => h.hid == r.2.1
    else s.opNames o r.2.2.1 r.2.2.2.1 r.1)

/-- Carry one release out. -/
def State.release (s : State) (r : Nat × Nat × Nat × Nat × Nat) : State :=
  if r.1 = laterBlocks then
    (s.blocks.filter fun b => b.by_ != 0 && decide (b.by_ < r.2.2.2.2) && b.ctxid == r.2.2.1 && b.plane == r.2.2.2.1 && b.hid == r.2.1).foldl
      (fun t b => t.releaseBlock b.id) s
  else s.releaseBlock r.1

/-- Carry out the releases that wait for nothing any more. -/
def State.drainReleases (s : State) : State :=
  let ready := s.releases.filter fun r => !(s.ops.any fun o => s.holdsRelease o r)
  { ready.foldl State.release s with releases := s.releases.filter fun r => !(ready.contains r) }

/-! ### Regions of a tile's core (R115, R116) -/

/-- The block in a core's memory that the tiles of an operator, or of its fuse group, have taken for a handle. -/
def State.blockOnCore (s : State) (lead ctxid plane hid core : Nat) : Option Block :=
  s.blocks.find? fun b => decide (3 ≤ b.level) && b.by_ == lead && b.ctxid == ctxid && b.plane == plane && b.hid == hid && b.die == dieOfCore core
    && b.place == core % 128

/-- The block that holds an entry was placed by a tile of the operator or its group on some core. -/
def State.heldByTile (s : State) (lead ctxid plane : Nat) (h : HEnt) : Bool :=
  s.blocks.any fun b => decide (3 ≤ b.level) && b.by_ == lead && b.ctxid == ctxid && b.plane == plane && b.hid == h.hid && s.blockVa b == h.base

/-- A block that a tile's bind was granted; it goes first, as the one that the entry names. -/
def State.claimBlock (s : State) (id lead : Nat) : State :=
  { s with blocks := ((s.blocks.filter fun b => b.id == id).map fun (b : Block) => { b with by_ := lead })
      ++ s.blocks.filter fun b => b.id != id }

/-- An entry as the tiles of a core see it: in that core's region where the tiles of the group took one. -/
def State.entryOn (s : State) (lead ctxid plane core : Nat) (h : HEnt) : HEnt :=
  match s.blockOnCore lead ctxid plane h.hid core with
  | some b => h.place (s.blockVa b) h.len b.level
  | none => h

/-- Put a handle's entry where a core's tiles have it. -/
def State.pointTo (s : State) (lead ctxid plane core hid : Nat) : State :=
  match s.rawEntry ctxid plane hid with
  | some h =>
    if h.placed && s.heldByTile lead ctxid plane h then s.setEntry ctxid plane (s.entryOn lead ctxid plane core h) else s
  | none => s

/-- The number under which the tiles of an operator take regions on their cores: its fuse group's first member's. -/
def OpInst.group (o : OpInst) : Nat := if o.lead = 0 then o.id else o.lead

/-- Every handle of an operator as a core's tiles have it. -/
def State.pointAll (s : State) (o : OpInst) (core : Nat) : State :=
  o.handles.foldl (fun t h => t.pointTo o.group o.ctxid o.shard core (o.under h.wr h.hid)) s

/-- Place a handle as a tile binds: an unplaced one by the levels open to it; one that the tiles of the operator or its group hold in another
core's memory moves to this core's, where a first tile takes a region for it and later ones find it (R115, R116, log 23). -/
def State.placeForTile (s : State) (a : Asker) (lead core : Nat) (h : HEnt) (levels : List Nat) : Except Nat State :=
  if h.placed && !(s.heldByTile lead a.ctxid a.plane h) then .ok s
  else match s.blockOnCore lead a.ctxid a.plane h.hid core with
    | some b => .ok (if h.placed then s.setEntry a.ctxid a.plane (h.place (s.blockVa b) h.len b.level) else s)
    | none =>
      match s.placeHandle a h levels with
      | .ok t => .ok (t.claimBlock s.nextBlock lead)
      | .error f => .error f

end Sys2Proof.Machine
end

