-- ==== Sys2Proof/Machine/Work.lean ====
section
/-! DEFINITION. Work: handle edges (R23), loop nests and walk orders (R26 to R28), capabilities minted for a tile (R31, R343), binding
(R30, R36), ENDOP (R185), an operator's effect on versions (R113). -/

namespace Sys2Proof.Machine

/-! ### Edges of the handle scoreboard (R23) -/

/-- The virtual range of a placed entry. -/
def HEnt.range (h : HEnt) : Range := ⟨h.base, h.len⟩

/-- A block whose owner or views two handles are. -/
def Block.joins (b : Block) (ctxid plane x y : Nat) : Bool :=
  b.ctxid == ctxid && b.plane == plane && (b.hid :: b.views).contains x && (b.hid :: b.views).contains y

/-- Two handles of a plane are related: one handle, a view and its source or two views of one source, also while their block waits for its
release or a resumption, or overlapping placements. -/
def State.related (s : State) (ctxid plane a b : Nat) : Bool :=
  a == b || (s.blocks.any fun x => x.joins ctxid plane a b) || (s.displaced.any fun d => d.block.joins ctxid plane a b) ||
  (match s.rawEntry ctxid plane a, s.rawEntry ctxid plane b with
    | some x, some y => x.placed && y.placed && x.range.meets y.range
    | _, _ => false)

/-- An earlier operator must complete before a later one's handles are used: one of the two writes related handles. -/
def State.edge (s : State) (o : OpInst) (ctxid plane : Nat) (hs : List OpHandle) : Bool :=
  o.ctxid == ctxid && o.shard == plane && o.handles.any fun a => hs.any fun b => (a.wr || b.wr) && s.related ctxid plane a.hid b.hid

/-- The operators a new one waits for. -/
def State.depsOf (s : State) (ctxid plane : Nat) (hs : List OpHandle) : List Nat :=
  (s.ops.filter fun o => s.edge o ctxid plane hs).map OpInst.id

/-- Every operator it waits for has completed. -/
def State.depsDone (s : State) (o : OpInst) : Bool := !(s.ops.any fun p => o.deps.contains p.id)

/-! ### Loop nests (R26 to R28) -/

/-- The smallest fold of a count that fits 16 bits (R28). -/
def foldCount (c : Nat) : Nat := iter (fun k n => if 65535 < n then cdiv c (2 ^ (k + 1)) else n) 40 c

/-- The next valid Morton code from one on, with fuel (R27). -/
def mortonIx (n code : Nat) : List Nat := (upTo n).map fun l => (upTo 16).foldl (fun a j => a + (bitOf code (j * n + l)).toNat * 2 ^ j) 0

def mortonNext (counts : List Nat) : Nat → Nat → Nat
  | 0, code => code
  | k + 1, code =>
    if (List.zip (mortonIx counts.length code) counts).all fun p => decide (p.1 < p.2) then code else mortonNext counts k (code + 1)

/-- The tile at a walk code, and the code after it. A handle lies in one region, so affinity order has one group (R26). -/
def walkTile (order : Nat) (counts : List Nat) (code : Nat) : List Nat × Nat :=
  if order = 1 then ((coords counts.reverse code).reverse, code + 1)
  else if order = 2 then
    let c := mortonNext counts (2 ^ (16 * counts.length)) code
    (mortonIx counts.length c, c + 1)
  else (coords counts code, code + 1)

/-- Number of tiles. -/
def tileCount (counts : List Nat) : Nat := counts.foldl (· * ·) 1

/-! ### Capabilities of a tile (R31, R343) -/

/-- The box of a tile in a handle: first and last index by dimension; none when it is empty. -/
def tileBox (dims counts ix : List Nat) : Option (List Nat × List Nat) :=
  let f := (upTo dims.length).map fun l =>
    let d := nth 0 dims l
    if l < counts.length then
      let b := cdiv d (nth 1 counts l)
      (nth 0 ix l * b, min ((nth 0 ix l + 1) * b) d)
    else (0, d)
  if f.all fun p => decide (p.1 < p.2) then some (f.map Prod.fst, f.map fun p => p.2 - 1) else none

/-- A capability narrowed to a box, from its first element to its last in layout order. -/
def State.mintBox (s : State) (ctxid plane : Nat) (h : HEnt) (perm : Nat) (box : Option (List Nat × List Nat)) : SReg :=
  match box with
  | none => mkCap h.base 0 perm h.fmt h.res (h.hid % 65536)
  | some (lo, hi) =>
    let a := s.elemBit ctxid plane h lo
    let b := s.elemBit ctxid plane h hi + fmtWidth h.fmt
    mkCap (h.base + a / 8) (cdiv b 8 - a / 8) perm h.fmt h.res (h.hid % 65536)

/-- The shadow or prediction temporary that stands for a handle while its operator speculates. -/
def OpInst.shadowOf (o : OpInst) (hid : Nat) : Option Nat := (o.shadows.find? fun p => p.1 == hid).map Prod.snd

/-- What stands for an operand of the operator: a lowered temporary, or a shadow while it speculates (R312, R411). -/
def OpInst.stand (o : OpInst) (out : Bool) (hid : Nat) : Nat :=
  let n := o.under out hid
  (o.shadowOf n).getD ((o.shadowOf hid).getD n)

/-- The entry of an operand as the operator uses it outside speculation. -/
def State.opEnt (s : State) (o : OpInst) (out : Bool) (hid : Nat) : Option HEnt := s.rawEntry o.ctxid o.shard (o.under out hid)

/-- An operator writes a handle. -/
def OpInst.writes (o : OpInst) (hid : Nat) : Bool := o.handles.any fun p => p.hid == hid && p.wr

/-- The capability of an operand: of its own entry, or with S = 1 of what stands for it: a shadow of an output with the output's
permissions, the prediction buffer with R, W, E and N, another consumer's shadow with R, E and N (R411). -/
def State.mintFor (s : State) (o : OpInst) (ix : List Nat) (hid : Nat) : SReg :=
  match s.opEnt o (o.writes hid) hid with
  | none => ⟨0, false⟩
  | some h0 =>
    let h := { h0 with hid := hid }
    match (o.shadowOf hid).bind (s.rawEntry o.ctxid o.shard) with
    | some t =>
      let perm := if o.writes hid then h.perm / 2 * 2 + 1 else if o.behind.isNone then 0x1F else 0x17
      let m := s.mintBox o.ctxid o.shard t perm (tileBox t.dims o.counts ix)
      mkCap m.base m.len perm h.fmt t.res (hid % 65536)
    | none => s.mintBox o.ctxid o.shard h h.perm (tileBox h.dims o.counts ix)

/-! ### Registers at bind (R30, R36, R147, R411) -/

/-- An untagged integer register. -/
def intReg (v : Nat) : SReg := ⟨BitVec.ofNat 128 (v % 2 ^ 64), false⟩

/-- A bank from s registers and the k-registers that differ from zero. -/
def bankOf (ss : List (Nat × SReg)) (ks : List (Nat × Nat)) (pc : Nat) : Bank :=
  { s := ss.foldl (fun m p => AMap.ins p.1 p.2 m) [], k := ks.foldl (fun m p => AMap.ins p.1 (BitVec.ofNat 64 p.2) m) [], pc := pc }

/-- k-registers every bind sets: the heap triple and TWIN (R92, R147). -/
def State.bindK (s : State) (ctxid x : Nat) : List (Nat × Nat) :=
  let h := (s.dev ctxid).heap
  [(0x10, nth 0 h 0), (0x11, nth 0 h 1), (0x12, nth 0 h 2), (0x42, 4 * x % 16 + 3 * 16)]

/-- Opcode of a record. -/
def recordOpcode (i : Instr) : Nat :=
  match encode i with
  | w :: _ => bitsOf w 22 10
  | [] => 0

/-- FLAGS of a record. -/
def recordFlags (i : Instr) : Nat :=
  match encode i with
  | w :: _ => w % 256
  | [] => 0

/-- s7 at a bind (R30, R159, R411). -/
def OpInst.s7 (o : OpInst) (resumed : Option Nat) (spec down : Bool) (specIx : Nat) : Nat :=
  recordFlags o.record + o.fuse % 256 * 2 ^ 8 + recordOpcode o.record % 1024 * 2 ^ 16 + o.order % 4 * 2 ^ 26
    + (o.counts.length - 1) % 8 * 2 ^ 28
    + (match resumed with
      | some k => 2 ^ 31 + k % 64 * 2 ^ 32
      | none => 0)
    + (if spec then 2 ^ 40 + down.toNat * 2 ^ 41 + (if down then 0 else specIx % 32 * 2 ^ 42) else 0)

/-- Position of a handle among an operator's operands. -/
def posOf (hid : Nat) : List OpHandle → Nat
  | [] => 0
  | h :: hs => if h.hid = hid then 0 else 1 + posOf hid hs

/-- The history entry that an operator predicts from. -/
def State.specOf (s : State) (o : OpInst) : Option SpecHandle := (s.gfeAt o.gfe).specs.find? fun p => p.region == o.specReg

/-- The registers of a tile. -/
def State.tileBank (s : State) (o : OpInst) (x lin : Nat) (ix : List Nat) (im : Installed) (resumed : Option Nat) (pc : Nat) : Bank :=
  let spec := o.phase != .no
  let caps := (upTo o.handles.length).map fun k => (8 + k, s.mintFor o ix (nth ⟨0, false, false, 0⟩ o.handles k).hid)
  let hist := if spec && o.behind.isNone then
      (match s.specOf o with
       | some p =>
         let c := fun (t : Nat) => match s.rawEntry o.ctxid o.shard t with
           | some h => s.mintBox o.ctxid o.shard h 0x17 (tileBox h.dims o.counts ix)
           | none => intReg 0
         [(32, c p.h1), (33, if p.count < 2 then c p.h1 else c p.h2)]
       | none => [])
    else []
  bankOf ([(0, intReg lin), (7, intReg (o.s7 resumed spec o.behind.isSome (posOf o.specHid o.handles)))]
      ++ ((upTo 6).map fun l => (1 + l, intReg (nth 0 ix l))) ++ caps ++ hist)
    (s.bindK o.ctxid x ++ [(2, o.opc % 2 ^ 32 + recordOpcode o.record * 2 ^ 32), (0x40, im.pbound)]
      ++ ((upTo 6).map fun l => (8 + l, nth 0 ix l))) pc

/-- Zero the tile registers of a window, given by its TBASE and TCNTM1, that another device context's work last wrote (R208). -/
def State.cleanTiles (s : State) (core base cnt ctxid : Nat) : State :=
  (upTo (cnt + 1)).foldl (fun s n =>
    let t := (base + n) % 16
    if ((s.coreAt core).tile t).owner = ctxid then s
    else { s with tileMem := s.tileMem.clear (tileKey core t) 4096 }.onTile core t fun _ => ⟨0, 64, ctxid⟩) s

/-- Put work on a context, with a bind number of its own. -/
def State.bindCtx (s : State) (core x : Nat) (w : Work) (b : Bank) (f : Ctx → Ctx) : State :=
  { s.cleanTiles core (4 * x) 3 w.ctxid with nextUid := s.nextUid + 1 }.onCtxAt (4 * core + x) fun old =>
    f ({ ({} : Ctx) with status := .ready, bank := b, snap := b, work := { w with uid := s.nextUid }, nextVar := old.nextVar, notBefore := s.clk, issuedAt := old.issuedAt })

/-- The image of an installed opcode. -/
def State.image? (s : State) (ctxid first : Nat) : Option Installed := s.installed.find? fun i => i.ctxid == ctxid && i.first == first

/-- The installed operator of a device context at an opcode that new records may use. -/
def State.installedAt (s : State) (ctxid opcode : Nat) : Option Installed :=
  s.installed.find? fun i => i.ctxid == ctxid && i.opcode == opcode && !i.removed

/-- Bind a tile of an installed operator, with the gravity it already holds. -/
def State.bindTile (s : State) (o : OpInst) (core x lin : Nat) (ix : List Nat) (resumed : Option Nat) (pc : Option Nat) (nc : List Nat)
    (hg cb replays : Nat) : State :=
  match o.image.bind (s.image? o.ctxid) with
  | none => s
  | some im =>
    let b := s.tileBank o x lin ix im resumed (pc.getD (im.first + im.entry))
    let b1 := { b with k := (upTo nc.length).foldl (fun m i => AMap.ins (0x28 + i) (BitVec.ofNat 64 (nth 0 nc i)) m) b.k }
    let w : Work := { job := .tile o.id lin ix, ctxid := o.ctxid, rcb := o.rcb, opcode := recordOpcode o.record, opc := o.opc, gfe := o.gfe,
                      shard := o.shard, img := im.first, nb := im.nb }
    s.bindCtx core x w b1 fun c => { c with
      hg := hg, cb := cb, spec := o.phase != .no, down := o.behind.isSome, resumed := resumed, replays := replays }

/-! ### Tasks (R34 to R36, R381) -/

/-- A job card's 32 bytes through the translation of its queue's device context. -/
structure Card where
  va : Nat
  entry : Nat
  argh : Nat
  recsz : Nat
  count : Nat
  next : Nat
  grav : Nat
  /-- The 32 bytes as a number. -/
  bits : Nat
  /-- Entry, count, size in range and reserved bits zero (R37). -/
  ok : Bool
deriving DecidableEq, Repr

def cardOf (va : Nat) (l : List Byte) : Card :=
  let f := fun i n => leNat ((l.drop i).take n)
  { va := va, entry := f 0 8 % 8192, argh := f 8 2, recsz := f 10 2, count := f 12 4, next := f 16 4, grav := f 24 8 % 2 ^ 40, bits := f 0 32,
    ok := f 0 8 / 8192 == 0 && decide (f 0 8 < 7680) && f 12 4 != 0 && decide (16 ≤ f 10 2) && decide (f 10 2 ≤ 4096) && f 10 2 % 16 == 0
      && f 20 4 == 0 && f 24 8 / 2 ^ 40 == 0 }

/-- The installed image of a device context that holds a bundle index. -/
def State.imageAt (s : State) (ctxid i : Nat) : Nat × Nat :=
  match s.installed.find? fun m => m.ctxid == ctxid && decide (m.first ≤ i) && decide (i < m.first + m.nb) with
  | some m => (m.first, m.nb)
  | none => (i, 1)

/-- Start the task of one record on a context: R36's registers, and HG taken from CB (R381). An ARGH that names no VALID entry gives s2 0 and an
untagged s8, and a record past the handle's length mints past it; neither traps (log 68). -/
def State.bindTask (s : State) (core x die q idx left : Nat) (card : Card) (ctxid rcb plane cb : Nat) : State :=
  let root := s.rootOf ctxid rcb
  let g := match root with
    | none => ((0, cb), s)
    | some r => if left = 0 then ((cb, 0), s) else
        let p := s.splitNow die r cb
        (p.1, p.2)
  let e := g.2.entry ctxid plane card.argh
  let va := match e with
    | some h => h.base + idx * card.recsz
    | none => 0
  let cap := match e with
    | some h => mkCap va card.recsz (h.perm - bitsOf h.perm 3 1 * 8) h.fmt h.res card.argh
    | none => intReg 0
  let im := s.imageAt ctxid card.entry
  let b := bankOf [(1, intReg idx), (2, intReg va), (3, intReg card.recsz), (8, cap)] (s.bindK ctxid x) card.entry
  let w : Work := { job := .task die q card.va idx left card.bits, ctxid := ctxid, rcb := rcb, shard := plane, img := im.1, nb := im.2 }
  g.2.bindCtx core x w b fun c => { c with hg := g.1.1, cb := g.1.2 }

/-! ### ENDOP (R185) -/

/-- The checks of ENDOP. -/
def endopCheck (s : State) : Verdict :=
  let c := s.ctx
  (need (!c.locked) ⟨5, 0, 0, 0⟩).and (specVerdict s)

/-- The judging compare of a context's speculative tile (R417): a TCMP of the controller behind every command of the compare queue,
whose verdict goes to the operator. -/
def State.judgeTile (s : State) (ck : Nat) : State :=
  let c := s.ctxAt ck
  match c.work.job with
  | .tile op lin ix =>
    (match s.op? op with
     | some o =>
       if !c.spec || c.down || o.asked.contains lin then s
       else match s.opEnt o false o.specHid, s.specOf o with
         | some h, some p =>
           let k := s.coreAt (ck / 4)
           let real := s.mintBox o.ctxid o.shard h h.perm (tileBox h.dims o.counts ix)
           let e : EngCmd :=
             { seq := k.nextSeq, q := 4, x := ck % 4, ctxid := o.ctxid, work := c.work, epc := c.bank.pc, op := .tcmp 0 0 0 0 h.fmt true,
               caps := [real, s.mintFor o ix o.specHid], args := [p.abs + p.rel * 2 ^ 16 + p.mean.toNat * 2 ^ 32, o.id], vec := 0,
               heap := (s.dev o.ctxid).heap, spec := true, started := false, unit := 0, buf := [], buf2 := [], fault := none, var := none,
               swapped := false, pk := s.nextPacket }
           (s.onCoreAt (ck / 4) fun k => { k with nextSeq := k.nextSeq + 1, cmds := k.cmds ++ [e] }).onOp op fun o =>
             { o with asked := o.asked ++ [lin] }
         | _, _ => s
     | none => s)
  | _ => s

/-- A tile that reaches its held ENDOP after its producer has completed is judged then (R417). -/
def judgeHeld (s : State) : State :=
  match s.op? s.ctx.opId with
  | some o => if o.phase = .judging then s.judgeTile s.act.ck else s
  | none => s

/-- ENDOP: commit, then issue nothing more; results still in flight are discarded as they land (R185). -/
def execEndop (s : State) : Host.Outcome State Fault Refusal :=
  slotOp (endopCheck s) (if endopCheck s = .block .spec then judgeHeld s else s) fun s =>
    (commitGated s).onCtx fun c => { c with status := .ending, var := [], irrev := true }

/-- VERSION of every handle an operator writes advances (R113). -/
def State.bumpVersions (s : State) (o : OpInst) : State :=
  (o.handles.filter OpHandle.wr).foldl (fun s h => match s.rawEntry o.ctxid o.shard h.hid with
    | some e => s.setEntry o.ctxid o.shard { e with version := (e.version + 1) % 2 ^ 32 }
    | none => s) s

end Sys2Proof.Machine
end

