-- ==== Sys2Proof/Machine/Compute.lean ====
section
/-! DEFINITION. What one tile of an architected operator computes (R302 to R307, R318 to R327): the coordinates it writes and the
pattern at each. A tile runs as one step (log 12). -/

namespace Sys2Proof.Machine

/-- A computation that may end in a fault: cause and FADDR. -/
abbrev Cx := Except (Nat × Nat)

/-- What a tile's computation reads: the state and its operator. -/
structure Tx where
  s : State
  o : OpInst

/-- An empty entry. -/
def noEnt : HEnt := ⟨0, false, 1, 15, 0, 0, 0, 0, [], [], 0⟩

def Tx.ent (t : Tx) (out : Bool) (hid : Nat) : HEnt := (t.s.rawEntry t.o.ctxid t.o.shard (t.o.stand out hid)).getD noEnt

/-- An input's entry. -/
def Tx.inp (t : Tx) (hid : Nat) : HEnt := t.ent false hid

/-- An entry as a movement record moves it: the images of a codebook tensor whole (log 58). -/
def HEnt.asMoved (h : HEnt) (i : Instr) : HEnt :=
  match i with
  | .tcopy _ _ _ _ => h.cells
  | .tgatherb _ _ _ _ _ _ => h.cells
  | .tconcat _ _ _ _ _ => h.cells
  | .ttrans _ _ _ _ => h.cells
  | .tappend _ _ _ => h.cellRow
  | _ => h

/-- An input as the operator's record moves it. -/
def Tx.mov (t : Tx) (hid : Nat) : HEnt := (t.inp hid).asMoved t.o.record

/-- A pattern of an entry. -/
def Tx.pat (t : Tx) (h : HEnt) (ix : List Nat) : Cx Nat := t.s.readElem t.o.ctxid t.o.shard h ix

/-- A pattern widened (R321). -/
def Tx.val (t : Tx) (h : HEnt) (ix : List Nat) : Cx Ex := do
  let b ← t.pat h ix
  pure (real h.fmt b)

/-- Index l of coordinates, replaced. -/
def at' (ix : List Nat) (l v : Nat) : List Nat := (upTo (max ix.length (l + 1))).map fun k => if k = l then v else nth 0 ix k

/-- Coordinates brought into an operand that broadcasts where its extent is 1. -/
def bcIx (h : HEnt) (ix : List Nat) : List Nat := (upTo h.ndim).map fun k => if h.ext k = 1 then 0 else nth 0 ix k

/-! ### Sums and trees -/

/-- FP32 pattern of a value. -/
def p32 (x : Ex) : Nat := roundTo 0 RNE x

def addR (a b : Ex) : Ex := rf32 (Ex.add a b)
def subR (a b : Ex) : Ex := rf32 (Ex.sub a b)
def mulR (a b : Ex) : Ex := rf32 (Ex.mul a b)
def maxR (a b : Ex) : Ex := real 0 (patMax 0 (p32 a) (p32 b))
def minR (a b : Ex) : Ex := real 0 (patMin 0 (p32 a) (p32 b))

/-- A tree of R321 over values, with the identity of its operation. -/
def exTree (op : Ex → Ex → Ex) (ident : Nat) (l : List Ex) : Ex := treeFold op (real 0 ident) 64 (padTree (real 0 ident) l)

def sumTree (l : List Ex) : Ex := exTree addR 0x80000000 l
def maxTree (l : List Ex) : Ex := exTree maxR 0xFF800000 l
def minTree (l : List Ex) : Ex := exTree minR 0x7F800000 l

/-- RCP(E) of R321. -/
def rcpE (e : Nat) : Ex := rf32 (.fin false 1 e)

def exp2R (x : Ex) : Ex := real 0 (vexp2f32 0 (p32 x))
def rcpR (x : Ex) : Ex := real 0 (vrcp32 0 (p32 x))
def rsqR (x : Ex) : Ex := real 0 (vrsq32 0 (p32 x))
def log2R (x : Ex) : Ex := real 0 (vlog2f32 0 (p32 x))

/-- Passes of ChainSum in FULL mode over the pairs of a whole K, in passes of L elements (R64, R65, R322); pairs not in use are none. -/
def passes (integer : Bool) (L : Nat) (first : Bool) (acc : Nat) : Nat → List (Option (Ex × Ex)) → Nat
  | 0, _ => acc
  | n + 1, l =>
    if l.isEmpty then acc
    else
      let ps := (l.take L).filterMap id
      passes integer L false (accumulate integer first acc (chainResult integer 0 L ps.length ps)) n (l.drop L)

/-- c of a whole K. -/
def chained (integer : Bool) (L : Nat) (l : List (Option (Ex × Ex))) : Nat := passes integer L true 0 (l.length + 1) l

/-- Scale, bias and the old value join c (R322); integer mode saturates. -/
def biased (integer : Bool) (c : Nat) (b : Option Ex) : Nat :=
  match b with
  | none => c
  | some x => if integer then trunc 32 (sat32 (sext c 32 + x.int)) else p32 (Ex.add (real 0 c) x)

/-- A 32-bit accumulator value in an output's format (R228, R321). -/
def accOut (integer : Bool) (f c : Nat) : Nat := writeAs f (if integer then Ex.ofInt (sext c 32) else real 0 c)

/-! ### MATMUL, MATMULCB, CONV (R322) -/

/-- The bias of output n, if any. -/
def Tx.bias (t : Tx) (hid n : Nat) : Cx (Option Ex) :=
  if hid = 0 then pure none else do
    let x ← t.val (t.inp hid) [n]
    pure (some x)

/-- The last steps of MATMUL: bias, then the old d under ACC. -/
def Tx.finish (t : Tx) (integer acc : Bool) (d bias n c : Nat) (ix : List Nat) : Cx Nat := do
  let b ← t.bias bias n
  let c1 := biased integer c b
  let e := t.ent true d
  let c2 ← if acc then do
      let old ← t.val e ix
      pure (if integer then trunc 32 (sat32 (old.int + sext c1 32)) else p32 (Ex.add old (real 0 c1)))
    else pure c1
  pure (accOut integer e.fmt c2)

def Tx.matmul (t : Tx) (acc : Bool) (d a w bias : Nat) (ix : List Nat) : Cx Nat := do
  let ea := t.inp a
  let ew := t.inp w
  let (L, integer) := (matPair ew.fmt ea.fmt).getD (64, false)
  let l ← (upTo (ea.ext 0)).mapM fun k => do
    let x ← t.val ew [k, nth 0 ix 0]
    let y ← t.val ea (at' ix 0 k)
    pure (some (x, y))
  t.finish integer acc d bias (nth 0 ix 0) (chained integer L l) ix

/-- Codebook weight (k, n): its image, decoded by the table (R220, R322). -/
def Tx.cbWeight (t : Tx) (ew : HEnt) (tbl : AMap (BitVec 32)) (kb k n : Nat) : Cx Ex := do
  let i := k / kb * cdiv (ew.ext 1) 64 + n / 64
  let img ← t.s.unitRead (t.s.unitEnv t.o.ctxid) (ew.base + 1152 * i) 1152
  pure ((⟨9, img, tbl⟩ : WTile).elem (k % kb) (n % 64))

def Tx.matmulcb (t : Tx) (acc : Bool) (d a w cbt bias scale : Nat) (ix : List Nat) : Cx Nat := do
  let ea := t.inp a
  let ew := t.inp w
  let (L, integer) := (matPair 9 ea.fmt).getD (64, false)
  let ws ← (upTo 256).mapM fun i => t.pat (t.inp cbt) [i]
  let tbl := (upTo 256).foldl (fun m i => AMap.ins i (BitVec.ofNat 32 (nth 0 ws i)) m) ([] : AMap (BitVec 32))
  let l ← (upTo (ea.ext 0)).mapM fun k => do
    let x ← t.cbWeight ew tbl L k (nth 0 ix 0)
    let y ← t.val ea (at' ix 0 k)
    pure (some (x, y))
  t.finish integer acc d bias (nth 0 ix 0) (p32 (Ex.mul (real 0 (chained integer L l)) (real 0 scale))) ix

/-- An input position of CONV, or none outside. -/
def convPos (o st pad k dil ext : Nat) : Option Nat :=
  let p := o * st + k * dil
  if pad ≤ p && decide (p - pad < ext) then some (p - pad) else none

def Tx.conv (t : Tx) (d x w bias sx sy px py dx dy : Nat) (ix : List Nat) : Cx Nat := do
  let ex := t.inp x
  let ew := t.inp w
  let (L, integer) := (matPair ew.fmt ex.fmt).getD (64, false)
  let c := ex.ext 0
  let kw := ew.ext 1
  let l ← (upTo (c * kw * ew.ext 2)).mapM fun k => do
    let ch := k % c
    let kx := k / c % kw
    let ky := k / c / kw
    match convPos (nth 0 ix 1) sx px kx dx (ex.ext 1), convPos (nth 0 ix 2) sy py ky dy (ex.ext 2) with
    | some u, some v =>
      let a ← t.val ew [ch, kx, ky, nth 0 ix 0]
      let b ← t.val ex [ch, u, v, nth 0 ix 3]
      pure (some (a, b))
    | _, _ => pure none
  t.finish integer false d bias (nth 0 ix 0) (chained integer L l) ix

/-! ### ELTW (R323) -/

/-- One floating step. -/
def eltwStep (code : Nat) (v b c k : Ex) : Ex :=
  match code with
  | 1 => addR v b
  | 2 => mulR v b
  | 3 => subR v b
  | 4 => maxR v b
  | 5 => minR v b
  | 6 => addR v k
  | 7 => mulR v k
  | 8 => maxR v k
  | 9 => minR v k
  | 10 => exp2R v
  | 11 => rcpR v
  | 12 => rsqR v
  | 13 => v.neg
  | 14 => v.abs
  | 15 => maxR v (.fin false 0 1)
  | 16 => rf32 (Ex.add (Ex.mul v b) c)
  | _ => log2R v

/-- One integer step, saturated to INT32. -/
def eltwInt (code : Nat) (v b k : Int) : Int :=
  sat32 (match code with
    | 1 => v + b
    | 2 => v * b
    | 3 => v - b
    | 4 => max v b
    | 5 => min v b
    | 6 => v + k
    | 7 => v * k
    | 8 => max v k
    | 9 => min v k
    | 13 => -v
    | _ => v.natAbs)

/-- The steps up to the first 0. -/
def stepsOf (l : List Nat) : List Nat := l.takeWhile fun c => c != 0

/-- Integer mode: every operand and the output integer, every step one that integers have. -/
def eltwIsInt (fmts steps : List Nat) : Bool :=
  fmts.all (fun f => !isFloat f) && steps.all fun c => decide (c ≤ 9) || c == 13 || c == 14

def Tx.eltw (t : Tx) (d a b c : Nat) (steps : List Nat) (k : Nat) (ix : List Nat) : Cx Nat := do
  let ed := t.ent true d
  let zero : Ex := .fin false 0 1
  let v ← t.val (t.inp a) ix
  let x ← if b = 0 then pure zero else t.val (t.inp b) (bcIx (t.inp b) ix)
  let y ← if c = 0 then pure zero else t.val (t.inp c) (bcIx (t.inp c) ix)
  let fmts := [ed.fmt, (t.inp a).fmt] ++ (if b = 0 then [] else [(t.inp b).fmt]) ++ (if c = 0 then [] else [(t.inp c).fmt])
  let r := if eltwIsInt fmts (stepsOf steps) then
      Ex.ofInt ((stepsOf steps).foldl (fun z code => eltwInt code z x.int (Ex.toInt RNE (-2147483648) 2147483647 (real 0 k))) v.int)
    else (stepsOf steps).foldl (fun z code => eltwStep code z x y (real 0 k)) v
  pure (writeAs ed.fmt r)

/-! ### REDUCE, SOFTMAX, NORM (R324) -/

/-- The values along an axis through coordinates. -/
def Tx.row (t : Tx) (h : HEnt) (axis : Nat) (ix : List Nat) : Cx (List Ex) := (upTo (h.ext axis)).mapM fun i => t.val h (at' ix axis i)

def Tx.reduce (t : Tx) (op d a axis : Nat) (ix : List Nat) : Cx Nat := do
  let e := t.inp a
  let l ← t.row e axis ix
  let isum : Int := sat32 (l.foldl (fun z x => z + x.int) 0)
  let r := if isFloat e.fmt then
      (match op with
       | 0 => sumTree l
       | 1 => maxTree l
       | 2 => minTree l
       | _ => mulR (sumTree l) (rcpE l.length))
    else
      (match op with
       | 0 => Ex.ofInt isum
       | 1 => Ex.ofInt (l.foldl (fun z x => max z x.int) (l.head?.elim 0 Ex.int))
       | 2 => Ex.ofInt (l.foldl (fun z x => min z x.int) (l.head?.elim 0 Ex.int))
       | _ => mulR (Ex.ofInt isum) (rcpE l.length))
  pure (writeAs (t.ent true d).fmt r)

/-- SOFTMAX over a row: y at each index. -/
def softmaxRow (scale : Ex) (l : List Ex) : List Ex :=
  let x := l.map fun a => mulR a scale
  let m := maxTree x
  let e := x.map fun v => exp2R (mulR (subR v m) (real 0 0x3FB8AA3B))
  let r := rcpR (sumTree e)
  e.map fun v => mulR v r

def Tx.softmax (t : Tx) (d a scale : Nat) (ix : List Nat) : Cx Nat := do
  let l ← t.row (t.inp a) 0 ix
  pure (writeAs (t.ent true d).fmt (nth (.fin false 0 1) (softmaxRow (real 0 scale) l) (nth 0 ix 0)))

def Tx.norm (t : Tx) (layer : Bool) (d a g b eps : Nat) (ix : List Nat) : Cx Nat := do
  let l ← t.row (t.inp a) 0 ix
  let rc := rcpE l.length
  let mu : Ex := if layer then mulR (sumTree l) rc else .fin false 0 1
  let c := l.map fun v => subR v mu
  let r := rsqR (addR (mulR (sumTree (c.map fun v => mulR v v)) rc) (real 0 eps))
  let y := mulR (nth (.fin false 0 1) c (nth 0 ix 0)) r
  let y1 ← if g = 0 then pure y else do
    let w ← t.val (t.inp g) (bcIx (t.inp g) ix)
    pure (mulR y w)
  let y2 ← if b = 0 then pure y1 else do
    let w ← t.val (t.inp b) (bcIx (t.inp b) ix)
    pure (addR y1 w)
  pure (writeAs (t.ent true d).fmt y2)

/-! ### ATTN (R325) -/

/-- ATTN's evaluated numbers are Dh, from the whole tensor's DIM0, the tensor's row at which the shard begins, and its Tq (R325, R328). -/
def Tx.attn (t : Tx) (causal : Bool) (d q k v scale : Nat) (ix : List Nat) : Cx Nat := do
  let eq := t.inp q
  let ek := t.inp k
  let ev := t.inp v
  let dh := nth 1 t.o.vals 0
  let h := nth 0 ix 0 / dh
  let i := nth 0 ix 1
  let (L1, int1) := (matPair ek.fmt eq.fmt).getD (64, false)
  let (L2, int2) := (matPair ev.fmt ev.fmt).getD (64, false)
  let tk := ek.ext 1
  let js := (upTo tk).filter fun j => !causal || decide (j + nth 2 t.o.vals 0 ≤ i + nth 1 t.o.vals 0 + tk)
  let ss ← js.mapM fun j => do
    let l ← (upTo dh).mapM fun c => do
      let x ← t.val ek [h * dh + c, j]
      let y ← t.val eq [h * dh + c, i]
      pure (some (x, y))
    let c := chained int1 L1 l
    pure (if int1 then Ex.ofInt (sext c 32) else real 0 c)
  let p := (softmaxRow (real 0 scale) ss).map fun x => real ev.fmt (cvt (p32 x) 0 ev.fmt 0)
  let l ← (List.zip js p).mapM fun jp => do
    let x ← t.val ev [nth 0 ix 0, jp.1]
    pure (some (x, jp.2))
  pure (accOut int2 (t.ent true d).fmt (chained int2 L2 l))

/-! ### EMBED, TOPK, ARGMAX (R326) -/

def Tx.embed (t : Tx) (tb i : Nat) (ix : List Nat) : Cx Nat := do
  let ei := t.inp i
  let r ← t.pat ei (ix.drop 1)
  let et := t.inp tb
  if et.ext 1 ≤ r then .error (4, denseIndex ei.dims (ix.drop 1)) else t.pat et [nth 0 ix 0, r]

/-- The ranking of TOPK: whether x, at a lower index, stands before or level with y. -/
def ranks (x y : Ex) : Bool := if x.isNan then true else if y.isNan then false else !(Ex.lt x y)

/-- Insert an index into a descending list; later indices go after equals. -/
def rankIns (v : Nat → Ex) (i : Nat) : List Nat → List Nat
  | [] => [i]
  | j :: js => if ranks (v j) (v i) then j :: rankIns v i js else i :: j :: js

/-- Indices of a row in descending order. -/
def rankOrder (l : List Ex) : List Nat := (upTo l.length).foldl (fun acc i => rankIns (fun k => nth .nan l k) i acc) []

/-- The index at a rank. -/
def Tx.rank (t : Tx) (a k : Nat) (ix : List Nat) : Cx Nat := do
  let l ← t.row (t.inp a) 0 ix
  pure (nth 0 (rankOrder l) k)

/-! ### QR, LSQ, ROTL (R327) -/

/-- The rotator after streaming rows of FP32 patterns from the cleared state. -/
def streamed (gm : Bool) (rows : List (List Nat)) : Core :=
  rows.foldl (fun c r =>
    let y := rbOfFp32 r
    (streamRow false gm c { y with m := y.m ++ List.replicate (32 - r.length) 0 }).1) {}

/-- Element k of triangle row j as RTREAD gives it. -/
def Core.triangle (c : Core) (j k : Nat) : Nat :=
  let r := (rbGain (c.trRow j)).1
  if k < j then 0 else rbToFp32 r.x r.n (nth 0 r.m k)

/-- Rows of an operand as FP32 patterns. -/
def Tx.rows (t : Tx) (h : HEnt) (pre : List Nat) : Cx (List (List Nat)) :=
  (upTo (h.ext 1)).mapM fun j => (upTo (h.ext 0)).mapM fun i => t.pat h (i :: j :: pre)

/-- Back substitution: x, from the last element down. -/
def solveFrom (c : Core) (n : Nat) : Nat → List Ex → List Ex
  | 0, xs => xs
  | j + 1, xs =>
    let s := (upTo (n - 1 - j)).foldl (fun s i =>
      let q := n - 1 - i
      subR s (mulR (real 0 (c.triangle j q)) (nth (.fin false 0 1) xs (q - j - 1)))) (real 0 (c.triangle j n))
    solveFrom c n j (mulR s (rcpR (real 0 (c.triangle j j))) :: xs)

/-- ROTL: RTAPPLY of words over rows, in ascending order; the rotator after it, and the rows as they leave. -/
def rotlRows (gm : Bool) (ws : List Nat) (rows : List (List Nat)) : Core × List (List Nat) :=
  let c0 : Core := { ({} : Core) with wr := (upTo 32).foldl (fun m j => AMap.ins j (BitVec.ofNat 32 (nth 0x80000000 ws j)) m) [] }
  (rows.foldl (fun (p : Core × List (List Nat)) r =>
    let y := rbOfFp32 r
    let q := streamRow true gm p.1 { y with m := y.m ++ List.replicate (32 - r.length) 0 }
    let z := (rbGain q.2).1
    (q.1, p.2 ++ [(z.m.take r.length).map (rbToFp32 z.x z.n)])) (c0, []))

/-- The words and the rows of a ROTL's tile. -/
def Tx.rotlIn (t : Tx) (x w : Nat) (ix : List Nat) : Cx (List Nat × List (List Nat)) := do
  let ew := t.inp w
  let ws ← (upTo 32).mapM fun j => t.pat ew (if ew.ndim = 1 then [j] else [j, nth 0 ix 2])
  let rs ← t.rows (t.inp x) (ix.drop 2)
  pure (ws, rs)

/-- The rows of an LSQ: a row of a with its element of b. -/
def Tx.lsqRows (t : Tx) (a b : Nat) : Cx (List (List Nat)) := do
  let ra ← t.rows (t.inp a) []
  let rb ← t.rows (t.inp b) []
  pure ((List.zip ra rb).map fun p => p.1 ++ p.2)

/-- Triangle rows below n after RTREAD: their pending gain applied (R399). -/
def Core.gained (c : Core) (n : Nat) : Core := (upTo n).foldl (fun c j => { c with tr := AMap.ins j (rbGain (c.trRow j)).1 c.tr }) c

/-- What a tile leaves in the rotator, where its operator uses it (R327, R399). -/
def Tx.rotator (t : Tx) (ix : List Nat) : Cx (Option Core) :=
  match t.o.record with
  | .qr _ gm _ a => do
    let rs ← t.rows (t.inp a) []
    pure (some ((streamed gm rs).gained ((t.inp a).ext 0)))
  | .lsq _ gm _ a b => do
    let rs ← t.lsqRows a b
    pure (some ((streamed gm rs).gained ((t.inp a).ext 0)))
  | .rotl _ gm _ x w => do
    let p ← t.rotlIn x w [0, 0, nth 0 ix 0]
    pure (some (rotlRows gm p.1 p.2).1)
  | _ => pure none

/-! ### Movement (R303 to R307) -/

/-- The row of the pool that row i of d takes. -/
def Tx.poolRow (t : Tx) (rlog pool tbl i : Nat) : Cx Nat := do
  let b ← t.val (t.inp tbl) [i / 2 ^ rlog]
  let r := b.int * 2 ^ rlog + (i % 2 ^ rlog : Nat)
  if r < 0 || decide (((t.inp pool).ext 1 : Int) ≤ r) then .error (4, i) else pure r.toNat

/-- Column m of one codebook image in place of column n of another: eight indexes and two block scales (R220). -/
def putColumn (dst n src m : Nat) : Nat :=
  putBits (putBits dst (128 * n) 128 (bitsOf src (128 * m) 128)) (8192 + 16 * n) 16 (bitsOf src (8192 + 16 * m) 16)

/-- TGATHERB of a codebook tensor: an image of d with the columns that stand for its rows below n, the other columns as they were (log 58). -/
def Tx.gatherImage (t : Tx) (rlog d pool tbl n : Nat) (ix : List Nat) : Cx Nat := do
  let e := (t.ent true d).cells
  let o ← t.pat e ix
  (upTo 64).foldlM (fun v c =>
    let i := 64 * nth 0 ix 0 + c
    if i < n then do
      let r ← t.poolRow rlog pool tbl i
      let src ← t.pat (t.inp pool).cells [r / 64, nth 0 ix 1]
      pure (putColumn v c src (r % 64))
    else pure v) o

def Tx.tgatherb (t : Tx) (rlog d pool tbl n : Nat) (ix : List Nat) : Cx Nat :=
  if (t.inp pool).fmt = 9 then t.gatherImage rlog d pool tbl n ix
  else do
    let r ← t.poolRow rlog pool tbl (nth 0 ix 1)
    t.pat (t.inp pool) [nth 0 ix 0, r]

/-- TTRANS. An index of a codebook tensor stands for eight weights of one column, so a permutation that moves its first two dimensions has no
pattern to move: the images are free values (log 58). -/
def Tx.ttrans (t : Tx) (sh perm : Nat) (ix : List Nat) : Cx Nat :=
  let e := t.mov sh
  if e.fmt = 16 && perm % 64 != 8 then pure (Config.freeNat (t.s.fresh + denseIndex e.dims ix) % 2 ^ 9216)
  else t.pat e ((upTo e.ndim).foldl (fun l k => at' l (bitsOf perm (3 * k) 3) (nth 0 ix k)) (List.replicate e.ndim 0))

/-- A local movement instance (R312): a slice from an index of a dimension on, the source on part 0 and zeros elsewhere, or the source
in its block and zeros around it. Its numbers are how, dimension, first index, length. -/
def Tx.lowered (t : Tx) (e : HEnt) (ix : List Nat) : Cx Nat :=
  let v := fun k => nth 0 t.o.vals k
  let k := e.cellDim (v 1)
  let i := nth 0 ix k
  let lo := e.cellAt (v 1) (v 2)
  if v 0 = 0 then t.pat e (at' ix k (i + lo))
  else if v 0 = 1 then (if v 2 = 0 then pure 0 else t.pat e ix)
  else if lo ≤ i && decide (i < lo + e.ext k) then t.pat e (at' ix k (i - lo))
  else pure 0

/-! ### The pattern at one coordinate of an output -/

/-- Output number `out` of an operator at coordinates of that output. -/
def Tx.value (t : Tx) (out : Nat) (ix : List Nat) : Cx Nat :=
  match t.o.record with
  | .tcopy _ rnd d sh =>
    let e := t.mov sh
    if t.o.low.isSome then t.lowered e ix
    else do
      let b ← t.pat e ix
      let f := (t.ent true d).fmt
      pure (if (t.inp sh).fmt = f then b else cvt b e.fmt f rnd)
  | .tgatherb _ rlog d pool tbl _ => t.tgatherb rlog d pool tbl (nth 0 t.o.vals 0) ix
  | .tconcat _ axis _ a b =>
    let k := (t.mov a).cellDim axis
    let n := (t.mov a).ext k
    if nth 0 ix k < n then t.pat (t.mov a) ix else t.pat (t.mov b) (at' ix k (nth 0 ix k - n))
  | .tappend _ h x =>
    let e := t.mov h
    let l := e.ndim - 1
    t.pat (t.mov x) (at' ix l (nth 0 ix l - (e.ext l - (t.mov x).ext l)))
  | .ttrans _ _ sh perm => t.ttrans sh perm ix
  | .matmul _ acc d a w bias => t.matmul acc d a w bias ix
  | .matmulcb _ acc d a w cbt bias scale => t.matmulcb acc d a w cbt bias scale ix
  | .convOp _ d x w bias sx sy px py dx dy => t.conv d x w bias (sx + 1) (sy + 1) px py (dx + 1) (dy + 1) ix
  | .eltw _ d a b c s0 s1 s2 s3 k => t.eltw d a b c [s0, s1, s2, s3] k ix
  | .reduce _ op d a axis => t.reduce op d a axis ix
  | .softmax _ d a scale => t.softmax d a scale ix
  | .norm _ layer d a g b eps => t.norm layer d a g b eps ix
  | .attn _ causal d q k v _ scale => t.attn causal d q k v scale ix
  | .embed _ _ tb i => t.embed tb i ix
  | .topk _ _ a _ _ => do
    let i ← t.rank a (nth 0 ix 0) ix
    if out = 0 then t.pat (t.inp a) (at' ix 0 i) else pure i
  | .argmax _ _ a => t.rank a 0 ix
  | .qr _ gm _ a => do
    let rs ← t.rows (t.inp a) []
    pure ((streamed gm rs).triangle (nth 0 ix 1) (nth 0 ix 0))
  | .lsq _ gm _ a b => do
    let rs ← t.lsqRows a b
    let n := (t.inp a).ext 0
    let c := streamed gm rs
    pure (p32 (nth (.fin false 0 1) (solveFrom c n n []) (nth 0 ix 0)))
  | .rotl _ gm _ x w => do
    let p ← t.rotlIn x w ix
    pure (nth 0 (nth [] (rotlRows gm p.1 p.2).2 (nth 0 ix 1)) (nth 0 ix 0))
  | _ => pure 0

/-! ### Which coordinates a tile writes (R302, R320) -/

/-- The outputs of an architected operator, in the order of its tiling. -/
def outputsOf (i : Instr) : List Nat :=
  match i with
  | .tcopy _ _ d _ => [d]
  | .tgatherb _ _ d _ _ _ => [d]
  | .tconcat _ _ d _ _ => [d]
  | .tappend _ h _ => [h]
  | .ttrans _ d _ _ => [d]
  | .matmul _ _ d _ _ _ => [d]
  | .matmulcb _ _ d _ _ _ _ _ => [d]
  | .convOp _ d _ _ _ _ _ _ _ _ _ => [d]
  | .eltw _ d _ _ _ _ _ _ _ _ => [d]
  | .reduce _ _ d _ _ => [d]
  | .softmax _ d _ _ => [d]
  | .norm _ _ d _ _ _ _ => [d]
  | .attn _ _ d _ _ _ _ _ => [d]
  | .embed _ d _ _ => [d]
  | .topk _ d _ x _ => [d, x]
  | .argmax _ d _ => [d]
  | .qr _ _ r _ => [r]
  | .lsq _ _ x _ _ => [x]
  | .rotl _ _ d _ _ => [d]
  | _ => []

/-- Levels of a nest as (dimension, block size) of the first output; a dimension no level names is whole (R320). -/
def levelDims (i : Instr) (e : HEnt) (vals : List Nat) : List (Nat × Nat) :=
  let rest := fun (l : List Nat) => l.map fun k => (k, 1)
  let blocked := fun (ds : List Nat) => match ds with
    | [] => []
    | a :: r => (a, 64) :: rest r
  let plain := (0, 64) :: (if e.ndim < 2 then [] else (1, 64) :: rest ((upTo e.ndim).drop 2))
  let rows := fun (axis : Nat) => (axis, 2 ^ 24) :: blocked ((upTo e.ndim).filter fun k => k != axis)
  match i with
  | .reduce _ _ _ _ axis => rows axis
  | .softmax _ _ _ _ => rows 0
  | .norm _ _ _ _ _ _ _ => rows 0
  | .topk _ _ _ _ _ => rows 0
  | .argmax _ _ _ => rows 0
  | .attn _ _ _ _ _ _ _ _ => [(0, nth 1 vals 0), (1, 64)]
  | .qr _ _ _ _ => [(0, 2 ^ 24)]
  | .lsq _ _ _ _ _ => [(0, 2 ^ 24)]
  | .rotl _ _ _ _ _ => if e.ndim < 3 then [(0, 2 ^ 24)] else [(2, 1)]
  | _ => plain

/-- A movement record (R302). -/
def isMovement (i : Instr) : Bool :=
  match i with
  | .tcopy _ _ _ _ => true
  | .tgatherb _ _ _ _ _ _ => true
  | .tconcat _ _ _ _ _ => true
  | .tappend _ _ _ => true
  | .ttrans _ _ _ _ => true
  | _ => false

/-- Records of compute and user operators, and those that run as tiles (R26). -/
def isCompute (i : Instr) : Bool := decide (0x40 ≤ recordOpcode i) && decide (recordOpcode i ≤ 0x52)
def isUser (i : Instr) : Bool := decide (0x200 ≤ recordOpcode i)
def hasTiles (i : Instr) : Bool := isMovement i || isCompute i || isUser i

/-- Elements of a movement tile: 4,096 bytes of the destination. -/
def moveElems (e : HEnt) : Nat := 32768 / fmtWidth e.fmt

/-- The box of a movement's destination that it writes: first index and extent by dimension. TGATHERB writes n rows, TAPPEND the new
part. -/
def moveBox (i : Instr) (e x : HEnt) (vals : List Nat) : List (Nat × Nat) :=
  match i with
  | .tgatherb _ _ _ _ _ _ => if e.fmt = 16 then [(0, cdiv (nth 0 vals 0) 64), (0, e.ext 1)] else [(0, e.ext 0), (0, nth 0 vals 0)]
  | .tappend _ _ _ => (upTo e.ndim).map fun k => if k + 1 = e.ndim then (e.ext k - x.ext k, x.ext k) else (0, e.ext k)
  | _ => e.dims.map fun d => (0, d)

/-- Unfolded level counts of an architected operator (R302, R320). -/
def archCounts (i : Instr) (h x0 : HEnt) (vals : List Nat) : List Nat :=
  let e := h.asMoved i
  let x := x0.asMoved i
  if isMovement i then [cdiv (((moveBox i e x vals).map Prod.snd).foldl (· * ·) 1) (moveElems e)]
  else (levelDims i e vals).map fun p => cdiv (e.ext p.1) p.2

/-- Positions of one level that a folded tile index stands for, in elements: first and past the last (R28). -/
def foldSpan (blocks count i size ext : Nat) : Nat × Nat :=
  let f := if count = blocks then 1 else iter (fun _ k => if 65535 < cdiv blocks k then 2 * k else k) 40 1
  (i * f * size, min ((i + 1) * f * size) ext)

/-- Coordinates of a box given by spans of each dimension, dimension 0 fastest. -/
def boxCoords : List (Nat × Nat) → List (List Nat)
  | [] => [[]]
  | (a, b) :: r => (boxCoords r).flatMap fun c => (upTo (b - a)).map fun i => (a + i) :: c

/-- The coordinates of output `e` that a tile writes. -/
def tileCoords (o : OpInst) (e x : HEnt) (ix : List Nat) : List (List Nat) :=
  if isMovement o.record then
    let box := moveBox o.record e x o.vals
    let dims := box.map Prod.snd
    let n := dims.foldl (· * ·) 1
    let sp := foldSpan (nth 1 o.blocks 0) (nth 1 o.counts 0) (nth 0 ix 0) (moveElems e) n
    (upTo (sp.2 - sp.1)).map fun k => (List.zip (coords dims (sp.1 + k)) (box.map Prod.fst)).map fun p => p.1 + p.2
  else
    let ld := levelDims o.record e o.vals
    boxCoords ((upTo e.ndim).map fun k =>
      match (List.zip (upTo ld.length) ld).find? fun p => p.2.1 == k with
      | some (l, _, b) => foldSpan (nth 1 o.blocks l) (nth 1 o.counts l) (nth 0 ix l) b (e.ext k)
      | none => (0, e.ext k))

/-- The last input of a record that TAPPEND's and TGATHERB's boxes look at. -/
def moveSource (i : Instr) : Nat :=
  match i with
  | .tappend _ _ x => x
  | _ => 0

/-- Every write of a tile: the entry, the coordinates and the pattern. -/
def Tx.writes (t : Tx) (ix : List Nat) : Cx (List (HEnt × List Nat × Nat)) := do
  let outs := outputsOf t.o.record
  let ls ← (List.zip (upTo outs.length) outs).mapM fun p => do
    let e := (t.ent true p.2).asMoved t.o.record
    (tileCoords t.o e (t.mov (moveSource t.o.record)) ix).mapM fun c => do
      let v ← t.value p.1 c
      pure (e, c, v)
  pure ls.flatten

/-- Write patterns in order; the first fault stops. -/
def State.writeAll (o : OpInst) : List (HEnt × List Nat × Nat) → State → Cx State
  | [], s => .ok s
  | (e, c, v) :: r, s =>
    match s.writeElem o.ctxid o.shard e c v with
    | .ok t => State.writeAll o r t
    | .error x => .error x

/-- TAPPEND's growth, before its first tile: a handle that moved takes the contents of its old region (R306). -/
def State.growFirst (s : State) (o : OpInst) : Cx State :=
  match o.grow.bind (s.rawEntry o.ctxid o.shard), (outputsOf o.record).head?.bind (s.opEnt o true) with
  | some a, some b => do
    let e := a.cellRow
    let t ← (upTo e.count).foldlM (fun t k => do
      let v ← t.readElem o.ctxid o.shard e (coords e.dims k)
      t.writeElem o.ctxid o.shard b.cellRow (coords e.dims k) v) s
    pure (t.onOp o.id fun p => { p with grow := none })
  | _, _ => .ok s

/-- No context holds a core's rotator array, and no command of it is queued. -/
def Core.rotatorFree (c : Core) : Bool := c.holdR.isNone && c.inQueue 2 == 0

/-- One tile of an architected operator on a core: every value from the state before it, then every write. One that uses the rotator array waits
for it and leaves it as it streamed it (R210, R327). -/
def State.archTile (s : State) (o : OpInst) (core : Nat) (ix : List Nat) : Cx State := do
  let t ← s.growFirst o
  let rot ← (Tx.mk t o).rotator ix
  if rot.isSome && !(t.coreAt core).rotatorFree then .error (0, 0)
  else
    let ws ← (Tx.mk t o).writes ix
    let u ← State.writeAll o ws { t with fresh := t.fresh + 1 }
    pure (match rot with
      | some c => u.onCoreAt core fun k => { k with tr := c.tr, wr := c.wr, lastR := some o.ctxid }
      | none => u)

end Sys2Proof.Machine
end

