-- ==== Sys2Proof/Machine/Ends.lean ====
section
/-! DEFINITION. The ends of tiles and tasks (R185, R210, R381), fuse groups' members on one context (R32), and the traps of architected
operators' tiles (R103, R314, log 12). -/

namespace Sys2Proof.Machine

/-! ### Traps of an operator's own tiles -/

/-- Who an architected operator's tile is: a sequencer trap whose bundle index the spec does not give (log 5); without a tile the index is 0. A lowered instance
carries its record's OPC and OPCODE (R312). -/
def OpInst.who (o : OpInst) (core x : Nat) (ix : List Nat) (epc : Nat) (tv : Bool) : TrapWho :=
  { ctxid := o.ctxid, rcb := o.rcb, opcode := match o.low with
      | some l => l.2
      | none => recordOpcode o.record
    opc := o.opc, shard := o.shard, epc := epc, wher := if tv then whereOf (4 * core + x) else 0, tix := ix, tv := tv, bv := tv,
    low := o.low.isSome, spec := o.phase != .no }

/-- HANDLE and AUX of an instance's trap: a lowered one names the operand it converts and its own opcode (R312). -/
def OpInst.info (o : OpInst) (t : TrapInfo) : TrapInfo :=
  match o.low with
  | some l => { t with handle := l.1, aux := recordOpcode o.record }
  | none => t

/-- The record of an operator's trap; one taken while speculating is held (R416). -/
def State.opRec (s : State) (o : OpInst) (core x : Nat) (ix : List Nat) (tv : Bool) (t : TrapInfo) (res : Bool) : TrapRec :=
  { bytes := trapBytes (s.fdom o.ctxid o.rcb) s.time (o.who core x ix (if tv then Config.freeNat s.fresh % 7680 else 0) tv) (o.info t), ctxid := o.ctxid,
    rcb := o.rcb, ck := 0, gk := 0, op := o.id, cause := t.cause, res := res, held := o.phase != .no, spec := o.phase != .no,
    unit := .op o.id }

/-- An operator ends with its trap. -/
def State.opTrap (s : State) (o : OpInst) (core x : Nat) (ix : List Nat) (tv : Bool) (t : TrapInfo) : State :=
  { s with traps := s.traps ++ [s.opRec o core x ix tv t false], fresh := s.fresh + 1 }.onOp o.id fun p => { p with failed := true }

/-- A tile that cannot run yet, since the home of what it reads does not serve it or a unit is held, is to bind again. Where its access fails it runs
again once a translation fault is resolved (R103); any other is the tile's trap, and its policy acts on the tile alone (R362). -/
def State.archFault (s : State) (o : OpInst) (core x : Nat) (r : TileRun) (f : Nat × Nat) : State :=
  if f.1 = 0 then s.onOp o.id fun p => { p with again := r :: p.again }
  else { s with traps := s.traps ++ [s.opRec o core x r.ix true ⟨f.1, f.2, 0, 0⟩ (f.1 != 9)], fresh := s.fresh + 1 }.onOp o.id fun p =>
    { p with stall := some (f.2, r.lin), again := r :: p.again }

/-! ### Ends (R185, R210) -/

/-- A context gives up the units it holds; the shadow weights become EMPTY with the matrix array (R210). -/
def State.releaseUnits (s : State) (core x : Nat) : State :=
  s.onCoreAt core fun c => { c with
    holdM := if c.holdM = some x then none else c.holdM
    shadow := if c.holdM = some x then .empty else c.shadow
    holdR := if c.holdR = some x then none else c.holdR }

/-- One more tile of an operator has ended. -/
def State.tileDone (s : State) (op : Nat) : State := s.onOp op fun o => { o with done := o.done + 1 }

/-- The next member of a fuse group, whose tiles follow this one's on the same context (R32). -/
def State.follower (s : State) (op : Nat) : Option OpInst := s.ops.find? fun o => o.follows == some op

/-- The members that follow an operator in its fuse group, in order; fuel bounds them. -/
def State.followers (s : State) (op : Nat) : Nat → List OpInst
  | 0 => []
  | n + 1 =>
    match s.follower op with
    | some o => o :: s.followers o.id n
    | none => []

/-- The walker hands out its next tile. -/
def OpInst.take (o : OpInst) (now : Nat) : (Nat × List Nat) × OpInst :=
  let t := walkTile o.order o.counts o.code
  ((o.nextTile, t.1), { o with nextTile := o.nextTile + 1, code := t.2, since := now, aged := 0 })

/-- The fault of a block-table word that the boxes of a tile's operands need (R113), if any. -/
def State.mintFault (s : State) (o : OpInst) (ix : List Nat) : Option (Nat × Nat) :=
  (o.handles.flatMap fun h => match s.rawEntry o.ctxid o.shard (o.stand h.wr h.hid) with
    | some e => (match tileBox e.dims o.counts ix with
      | some (lo, hi) => [s.elemPlace o.ctxid o.shard e lo, s.elemPlace o.ctxid o.shard e hi]
      | none => [])
    | none => []).findSome? fun r => match r with
    | .error f => some f
    | .ok _ => none

/-- Bind a tile of an installed operator; a fault of its operands' block tables is the tile's. -/
def State.bindMinted (s : State) (o : OpInst) (core x : Nat) (r : TileRun) (pc : Option Nat) : State :=
  match s.mintFault o r.ix with
  | some f => s.archFault o core x r f
  | none => s.bindTile o core x r.lin r.ix r.ckid pc r.nc r.hg r.cb r.replays

/-- The tile of a fuse group's next member on a context: an installed operator's binds there, an architected one's runs at once and the
member after it follows (R32, log 12). `t` is the state with the context empty. -/
def runMembers : Nat → OpInst → Nat → Nat → Nat → List Nat → State → State
  | 0, _, _, _, _, _, t => t
  | n + 1, o, core, x, lin, ix, t =>
    let t1 := (t.onOp o.id fun p => { p with nextTile := p.nextTile + 1, since := t.clk, aged := 0 }).pointAll o core
    match o.image with
    | some _ => t1.bindMinted o core x { lin := lin, ix := ix } none
    | none =>
      match t1.archTile o core ix with
      | .ok u =>
        let u1 := u.tileDone o.id
        match u1.follower o.id with
        | some p => runMembers n p core x lin ix u1
        | none => u1
      | .error f => t1.archFault o core x { lin := lin, ix := ix } f

/-! ### The save area (R351, log 17) -/

/-- The save area of a region. -/
def State.saveVa (s : State) (ctxid rcb : Nat) : Nat := s.effective ctxid rcb 10 0x70 8 % 2 ^ 56

/-- SIZE, USED and NREC of a region's save area, if it has one that can be read. -/
def State.saveHdr (s : State) (ctxid rcb : Nat) : Option (Nat × Nat × Nat) :=
  let va := s.saveVa ctxid rcb
  if va = 0 then none
  else match s.unitRead (s.ownEnv ctxid) va 0x14 with
    | .ok l => some (leNat (l.take 8), leNat ((l.drop 8).take 8), leNat ((l.drop 16).take 4))
    | .error _ => none

/-- Write USED and NREC. -/
def State.setSave (s : State) (ctxid rcb used nrec : Nat) : State :=
  match s.unitWrite (s.ownEnv ctxid) (s.saveVa ctxid rcb + 8) (leBytes used 8 ++ leBytes nrec 4) with
  | .ok t => t
  | .error _ => s

/-- Records of a save area go. -/
def State.dropSaved (s : State) (ctxid rcb bytes n : Nat) : State :=
  match s.saveHdr ctxid rcb with
  | some (_, used, nrec) => s.setSave ctxid rcb (used - bytes) (nrec - n)
  | none => s

/-- Bytes of a stopped tile's ranges. -/
def TileRun.bytes (r : TileRun) : Nat := r.saved.foldl (fun a p => a + p.2.2.length) 0

/-- The ranges kept for the replay of a tile go when it ends or stops again (R363). -/
def State.dropKept (s : State) (op lin : Nat) : State :=
  match s.op? op with
  | none => s
  | some o =>
    match o.kept.filter fun (r : TileRun) => r.lin == lin with
    | [] => s
    | l => (l.foldl (fun t r => if r.bytes = 0 then t else t.dropSaved o.ctxid o.rcb r.bytes 1) s).onOp op fun o =>
        { o with kept := o.kept.filter fun (r : TileRun) => r.lin != lin }

/-- A tile or task of a context is over: gravity returns, units are released, and the context takes its next work (R185 steps 4 and
5). `lost` marks the return of a stopped holder (R393). -/
def State.endWork (s : State) (core x : Nat) (lost : Bool) : State :=
  let ck := 4 * core + x
  let c := s.ctxAt ck
  let s1 := (s.giveBackTo (dieOfCore core) c.work.ctxid c.work.rcb c.hg lost).releaseUnits core x
  let empty := fun (t : State) => t.setCtxAt ck { ({} : Ctx) with nextVar := c.nextVar, issuedAt := c.issuedAt }
  match c.work.job with
  | .none => empty s1
  | .tile op lin ix =>
    let s2 := (s1.tileDone op).dropKept op lin
    match s2.follower op with
    | some o => runMembers 64 o core x lin ix (empty s2)
    | none => empty s2
  | .task die q cardVa idx left bits =>
    if left = 0 then empty s1
    else (empty s1).bindTask core x die q (idx + 1) (left - 1) (cardOf cardVa (leBytes bits 32)) c.work.ctxid c.work.rcb c.work.shard c.cb

/-- A context that has executed ENDOP ends once its engine commands have completed and its stores have been acknowledged. -/
def State.tryEnd (s : State) (core x : Nat) : State :=
  let ck := 4 * core + x
  let c := s.ctxAt ck
  if c.status = .ending && !((s.coreAt core).cmds.any fun e => e.mine c && decide (e.q ≤ 5)) && (s.unacked ck).isEmpty then
    s.endWork core x false
  else s

end Sys2Proof.Machine
end

