-- ==== Sys2Proof/Machine/Graph.lean ====
section
/-! DEFINITION. The GFE: fetch and traps (R277, R283, R314), the exchange (R21), and the control records (R287 to R291). -/

namespace Sys2Proof.Machine

/-! ### Records as they issue -/

/-- What the checks of a record decide: it takes effect; it traps; a read of memory faults in translation; it waits. -/
inductive GVerdict where
  | ok
  | trap (t : TrapInfo)
  /-- A trap of a lowered instance (R312). -/
  | low (t : TrapInfo)
  | fault (cause va : Nat)
  | hold
deriving DecidableEq, Repr

/-- The later check decides only where the earlier one lets it. -/
def GVerdict.and (a b : GVerdict) : GVerdict :=
  match a with
  | .ok => b
  | v => v

/-- A check that must hold, else a trap with AUX. -/
def gneed (c : Bool) (cause aux : Nat) : GVerdict := if c then .ok else .trap ⟨cause, 0, 0, aux⟩

/-- A check that must hold, else a trap. -/
def gcheck (c : Bool) (t : TrapInfo) : GVerdict := if c then .ok else .trap t

/-- A trap with AUX the index of an offending word, if there is one. -/
def gword (o : Option Nat) (cause hid : Nat) : GVerdict :=
  match o with
  | some k => .trap ⟨cause, 0, hid, k⟩
  | none => .ok

/-- Wait while a condition holds. -/
def gwait (c : Bool) : GVerdict := if c then .hold else .ok

/-- Who a GFE's trap names (R314): TV and BV are 0. -/
def Gfe.who (g : Gfe) (opcode : Nat) : TrapWho :=
  { ctxid := g.ctxid, rcb := g.rcb, opcode := opcode, opc := g.pc, shard := g.shard, epc := 0, wher := 0, tix := [], tv := false,
    bv := false, low := false, spec := false }

/-- The record of a GFE's trap, awaiting delivery. -/
def State.gfeTrapRec (s : State) (k opcode : Nat) (low : Bool) (t : TrapInfo) (res : Bool) : TrapRec :=
  let g := s.gfeAt k
  { bytes := trapBytes (s.fdom g.ctxid g.rcb) s.time { g.who opcode with low := low } t, ctxid := g.ctxid, rcb := g.rcb, ck := 0, gk := k + 1, op := 0,
    cause := t.cause, res := res, held := false, spec := false, unit := .gfe k }

/-- A GFE traps at its record, which has no effect: it issues nothing until the record is delivered and its policy applied. A run of a
fuse group ends there. -/
def gfeTrapWith (k opcode : Nat) (low : Bool) (t : TrapInfo) (s : State) : State :=
  { s with traps := s.traps ++ [s.gfeTrapRec k opcode low t false] }.onGfeAt k fun g =>
    { g with block := .trap, fuse := 0, fused := false, fuseLast := none }

def gfeTrapAt (k opcode : Nat) (t : TrapInfo) (s : State) : State := gfeTrapWith k opcode false t s

/-- A read by a GFE faults in translation: a trap of the record, which the policy handles at once as every detection at issue (R283, R358). -/
def gfeFaultAt (k opcode cause va : Nat) (s : State) : State := gfeTrapAt k opcode ⟨cause, va, 0, 0⟩ s

/-- Carry a record's verdict out. -/
def runGVerdict (opcode : Nat) (v : GVerdict) (s : State) (f : State → State) : State :=
  match v with
  | .ok => f s
  | .trap t => gfeTrapAt s.act.gfe opcode t s
  | .low t => gfeTrapWith s.act.gfe opcode true t s
  | .fault c a => gfeFaultAt s.act.gfe opcode c a s
  | .hold => s

/-- The shape of every record's meaning. -/
def recOp (i : Instr) (v : GVerdict) (s : State) (f : State → State) : Host.Outcome State Fault Refusal :=
  .next (runGVerdict (recordOpcode i) v s f)

/-- Length of a record in bytes. -/
def recordBytes (i : Instr) : Nat := 4 * (encode i).length

/-- Go on at the next record. -/
def gfeNext (i : Instr) (s : State) : State := s.onGfe fun g => { g with pc := g.pc + recordBytes i }

/-- A record that ends any run of a fuse group (R287, R293, R313). -/
def endRun (s : State) : State := s.onGfe fun g => { g with fuse := 0, fused := false, fuseLast := none }

/-- Take up the next record after one that ends a run. -/
def gfeDone (i : Instr) (s : State) : State := gfeNext i (endRun s)

/-! ### The exchange (R21) -/

/-- The register and value a GFE has presented. -/
def Gfe.presented (g : Gfe) : Option (Nat × Word) :=
  match g.block with
  | .exch d v _ _ => some (d, v)
  | _ => none

/-- A GFE performs its write and goes on. -/
def Gfe.written (g : Gfe) : Gfe :=
  match g.block with
  | .exch d v pc frames => { g with g := AMap.ins d v g.g, pc := pc, frames := frames, block := .none }
  | _ => g

/-- Once every GFE of the placement set has presented, all write, or all trap with cause 0x10 and AUX the register. -/
def settleExchange (opcode : Nat) (s : State) : State :=
  let g := s.gfe
  if g.set.all fun k => (s.gfeAt k).presented.isSome then
    if g.set.all fun k => (s.gfeAt k).presented == g.presented then
      g.set.foldl (fun t k => t.onGfeAt k Gfe.written) s
    else
      let d := (g.presented.map Prod.fst).getD 0
      g.set.foldl (fun t k => gfeTrapAt k opcode ⟨0x10, 0, 0, d⟩ t) s
  else s

/-- Present a value for g[d]; the record goes on at pc with these frames once the write takes effect. -/
def exchange (i : Instr) (d v pc : Nat) (frames : List Frame) (s : State) : State :=
  settleExchange (recordOpcode i) ((endRun s).onGfe fun g => { g with block := .exch d (BitVec.ofNat 64 v) pc frames })

/-- Write a graph register and go on at the next record. -/
def writeG (i : Instr) (d v : Nat) (s : State) : State := exchange i d v (s.gfe.pc + recordBytes i) s.gfe.frames s

/-! ### Targets and frames (R285, R287) -/

/-- The graph offset of a target counted in words from the record, if it lies in the code words. -/
def Gfe.target (g : Gfe) (t : Int) : Option Nat :=
  let o : Int := g.pc + 4 * t
  if 32 ≤ o ∧ o < 32 + 4 * (g.codew : Int) then some o.toNat else none

/-- A target outside the code words traps with 0x02, whether the transfer would be taken or not. -/
def targetVerdict (g : Gfe) (t : Int) (k : Nat) : GVerdict := gneed (g.target t).isSome 2 k

/-- The offset of a checked target. -/
def Gfe.targetAt (g : Gfe) (t : Int) : Nat := (g.target t).getD 32

/-- A push needs room in the frame stack; a full one traps with 0x0A, HANDLE 0, FADDR 0, AUX 1. -/
def pushVerdict (g : Gfe) : GVerdict := gneed (decide (g.frames.length < 32)) 0x0A 1

/-- A word of the image. -/
def State.codeWord (s : State) (g : Gfe) (off : Nat) : Except (Nat × Nat) Nat :=
  match s.unitRead (s.unitEnv g.ctxid) ((g.img + off) % 2 ^ 56) 4 with
  | .ok l => .ok (leNat l)
  | .error x => .error x

/-! ### NOP, SETG, GOP (R288, R289, R291) -/

/-- NOP. -/
def execNop (fuse : Nat) (ws : List Nat) (s : State) : Host.Outcome State Fault Refusal :=
  recOp (.nop fuse ws) .ok s (gfeDone (.nop fuse ws))

/-- SETG. -/
def execSetg (fuse d : Nat) (v : Sow) (s : State) : Host.Outcome State Fault Refusal :=
  recOp (.setg fuse d v) .ok s fun s => writeG (.setg fuse d v) d (s.gfe.sow v) s

/-- SETG with a 64-bit immediate. -/
def execSetgImm64 (fuse d imm : Nat) (s : State) : Host.Outcome State Fault Refusal :=
  recOp (.setgImm64 fuse d imm) .ok s fun s => writeG (.setgImm64 fuse d imm) d imm s

/-- The results of R288. -/
def gopResult (op a b : Nat) : Nat :=
  match op with
  | 0 => a + b
  | 1 => a + 2 ^ 64 - b
  | 2 => a * b
  | 3 => (divRem 0 a b).1
  | 4 => (divRem 0 a b).2
  | 5 => if sext a 64 ≤ sext b 64 then a else b
  | 6 => if sext a 64 ≤ sext b 64 then b else a
  | 7 => min a b
  | 8 => max a b
  | 9 => Nat.land a b
  | 10 => Nat.lor a b
  | 11 => Nat.xor a b
  | 12 => shlVal a (b % 64)
  | 13 => shrVal a (b % 64)
  | 14 => sraVal a (b % 64)
  | 15 => if sext a 64 < sext b 64 then 1 else 0
  | 16 => if a < b then 1 else 0
  | 17 => if a = b then 1 else 0
  | _ => if b = 0 then 2 ^ 64 - 1 else cdiv a b

/-- GOP. -/
def execGop (fuse d op : Nat) (a b : Sow) (s : State) : Host.Outcome State Fault Refusal :=
  recOp (.gop fuse d op a b) .ok s fun s => writeG (.gop fuse d op a b) d (gopResult op (s.gfe.sow a) (s.gfe.sow b) % 2 ^ 64) s

/-- The handle check of R283: cause 0x03. -/
def State.handleOk (s : State) (g : Gfe) (hid : Nat) : Bool := (s.entry g.ctxid g.shard hid).isSome

def handleVerdict (hid : Nat) (s : State) : GVerdict := if s.handleOk s.gfe hid then .ok else .trap ⟨3, 0, hid, 0⟩

/-- An earlier operator of the device context writes a handle or one related to it. -/
def State.writerOf (s : State) (ctxid plane hid : Nat) : Bool :=
  s.ops.any fun o => o.ctxid == ctxid && o.shard == plane && o.handles.any fun h => h.wr && s.related ctxid plane h.hid hid

/-- An element as a graph register holds it (R289). -/
def ldtValue (fmt pat : Nat) : Nat :=
  if isFloat fmt then trunc 64 (Ex.toInt 1 (-(2 ^ 63 : Nat)) (2 ^ 63 - 1) (real fmt pat)) else trunc 64 (real fmt pat).int

/-- The entry of a handle that has passed the check, in the acting GFE's plane. -/
def State.gent (s : State) (hid : Nat) : HEnt := (s.entry s.gfe.ctxid s.gfe.shard hid).getD noEnt

/-! ### Loops and transfers (R290, R291) -/

/-- LOOP's target must be an ENDLOOP. -/
def graphLoopCheck (n : Sow) (t : Int) (s : State) : GVerdict :=
  let g := s.gfe
  (targetVerdict g t 2).and <|
    match s.codeWord g (g.targetAt t) with
    | .error (c, va) => .fault c va
    | .ok w => (gneed (bitsOf w 22 10 == 4) 2 2).and (if sext (g.sow n) 64 ≤ 0 then .ok else pushVerdict g)

def execGraphLoop (fuse d : Nat) (n : Sow) (t : Int) (s : State) : Host.Outcome State Fault Refusal :=
  recOp (.graphLoop fuse d n t) (graphLoopCheck n t s) s fun s =>
    let g := s.gfe
    if sext (g.sow n) 64 ≤ 0 then (endRun s).onGfe fun g => { g with pc := g.targetAt t + 4 }
    else exchange (.graphLoop fuse d n t) d 0 (g.pc + 12) (.loop d (sext (g.sow n) 64) (g.pc + 12) :: g.frames) s

/-- The top loop frame. -/
def Gfe.loopTop (g : Gfe) : Option (Nat × Int × Nat) :=
  match g.frames with
  | .loop d n body :: _ => some (d, n, body)
  | _ => none

def execEndloop (fuse : Nat) (s : State) : Host.Outcome State Fault Refusal :=
  recOp (.endloop fuse) (gneed s.gfe.loopTop.isSome 2 0) s fun s =>
    let g := s.gfe
    match g.loopTop with
    | none => s
    | some (d, n, body) =>
      let v := ((AMap.get (0 : Word) g.g d).toNat + 1) % 2 ^ 64
      if sext v 64 < n then exchange (.endloop fuse) d v body g.frames s
      else exchange (.endloop fuse) d v (g.pc + 4) (g.frames.drop 1) s

/-- BR. -/
def execGraphBr (fuse : Nat) (t : Int) (s : State) : Host.Outcome State Fault Refusal :=
  recOp (.graphBr fuse t) (targetVerdict s.gfe t 1) s fun s => (endRun s).onGfe fun g => { g with pc := g.targetAt t }

/-- BRC. -/
def execBrc (fuse cond : Nat) (a b : Sow) (t : Int) (s : State) : Host.Outcome State Fault Refusal :=
  recOp (.brc fuse cond a b t) (targetVerdict s.gfe t 4) s fun s =>
    if condHolds cond (s.gfe.sow a) (s.gfe.sow b) then (endRun s).onGfe fun g => { g with pc := g.targetAt t }
    else gfeDone (.brc fuse cond a b t) s

/-- CALL. -/
def execCall (fuse : Nat) (t : Int) (s : State) : Host.Outcome State Fault Refusal :=
  recOp (.call fuse t) ((targetVerdict s.gfe t 1).and (pushVerdict s.gfe)) s fun s =>
    (endRun s).onGfe fun g => { g with pc := g.targetAt t, frames := .call (g.pc + 8) :: g.frames }

/-- The top call frame. -/
def Gfe.callTop (g : Gfe) : Option Nat :=
  match g.frames with
  | .call r :: _ => some r
  | _ => none

/-- RET. -/
def execRet (fuse : Nat) (s : State) : Host.Outcome State Fault Refusal :=
  recOp (.ret fuse) (gneed s.gfe.callTop.isSome 2 0) s fun s =>
    (endRun s).onGfe fun g => { g with pc := g.callTop.getD g.pc, frames := g.frames.drop 1 }

/-! ### HALT and the end of a stream (R25) -/

/-- A GFE free of its stream. -/
def Gfe.freed (_ : Gfe) : Gfe := {}

/-- The history regions that a GFE keeps. -/
def State.dropSpecs (s : State) (g : Gfe) : State := g.specs.foldl (fun t p => ((t.dropTemp p.region).dropTemp p.h1).dropTemp p.h2) s

/-- A stream that every GFE of its set has halted, with no operator left, ends: its GFEs are free and its region is idle. -/
def endStream (k : Nat) (s : State) : State :=
  let g := s.gfeAt k
  if g.busy && (g.set.all fun j => (s.gfeAt j).halted) && !(s.ops.any fun o => o.stream == g.stream) then
    (g.set.foldl (fun (t : State) j => (t.dropSpecs (t.gfeAt j)).onGfeAt j Gfe.freed)
      { s with parts := s.parts.filter fun m => m.stream != g.stream }).setRstate g.ctxid g.rcb 0
  else s

/-- HALT discards open frames. -/
def execHalt (fuse : Nat) (s : State) : Host.Outcome State Fault Refusal :=
  recOp (.halt fuse) .ok s fun s =>
    endStream s.act.gfe ((endRun s).onGfe fun g => { g with halted := true, frames := [], pc := g.pc + 4 })

end Sys2Proof.Machine
end

