-- ==== Sys2Proof/Machine/Tensors.lean ====
section
/-! DEFINITION. Sharding attributes (R308, R309) and the records that define, view, free and place handles (R292 to R299). -/

namespace Sys2Proof.Machine

/-! ### Sharding attributes (R308, R309) -/

/-- A sharding attribute: KIND 0 REPL, 1 SPLIT, 2 PSUM; the split dimension; AXES 0 dies, 1 chips, 2 both. -/
structure Attr where
  kind : Nat
  dim : Nat
  axes : Nat
deriving DecidableEq, Repr

/-- What attribute index i names: nothing (local), an attribute, or a fault or trap at the word with index k. -/
inductive AttrX where
  | local
  | attr (a : Attr)
  | bad
  | fault (cause va : Nat)
deriving DecidableEq, Repr

/-- Look an attribute up; an index past NSHARD and a reserved value are bad. -/
def State.attrOf (s : State) (g : Gfe) (i : Nat) : AttrX :=
  if i = 0 then .local
  else if g.nshard < i then .bad
  else match s.codeWord g (g.shoff + 4 * i) with
    | .error (c, va) => .fault c va
    | .ok w =>
      let k := bitsOf w 0 3
      let d := bitsOf w 3 3
      if w / 256 != 0 || bitsOf w 6 2 == 3 || decide (2 < k) || decide (5 < d) || (k != 1 && d != 0) then .bad
      else .attr ⟨k, d, bitsOf w 6 2⟩

/-- The attribute, if one is named and well formed. -/
def AttrX.get? : AttrX → Option Attr
  | .attr a => some a
  | _ => none

/-- The parts along axes, and the part of a GFE (R309). -/
def Gfe.parts (g : Gfe) (axes : Nat) : Nat := if axes = 0 then g.width else if axes = 1 then g.chips else g.width * g.chips
def Gfe.part (g : Gfe) (axes : Nat) : Nat := if axes = 0 then g.shard else if axes = 1 then g.rank else g.shard + g.width * g.rank

/-- First index and local extent of part j of P (R309). -/
def blockOf (e p j : Nat) : Nat × Nat :=
  let b := cdiv e p
  (j * b, min b (e - j * b))

/-- Local extents under an attribute. -/
def localDims (g : Gfe) (a : Option Attr) (dims : List Nat) : List Nat :=
  match a with
  | none => dims
  | some a => if a.kind = 1 then setNth (blockOf (nth 0 dims a.dim) (g.parts a.axes) (g.part a.axes)).2 dims a.dim else dims

/-- The check of an attribute index for a handle of so many dimensions; W2 names it. -/
def attrVerdict (g : Gfe) (i ndim : Nat) (s : State) : GVerdict :=
  match s.attrOf g i with
  | .local => .ok
  | .bad => .trap ⟨2, 0, 0, 2⟩
  | .fault c va => .fault c va
  | .attr a => gneed (decide (a.dim < ndim)) 2 2

/-- Global extents of a handle: as its TDEF gave them; a handle without any is local. -/
def State.extentsOf (s : State) (ctxid plane : Nat) (h : HEnt) : List Nat :=
  match AMap.find? s.extents (hkey ctxid plane h.hid) with
  | some l => l
  | none => h.dims

/-- Pad extents to six. -/
def pad6 (l : List Nat) : List Nat := l ++ List.replicate (6 - l.length) 0

/-! ### TDEF (R294) -/

/-- A handle identifier that may be defined: not null and below the entry count. -/
def State.definable (s : State) (g : Gfe) (hid : Nat) : Bool := hid != 0 && decide (hid < (s.dev g.ctxid).htcount)

/-- The first extent outside 1 to 16,777,215, by index. -/
def badExtent : List Nat → Nat → Option Nat
  | [], _ => none
  | e :: es, k => if 1 ≤ e ∧ e ≤ 16777215 then badExtent es (k + 1) else some k

/-- The entry TDEF writes. -/
def tdefEntry (g : Gfe) (s : State) (hid fmt pin lay attr bt : Nat) (dims : List Nat) : HEnt :=
  let l := localDims g (s.attrOf g attr).get? dims
  let st := if lay = 1 then tiledStrides l else denseStrides l
  { hid := hid, valid := true, ndim := dims.length, pin := pin, version := 0, shard := attr, fmt := fmt, layout := lay,
    str := if lay = 2 then setNth bt st 4 else st, dim := pad6 l, cap := capBits 0 0 0x1E fmt 15 hid }

/-- In reduced service only FP32 and BF16 may be named (R446). -/
def State.fmtOpen (s : State) (fmt : Nat) : Bool := !s.reduced || decide (fmt ≤ 1)

/-- TDEF's checks. -/
def tdefCheck (hid fmt pin lay attr : Nat) (dims : List Sow) (bt : Nat) (s : State) : GVerdict :=
  let g := s.gfe
  let ds := dims.map g.sow
  (gneed (s.fmtOpen fmt) 2 1).and <|
  (gcheck (s.definable g hid && !(s.handleOk g hid)) ⟨3, 0, hid, 0⟩).and <|
  (if lay = 2 then handleVerdict (bt % 65536) s else .ok).and <|
  (attrVerdict g attr dims.length s).and <|
  (gword (badExtent ds 3) 2 0).and <|
  gcheck (decide ((tdefEntry g s hid fmt pin lay attr bt ds).size < 2 ^ 40)) ⟨0x0A, 0, hid, 0⟩

/-- An operator names a handle as it stands in its Handle Table. -/
def OpInst.namesNow (o : OpInst) (ctxid plane hid : Nat) : Bool :=
  o.ctxid == ctxid && o.shard == plane && (o.handles.any fun h => h.hid == hid) && !(o.olds.any fun p => p.1 == hid)

/-- An operator keeps the entry it was issued with, as a temporary. -/
def OpInst.keep (o : OpInst) (hid n : Nat) : OpInst := { o with olds := o.olds ++ [(hid, n)] }

/-- A displaced block that a handle owned. -/
def Displaced.of (d : Displaced) (ctxid plane hid : Nat) : Bool :=
  d.block.ctxid == ctxid && d.block.plane == plane && d.block.hid == hid

/-- The operators issued so far use a temporary in a handle's place, and so do blocks that a pre-emption displaced. -/
def State.keepAs (s : State) (ctxid plane hid n : Nat) : State :=
  { s with
    ops := s.ops.map fun (o : OpInst) => if o.namesNow ctxid plane hid then o.keep hid n else o
    displaced := s.displaced.map fun (d : Displaced) => if d.of ctxid plane hid then { d with block := { d.block with hid := n } } else d }

/-- The operators issued earlier keep the entry that a record is about to redefine (R22, log 27). -/
def State.retire (s : State) (ctxid plane hid : Nat) : State :=
  match s.rawEntry ctxid plane hid with
  | none => s
  | some h =>
    if !(s.ops.any fun o => o.namesNow ctxid plane hid) && !(s.displaced.any fun d => d.of ctxid plane hid) then s
    else
      let t := s.newTemp h
      t.2.keepAs ctxid plane hid t.1

/-- An identifier takes a new meaning, for every operator that issues from now on (log 27): its earlier views, preference and last use are
forgotten. -/
def State.forget (s : State) (ctxid plane hid : Nat) : State :=
  let t := s.retire ctxid plane hid
  { t with gone := t.gone.filter fun k => k != hkey ctxid plane hid,
           prefer := AMap.era (hkey ctxid plane hid) t.prefer,
           blocks := t.blocks.map fun b =>
             if b.ctxid = ctxid && b.plane = plane then { b with views := b.views.filter fun v => v != hid } else b }

/-- Entries kept for an operator go with the last operator that uses them. -/
def State.dropOlds (s : State) (o : OpInst) : State :=
  (o.olds.map Prod.snd).foldl (fun t n =>
    if t.ops.any fun p => (p.handles.any fun h => h.hid == n) || (p.olds.any fun q => q.2 == n) then t else t.dropTemp n) s

def execTdef (fuse hid fmt pin lay attr : Nat) (dims : List Sow) (bt : Nat) (s : State) : Host.Outcome State Fault Refusal :=
  recOp (.tdef fuse hid fmt pin lay attr dims bt) (tdefCheck hid fmt pin lay attr dims bt s) s fun s =>
    let g := s.gfe
    let ds := dims.map g.sow
    let s1 := (s.forget g.ctxid g.shard hid).setEntry g.ctxid g.shard (tdefEntry g s hid fmt pin lay attr bt ds)
    gfeDone (.tdef fuse hid fmt pin lay attr dims bt)
      { s1 with extents := AMap.ins (hkey g.ctxid g.shard hid) ds s1.extents }

/-! ### TFREE (R117, R295) -/

/-- Free one handle. -/
def State.freeHandle (s : State) (g : Gfe) (hid : Nat) : State :=
  if hid = 0 then s
  else (s.setEntry g.ctxid g.shard { s.gent hid with valid := false }).askRelease g.ctxid g.shard hid s.nextOp

def tfreeCheck (a b : Nat) (s : State) : GVerdict := (handleVerdict a s).and (if b = 0 then .ok else handleVerdict b s)

/-! ### Placement at issue (R115, R116) -/

/-- The cluster whose scratch holds a placed entry. -/
def HEnt.cluster (h : HEnt) : Option Nat :=
  if h.placed && h.res == 2 && decide (windowVa ≤ h.base) then some (bitsOf (h.base - windowVa) 24 4) else none

/-- Whoever asks for a region at issue; the cluster is that of the record's other operands (log 18). -/
def issueAsker (g : Gfe) (gk : Nat) (cluster : Option Nat := none) : Asker :=
  { ctxid := g.ctxid, rcb := g.rcb, plane := g.shard, die := gk / 4, core := none, cluster := cluster }

/-- The levels of a placement at issue: below unit scratch, unless the handle is pinned (log 26). -/
def State.issueLevels (s : State) (h : HEnt) (g : Gfe) (highest : Nat) : List Nat :=
  levelsOf h.pin (if highest = 4 then 4 else min highest 2) (s.preferred g.ctxid g.shard h.hid)

/-- A handle whose last use has been issued, or a view whose source was released, is not placed again by a read (R117, R295). -/
def State.isGone (s : State) (ctxid plane hid : Nat) : Bool := s.gone.contains (hkey ctxid plane hid)

/-- Place a handle that a record touches at issue, if it is unplaced. -/
def placeNow (h : HEnt) (s : State) : Except Nat State :=
  if h.placed then .ok s else s.placeHandle (issueAsker s.gfe s.act.gfe) h (s.issueLevels h s.gfe 2)

/-- The trap of a placement that fails: FADDR is the rounded size and the last level. -/
def placeVerdict (hid : Nat) (s : State) : GVerdict :=
  let h := s.gent hid
  if s.isGone s.gfe.ctxid s.gfe.shard hid then .trap ⟨0x0A, 0, hid, 0⟩
  else match placeNow h s with
    | .ok _ => .ok
    | .error f => .trap ⟨0x0A, f, hid, 0⟩

/-- The state with a handle placed. -/
def State.placed (s : State) (hid : Nat) : State :=
  match placeNow (s.gent hid) s with
  | .ok t => t
  | .error _ => s

/-! ### GOP ldt (R289) -/

/-- The element GOP ldt reads. -/
def State.ldtRead (s : State) (a b : Nat) : Except (Nat × Nat) Nat :=
  let e := s.gent a
  s.readElem s.gfe.ctxid s.gfe.shard e (coords e.dims b)

/-- GOP ldt: handle, earlier writers, bound, placement on first touch (R115), then the read; an earlier last use has left nothing to read
(R117). -/
def gopLdtCheck (a : Nat) (b : Sow) (s : State) : GVerdict :=
  let i := s.gfe.sow b
  (handleVerdict a s).and <|
    if s.writerOf s.gfe.ctxid s.gfe.shard a then .hold
    else if (s.gent a).count ≤ i then .trap ⟨4, i, a, 3⟩
    else (placeVerdict a s).and (match (s.placed a).ldtRead a i with
      | .ok _ => .ok
      | .error (c, va) => .fault c va)

def execGopLdt (fuse d a : Nat) (b : Sow) (s : State) : Host.Outcome State Fault Refusal :=
  recOp (.gopLdt fuse d a b) (gopLdtCheck a b s) s fun s =>
    match (s.placed a).ldtRead a (s.gfe.sow b) with
    | .ok v => writeG (.gopLdt fuse d a b) d (ldtValue (s.gent a).fmt v) (s.placed a)
    | .error _ => s

/-! ### TVIEW (R296) -/

/-- The record's index of the first extent or offset that R296 refuses by value; `lay` is the layout. -/
def badBox (lay : Nat) : List (Nat × Nat) → Nat → Option Nat
  | [], _ => none
  | (o, e) :: r, k =>
    let al := lay == 1 && decide (k < 2)
    if al && o % 64 != 0 then some (2 + 2 * k)
    else if e == 0 || (al && e % 64 != 0) then some (3 + 2 * k)
    else badBox lay r (k + 1)

/-- The first dimension whose box leaves the source. -/
def outBox (h : HEnt) : List (Nat × Nat) → Nat → Option Nat
  | [], _ => none
  | (o, e) :: r, k => if h.ext k < o then some (2 + 2 * k) else if h.ext k < o + e then some (3 + 2 * k) else outBox h r (k + 1)

/-- NDIM of an entry, VALID or not, by which a record's length and reserved bits are checked before its handles (R283). -/
def State.ndimOf (s : State) (hid : Nat) : Nat := (s.rawEntry s.gfe.ctxid s.gfe.shard hid).elim 6 HEnt.ndim

def tviewCheck (d src : Nat) (box : List (Sow × Sow)) (s : State) : GVerdict :=
  let g := s.gfe
  let h := s.gent src
  let b := box.map fun p => (g.sow p.1, g.sow p.2)
  (gneed (!(s.rawEntry g.ctxid g.shard src).isSome || box.length == s.ndimOf src) 2 0).and <|
  (handleVerdict d s).and <|
  (handleVerdict src s).and <|
  (gneed (h.layout != 2) 2 1).and <|
  (gword (badBox h.layout b 0) 2 0).and <|
  (gword (outBox h b 0) 4 src).and (placeVerdict src s)

/-- The view's entry. -/
def viewEntry (s : State) (g : Gfe) (h : HEnt) (d : Nat) (b : List (Nat × Nat)) : HEnt :=
  let m := s.mintBox g.ctxid g.shard h h.perm (some (b.map Prod.fst, b.map fun p => p.1 + p.2 - 1))
  { h with hid := d, valid := true, version := 0, shard := 0, pin := h.res, dim := pad6 (b.map Prod.snd),
           cap := capBits m.base m.len h.perm h.fmt h.res d }

/-- Note a view in the block that holds its source. -/
def State.noteView (s : State) (ctxid plane src d : Nat) : State :=
  match s.blockWith ctxid plane src with
  | none => s
  | some b => { s with blocks := s.blocks.map fun c => if c.id = b.id then { c with views := c.views ++ [d] } else c }

def execTview (fuse d src : Nat) (box : List (Sow × Sow)) (s : State) : Host.Outcome State Fault Refusal :=
  recOp (.tview fuse d src box) (tviewCheck d src box s) s fun s =>
    let s1 := s.placed src
    let g := s1.gfe
    let e := viewEntry s1 g (s1.gent src) d (box.map fun p => (g.sow p.1, g.sow p.2))
    let s2 := ((s1.forget g.ctxid g.shard d).setEntry g.ctxid g.shard e).noteView g.ctxid g.shard src d
    gfeDone (.tview fuse d src box) { s2 with extents := AMap.ins (hkey g.ctxid g.shard d) e.dims s2.extents }

/-! ### TRESHAPE (R297) -/

/-- Layout 0 with dense strides. -/
def HEnt.dense (h : HEnt) : Bool := h.layout == 0 && h.str == denseStrides h.dims

def treshapeCheck (d src : Nat) (dims : List Sow) (s : State) : GVerdict :=
  let h := s.gent src
  let ds := dims.map s.gfe.sow
  (handleVerdict d s).and <|
  (handleVerdict src s).and <|
  (gneed h.dense 2 1).and <|
  (gword (badExtent ds 3) 2 0).and <|
  (gcheck (h.count == ds.foldl (· * ·) 1) ⟨4, 0, src, 3⟩).and (placeVerdict src s)

/-- TRESHAPE; like every record it places the handle it touches (R22). -/
def execTreshape (fuse d src : Nat) (dims : List Sow) (s : State) : Host.Outcome State Fault Refusal :=
  recOp (.treshape fuse d src dims) (treshapeCheck d src dims s) s fun s =>
    let s1 := s.placed src
    let g := s1.gfe
    let h := s1.gent src
    let ds := dims.map g.sow
    let e : HEnt := { h with hid := d, valid := true, version := 0, shard := 0, ndim := ds.length, dim := pad6 ds, str := denseStrides ds }
    let s2 := ((s1.forget g.ctxid g.shard d).setEntry g.ctxid g.shard e).noteView g.ctxid g.shard src d
    gfeDone (.treshape fuse d src dims) { s2 with extents := AMap.ins (hkey g.ctxid g.shard d) ds s2.extents }

/-! ### TPLACE (R299) -/

/-- TPLACE. -/
def execTplace (fuse hid level : Nat) (s : State) : Host.Outcome State Fault Refusal :=
  recOp (.tplace fuse hid level) (handleVerdict hid s) s fun s =>
    gfeDone (.tplace fuse hid level)
      (let k := hkey s.gfe.ctxid s.gfe.shard hid
       { s with prefer := if level = 15 then AMap.era k s.prefer else AMap.ins k level s.prefer })

end Sys2Proof.Machine
end

