-- ==== Sys2Proof/Machine/SpecEnter.lean ====
section
/-! DEFINITION. Speculation at issue (R408, R410, R412): temporaries of the allocator, history regions, and how a consumer enters
speculation. -/

namespace Sys2Proof.Machine

/-! ### Temporaries (R312, R408, R412) -/

/-- A temporary placed in a region of so many bytes, as a handle with PIN 15 (R116), or the FADDR of the allocation's failure. -/
def State.grantTemp (s : State) (a : Asker) (e : HEnt) (bytes level : Nat) : Except Nat (Nat × State) :=
  let t := s.newTemp e
  match t.2.grantFirst a t.1 (fun _ => bytes) (levelsOf 15 level none) 0 with
  | .ok (b, u) => .ok (t.1, u.setEntry a.ctxid a.plane ({ e with hid := t.1 }.place (u.blockVa b) bytes b.level))
  | .error l => .error (regionSize l bytes + l)

/-! ### History regions (R408) -/

/-- The highest level of a region that speculation takes for a handle. -/
def specLevel (h : HEnt) : Nat := if h.placed then min h.res 2 else if h.pin ≤ 2 then h.pin else 2

/-- The bytes of a handle's local shard where it lies. -/
def specSize (h : HEnt) : Nat := if h.placed then h.len else h.size

/-- Take a history region: its temporary and those of H1 and H2. -/
def State.historyRegion (s : State) (a : Asker) (h : HEnt) : Except Nat ((Nat × Nat × Nat) × State) :=
  let n := specSize h
  match s.grantTemp a h (2 * n) (specLevel h) with
  | .error f => .error f
  | .ok (r, t) =>
    match t.rawEntry a.ctxid a.plane r with
    | none => .error 0
    | some e =>
      let p := t.newTemp (e.place e.base n e.res)
      let q := p.2.newTemp (e.place (e.base + n) n e.res)
      .ok ((r, p.1, q.1), q.2)

/-! ### Entering speculation (R410, R412) -/

/-- Operators of a plane that write a handle or one related to it, issued before operator n. -/
def State.writersBefore (s : State) (ctxid plane hid n : Nat) : List OpInst :=
  s.ops.filter fun p => decide (p.id < n) && p.ctxid == ctxid && p.shard == plane && p.handles.any fun h => h.wr && s.related ctxid plane h.hid hid

/-- An operator that speculates. -/
def OpInst.speculating (o : OpInst) : Bool :=
  match o.phase with
  | .no => false
  | _ => true

/-- Operators of a die that speculate (R410). -/
def State.specCount (s : State) (die : Nat) : Nat := (s.ops.filter fun o => o.gfe / 4 == die && o.speculating).length

/-- A context is held at an ENDOP. -/
def State.atEndop (s : State) (ck : Nat) : Bool :=
  let c := s.ctxAt ck
  c.status == .blocked .spec && (match (decodeBundle (AMap.get (0 : BitVec 256) s.store c.bank.pc).toNat).slots with
    | .op o :: _ => o.op == Instr.endop
    | _ => false)

/-- Every tile of a speculating operator has reached its ENDOP; an architected operator's tiles have run. -/
def State.allHeld (s : State) (o : OpInst) : Bool :=
  if o.image.isNone then o.total == o.done
  else o.nextTile == o.total && o.again.isEmpty && o.stopped.isEmpty
    && ((s.ctxs.filter fun p => p.2.opId == o.id).all fun p => s.atEndop p.1)

/-- An entry that consumers may use: one of the first 16, and not turned off (R408, R421). -/
def Gfe.usable (g : Gfe) (hid : Nat) : Option SpecHandle := (g.specs.take 16).find? fun p => p.hid == hid && !p.off

/-- The handles an operator writes. -/
def OpInst.outs (o : OpInst) : List Nat := (o.handles.filter OpHandle.wr).map OpHandle.hid

/-- A handle that an operator reads and may predict: one producer outstanding, and some history. An operator that writes it too is itself another
producer; one that a lowered temporary serves does not read it (log 105). -/
def State.predictable (s : State) (o : OpInst) (h : OpHandle) : Bool :=
  h.rd && !(o.writes h.hid) && !(o.subs.any fun p => p.1 == h.hid && !p.2.2) && (match s.writersBefore o.ctxid o.shard h.hid o.id with
    | [w] => w.writes h.hid
    | _ => false)
    && (match (s.gfeAt o.gfe).usable h.hid with
    | some p => decide (1 ≤ p.count)
    | none => false)

/-- The operator whose shadow of a handle a later one may read: the handle's one outstanding writer, which speculates by a prediction of DEPTH 2 and
whose tiles are all held; the later one writes none of its outputs (R413). -/
def State.upstreamOf (s : State) (o : OpInst) (hid : Nat) : Option OpInst :=
  match s.writersBefore o.ctxid o.shard hid o.id with
  | [c] =>
    if c.gfe == o.gfe && c.speculating && c.behind.isNone && c.upon.isEmpty && s.allHeld c && c.outs.contains hid
        && (s.specOf c).elim false (fun p => p.depth == 2) && !(o.outs.any fun w => c.outs.contains w) then some c
    else none
  | _ => none

/-- Every other input has no outstanding writer, or is a shadow that R413 lets it read. -/
def State.othersQuiet (s : State) (o : OpInst) (hid : Nat) : Bool :=
  o.handles.all fun h => !h.rd || h.hid == hid || (s.writersBefore o.ctxid o.shard h.hid o.id).isEmpty || (s.upstreamOf o h.hid).isSome

/-- The shadows of others that an operator reads, by the handle each stands for. -/
def State.twins (s : State) (o : OpInst) : List (Nat × Nat) :=
  (o.handles.filter OpHandle.rd).filterMap fun h => ((s.upstreamOf o h.hid).bind fun c => c.shadowOf h.hid).map fun x => (h.hid, x)

/-- Take shadows for the outputs of an operator. -/
def State.takeShadows (s : State) (a : Asker) (plane ctxid : Nat) : List Nat → Except Nat (List (Nat × Nat) × State)
  | [] => .ok ([], s)
  | h :: hs =>
    match s.rawEntry ctxid plane h with
    | none => .error 0
    | some e =>
      match s.grantTemp a e (specSize e) (specLevel e) with
      | .error f => .error f
      | .ok (t, u) =>
        match u.takeShadows a plane ctxid hs with
        | .error f => .error f
        | .ok (l, w) => .ok ((h, t) :: l, w)

/-- An operator enters speculation on a handle: a prediction buffer, and a shadow of each output. It waits only for earlier writers of
its outputs, which the fill of the shadows follows; it does not where a region fails. -/
def State.specOn (s : State) (a : Asker) (o : OpInst) (hid : Nat) : OpInst × State :=
  match s.takeShadows a o.shard o.ctxid (hid :: o.outs) with
  | .error _ => (o, s)
  | .ok (l, t) =>
    ({ o with phase := .running, specHid := hid, specReg := ((s.gfeAt o.gfe).usable hid).elim 0 SpecHandle.region, shadows := l ++ s.twins o,
              upon := dedup ((o.handles.filter OpHandle.rd).filterMap fun h => (s.upstreamOf o h.hid).map OpInst.id),
              deps := o.outs.flatMap fun w => (s.writersBefore o.ctxid o.shard w o.id).map OpInst.id }, t)

/-- The first handle an operator may predict. -/
def State.predicts (s : State) (o : OpInst) : Option OpHandle := o.handles.find? fun h => s.predictable o h && s.othersQuiet o h.hid

/-- Speculation at issue, where the rules of R410 let it: of an operator that runs as tiles (R422, log 105). -/
def State.enterSpec (s : State) (a : Asker) (o : OpInst) : OpInst × State :=
  if !(hasTiles o.record) || decide (8 ≤ s.specCount (o.gfe / 4)) then (o, s)
  else match s.predicts o with
    | none => (o, s)
    | some h => s.specOn a o h.hid

end Sys2Proof.Machine
end

