-- ==== Sys2Proof/Machine/Operators.lean ====
section
/-! DEFINITION. Operator records: their operands (R301, R319, R329, R343) and the checks of R283 on their values and shapes (R302 to
R307, R320 to R328). -/

namespace Sys2Proof.Machine

/-! ### Operands -/

/-- An operand handle of a record: the word that names it, whether it may be 0, read and written, the highest level it may take. -/
structure Opd where
  word : Nat
  hid : Nat
  opt : Bool
  rd : Bool
  wr : Bool
  level : Nat
deriving DecidableEq, Repr

/-- An input, an optional input, an output. -/
def opIn (word hid : Nat) : Opd := ⟨word, hid, false, true, false, 3⟩
def opOpt (word hid : Nat) : Opd := ⟨word, hid, true, true, false, 3⟩
def opOut (word hid : Nat) : Opd := ⟨word, hid, false, false, true, 3⟩

/-- Handles of a user operator's record, by footprint entry (R340, R343). -/
def footOpds (hs : List (Nat × Nat)) (foot : List Nat) : List Opd :=
  (List.zip (upTo foot.length) foot).map fun p =>
    let w := nth (0, 0) hs (p.1 / 2)
    ⟨1 + p.1 / 2, if p.1 % 2 = 0 then w.1 else w.2, false, bitOf p.2 0, bitOf p.2 1, bitsOf p.2 4 4⟩

/-- The operand handles of a record, in the order it names them. -/
def operandsOf (i : Instr) (foot : List Nat) : List Opd :=
  match i with
  | .tload _ h _ => [opOut 1 h]
  | .tstore _ _ h _ => [opIn 1 h]
  | .tcopy _ _ d s => [opOut 1 d, opIn 1 s]
  | .tgatherb _ _ d pool tbl _ => [opOut 1 d, opIn 1 pool, opIn 2 tbl]
  | .tconcat _ _ d a b => [opOut 1 d, opIn 1 a, opIn 2 b]
  | .tappend _ h x => [{ opIn 1 h with wr := true }, opIn 1 x]
  | .ttrans _ d s _ => [opOut 1 d, opIn 1 s]
  | .matmul _ acc d a w b => [{ opOut 1 d with rd := acc }, opIn 1 a, opIn 2 w, opOpt 2 b]
  | .matmulcb _ acc d a w t b _ => [{ opOut 1 d with rd := acc }, opIn 1 a, opIn 2 w, opIn 2 t, opOpt 3 b]
  | .convOp _ d x w b _ _ _ _ _ _ => [opOut 1 d, opIn 1 x, opIn 2 w, opOpt 2 b]
  | .eltw _ d a b c _ _ _ _ _ => [opOut 1 d, opIn 1 a, opOpt 2 b, opOpt 2 c]
  | .reduce _ _ d a _ => [opOut 1 d, opIn 1 a]
  | .softmax _ d a _ => [opOut 1 d, opIn 1 a]
  | .norm _ _ d a g b _ => [opOut 1 d, opIn 1 a, opOpt 2 g, opOpt 2 b]
  | .attn _ _ d q k v _ _ => [opOut 1 d, opIn 1 q, opIn 2 k, opIn 2 v]
  | .embed _ d t x => [opOut 1 d, opIn 1 t, opIn 2 x]
  | .topk _ d a x _ => [opOut 1 d, opIn 1 a, opOut 2 x]
  | .argmax _ d a => [opOut 1 d, opIn 1 a]
  | .qr _ _ r a => [opOut 1 r, opIn 1 a]
  | .lsq _ _ x a b => [opOut 1 x, opIn 1 a, opIn 2 b]
  | .rotl _ _ d x w => [opOut 1 d, opIn 1 x, opIn 2 w]
  | .allgather _ d s _ _ => [opOut 1 d, opIn 1 s]
  | .redscat _ d s _ _ _ => [opOut 1 d, opIn 1 s]
  | .allred _ d s _ _ => [opOut 1 d, opIn 1 s]
  | .bcast _ d s _ _ => [opOut 1 d, opIn 1 s]
  | .send _ s _ _ _ => [opIn 1 s]
  | .recv _ d ring _ _ _ => [opOut 1 d, { opOpt 1 ring with wr := true }]
  | .userOperator _ _ _ hs => footOpds hs foot
  | _ => []

/-- The operands that name a handle. -/
def namedOpds (i : Instr) (foot : List Nat) : List Opd := (operandsOf i foot).filter fun o => !(o.opt && o.hid == 0)

/-- Fuse group, last-use flag and walk order of a record (R277, R278, R318). -/
def recordFuse (i : Instr) : Nat :=
  match encode i with
  | w :: _ => bitsOf w 8 8
  | [] => 0
def recordLast (i : Instr) : Bool := bitOf (recordFlags i) 7
def isCollective (i : Instr) : Bool := decide (0x60 ≤ recordOpcode i) && decide (recordOpcode i ≤ 0x65)
def recordWalk (i : Instr) : Nat := if isCompute i then bitsOf (recordFlags i) 4 2 else 0

/-- The handle checks of a record, in word order (R283 check 5). -/
def handlesVerdict : List Opd → State → GVerdict
  | [], _ => .ok
  | o :: os, s => (handleVerdict o.hid s).and (handlesVerdict os s)

/-! ### Checks of values and shapes (R283 check 6) -/

/-- A shape that must agree; AUX is the word that names the mismatched handle. -/
def shape (c : Bool) (word : Nat) : GVerdict := gneed c 4 word

/-- A format that must be as asked. -/
def format (c : Bool) (word : Nat) : GVerdict := gneed c 2 word

/-- Two handles agree in every extent but those of some dimensions. -/
def agreeBut (but : List Nat) (a b : HEnt) : Bool := a.ndim == b.ndim && (upTo a.ndim).all fun k => but.contains k || a.ext k == b.ext k

/-- An operand that broadcasts against d (R323). -/
def broadcasts (d b : HEnt) : Bool := d.ndim == b.ndim && (upTo d.ndim).all fun k => b.ext k == 1 || b.ext k == d.ext k

/-- Formats that conversions accept: all but codebooks and rotator words. -/
def convertible (f : Nat) : Bool := f != 9 && decide (f ≤ 10)

/-- A plain operand format: none of 9 to 11 (R321). -/
def plain (h : HEnt) : Bool := decide (h.fmt ≤ 8)

/-- Output extent of a convolution (R322). -/
def convExt (w pad dil k st : Nat) : Int := Int.fdiv ((w : Int) + 2 * pad - dil * ((k : Int) - 1) - 1) st + 1

/-- A bias is one-dimensional, of the extent of d's dimension 0, and FP32, or INT32 in integer mode. -/
def biasVerdict (word bias : Nat) (e : Nat → HEnt) (n : Nat) (integer : Bool) : GVerdict :=
  if bias = 0 then .ok
  else (format ((e bias).fmt == (if integer then 8 else 0)) word).and (shape ((e bias).ndim == 1 && (e bias).ext 0 == n) word)

/-- Dimensions past the second agree between a and d. -/
def restAgree (a d : HEnt) : Bool := a.ndim == d.ndim && (upTo a.ndim).all fun k => decide (k < 1) || a.ext k == d.ext k

/-- The permutation of TTRANS: entry k below the dimension count, nothing above. -/
def permOf (perm n : Nat) : List Nat := (upTo n).map fun k => bitsOf perm (3 * k) 3
def permOk (perm n : Nat) : Bool := decide (perm < 8 ^ n) && (upTo n).all fun k => (permOf perm n).contains k

/-- The checks of movement records (R302 to R307). `e` gives the entries as the record sees its inputs, `o` its outputs. -/
def moveVerdict (i : Instr) (e o : Nat → HEnt) (n : Nat) : GVerdict :=
  match i with
  | .tcopy _ _ d s =>
    (format ((e s).fmt == (o d).fmt || (convertible (e s).fmt && convertible (o d).fmt)) 1).and (shape ((e s).dims == (o d).dims) 1)
  | .tgatherb _ rlog d pool tbl _ =>
    (format ((o d).fmt == (e pool).fmt && (e pool).layout == 0) 1).and <| (format ((e tbl).fmt == 8) 2).and <|
      (shape ((e pool).ndim == 2 && (o d).ndim == 2 && (o d).ext 0 == (e pool).ext 0) 1).and <|
      (shape ((e tbl).ndim == 1 && decide (cdiv n (2 ^ rlog) ≤ (e tbl).ext 0)) 2).and (shape (decide (n ≤ (o d).ext 1)) 3)
  | .tconcat _ axis d a b =>
    (gneed (decide (axis < (o d).ndim)) 2 0).and <| (format ((e a).fmt == (o d).fmt) 1).and <| (format ((e b).fmt == (o d).fmt) 2).and <|
      (shape (agreeBut [axis] (e a) (o d)) 1).and <| (shape (agreeBut [axis] (e b) (o d)) 2).and <|
      shape ((o d).ext axis == (e a).ext axis + (e b).ext axis) 1
  | .tappend _ h x =>
    let l := (o h).ndim - 1
    (format ((e x).fmt == (o h).fmt) 1).and <| (shape (agreeBut [l] (e x) (o h)) 1).and <|
      gneed (decide ((o h).ext l + (e x).ext l ≤ 16777215)) 2 1
  | .ttrans _ d s perm =>
    let p := permOf perm (e s).ndim
    (format ((e s).fmt == (o d).fmt) 1).and <| (gneed (permOk perm (e s).ndim) 2 2).and <|
      shape ((o d).ndim == (e s).ndim && (upTo (o d).ndim).all fun k => (o d).ext k == (e s).ext (nth 0 p k)) 1
  | _ => .ok

/-- The checks of MATMUL, MATMULCB and CONV (R322). -/
def productVerdict (i : Instr) (e o : Nat → HEnt) : GVerdict :=
  match i with
  | .matmul _ _ d a w b =>
    (format (plain (o d)) 1).and <|
    match matPair (e w).fmt (e a).fmt with
    | none => format false 2
    | some (_, integer) =>
      (format ((e w).fmt != 9) 2).and <| (shape (decide (2 ≤ (e a).ndim) && restAgree (e a) (o d)) 1).and <|
        (shape ((e w).ndim == 2 && (e w).ext 0 == (e a).ext 0 && (e w).ext 1 == (o d).ext 0) 2).and (biasVerdict 2 b e ((o d).ext 0) integer)
  | .matmulcb _ _ d a w t b _ =>
    (format (plain (o d)) 1).and <| (format (matPair 9 (e a).fmt).isSome 1).and <| (format ((e w).fmt == 9) 2).and <|
      (format ((e t).fmt == 8) 2).and <| (shape (decide (2 ≤ (e a).ndim) && restAgree (e a) (o d)) 1).and <|
      (shape ((e w).ndim == 2 && (e w).ext 0 == (e a).ext 0 && (e w).ext 1 == (o d).ext 0) 2).and <|
      (shape ((e t).count == 256) 2).and (biasVerdict 3 b e ((o d).ext 0) false)
  | .convOp _ d x w b sx sy px py dx dy =>
    let ed := o d
    let ex := e x
    let ew := e w
    (format (plain ed) 1).and <|
    match matPair ew.fmt ex.fmt with
    | none => format false 2
    | some (_, integer) =>
      (format (ew.fmt != 9) 2).and <| (shape (ex.ndim == 4 && ed.ndim == 4 && ex.ext 3 == ed.ext 3) 1).and <|
        (shape (ew.ndim == 4 && ew.ext 0 == ex.ext 0 && ew.ext 3 == ed.ext 0) 2).and <|
        (shape ((ed.ext 1 : Int) == convExt (ex.ext 1) px (dx + 1) (ew.ext 1) (sx + 1)
          && (ed.ext 2 : Int) == convExt (ex.ext 2) py (dy + 1) (ew.ext 2) (sy + 1)) 1).and (biasVerdict 2 b e (ed.ext 0) integer)
  | _ => .ok

/-- A vector along dimension 0 that NORM multiplies or adds. -/
def normVec (h : Nat) (e : Nat → HEnt) (n : Nat) : GVerdict :=
  if h = 0 then .ok else (format (plain (e h)) 2).and (shape ((e h).ndim == 1 && (e h).ext 0 == n) 2)

/-- The checks of the other compute records (R323 to R327); `k` is TOPK's count and `h0` the whole extent of ATTN's dimension 0. -/
def computeVerdict (i : Instr) (e o : Nat → HEnt) (k h0 : Nat) : GVerdict :=
  match i with
  | .eltw _ d a b c _ _ _ _ _ =>
    (format (plain (o d) && plain (e a)) 1).and <| (format ((b == 0 || plain (e b)) && (c == 0 || plain (e c))) 2).and <|
      (shape ((e a).dims == (o d).dims) 1).and
      (shape ((b == 0 || broadcasts (o d) (e b)) && (c == 0 || broadcasts (o d) (e c))) 2)
  | .reduce _ _ d a axis =>
    (format (plain (o d) && plain (e a)) 1).and <| (gneed (decide (axis < (e a).ndim)) 2 2).and <|
      shape (agreeBut [axis] (e a) (o d) && (o d).ext axis == 1) 1
  | .softmax _ d a _ => (format (plain (o d) && plain (e a)) 1).and (shape ((e a).dims == (o d).dims) 1)
  | .norm _ _ d a g b _ =>
    (format (plain (o d) && plain (e a)) 1).and <| (shape ((e a).dims == (o d).dims) 1).and <|
      (normVec g e ((e a).ext 0)).and (normVec b e ((e a).ext 0))
  | .attn _ _ d q kk v heads _ =>
    (format (decide ((o d).fmt ≤ 2)) 1).and <|
      (format ((e kk).fmt != 9 && (matPair (e kk).fmt (e q).fmt).isSome && (matPair (e v).fmt (e v).fmt).isSome) 2).and <|
      (shape ((e q).ndim == 2 && (o d).dims == (e q).dims && h0 % heads == 0) 1).and <|
      shape ((e kk).ndim == 2 && (e kk).ext 0 == (e q).ext 0 && (e v).dims == (e kk).dims) 2
  | .embed _ d t x =>
    (format (plain (e t) && (o d).fmt == (e t).fmt) 1).and <| (format ((e x).fmt == 8) 2).and <|
      shape ((e t).ndim == 2 && (o d).dims == (e t).ext 0 :: (e x).dims) 1
  | .topk _ d a x _ =>
    (format (plain (e a) && (o d).fmt == (e a).fmt) 1).and <| (format ((o x).fmt == 8) 2).and <|
      (shape (decide (1 ≤ k) && decide (k ≤ (e a).ext 0)) 3).and <|
      (shape (agreeBut [0] (e a) (o d) && (o d).ext 0 == k) 1).and (shape (agreeBut [0] (e a) (o x) && (o x).ext 0 == k) 2)
  | .argmax _ d a =>
    (format (plain (e a) && (o d).fmt == 8) 1).and (shape (agreeBut [0] (e a) (o d) && (o d).ext 0 == 1) 1)
  | .qr _ _ r a =>
    (format ((o r).fmt == 0 && (e a).fmt == 0) 1).and <|
      shape ((e a).ndim == 2 && decide (1 ≤ (e a).ext 0) && decide ((e a).ext 0 ≤ 32) && (o r).dims == [(e a).ext 0, (e a).ext 0]) 1
  | .lsq _ _ x a b =>
    (format ((o x).fmt == 0 && (e a).fmt == 0) 1).and <| (format ((e b).fmt == 0) 2).and <|
      (shape ((e a).ndim == 2 && decide (1 ≤ (e a).ext 0) && decide ((e a).ext 0 ≤ 31) && (o x).dims == [(e a).ext 0]) 1).and
      (shape ((e b).dims == [1, (e a).ext 1]) 2)
  | .rotl _ _ d x w =>
    (format ((o d).fmt == 0 && (e x).fmt == 0) 1).and <| (format ((e w).fmt == 8) 2).and <|
      (shape ((o d).dims == (e x).dims && decide ((e x).ext 0 ≤ 32) && decide (2 ≤ (e x).ndim) && decide ((e x).ndim ≤ 3)) 1).and
      (shape ((e w).dims == [32] || (e w).dims == [32, (e x).ext 2]) 2)
  | _ => .ok

/-- No operand of an architected compute record lies in the accumulator store (R320). -/
def pinVerdict (i : Instr) (s : State) : List Opd → GVerdict
  | [] => .ok
  | o :: os =>
    (if isCompute i then gneed ((s.gent o.hid).pin != 4) 2 o.word
     else if isUser i && o.level == 4 then gneed ((s.gent o.hid).pin == 4 || (s.gent o.hid).pin == 15) 2 o.word
     else .ok).and (pinVerdict i s os)

/-- Every check of an operator record's values and shapes. -/
def opShapeVerdict (i : Instr) (opds : List Opd) (e o : Nat → HEnt) (n h0 : Nat) (s : State) : GVerdict :=
  (pinVerdict i s opds).and <| (moveVerdict i e o n).and <| (productVerdict i e o).and (computeVerdict i e o n h0)

/-! ### Required and produced attributes (R311, R328) -/

/-- REPL over the same axes. -/
def Attr.rep (a : Attr) : Attr := ⟨0, 0, a.axes⟩
def Attr.isSplit (a : Attr) (d : Nat) : Bool := a.kind == 1 && a.dim == d

/-- What a record asks of its inputs and produces for its outputs; or the word of a combination that traps. -/
structure Needs where
  bad : Option Nat
  ins : List (Nat × Attr)
  outs : List (Nat × Attr)
deriving DecidableEq, Repr

def Needs.none : Needs := ⟨Option.none, [], []⟩

/-- An input's requirement, if there is one. -/
def require (h : Nat) (a : Option Attr) : List (Nat × Attr) :=
  match a with
  | some x => if h = 0 then [] else [(h, x)]
  | Option.none => []

/-- The attribute MATMUL produces for a pair that R328 lists. -/
def mulAttr (a w : Attr) : Option Attr :=
  if a.kind = 0 && w.kind = 0 then some a
  else if a.isSplit 1 && w.kind = 0 then some a
  else if a.kind = 0 && w.isSplit 1 then some ⟨1, 0, w.axes⟩
  else if a.isSplit 0 && w.isSplit 0 && a.axes = w.axes then some ⟨2, 0, a.axes⟩
  else Option.none

/-- The pair after lowering w, and then a, to REPL over a's axes where the pair is not listed. -/
def mulPair (same : Bool) (a w : Attr) : Attr × Attr :=
  if (mulAttr a w).isSome then (a, w)
  else if same then (a.rep, a.rep)
  else
    let w1 := if w.kind = 0 then w else a.rep
    if (mulAttr a w1).isSome then (a, w1) else (a.rep, w1)

/-- REPL for an input, over the axes of a given attribute, or over its own where that is local (R328). -/
def replOf (like own : Option Attr) : Option Attr := (like <|> own).map Attr.rep

def mulNeeds (acc : Bool) (d a w bias : Nat) (more : List Nat) (att : Nat → Option Attr) : Needs :=
  match att a, att w with
  | some x, some y =>
    let p := mulPair (a == w) x y
    let out := (mulAttr p.1 p.2).getD p.1
    let b := if out.isSplit 0 then out else p.1.rep
    ⟨Option.none, require a (some p.1) ++ require w (some p.2) ++ require bias (some b) ++ more.flatMap (fun h => require h (some p.1.rep))
      ++ (if acc then require d (some out) else []), [(d, out)]⟩
  | x, _ => ⟨Option.none, (w :: bias :: more).flatMap fun h => require h (replOf x (att h)), []⟩

/-- Every input takes d's attribute. -/
def likeD (d : Nat) (ins : List Nat) (att : Nat → Option Attr) : Needs := ⟨Option.none, ins.flatMap fun h => require h (att d), []⟩

/-- A record whose rows along an axis must not be split (R328). -/
def rowNeeds (word axis d : Nat) (ins reps : List Nat) (att : Nat → Option Attr) : Needs :=
  { likeD d ins att with
    bad := match att d with
      | some a => if a.isSplit axis then some word else Option.none
      | Option.none => Option.none
    ins := (likeD d ins att).ins ++ reps.flatMap fun h => require h (replOf (att d) (att h)) }

/-- d's attribute with its split dimension replaced. -/
def Attr.mapDim (a : Attr) (f : Nat → Nat) : Attr := if a.kind = 1 then { a with dim := f a.dim } else a

/-- Every part of a whole extent under an attribute is a multiple of Dh (R328 ATTN). -/
def partsFit (g : Gfe) (a : Attr) (ext dh : Nat) : Bool := (upTo (g.parts a.axes)).all fun j => dh != 0 && (blockOf ext (g.parts a.axes) j).2 % dh == 0

/-- What a record requires and produces. `ext` gives whole extents. -/
def needsOf (i : Instr) (g : Gfe) (e : Nat → HEnt) (ext : Nat → List Nat) (att : Nat → Option Attr) : Needs :=
  match i with
  | .tstore _ _ h _ => ⟨Option.none, match att h with
      | some a => if a.kind = 2 then [(h, a.rep)] else []
      | Option.none => [], []⟩
  | .tcopy _ _ d s => likeD d [s] att
  | .tconcat _ axis d a b => { rowNeeds 1 axis d [a, b] [] att with outs := [] }
  | .tappend _ h x => rowNeeds 1 ((e h).ndim - 1) h [x] [] att
  | .tgatherb _ _ d pool tbl _ => rowNeeds 1 1 d [pool] [tbl] att
  | .ttrans _ d s perm => ⟨Option.none, require s ((att d).map fun a => a.mapDim fun k => bitsOf perm (3 * k) 3), []⟩
  | .matmul _ acc d a w b => mulNeeds acc d a w b [] att
  | .matmulcb _ acc d a w t b _ => mulNeeds acc d a w b [t] att
  | .convOp _ d x w b _ _ _ _ _ _ =>
    match att x with
    | some a =>
      let p := if a.kind = 0 || a.isSplit 3 then a else a.rep
      ⟨Option.none, require x (some p) ++ require w (some p.rep) ++ require b (some p.rep), [(d, p)]⟩
    | Option.none => ⟨Option.none, [w, b].flatMap fun h => require h (replOf Option.none (att h)), []⟩
  | .eltw _ d a b c _ _ _ _ _ =>
    ⟨Option.none, [a, b, c].flatMap fun h =>
      match att d with
      | some x => require h (some (if h != 0 && x.kind == 1 && nth 1 (ext h) x.dim == 1 then x.rep else x))
      | Option.none => [], []⟩
  | .reduce _ op d a axis =>
    match att a with
    | some x =>
      if op = 0 && x.isSplit axis then ⟨Option.none, [], [(d, ⟨2, 0, x.axes⟩)]⟩ else rowNeeds 1 axis d [a] [] att
    | Option.none => rowNeeds 1 axis d [a] [] att
  | .softmax _ d a _ => rowNeeds 1 0 d [a] [] att
  | .norm _ _ d a h b _ => rowNeeds 1 0 d [a] [h, b] att
  | .topk _ d a x _ => { rowNeeds 1 0 d [a] [] att with outs := require x (att d) }
  | .argmax _ d a => rowNeeds 1 0 d [a] [] att
  | .attn _ _ d q k v heads _ =>
    match att d with
    | some x =>
      let kv := if x.isSplit 1 then x.rep else x
      ⟨if x.isSplit 0 && !(partsFit g x (nth 0 (ext d) 0) (nth 0 (ext d) 0 / heads)) then some 1 else Option.none,
        require q (some x) ++ require k (some kv) ++ require v (some kv), []⟩
    | Option.none => Needs.none
  | .embed _ d t x =>
    match att d with
    | some a =>
      if a.isSplit 0 then ⟨Option.none, require t (some a.rep) ++ require x (some a.rep), [(d, a.rep)]⟩
      else ⟨Option.none, require t (some a.rep) ++ require x (some (a.mapDim fun k => k - 1)), []⟩
    | Option.none => ⟨Option.none, require t (replOf Option.none (att t)), []⟩
  | .qr _ _ r a => ⟨Option.none, require a (replOf (att r) (att a)), require r ((att r).map Attr.rep)⟩
  | .lsq _ _ x a b => ⟨Option.none, require a (replOf (att x) (att a)) ++ require b (replOf (att x) (att b)), require x ((att x).map Attr.rep)⟩
  | .rotl _ _ d x w => ⟨Option.none, require x (replOf (att d) (att x)) ++ require w (replOf (att d) (att w)), require d ((att d).map Attr.rep)⟩
  | _ => Needs.none

/-! ### Lowering (R310, R312) -/

/-- One instance of a lowering: a collective, or a local movement. -/
inductive LowKind where
  | gather (dim : Nat)
  | allred
  | redscat (dim : Nat)
  | local
deriving DecidableEq, Repr

/-- An instance with the attributes before and after it. -/
structure LowStep where
  kind : LowKind
  held : Attr
  wanted : Attr
deriving DecidableEq, Repr

/-- The table of R310 for equal axes. -/
def lowerSame (h w : Attr) : List LowStep :=
  if h = w then []
  else match h.kind, w.kind with
    | 1, 0 => [⟨.gather h.dim, h, w⟩]
    | 1, 1 => [⟨.gather h.dim, h, h.rep⟩, ⟨.local, h.rep, w⟩]
    | 2, 0 => [⟨.allred, h, w⟩]
    | 2, 1 => [⟨.redscat w.dim, h, w⟩]
    | _, _ => [⟨.local, h, w⟩]

/-- The lowering from a held attribute to a wanted one. -/
def lowerSteps (h w : Attr) : List LowStep :=
  if h.axes = w.axes then lowerSame h w else lowerSame h h.rep ++ lowerSame w.rep w

/-- The lowering of a handle: none where either attribute is local. -/
def lowering (held : Option Attr) (wanted : Option Attr) : List LowStep :=
  match held, wanted with
  | some h, some w => lowerSteps h w
  | _, _ => []

/-- The numbers of a local instance: how, dimension, first index, length (R312). -/
def localVals (g : Gfe) (ext : List Nat) (p : LowStep) : List Nat :=
  let blk := fun (a : Attr) => blockOf (nth 0 ext a.dim) (g.parts a.axes) (g.part a.axes)
  if p.wanted.kind = 1 then [0, p.wanted.dim, (blk p.wanted).1, 0]
  else if p.held.kind = 1 then [2, p.held.dim, (blk p.held).1, (blk p.held).2]
  else [1, 0, if g.part p.wanted.axes = 0 then 1 else 0, 0]

/-- The record of an instance. -/
def LowStep.record (p : LowStep) (d s : Nat) : Instr :=
  let h : Hd := ⟨0, false, 0⟩
  match p.kind with
  | .gather k => .allgather h d s p.held.axes k
  | .allred => .allred h d s p.held.axes 0
  | .redscat k => .redscat h d s p.held.axes k 0
  | .local => .tcopy h 0 d s

/-- A dense entry of given extents and format, unplaced. -/
def HEnt.shaped (h : HEnt) (dims : List Nat) : HEnt :=
  { h with valid := true, pin := 15, version := 0, shard := 0, layout := 0, ndim := dims.length, dim := pad6 dims,
           str := denseStrides dims, cap := capBits 0 0 0x1E h.fmt 15 0 }

end Sys2Proof.Machine
end

