-- ==== Sys2Proof/Machine/OpIssue.lean ====
section
/-! DEFINITION. The issue of operator records: fetch (R277), loop nests (R26, R320, R343), placement (R115, R116), lowering (R312), the
growth of TAPPEND (R306), fuse groups (R32, R33), and the records of movement, compute and user operators. -/

namespace Sys2Proof.Machine

/-! ### Fetch (R277, R283) -/

/-- What fetching a record gives: the record; a trap, with the opcode word 0 names; a fault in translation. -/
inductive Fetched where
  | ok (i : Instr)
  | trap (opcode : Nat) (t : TrapInfo)
  | fault (cause va : Nat)
deriving DecidableEq, Repr

/-- Words of the image from an offset on. -/
def State.codeWords (s : State) (g : Gfe) (off n : Nat) : Except (Nat × Nat) (List Nat) := (upTo n).mapM fun k => s.codeWord g (off + 4 * k)

/-- The record at a graph offset. -/
def State.fetchRecord (s : State) (g : Gfe) (off : Nat) : Fetched :=
  let stop := 32 + 4 * g.codew
  if stop ≤ off then .trap 0 ⟨1, 0, 0, 0⟩
  else match s.codeWord g off with
    | .error f => .fault f.1 f.2
    | .ok w0 =>
      let len := bitsOf w0 16 6
      let have' := (stop - off) / 4
      -- an opcode for which nothing is installed is found before the length (R282, R283)
      if decide (0x200 ≤ bitsOf w0 22 10) && (s.installedAt g.ctxid (bitsOf w0 22 10)).isNone then
        .trap (bitsOf w0 22 10) ⟨1, 0, 0, bitsOf w0 22 10⟩
      else match s.codeWords g (off + 4) (min len have' - 1) with
      | .error f => .fault f.1 f.2
      | .ok ws =>
        match decodeRecord w0 ws with
        | .error e => .trap (bitsOf w0 22 10) ⟨if e.cause = 1 || len ≤ have' then e.cause else 2, 0, 0, if e.cause = 1 || len ≤ have' then e.aux else 0⟩
        | .ok i => if have' < len then .trap (bitsOf w0 22 10) ⟨2, 0, 0, 0⟩ else .ok i

/-! ### A record as its GFE sees it -/

/-- The footprint table of a user operator's record; nothing for the others. -/
def State.footOf (s : State) (g : Gfe) (i : Instr) : List Nat :=
  match i with
  | .userOperator _ _ opc _ => match s.installedAt g.ctxid opc with
    | some m => m.foot
    | none => []
  | _ => []

/-- Operands of a record on the acting GFE. -/
def State.opdsOf (s : State) (i : Instr) : List Opd := namedOpds i (s.footOf s.gfe i)

/-- The attribute a handle holds. -/
def State.attOf (s : State) (hid : Nat) : Option Attr := (s.attrOf s.gfe (s.gent hid).shard).get?

/-- Whole extents of a handle. -/
def State.extOf (s : State) (hid : Nat) : List Nat := s.extentsOf s.gfe.ctxid s.gfe.shard (s.gent hid)

def State.needs (s : State) (i : Instr) : Needs := needsOf i s.gfe s.gent s.extOf s.attOf

/-- What a list of requirements says of a handle. -/
def wantOf (l : List (Nat × Attr)) (hid : Nat) : Option Attr := (l.find? fun p => p.1 == hid).map Prod.snd

/-- The lowering of an input before the record, and of an output after it. -/
def State.lowerIn (s : State) (n : Needs) (hid : Nat) : List LowStep := lowering (s.attOf hid) (wantOf n.ins hid)
def State.lowerOut (s : State) (n : Needs) (hid : Nat) : List LowStep := lowering (wantOf n.outs hid) (s.attOf hid)

/-- An entry as the record sees it: lowered, or its own. -/
def State.seen (s : State) (steps : List LowStep) (a : Option Attr) (hid : Nat) : HEnt :=
  if steps.isEmpty then s.gent hid else (s.gent hid).shaped (localDims s.gfe a (s.extOf hid))
def State.seenIn (s : State) (n : Needs) (hid : Nat) : HEnt := s.seen (s.lowerIn n hid) (wantOf n.ins hid) hid
def State.seenOut (s : State) (n : Needs) (hid : Nat) : HEnt := s.seen (s.lowerOut n hid) (wantOf n.outs hid) hid

/-- What a shard's TLOAD or TSTORE moves (R300): 0 all of it, 1 its block, 2 zeros, 3 nothing; with the split dimension and the block's
first index. A PSUM handle that is stored has been lowered to REPL. -/
def State.moveVals (s : State) (load : Bool) (hid : Nat) : List Nat :=
  let g := s.gfe
  match s.attOf hid with
  | none => [0, 0, 0]
  | some a =>
    if a.kind = 1 then [1, a.dim, (Machine.blockOf (nth 0 (s.extOf hid) a.dim) (g.parts a.axes) (g.part a.axes)).1]
    else if g.part a.axes = 0 || (load && a.kind = 0) then [0, 0, 0]
    else if load then [2, 0, 0] else [3, 0, 0]

/-- Scalar operands of a record as evaluated at issue; Dh of ATTN and where its rows start; what TLOAD and TSTORE move, with the whole
extents. -/
def State.valsOf (s : State) (i : Instr) : List Nat :=
  let g := s.gfe
  match i with
  | .tload _ h a => g.sow a :: s.moveVals true h ++ s.extOf h
  | .tstore _ _ h a => g.sow a :: s.moveVals false h ++ s.extOf h
  | .tgatherb _ _ _ _ _ n => [g.sow n]
  | .topk _ _ _ _ k => [g.sow k]
  | .attn _ _ d _ _ _ heads _ =>
    let at' := match s.attOf d with
      | some a => if a.isSplit 1 then ((Machine.blockOf (nth 1 (s.extOf d) 0) (g.parts a.axes) (g.part a.axes)).1, nth 1 (s.extOf d) 0)
        else (0, (s.gent d).ext 1)
      | none => (0, (s.gent d).ext 1)
    [nth 0 (s.extOf d) 0 / heads, at'.1, at'.2]
  | .bcast _ _ _ _ root => [g.sow root]
  | .send _ _ _ _ peer => [g.sow peer]
  | .recv _ _ _ _ _ peer => [g.sow peer]
  | _ => []

/-! ### Loop nests (R26, R28, R302, R320, R343) -/

/-- Unfolded counts of an installed operator: a count of 0 follows the first handle written. -/
def userCounts (m : Installed) (first : Option HEnt) : List Nat :=
  (upTo (m.til % 8 + 1)).map fun l =>
    if nth 0 m.cnts l != 0 then nth 0 m.cnts l
    else match first with
      | some e => if l < e.ndim then cdiv (e.ext l) 64 else 1
      | none => 1

/-- The first handle a record writes. -/
def firstOut (l : List Opd) : Nat :=
  match l.find? Opd.wr with
  | some o => o.hid
  | none => 0

/-- Unfolded counts and walk order of a record. -/
def State.nestOf (s : State) (i : Instr) (n : Needs) : List Nat × Nat :=
  let opds := s.opdsOf i
  match i with
  | .userOperator _ _ opc _ =>
    match s.installedAt s.gfe.ctxid opc with
    | some m => (userCounts m (if opds.any Opd.wr then some (s.gent (firstOut opds)) else none), bitsOf m.til 4 2)
    | none => ([], 0)
  | _ => (archCounts i (s.seenOut n (firstOut opds)) (s.seenIn n (moveSource i)) (s.valsOf i), recordWalk i)

/-! ### Attributes of the operands -/

/-- A named attribute that the sharding table does not give well. -/
def attrOk (s : State) (o : Opd) : GVerdict :=
  match s.attrOf s.gfe (s.gent o.hid).shard with
  | .bad => .trap ⟨2, 0, 0, o.word⟩
  | .fault c va => .fault c va
  | .attr a => gneed (decide (a.dim < (s.gent o.hid).ndim)) 2 o.word
  | .local => .ok

def attrsVerdict (s : State) : List Opd → GVerdict
  | [] => .ok
  | o :: os => (attrOk s o).and (attrsVerdict s os)

/-! ### Placement at issue (R115, R116) -/

/-- The levels at which an operand is placed when its record issues; none for one that a tile's bind places. -/
def State.placeLevels (s : State) (h : HEnt) (g : Gfe) (tiles : Bool) (level : Nat) : List Nat :=
  if h.pin ≤ 2 then [h.pin]
  else if !tiles then s.issueLevels h g 2
  else if h.pin = 15 && decide (level ≤ 2) then levelsOf 15 level (s.preferred g.ctxid g.shard h.hid)
  else []

/-- The cluster that a record's placed operands confine its tiles to, if any (R115). -/
def State.hint (s : State) (opds : List Opd) : Option Nat := (opds.filterMap fun o => (s.gent o.hid).cluster).head?

/-- Place one handle if the record's issue has to. -/
def State.placeOpd (s : State) (tiles : Bool) (hint : Option Nat) (level hid : Nat) : Except TrapInfo State :=
  let h := s.gent hid
  let l := s.placeLevels h s.gfe tiles level
  if h.placed || l.isEmpty then .ok s
  else match s.placeHandle (issueAsker s.gfe s.act.gfe hint) h l with
    | .ok t => .ok t
    | .error f => .error ⟨0x0A, f, hid, 0⟩

/-- A handle whose last use has been issued is written anew in a region of its own: earlier operators keep the one that is to be released
(R117). -/
def State.afresh (s : State) (hid : Nat) : State :=
  let g := s.gfe
  if s.isGone g.ctxid g.shard hid then
    (s.retire g.ctxid g.shard hid).setEntry g.ctxid g.shard ((s.gent hid).place 0 0 15)
  else s

/-- Every operand in turn; one whose last use has been issued traps when it is read. -/
def State.placeOpds (s : State) (tiles : Bool) (n : Needs) (all : List Opd) : List Opd → Except TrapInfo State
  | [] => .ok s
  | o :: os =>
    if o.rd && s.isGone s.gfe.ctxid s.gfe.shard o.hid then .error ⟨0x0A, 0, o.hid, 0⟩
    else
      let moved := !(s.lowerIn n o.hid).isEmpty || !(s.lowerOut n o.hid).isEmpty
      match (s.afresh o.hid).placeOpd (tiles && !moved) (s.hint all) o.level o.hid with
      | .error t => .error t
      | .ok t => t.placeOpds tiles n all os

/-! ### Operator instances -/

/-- An instance of the acting GFE's stream. -/
def State.newOp (s : State) (i : Instr) (hs : List OpHandle) (vals blocks : List Nat) (order : Nat) : OpInst :=
  let g := s.gfe
  let counts := blocks.map foldCount
  { id := s.nextOp, gfe := s.act.gfe, stream := g.stream, ctxid := g.ctxid, rcb := g.rcb, shard := g.shard, width := g.width,
    chips := g.chips, rank := g.rank, opc := g.pc, fuse := 0, record := i, vals := vals, handles := hs,
    deps := s.depsOf g.ctxid g.shard hs, blocks := blocks, counts := counts, order := order, total := tileCount counts, since := s.clk }

/-- Issue an instance. -/
def State.addOp (s : State) (o : OpInst) : State := { s with ops := s.ops ++ [o], nextOp := s.nextOp + 1 }

/-- A collective takes its number in its stream (R331). -/
def State.numbered (s : State) (o : OpInst) : OpInst × State :=
  if isCollective o.record then ({ o with seq := s.gfe.collSeq, total := 1 }, s.onGfe fun g => { g with collSeq := g.collSeq + 1 })
  else (o, s)

/-- Operators that a GFE's stream has outstanding (R24). -/
def State.outstanding (s : State) (k : Nat) : Nat := (s.ops.filter fun o => o.gfe == k && o.stream == (s.gfeAt k).stream).length

/-! ### Lowered instances (R312) -/

/-- A TLOAD, a collective, a SEND or a RECV stands in the scoreboards as a packet of its own queue, with its operator's operands, for the
commands issued after it (R131, R264, R331). -/
def State.recordMove (s : State) (o : OpInst) : State :=
  let w : Work := { ctxid := o.ctxid, rcb := o.rcb, opcode := recordOpcode o.record, opc := o.opc, gfe := o.gfe, shard := o.shard }
  let p : Packet :=
    { id := s.nextPacket, cq := 10000 + o.id, slot := 0, bytes := List.replicate 64 0, by_ := 0, epc := 0,
      work := w, started := true, done := 0, status := 0, finished := false, moved := 0, fault := none }
  { s with packets := s.packets ++ [p], nextPacket := s.nextPacket + 1 }

/-- The operator that a record has just issued. -/
def State.justIssued (s : State) : Option OpInst := s.ops.find? fun o => o.id + 1 == s.nextOp

/-- Issue the instances of a lowering from a source: the last one's destination, the temporaries taken, the state. `h` is the operand;
its format shapes every temporary. -/
def State.lowerChain (s : State) (a : Asker) (opcode h : Nat) (ext : List Nat) (final : Option Nat) :
    List LowStep → Nat → Except TrapInfo (Nat × List Nat × State)
  | [], src => .ok (src, [], s)
  | p :: ps, src =>
    let e := (s.gent h).shaped (localDims s.gfe (some p.wanted) ext)
    let dest : Except TrapInfo (Nat × List Nat × State) := match final, ps with
      | some d, [] => .ok (d, [], s)
      | _, _ => match s.grantTemp a e e.size 2 with
        | .ok (t, u) => .ok (t, [t], u)
        | .error f => .error ⟨0x0A, f, h, recordOpcode (p.record 0 0)⟩
    match dest with
    | .error t => .error t
    | .ok (d, ts, u) =>
      let i := p.record d src
      let vals := localVals s.gfe ext p
      let blocks := if p.kind = .local then archCounts i e e [] else []
      let o := u.newOp i [⟨d, false, true, 2⟩, ⟨src, true, false, 2⟩] vals blocks 0
      let r := u.numbered { o with low := some (h, opcode) }
      let sp := r.2.enterSpec a r.1
      let w := sp.2.addOp sp.1
      match (if isCollective i then w.recordMove r.1 else w).lowerChain a opcode h ext final ps d with
      | .error t => .error t
      | .ok (x, more, w) => .ok (x, ts ++ more, w)

/-- Lower the inputs in operand order: what stands for each, the temporaries, the state. -/
def State.lowerInputs (s : State) (a : Asker) (opcode : Nat) (n : Needs) : List Nat → Except TrapInfo (List (Nat × Nat × Bool) × List Nat × State)
  | [] => .ok ([], [], s)
  | h :: hs =>
    match s.lowerChain a opcode h (s.extOf h) none (s.lowerIn n h) h with
    | .error t => .error t
    | .ok (x, ts, u) =>
      match u.lowerInputs a opcode n hs with
      | .error t => .error t
      | .ok (l, more, w) => .ok (if x = h then l else (h, x, false) :: l, ts ++ more, w)

/-- Temporaries for the outputs that are lowered after the record; an output that the record also reads keeps its input's. -/
def State.outTemps (s : State) (a : Asker) (n : Needs) (subs : List (Nat × Nat × Bool)) : List Nat → Except TrapInfo (List (Nat × Nat × Bool) × State)
  | [] => .ok ([], s)
  | h :: hs =>
    match s.lowerOut n h with
    | [] => s.outTemps a n subs hs
    | p :: _ =>
      let own : Except TrapInfo (Nat × State) := match subs.find? fun q => q.1 == h with
        | some q => .ok (q.2.1, s)
        | none => match s.grantTemp a (s.seenOut n h) (s.seenOut n h).size 2 with
          | .ok r => .ok r
          | .error f => .error ⟨0x0A, f, h, recordOpcode (p.record 0 0)⟩
      match own with
      | .error t => .error t
      | .ok (x, u) =>
        match u.outTemps a n subs hs with
        | .error t => .error t
        | .ok (l, w) => .ok ((h, x, true) :: l, w)

/-- The instances after the record; each temporary goes with the last instance that reads it. -/
def State.lowerOutputs (s : State) (a : Asker) (opcode : Nat) (n : Needs) : List (Nat × Nat × Bool) → Except TrapInfo State
  | [] => .ok s
  | (h, x, _) :: r =>
    match s.lowerChain a opcode h (s.extOf h) (some h) (s.lowerOut n h) x with
    | .error t => .error t
    | .ok (_, ts, u) =>
      ({ u with ops := u.ops.map fun (o : OpInst) => if o.id + 1 = u.nextOp then { o with temps := x :: ts } else o }).lowerOutputs a opcode n r

/-! ### TAPPEND's growth (R306) -/

/-- The region of a handle goes to a temporary, whose operators keep it. -/
def State.moveRegion (s : State) (g : Gfe) (hid n : Nat) : State :=
  match s.blockOf g.ctxid g.shard hid with
  | some b => { s with blocks := s.blocks.map fun (c : Block) => if c.id = b.id then { c with hid := n } else c }
  | none => s.noteView g.ctxid g.shard hid n

/-- h with its outermost dimension longer by n. -/
def HEnt.grown (h : HEnt) (n : Nat) : HEnt :=
  let dims := setNth (h.ext (h.ndim - 1) + n) h.dims (h.ndim - 1)
  let st := if h.layout = 1 then tiledStrides dims else denseStrides dims
  { h with dim := pad6 dims, str := if h.layout = 2 then setNth (nth 0 h.str 4) st 4 else st }

/-- The buddy region in which a handle lies holds it grown. -/
def State.growsInPlace (s : State) (g : Gfe) (h e : HEnt) : Bool :=
  match s.blockWith g.ctxid g.shard h.hid with
  | some b => decide (h.base - s.blockVa b + e.size ≤ b.size)
  | none => false

/-- Grow h: in place where its buddy region holds it, else in a new region, which takes its contents before the first tile. Operators issued
earlier keep the handle as it was (R317); the temporary that keeps the old region is the one given. -/
def State.growHandle (s : State) (h x : HEnt) : Except TrapInfo (Option Nat × State) :=
  let g := s.gfe
  let e := h.grown (x.ext (x.ndim - 1))
  let levels := if h.pin = 15 then s.issueLevels h g 2 else [h.pin]
  let note := fun (t : State) => { t with
    extents := AMap.ins (hkey g.ctxid g.shard h.hid) (setNth (e.ext (e.ndim - 1)) (s.extOf h.hid) (e.ndim - 1)) t.extents }
  if !h.placed then
    match s.placeHandle (issueAsker g s.act.gfe) e levels with
    | .error f => .error ⟨0x0A, f, h.hid, 0⟩
    | .ok t =>
      let n := t.newTemp (h.place (t.gent h.hid).base h.size (t.gent h.hid).res)
      .ok (none, note (if s.ops.any fun o => o.namesNow g.ctxid g.shard h.hid then n.2.keepAs g.ctxid g.shard h.hid n.1 else t))
  else if s.growsInPlace g h e then .ok (none, note ((s.retire g.ctxid g.shard h.hid).setEntry g.ctxid g.shard (e.place h.base e.size h.res)))
  else
    let n := s.newTemp h
    let s1 := (n.2.keepAs g.ctxid g.shard h.hid n.1).moveRegion g h.hid n.1
    match s1.placeHandle (issueAsker g s.act.gfe) (e.place 0 0 15) levels with
    | .error f => .error ⟨0x0A, f, h.hid, 0⟩
    | .ok t => .ok (some n.1, note t)

/-- The growth that a record makes at issue. -/
def State.growFor (s : State) (i : Instr) (n : Needs) : Except TrapInfo (Option Nat × State) :=
  match i with
  | .tappend _ h x => s.growHandle (s.gent h) (s.seenIn n x)
  | _ => .ok (none, s)

/-! ### Issue -/

/-- An operand as the instance names it. -/
def Opd.handle (o : Opd) : OpHandle := ⟨o.hid, o.rd, o.wr, o.level⟩

/-- The notes that issue leaves: written handles have a use again, the inputs of a last use, which the record does not also write, have
none (R117, R278). -/
def State.noteUses (s : State) (i : Instr) (opds : List Opd) : State :=
  let key := fun (o : Opd) => hkey s.gfe.ctxid s.gfe.shard o.hid
  let ws := (opds.filter Opd.wr).map key
  let ls := if recordLast i then ((opds.filter Opd.rd).map key).filter fun k => !(ws.contains k) else []
  { s with gone := s.gone.filter (fun k => !(ws.contains k)) ++ ls }

/-- The member of its run that a fused record follows (R32). -/
def State.prevMember (s : State) (i : Instr) : Option Nat :=
  let g := s.gfe
  if g.fused && g.fuse == recordFuse i then g.fuseLast else none

/-- The first member of the run that a member belongs to; 0 for none. -/
def State.leadOf (s : State) (prev : Option Nat) : Nat :=
  match prev.bind s.op? with
  | some p => p.group
  | none => 0

/-- Operators of the run that a member joins. -/
def State.members (s : State) : Nat → Nat → List Nat
  | 0, _ => []
  | n + 1, id =>
    match s.op? id with
    | some o => id :: (match o.follows with
      | some p => s.members n p
      | none => [])
    | none => []

/-- Issue an operator with its lowered instances, or the trap of a region that cannot be had; `low` marks a lowered instance's trap. -/
def State.issueOp (s : State) (i : Instr) : Except (Bool × TrapInfo) State :=
  let n := s.needs i
  let opds := s.opdsOf i
  let opcode := recordOpcode i
  match (s.placeOpds (hasTiles i) n opds opds).bind fun t => t.growFor i n with
  | .error t => .error (false, t)
  | .ok (grow, s1) =>
    let a := issueAsker s.gfe s.act.gfe (some ((s1.hint opds).getD 0))
    let ins := (opds.filter fun o => o.rd && !(s1.lowerIn n o.hid).isEmpty).map Opd.hid
    match s1.lowerInputs a opcode n (dedup ins) with
    | .error t => .error (true, t)
    | .ok (subs, temps, s2) =>
      match s2.outTemps a n subs (dedup ((opds.filter Opd.wr).map Opd.hid)) with
      | .error t => .error (true, t)
      | .ok (outs, s3) =>
        let nest := s3.nestOf i n
        let hs := opds.map Opd.handle ++ (subs ++ outs).map fun q => ⟨q.2.1, !q.2.2, q.2.2, 2⟩
        let o0 := s3.newOp i hs (s.valsOf i) nest.1 nest.2
        let prev := s.prevMember i
        let mine := match prev with
          | some p => s.members 64 p
          | none => []
        let o1 : OpInst := { o0 with
          fuse := recordFuse i
          image := (match i with
            | .userOperator _ _ opc _ => (s.installedAt s.gfe.ctxid opc).map Installed.first
            | _ => none)
          grow := grow, olds := grow.toList.map fun n => (n, n)
          subs := subs ++ outs, temps := temps.filter (fun t => !(outs.any fun q => q.2.1 == t)), last := recordLast i, follows := prev, lead := s.leadOf prev
          deps := (dedup (o0.deps ++ s.depsOf s.gfe.ctxid s.gfe.shard (opds.map Opd.handle))).filter fun d => !(mine.contains d) }
        let r := s3.numbered (if hasTiles i then o1 else { o1 with total := 1 })
        let sp := if s.gfe.fused then (r.1, r.2.onGfe fun g => { g with fuseLast := some r.1.id }) else r.2.enterSpec a r.1
        match ((sp.2.addOp sp.1).noteUses i opds).lowerOutputs a opcode n outs with
        | .error t => .error (true, t)
        | .ok w => .ok w

/-! ### Fuse groups (R32, R33) -/

/-- An operand of a record is lowered before it, or after it, which ends a run (R313). -/
def State.lowersIn (s : State) (i : Instr) : Bool := (s.opdsOf i).any fun o => o.rd && !(s.lowerIn (s.needs i) o.hid).isEmpty
def State.lowersOut (s : State) (i : Instr) : Bool := (s.opdsOf i).any fun o => o.wr && !(s.lowerOut (s.needs i) o.hid).isEmpty

/-- The members of a run from an offset on, `first` where the first of them stands there; none where a record cannot be read. Fuel bounds
them. -/
def State.runAhead (s : State) (g : Gfe) (fuse : Nat) (first : Bool) : Nat → Nat → Option (List Instr)
  | 0, _ => some []
  | n + 1, off =>
    if 32 + 4 * g.codew ≤ off then some []
    else match s.fetchRecord g off with
    | .ok i =>
      if recordFuse i != fuse || decide (recordOpcode i < 0x20) || (!first && s.lowersIn i) then some []
      else if s.lowersOut i then some [i]
      else (s.runAhead g fuse false n (off + recordBytes i)).map fun l => i :: l
    | _ => none

/-- The elements of a dimension that a tile touches, by its index at a level of so many indexes: those of a block of so many positions o, each
standing for `more` + 1 elements from mul × o - off on. -/
structure Span where
  level : Nat
  count : Nat
  size : Nat
  mul : Nat := 1
  off : Nat := 0
  more : Nat := 0
deriving DecidableEq, Repr

/-- How the tiles of a nest touch a handle: a stretch of so many elements in dense order; by dimension, none for a whole one; the tile that
touches an element, by its dense number; any other way. -/
inductive Touch where
  | stretch (n : Nat)
  | box (l : List (Option Span))
  | map (f : Nat → Nat)
  | other

/-- No index of a level reads what another index of it writes, within so many elements. -/
def Span.apart (r w : Span) (ext : Nat) : Bool :=
  r.level == w.level && (r == w || (upTo r.count).all fun i =>
    let lo := r.mul * (i * r.size) - r.off
    let hi := min (ext - 1) (r.mul * ((i + 1) * r.size - 1) + r.more - r.off)
    r.mul * ((i + 1) * r.size - 1) + r.more < r.off || ext ≤ lo || (decide (i * w.size ≤ lo) && decide (hi < (i + 1) * w.size)))

/-- The tile that touches an element in a nest of one level, where one alone does. -/
def Touch.tileOf (t : Touch) (dims : List Nat) (k : Nat) : Option Nat :=
  match t with
  | .stretch n => some (k / n)
  | .box l => (List.zip l (coords dims k)).findSome? fun p => p.1.map fun w => p.2 / w.size
  | .map f => some (f k)
  | .other => none

/-- What a tile reads lies in what the same tile writes, whichever tile it is, or in what none does. -/
def Touch.within (dims : List Nat) (r w : Touch) : Bool :=
  match r, w with
  | _, .other => false
  | .stretch a, .stretch b => a == b
  | .box a, .box b => a.length == b.length && (List.zip dims (List.zip a b)).all fun p => match p.2.1, p.2.2 with
    | _, none => true
    | some x, some y => x.apart y p.1
    | none, some _ => false
  | .map f, w => (upTo (dims.foldl (· * ·) 1)).all fun k => w.tileOf dims k == some (f k)
  | _, .box b => b.all Option.isNone
  | _, _ => false

/-- The dimension of a touch. -/
def Touch.at (t : Touch) (k : Nat) : Option Span :=
  match t with
  | .box l => nth none l k
  | _ => none

/-- Every dimension whole. -/
def Touch.whole (e : HEnt) : Touch := .box (List.replicate e.ndim none)

/-- A nest's level as a record's tiles see it: unfolded and folded counts. -/
structure Nest where
  blocks : List Nat
  counts : List Nat

/-- Positions that one index of a level stands for, in blocks of so many (R28). -/
def Nest.stretch (n : Nest) (l b : Nat) : Nat := (foldSpan (nth 1 n.blocks l) (nth 1 n.counts l) 0 b (2 ^ 64)).2

/-- A level of one index leaves its dimension whole. -/
def Nest.span (n : Nest) (l b : Nat) : Option Span :=
  if nth 1 n.counts l ≤ 1 then none else some { level := l, count := nth 1 n.counts l, size := n.stretch l b }

/-- How an installed operator's tiles touch a handle: by the boxes of their capabilities (R31). -/
def userTouch (n : Nest) (e : HEnt) : Touch :=
  .box ((upTo e.ndim).map fun k =>
    if k < n.counts.length && decide (1 < nth 1 n.counts k) then
      some { level := k, count := nth 1 n.counts k, size := cdiv (e.ext k) (nth 1 n.counts k) }
    else none)

/-- Elements of a movement's stretch. -/
def Nest.moved (n : Nest) (i : Instr) (e : HEnt) : Nat := n.stretch 0 (moveElems (e.asMoved i))

/-- How tiles touch what they write (R302, R320, R343). What TAPPEND writes lies past what its handle held. -/
def outTouch (i : Instr) (n : Nest) (vals : List Nat) (e : HEnt) : Touch :=
  if recordOpcode i = 0x23 then .other
  else if isMovement i then .stretch (n.moved i e)
  else if isUser i then userTouch n e
  else
    let ld := levelDims i e vals
    .box ((upTo e.ndim).map fun k => match (List.zip (upTo ld.length) ld).find? fun p => p.2.1 == k with
      | some (l, _, b) => n.span l b
      | none => none)

/-- A convolution's window in one dimension: stride, padding, dilation, taps. -/
def Span.window (p : Span) (stride pad dil taps : Nat) : Span :=
  { p with mul := stride, off := pad, more := (taps - 1) * dil }

/-- How tiles touch what they read, `w` being how they touch the first output `d`, and `f` CONV's or TCONCAT's second operand or first (R302 to R307, R322 to R327). -/
def inTouch (i : Instr) (n : Nest) (hid : Nat) (e d f : HEnt) (w : Touch) : Touch :=
  let like := fun (f : Nat → Option Span) => Touch.box ((upTo e.ndim).map f)
  match i with
  | .tcopy _ _ _ _ => w
  | .tappend _ _ x => if hid = x then .stretch (n.moved i d) else Touch.whole e
  | .ttrans _ _ _ perm =>
    .map fun k => denseIndex (d.asMoved i).dims ((upTo e.ndim).map fun j => nth 0 (coords (e.asMoved i).dims k) (bitsOf perm (3 * j) 3)) / n.moved i d
  | .tconcat _ axis _ a _ =>
    let at0 := if hid = a then 0 else (f.asMoved i).ext ((d.asMoved i).cellDim axis)
    .map fun k =>
      let c := coords (e.asMoved i).dims k
      let l := (d.asMoved i).cellDim axis
      denseIndex (d.asMoved i).dims (at' c l (nth 0 c l + at0)) / n.moved i d
  | .eltw _ _ _ _ _ _ _ _ _ _ => like fun k => if e.ext k = 1 then none else w.at k
  | .matmul _ _ d a x b =>
    if hid = a then like fun k => if k = 0 then none else w.at k
    else if hid = x then like fun k => if k = 1 then w.at 0 else none
    else if hid = b || hid = d then like w.at else Touch.whole e
  | .matmulcb _ _ d a x _ b _ =>
    if hid = a then like fun k => if k = 0 then none else w.at k
    else if hid = x then like fun k => if k = 1 then w.at 0 else none
    else if hid = b || hid = d then like w.at else Touch.whole e
  | .convOp _ _ x fl b sx sy px py dx dy =>
    if hid = x then like fun k =>
      if k = 3 then w.at 3
      else if k = 1 then (w.at 1).map fun p => p.window (sx + 1) px (dx + 1) (f.ext 1)
      else if k = 2 then (w.at 2).map fun p => p.window (sy + 1) py (dy + 1) (f.ext 2)
      else none
    else if hid = fl then like fun k => if k = 3 then w.at 0 else none
    else if hid = b then like w.at else Touch.whole e
  | .reduce _ _ _ _ _ => like w.at
  | .softmax _ _ _ _ => like w.at
  | .norm _ _ _ a _ _ _ => if hid = a then like w.at else Touch.whole e
  | .topk _ _ _ _ _ => like w.at
  | .argmax _ _ _ => like w.at
  | .attn _ _ _ q _ _ _ _ => like fun k => if hid = q || k = 0 then w.at k else none
  | .embed _ _ t _ => like fun k => if hid = t then (if k = 0 then w.at 0 else none) else w.at (k + 1)
  | .rotl _ _ _ x _ => if hid = x then like w.at else Touch.whole e
  | .userOperator _ _ _ _ => userTouch n e
  | _ => Touch.whole e

/-- The nest of a record. -/
def State.nest (s : State) (i : Instr) : Nest :=
  let b := (s.nestOf i (s.needs i)).1
  ⟨b, b.map foldCount⟩

/-- The operand of CONV or TCONCAT whose extents place the others'. -/
def placing (i : Instr) : Nat :=
  match i with
  | .convOp _ _ _ w _ _ _ _ _ _ _ => w
  | .tconcat _ _ _ a _ => a
  | _ => 0

/-- How one member's tiles write a handle, and read one. -/
def State.writeTouch (s : State) (i : Instr) (hid : Nat) : Touch := outTouch i (s.nest i) (s.valsOf i) (s.seenOut (s.needs i) hid)
def State.readTouch (s : State) (i : Instr) (hid : Nat) : Touch :=
  let n := s.needs i
  let d := firstOut (s.opdsOf i)
  let twice := decide (1 < ((s.opdsOf i).filter fun o => o.hid == hid && o.rd).length) && (match i with
    | .eltw _ _ _ _ _ _ _ _ _ _ => false
    | .userOperator _ _ _ _ => false
    | _ => true)
  if twice then Touch.whole (s.seenIn n hid)
  else inTouch i (s.nest i) hid (s.seenIn n hid) (s.seenOut n d) (s.seenIn n (placing i)) (s.writeTouch i d)

/-- Two handles share no element: their placements lie apart. -/
def State.apart (s : State) (x y : Nat) : Bool :=
  let a := s.gent x
  let b := s.gent y
  a.placed && b.placed && !(a.range.meets b.range)

/-- No member's tile reads an element that another member writes in a different tile. Of two names of one region it is enough that they may
share an element. -/
def State.noCross (s : State) (l : List Instr) : Bool :=
  let g := s.gfe
  let ms := List.zip (upTo l.length) l
  ms.all fun a => ms.all fun b => a.1 == b.1 ||
    (s.opdsOf a.2).all fun x => !x.rd || (s.opdsOf b.2).all fun y => !y.wr || !(s.related g.ctxid g.shard x.hid y.hid)
      || (if x.hid = y.hid then (s.readTouch a.2 x.hid).within ((s.gent x.hid).asMoved a.2).dims (s.writeTouch b.2 y.hid) else s.apart x.hid y.hid)

/-- No member reads what an operator outside the group still writes. -/
def State.noOutside (s : State) (l : List Instr) : Bool :=
  l.all fun i => (s.opdsOf i).all fun x => !x.rd || !(s.writerOf s.gfe.ctxid s.gfe.shard x.hid)

/-- A member that may run fused: it has tiles and its operands pass their checks. Where an input is lowered the instances write what it reads, and
have not completed. -/
def State.mayFuse (s : State) (i : Instr) : Bool :=
  hasTiles i && handlesVerdict (s.opdsOf i) s == .ok && (s.needs i).bad == none && !(s.lowersIn i)

/-- The handle that TAPPEND grows is named by no other member, whose nest would not be its own once the handle has grown. -/
def State.growsAlone (s : State) (l : List Instr) : Bool :=
  let g := s.gfe
  let ms := List.zip (upTo l.length) l
  ms.all fun a => match a.2 with
    | .tappend _ h _ => ms.all fun b => a.1 == b.1 || (s.opdsOf b.2).all fun o => !(s.related g.ctxid g.shard h o.hid)
    | _ => true

/-- The combined footprint of a group: what its handles' shards would take in unit scratch, each as a region (log 59). -/
def State.footprint (s : State) (l : List Instr) : Nat :=
  ((dedup (l.flatMap fun j => (s.opdsOf j).map Opd.hid)).map fun h => regionSize 3 (s.gent h).size).foldl (· + ·) 0

/-- Whether a group runs fused, decided as its first member issues (R33). A group of more than 64 could never be issued whole (R24, log 59). -/
def State.fuseGroup (s : State) (l : List Instr) : Bool :=
  match l with
  | [] => false
  | i :: r =>
    let nest := s.nestOf i (s.needs i)
    !r.isEmpty && decide (l.length ≤ 64) && l.all s.mayFuse && r.all (fun j => s.nestOf j (s.needs j) == nest)
      && decide (s.footprint l ≤ 2 ^ 21) && s.noOutside l && s.growsAlone l && (decide (tileCount nest.1 = 1) || s.noCross l)

/-- The run of a record that begins one: its group, and whether it runs fused. TLOAD and TSTORE, and instances that a record's inputs are
lowered by, end the run before (R293, R313). -/
def State.beginRun (s : State) (i : Instr) : State :=
  let g := s.gfe
  if recordFuse i = 0 || decide (recordOpcode i < 0x20) then endRun s
  else if g.fuse = recordFuse i && !(s.lowersIn i) then s
  else s.onGfe fun x => { x with
    fuse := recordFuse i, fuseLast := none
    fused := (s.runAhead g (recordFuse i) true g.codew g.pc).elim false s.fuseGroup }

/-- A run is over once the record that comes next is no member. -/
def State.closeRun (s : State) : State :=
  let g := s.gfe
  if g.fused && ((s.runAhead g g.fuse false 1 g.pc).getD []).isEmpty then endRun s else s

/-! ### The meaning of an operator record -/

/-- Lowered instances a record brings. -/
def State.lowCount (s : State) (i : Instr) : Nat :=
  ((s.opdsOf i).map fun o => (s.lowerIn (s.needs i) o.hid).length + (s.lowerOut (s.needs i) o.hid).length).foldl (· + ·) 0

/-- A record issues with its lowered instances once they keep within 64 operators outstanding (R24). -/
def roomToIssue (i : Instr) (s : State) : GVerdict := gwait (decide (64 < s.outstanding s.act.gfe + s.lowCount i + 1))

/-- The allocation of R283's last check; a translation fault of TAPPEND's copy waits for its resolution (R103). -/
def allocVerdict (i : Instr) (s : State) : GVerdict :=
  match (s.beginRun i).issueOp i with
  | .ok _ => .ok
  | .error (true, t) => .low t
  | .error (false, t) => if t.cause = 0 || t.cause = 6 || t.cause = 7 || t.cause = 8 then .fault t.cause t.faddr else .trap t

/-- The checks of an operator record, in the order of R283. -/
def operatorCheck (i : Instr) (pre post : GVerdict) (s : State) : GVerdict :=
  let n := s.needs i
  let opds := s.opdsOf i
  (roomToIssue i s).and <| pre.and <| (handlesVerdict opds s).and <| (attrsVerdict s opds).and <|
    (gword n.bad 2 0).and <|
    (opShapeVerdict i opds (s.seenIn n) (s.seenOut n) (nth 0 (s.valsOf i) 0)
      (match i with
        | .attn _ _ d _ _ _ _ _ => nth 0 (s.extOf d) 0
        | _ => 0) s).and <| post.and (allocVerdict i s)

/-- The state after an operator record has issued. -/
def issueRecord (i : Instr) (s : State) : State :=
  match (s.beginRun i).issueOp i with
  | .ok t => if s.lowersOut i then gfeNext i (endRun t) else (gfeNext i t).closeRun
  | .error _ => s

/-- The shape of an operator record's meaning. -/
def operatorRec (i : Instr) (s : State) : Host.Outcome State Fault Refusal := recOp i (operatorCheck i .ok .ok s) s (issueRecord i)

/-! ### Movement records (R301 to R307) -/

def execTcopy (h : Hd) (rnd d s : Nat) (st : State) : Host.Outcome State Fault Refusal := operatorRec (.tcopy h rnd d s) st

def execTgatherb (h : Hd) (rlog d pool tbl : Nat) (n : Sow) (s : State) : Host.Outcome State Fault Refusal :=
  operatorRec (.tgatherb h rlog d pool tbl n) s

def execTconcat (h : Hd) (axis d a b : Nat) (s : State) : Host.Outcome State Fault Refusal := operatorRec (.tconcat h axis d a b) s

def execTappend (h : Hd) (hid x : Nat) (s : State) : Host.Outcome State Fault Refusal := operatorRec (.tappend h hid x) s

def execTtrans (h : Hd) (d s perm : Nat) (st : State) : Host.Outcome State Fault Refusal :=
  recOp (.ttrans h d s perm)
    (operatorCheck (.ttrans h d s perm) (gneed (decide (perm < 8 ^ st.ndimOf s)) 2 2) .ok st) st
    (issueRecord (.ttrans h d s perm))

/-! ### Compute records (R318 to R327) -/

def execMatmul (h : Hd) (acc : Bool) (d a w bias : Nat) (s : State) : Host.Outcome State Fault Refusal :=
  operatorRec (.matmul h acc d a w bias) s

def execMatmulcb (h : Hd) (acc : Bool) (d a w cbt bias scale : Nat) (s : State) : Host.Outcome State Fault Refusal :=
  operatorRec (.matmulcb h acc d a w cbt bias scale) s

def execConvOp (h : Hd) (d x w bias sx sy px py dx dy : Nat) (s : State) : Host.Outcome State Fault Refusal :=
  operatorRec (.convOp h d x w bias sx sy px py dx dy) s

def execEltw (h : Hd) (d a b c st0 st1 st2 st3 k : Nat) (s : State) : Host.Outcome State Fault Refusal :=
  operatorRec (.eltw h d a b c st0 st1 st2 st3 k) s

def execReduce (h : Hd) (op d a axis : Nat) (s : State) : Host.Outcome State Fault Refusal := operatorRec (.reduce h op d a axis) s

def execSoftmax (h : Hd) (d a scale : Nat) (s : State) : Host.Outcome State Fault Refusal := operatorRec (.softmax h d a scale) s

def execNorm (h : Hd) (layer : Bool) (d a g b eps : Nat) (s : State) : Host.Outcome State Fault Refusal :=
  operatorRec (.norm h layer d a g b eps) s

def execAttn (h : Hd) (causal : Bool) (d q k v heads scale : Nat) (s : State) : Host.Outcome State Fault Refusal :=
  operatorRec (.attn h causal d q k v heads scale) s

def execEmbed (h : Hd) (d t i : Nat) (s : State) : Host.Outcome State Fault Refusal := operatorRec (.embed h d t i) s

def execTopk (h : Hd) (d a x : Nat) (k : Sow) (s : State) : Host.Outcome State Fault Refusal := operatorRec (.topk h d a x k) s

def execArgmax (h : Hd) (d a : Nat) (s : State) : Host.Outcome State Fault Refusal := operatorRec (.argmax h d a) s

def execQr (h : Hd) (gm : Bool) (r a : Nat) (s : State) : Host.Outcome State Fault Refusal := operatorRec (.qr h gm r a) s

def execLsq (h : Hd) (gm : Bool) (x a b : Nat) (s : State) : Host.Outcome State Fault Refusal := operatorRec (.lsq h gm x a b) s

def execRotl (h : Hd) (gm : Bool) (d x w : Nat) (s : State) : Host.Outcome State Fault Refusal := operatorRec (.rotl h gm d x w) s

/-! ### Records of installed operators (R282, R343) -/

/-- Cause 0x01 where nothing is installed; the words must name the footprint's handles and no more. -/
def userVerdict (opc : Nat) (hs : List (Nat × Nat)) (s : State) : GVerdict :=
  match s.installedAt s.gfe.ctxid opc with
  | none => .trap ⟨1, 0, 0, opc⟩
  | some m =>
    (gneed (hs.length == cdiv m.foot.length 2) 2 0).and <|
      gneed (m.foot.length % 2 == 0 || (nth (0, 0) hs (m.foot.length / 2)).2 == 0) 2 (cdiv m.foot.length 2)

def execUserOperator (fuse flags opc : Nat) (hs : List (Nat × Nat)) (s : State) : Host.Outcome State Fault Refusal :=
  recOp (.userOperator fuse flags opc hs) (operatorCheck (.userOperator fuse flags opc hs) (userVerdict opc hs s) .ok s) s
    (issueRecord (.userOperator fuse flags opc hs))

/-- BYTECODE_ILLEGAL_OPCODE: an opcode the map does not assign traps with cause 0x01 and AUX the opcode (R281). -/
def execBytecodeIllegalOpcode (opc : Nat) (s : State) : Host.Outcome State Fault Refusal :=
  always s fun s => gfeTrapAt s.act.gfe opc ⟨1, 0, 0, opc⟩ s

end Sys2Proof.Machine
end

