-- ==== Sys2Proof/Machine/Copy.lean ====
section
/-! DEFINITION. Copy queues and packets (R250 to R254), reducing copies (R255, R256), subscriptions (R257), rings as the device acts on
them (R258, R259, R451). A packet's bytes move in one step up to a fault (log 12). -/

namespace Sys2Proof.Machine

/-! ### Rings (R258, R259) -/

/-- The key of a ring header at a virtual address: none where it does not lie in memory. A device-side step orders like a release or an
acquire at die scope, and acts at the ring's home (R259; log 20). -/
def State.headerKey (s : State) (e : TEnv) (va : Nat) : Except (Nat × Nat) (Option Nat) :=
  match s.xlatAccess e .atomic va 64 with
  | .fault c a => .error (c, a)
  | .ok [⟨.mem k, _, _, _⟩] _ _ => if s.acquirable e.die (homeDie k) then .ok (some k) else .error (0, va)
  | .ok _ _ _ => .ok none

/-- The MSI of a ring whose interrupt is set (R426, R435). -/
def State.ringMsi (s : State) (ctxid va : Nat) : State :=
  match AMap.find? (s.dev ctxid).ringMsis va with
  | some m => s.say (.msi m.addr m.data)
  | none => s

/-- What a device-side fill of a slot comes to. -/
inductive Filled where
  | ok (s : State)
  | full
  | bad
  | fault (cause va : Nat)
deriving DecidableEq, Repr

/-- Fill the next slot of a ring with bytes, leaving the slot's other bytes as they are (R259); `extra` refuses the header for the
caller's own reasons. -/
def State.fillRing (s : State) (e : TEnv) (die va : Nat) (bs : List Byte) (extra : Ring → Bool) : Filled :=
  match s.headerKey e va with
  | .error f => if f.1 = 0 then .full else .fault f.1 f.2
  | .ok none => .bad
  | .ok (some k) =>
    let r := s.mem.ring k
    if r.bad || extra r then .bad
    else if !(r.canPut 0) then .full
    else match s.unitStore e die 1000000 0 false (va + r.offset (r.putSlot 0)) bs with
      | .ok _ t => .ok ({ t with mem := t.mem.putRing k r.filled }.ringMsi e.ctxid va)
      | .fault c a => .fault c a
      | .wait => .full

/-! ### Packets (R252, R253) -/

/-- The queue with an identifier. -/
def State.queueOf (s : State) (cq : Nat) : Option CopyQueue := s.copyQueues.find? fun q => q.id == cq

/-- A packet's 64 bytes as a number. -/
def Packet.num (p : Packet) : Nat := leNat p.bytes

/-- Field of n bytes at byte k. -/
def pkField (v k n : Nat) : Nat := bitsOf v (8 * k) (8 * n)

def pkKind (v : Nat) : Nat := bitsOf v 24 4
def pkRop (v : Nat) : Nat := bitsOf v 22 2
def pkFmt (v : Nat) : Nat := bitsOf v 18 4
def pkNd (v : Nat) : Nat := bitsOf v 16 2 + 1
def pkBt (v : Nat) : Bool := bitOf v 15
def pkBts (v : Nat) : Bool := bitOf v 14
def pkOrd (v : Nat) : Bool := bitOf v 30
def pkSrc (v : Nat) : Nat := pkField v 0x04 2
def pkDst (v : Nat) : Nat := pkField v 0x06 2
def pkExt (v k : Nat) : Nat := pkField v (0x12 + 2 * k) 2
def pkBth (v : Nat) : Nat := pkField v 0x32 2
def pkBlog (v : Nat) : Nat := bitsOf (pkField v 0x34 1) 0 5
def pkRing (v : Nat) : Nat := pkField v 0x35 2
def pkRlog (v : Nat) : Nat := bitsOf (pkField v 0x37 1) 0 4
def pkGrav (v : Nat) : Nat := pkField v 0x38 5
def pkTag (v : Nat) : Nat := pkField v 0x3D 3

/-- Stride k of a side: source or destination. -/
def pkStride (v : Nat) (dst : Bool) (k : Nat) : Int :=
  if k = 0 then 1 else sext (pkField v ((if dst then 0x26 else 0x1A) + 4 * (k - 1)) 4) 32

/-- Byte offset of a side. -/
def pkOff (v : Nat) (dst : Bool) : Nat := pkField v (if dst then 0x0D else 0x08) 5

/-- Extents below ND. -/
def pkExts (v : Nat) : List Nat := (upTo (pkNd v)).map (pkExt v)

/-- A side that goes through the block table. -/
def pkBlocked (v : Nat) (dst : Bool) : Bool := pkBt v && pkBts v == dst

/-- A handle of a packet in its queue's plane. -/
def State.pkEnt (s : State) (q : CopyQueue) (hid : Nat) : Option HEnt :=
  match s.entry q.ctxid q.plane hid with
  | some h => if h.placed then some h else none
  | none => none

/-- Lowest and one past the highest byte offset of a side. -/
def pkSpan (v : Nat) (dst : Bool) : Int × Int :=
  (upTo (pkNd v)).foldl (fun p k =>
    let d := pkStride v dst k * ((pkExt v k : Int) - 1)
    (p.1 + min 0 d, p.2 + max 0 d)) ((pkOff v dst : Int), (pkOff v dst : Int) + 1)

/-- CTL, extents and reserved bits that are refused with cause 0x02 whatever the handles say. -/
def pkFormOk (v : Nat) : Bool :=
  bitsOf v 28 2 == 0 && bitsOf v 0 14 == 0 && decide (pkKind v ≤ 3) && pkRop v != 3 && decide (pkFmt v ≤ 8)
    && ((upTo 4).all fun k => if k < pkNd v then pkExt v k != 0 else pkExt v k == 0) && !(pkBt v && pkNd v == 1)
    && (!(pkBt v) || (decide (6 ≤ pkBlog v) && decide (pkBlog v ≤ 30) && bitsOf (pkField v 0x34 1) 5 3 == 0
      && bitsOf (pkField v 0x37 1) 4 4 == 0))
    && (pkKind v != 2 || (pkOff v true == 0 && (upTo 3).all fun k => pkStride v true (k + 1) == 0))
    && (pkKind v != 3 || (pkOff v false == 0 && (upTo 3).all fun k => pkStride v false (k + 1) == 0))

/-- Bytes of a tile of a subscription: everything below the outermost index (R257). -/
def pkTile (v : Nat) : Nat := ((pkExts v).take (pkNd v - 1)).foldl (· * ·) 1

/-- The ring at a handle, if its header is well formed. -/
def State.pkRingAt (s : State) (q : CopyQueue) (h : HEnt) : Option Ring :=
  match s.headerKey (s.unitEnv q.ctxid) h.base with
  | .ok (some k) => if (s.mem.ring k).bad then none else some (s.mem.ring k)
  | _ => none

/-- A ring that a packet names, of the direction it needs and with slots that hold its tiles. -/
def State.pkRingOk (s : State) (q : CopyQueue) (hid : Nat) (dir : Bool) (bytes : Nat) : Bool :=
  match s.pkEnt q hid with
  | none => true
  | some h => match s.pkRingAt q h with
    | some r => r.dir == dir && decide (bytes ≤ 64 * r.slotsz)
    | none => false

/-- Whether a header can be reached; a fault is the packet's translation fault. -/
def State.pkHeader (s : State) (q : CopyQueue) (hid : Nat) : Option (Nat × Nat) :=
  match s.pkEnt q hid with
  | none => none
  | some h => match s.headerKey (s.unitEnv q.ctxid) h.base with
    | .error f => some f
    | .ok _ => none

/-- How many 4 KiB blocks the stride span of a reducing copy's destination takes. -/
def State.redSpan (s : State) (q : CopyQueue) (v : Nat) : Nat :=
  match s.pkEnt q (pkDst v) with
  | none => 0
  | some h =>
    let sp := pkSpan v true
    ((h.base : Int) + sp.2 - 1).toNat / 4096 + 1 - ((h.base : Int) + sp.1).toNat / 4096

/-- The handles a packet names, with whether it reads and writes each: the source, the destination, the block table, the ring. -/
def pkHandles (v : Nat) : List (Nat × Bool × Bool) :=
  [(pkSrc v, true, false), (pkDst v, false, true)] ++ (if pkBt v then [(pkBth v, true, false)] else [])
    ++ (if pkRing v = 0 then [] else [(pkRing v, false, true)])

/-- Staging address and commit-record address of a slot. -/
def State.queueWord (s : State) (q : CopyQueue) (off : Nat) : Nat :=
  match s.unitRead (s.unitEnv q.ctxid) (q.hdr + off) 8 with
  | .ok l => leNat l
  | .error _ => 0

/-- Alignment of a reducing copy's elements (R255): every element address is a multiple of the element's size. Under the block table the
outermost stride counts within a block, whose size is a multiple of 64. -/
def pkAligned (v base : Nat) (dst : Bool) : Bool :=
  let z := fmtWidth (pkFmt v) / 8
  decide (((base : Int) + pkOff v dst) % z = 0) && (upTo (pkNd v - 1)).all fun k =>
    pkExt v (k + 1) == 1 || (pkBlocked v dst && k + 2 == pkNd v && pkRlog v == 0) || decide (pkStride v dst (k + 1) % z = 0)

/-- A fault of reading what a packet's checks need: its queue's header, or the entry of a handle it names (R104). -/
def State.pkUnreadable (s : State) (q : CopyQueue) (v : Nat) : Option (Nat × Nat) :=
  let bad := fun (e : TEnv) (va n : Nat) => match s.unitRead e va n with
    | .ok _ => none
    | .error f => some f
  let hids := ((pkHandles v).map Prod.fst).filter fun h => h != 0 && decide (h < (s.dev q.ctxid).htcount)
  (bad (s.unitEnv q.ctxid) q.hdr 64).or (hids.findSome? fun h => bad (s.ownEnv q.ctxid) (s.entryVa q.ctxid q.plane h) 64)

/-- The refusal of a packet (R254, R377): cause, handle and address. -/
def State.pkRefuse (s : State) (q : CopyQueue) (v : Nat) (chip : Bool) : Option (Nat × Nat × Nat) :=
  let k := pkKind v
  let ringsOk := (pkRing v = 0 || (match s.pkEnt q (pkRing v) with
      | some h => (s.pkRingAt q h).isSome
      | none => true))
    && (k != 2 || s.pkRingOk q (pkDst v) false (pkTile v)) && (k != 3 || s.pkRingOk q (pkSrc v) true (pkTile v))
  let side := fun (hid : Nat) (dst : Bool) => match s.pkEnt q hid with
    | none => true
    | some h =>
      let sp := pkSpan v dst
      pkBlocked v dst || (decide (0 ≤ sp.1) && decide (sp.2 ≤ h.len))
  let out := fun (hid : Nat) (dst : Bool) =>
    let sp := pkSpan v dst
    (4, hid, trunc 56 ((s.pkEnt q hid).elim 0 (fun h => (h.base : Int)) + if sp.1 < 0 then sp.1 else sp.2 - 1))
  let base := fun (hid : Nat) => match s.pkEnt q hid with
    | some h => h.base
    | none => 0
  let res0 := fun (hid : Nat) => match s.pkEnt q hid with
    | some h => h.res == 0
    | none => true
  if !(pkFormOk v) || !ringsOk || (k == 2 && !(res0 (pkSrc v))) || (k == 3 && !(res0 (pkDst v)))
      || (k == 1 && !(pkBlocked v true) && decide (512 < s.redSpan q v)) then some (2, 0, 0)
  else if (k == 1 && s.queueWord q 0x20 == 0) || (chip && pkGrav v != 0) then some (0x0E, 0, 0)
  else match (pkHandles v).find? fun p => (s.pkEnt q p.1).isNone with
    | some p => some (3, p.1, 0)
    | none =>
      match (pkHandles v).find? fun p => match s.pkEnt q p.1 with
          | some h => (p.2.1 && !h.canRead) || (p.2.2 && !h.canWrite)
          | none => false with
      | some p => some (5, p.1, 0)
      | none =>
        if k != 3 && !(side (pkSrc v) false) then some (out (pkSrc v) false)
        else if k != 2 && !(side (pkDst v) true) then some (out (pkDst v) true)
        else if k == 1 && (pkExt v 0 % (fmtWidth (pkFmt v) / 8) != 0 || !(pkAligned v (base (pkSrc v)) false)) then some (4, pkSrc v, base (pkSrc v) + pkOff v false)
        else if k == 1 && !(pkAligned v (base (pkDst v)) true) then some (4, pkDst v, base (pkDst v) + pkOff v true)
        else none

/-! ### Records and producers -/

/-- Who published a packet: the first CPYPUT recorded on a core for its slot that is not another packet's, with its context (R131, R254). -/
def findProducer (ctxid hdr slotVa : Nat) (taken : List Packet) : AMap Core → Option (Nat × EngCmd)
  | [] => none
  | (n, c) :: r =>
    match c.cmds.find? fun e => e.q == 6 && e.ctxid == ctxid && e.argAt 0 == hdr && e.argAt 1 == slotVa
        && !(taken.any fun p => p.by_ != 0 && (p.by_ - 1) / 4 == n && p.seq == e.seq) with
    | some e => some (n, e)
    | none => findProducer ctxid hdr slotVa taken r

/-- The trap record of a packet. -/
def State.pkRec (s : State) (q : CopyQueue) (p : Packet) (t : TrapInfo) (res : Bool) : TrapRec :=
  let known := p.by_ != 0
  let w : TrapWho := { ctxid := q.ctxid, rcb := q.rcb, opcode := if known then p.work.opcode else 0, opc := if known then p.work.opc else 0,
                       shard := q.plane, epc := if known then p.epc else 0, wher := if known then whereOf (p.by_ - 1) else 0, tix := [],
                       tv := false, bv := known, low := false, spec := false }
  { bytes := trapBytes (s.fdom q.ctxid q.rcb) s.time w t, ctxid := q.ctxid, rcb := q.rcb, ck := 0, gk := 0, op := 0, cause := t.cause,
    res := res, held := false, spec := false, unit := .packet p.id }

def State.onPacket (s : State) (id : Nat) (f : Packet → Packet) : State :=
  { s with packets := s.packets.map fun p => if p.id = id then f p else p }

/-- A packet ends with a cause: its record, and STATUS. -/
def State.endPacket (s : State) (q : CopyQueue) (p : Packet) (cause hid faddr : Nat) : State :=
  { s with traps := s.traps ++ [s.pkRec q p ⟨cause, faddr, hid, 0⟩ false] }.onPacket p.id fun r => { r with status := cause, finished := true }

/-- A packet stops at a translation fault, met through a handle, until FRES (R104); a heap fault ends it. -/
def State.stopPacket (s : State) (q : CopyQueue) (p : Packet) (f : Nat × Nat) (hid : Nat) : State :=
  if f.1 = 9 then s.endPacket q p 9 hid f.2
  else { s with traps := s.traps ++ [s.pkRec q p ⟨f.1, f.2, hid, 0⟩ true] }.onPacket p.id fun r => { r with fault := some (f.2, f.1) }

/-! ### Taking a packet (R250, R254) -/

/-- A queue whose header or slot cannot be reached: one record, and it waits for FRES. -/
def State.stallQueue (s : State) (q : CopyQueue) (f : Nat × Nat) : State :=
  let p : Packet :=
    { id := 0, cq := q.id, slot := 0, bytes := [], by_ := 0, epc := 0, work := {}, started := false, done := 0, status := 0, finished := false,
      moved := 0, fault := none }
  { s with
    traps := s.traps ++ [{ s.pkRec q p ⟨f.1, f.2, 0, 0⟩ true with unit := .copyQueue q.id }]
    copyQueues := s.copyQueues.map fun r => if r.id = q.id then { r with stall := some f.2 } else r }

/-- The handles of a packet that name rings. -/
def pkRings (v : Nat) : List Nat :=
  [pkRing v] ++ (if pkKind v = 2 then [pkDst v] else []) ++ (if pkKind v = 3 then [pkSrc v] else [])

/-- The checks of a packet that has been taken, once its handles' entries and its ring headers can be read; one taken afresh clears its commit
record (R254, R256). -/
def State.checkPacket (s : State) (q : CopyQueue) (p : Packet) : State :=
  let v := p.num
  match (s.pkUnreadable q v).map (·, 0) |>.or ((pkRings v).findSome? fun h => (s.pkHeader q h).map (·, h)) with
  | some f => s.stopPacket q p f.1 f.2
  | none =>
    match s.pkRefuse q v p.chip with
    | some r => s.endPacket q p r.1 r.2.1 r.2.2
    | none =>
      let ok := fun (t : State) => t.onPacket p.id fun r => { r with checked := true }
      if pkKind v = 1 then
        match s.unitWrite (s.unitEnv q.ctxid) (s.queueWord q 0x28 + 128 * p.slot) (List.replicate 128 0) with
        | .ok t => ok t
        | .error f => s.stopPacket q p f 0
      else ok s

/-- The copy unit takes the packet at RIDX, by an acquire at package scope, when its V is 1 and its kind is the one asked for; a kind above 3
counts as a copy. -/
def takePacket (kind cq : Nat) (s0 : State) : State :=
  match s0.queueOf cq with
  | none => s0
  | some q =>
    let s := s0.onDie (q.cluster / 16)
    let e := s.unitEnv q.ctxid
    if q.stall.isSome then s
    else match s.unitRead e q.hdr 64 with
      | .error f => s.stallQueue q f
      | .ok h =>
        let at' := fun i n => leNat ((h.drop i).take n)
        let ridx := at' 8 8
        let slot := ridx % 2 ^ (at' 0x18 1 % 16)
        let va := at' 0x10 8 + 64 * slot
        match s.unitAcquire e va 64 with
        | .error f => s.stallQueue q f
        | .ok bs =>
          let v := leNat bs
          if !(bitOf v 31) || (if pkKind v ≤ 3 then pkKind v else 0) != kind then s
          else match s.unitWrite e va (leBytes (v - 2 ^ 31) 4) with
            | .error f => s.stallQueue q f
            | .ok s1 => match s1.unitWrite e (q.hdr + 8) (leBytes ((ridx + 1) % 2 ^ 64) 8) with
              | .error f => s.stallQueue q f
              | .ok s2 =>
                let by' := findProducer q.ctxid q.hdr va s2.packets s2.cores
                let line := ((s.xlatAccess e .read va 64).pieces.head?.bind Piece.key?).map (· / 64)
                let p : Packet :=
                  { id := s2.nextPacket, cq := cq, slot := slot, bytes := bs
                    by_ := match by' with
                      | some b => 4 * b.1 + b.2.x + 1
                      | none => 0
                    epc := match by' with
                      | some b => b.2.epc
                      | none => 0
                    work := match by' with
                      | some b => b.2.work
                      | none => {}
                    started := true, done := 0, status := 0, finished := false, moved := 0, fault := none
                    seq := by'.elim 0 fun b => b.2.seq
                    chip := by'.isNone && line.any s.chipLines.contains }
                ({ s2 with
                  packets := s2.packets ++ [p]
                  nextPacket := s2.nextPacket + 1
                  chipLines := s2.chipLines.filter fun l => line != some l }.readBy q.ctxid va 64).checkPacket q p

/-- COPY. -/
def execCopy (cq : Nat) (s : State) : Host.Outcome State Fault Refusal := always s (takePacket 0 cq)
/-- REDUCING_COPY. -/
def execReducingCopy (cq : Nat) (s : State) : Host.Outcome State Fault Refusal := always s (takePacket 1 cq)
/-- SUBSCRIBE. -/
def execSubscribe (cq : Nat) (s : State) : Host.Outcome State Fault Refusal := always s (takePacket 2 cq)
/-- DRAIN. -/
def execDrain (cq : Nat) (s : State) : Host.Outcome State Fault Refusal := always s (takePacket 3 cq)

/-! ### Moving bytes (R253, R255 to R257) -/

/-- What a beat or an element comes to: the state and the bytes written; a fault through a handle; a trap with a handle; waiting for a route. -/
inductive Moved where
  | ok (s : State) (bytes : Nat)
  | fault (f : Nat × Nat) (hid : Nat)
  | trap (cause hid faddr : Nat)
  | wait
deriving DecidableEq, Repr

/-- Steps from where a packet stopped, each counted in it, until one does not go through (R104); whether all did. -/
def State.pkSteps (q : CopyQueue) (id last : Nat) (f : Nat → State → Moved) : Nat → State → Bool × State
  | 0, s => (true, s)
  | n + 1, s =>
    match s.packets.find? fun p => p.id == id with
    | none => (false, s)
    | some p =>
      if last ≤ p.sub then (true, s)
      else match f p.sub s with
        | .ok t k => State.pkSteps q id last f n (t.onPacket id fun r => { r with sub := r.sub + 1, done := r.done + k })
        | .fault e w => (false, s.stopPacket q p e w)
        | .trap c h a => (false, s.endPacket q p c h a)
        | .wait => (false, s)

/-- The address of the byte with i0 = 0 at outer coordinates (R253), or the fault of reading its block number, or the address at which a side
leaves its capability. -/
def State.pkRow (s : State) (q : CopyQueue) (v : Nat) (dst : Bool) (h : HEnt) (ix : List Nat) : Except (Sum (Nat × Nat) Nat) Nat :=
  let a : Int := (h.base : Int) + pkOff v dst + (upTo ix.length).foldl (fun z k => z + (nth 0 ix k : Int) * pkStride v dst (k + 1)) 0
  if pkBlocked v dst then
    let o := ix.length
    let io := nth 0 ix (o - 1)
    let st := pkStride v dst o
    match s.pkEnt q (pkBth v) with
    | none => .error (.inr 0)
    | some t =>
      let w := t.base + 4 * (io / 2 ^ pkRlog v)
      if t.len < 4 * (io / 2 ^ pkRlog v) + 4 then .error (.inr w)
      else match s.unitRead (s.unitEnv q.ctxid) w 4 with
        | .error f => .error (.inl f)
        | .ok l =>
          let b : Int := a - io * st + (leNat l * 2 ^ pkBlog v : Nat) + (io % 2 ^ pkRlog v : Nat) * st
          if b < h.base || decide ((h.base + h.len : Int) < b + pkExt v 0) then .error (.inr (trunc 56 b)) else .ok b.toNat
  else .ok a.toNat

/-- Outer coordinates of row r. -/
def pkCoords (v r : Nat) : List Nat := coords ((pkExts v).drop 1) r
def pkRows (v : Nat) : Nat := ((pkExts v).drop 1).foldl (· * ·) 1

/-- The pseudo-context to which a packet's stores to the outside count. -/
def pkKey (id : Nat) : Nat := 1000000 + id

/-- A packet in progress. -/
def State.packet? (s : State) (id : Nat) : Option Packet := s.packets.find? fun p => p.id == id

/-- Copy n bytes between two addresses, of two handles, for a packet. -/
def State.moveBytes (s : State) (q : CopyQueue) (die id src dst a b n : Nat) : Moved :=
  let e := s.unitEnv q.ctxid
  match s.unitLoad e die false (fun _ => none) a n with
  | .fault c va => .fault (c, va) src
  | .wait => .wait
  | .ok bs t => match t.unitStore e die (pkKey id) 0 false b bs with
    | .fault c va => .fault (c, va) dst
    | .wait => .wait
    | .ok _ u => .ok u n

/-- Beats of 64 bytes that n bytes take, and the bytes of one of them. -/
def beats (n : Nat) : Nat := cdiv n 64
def beatLen (n k : Nat) : Nat := min 64 (n - 64 * k)

/-- Copy one beat of a row; beats are counted from the row's first byte (log 60). -/
def State.copyBeat (s : State) (q : CopyQueue) (p : Packet) (r k : Nat) : Moved :=
  let v := p.num
  match s.pkEnt q (pkSrc v), s.pkEnt q (pkDst v) with
  | some hs, some hd =>
    match s.pkRow q v false hs (pkCoords v r), s.pkRow q v true hd (pkCoords v r) with
    | .error (.inl f), _ => .fault f (pkBth v)
    | .error (.inr a), _ => .trap 4 (pkSrc v) a
    | _, .error (.inl f) => .fault f (pkBth v)
    | _, .error (.inr a) => .trap 4 (pkDst v) a
    | .ok a, .ok b => s.moveBytes q (q.cluster / 16) p.id (pkSrc v) (pkDst v) (a + 64 * k) (b + 64 * k) (beatLen (pkExt v 0) k)
  | _, _ => .trap 3 0 0

/-- The row, block or tile in progress is finished; with the last one the packet is. -/
def State.pkNext (s : State) (id last : Nat) : State :=
  s.onPacket id fun r => { r with moved := r.moved + 1, sub := 0, finished := decide (last ≤ r.moved + 1) }

/-- Rows from where the packet stopped. -/
def copyRows : Nat → CopyQueue → Nat → State → State
  | 0, _, _, s => s
  | n + 1, q, id, s =>
    match s.packet? id with
    | none => s
    | some p =>
      if pkRows p.num ≤ p.moved then s.onPacket id fun r => { r with finished := true }
      else match State.pkSteps q id (beats (pkExt p.num 0)) (fun k t => t.copyBeat q p p.moved k) (beats (pkExt p.num 0) + 1) s with
        | (true, t) => copyRows n q id (t.pkNext id (pkRows p.num))
        | (false, t) => t

/-- op(x, y) of a reducing copy (R255). -/
def redOp (rop fmt x y : Nat) : Nat :=
  if isFloat fmt then
    (match rop with
     | 0 => roundTo fmt RNE (Ex.add (real fmt x) (real fmt y))
     | 1 => patMin fmt x y
     | _ => patMax fmt x y)
  else
    let a := (real fmt x).int
    let b := (real fmt y).int
    let r := match rop with
      | 0 => sat (a + b) (intRange fmt).1 (intRange fmt).2
      | 1 => min a b
      | _ => max a b
    trunc (fmtWidth fmt) r

/-- The destination address of every element of a reducing copy, with its row and its place there, in order. -/
def State.redElems (s : State) (q : CopyQueue) (v : Nat) (hd : HEnt) : Except (Sum (Nat × Nat) Nat) (List (Nat × Nat × Nat)) := do
  let z := fmtWidth (pkFmt v) / 8
  let rows ← (upTo (pkRows v)).mapM fun r => do
    let b ← s.pkRow q v true hd (pkCoords v r)
    pure ((upTo (pkExt v 0 / z)).map fun k => (b + z * k, r, z * k))
  pure rows.flatten

/-- State of a block in the commit record, and the record with it changed. -/
def blockState (rec b : Nat) : Nat := bitsOf rec (2 * b) 2

/-- Insert a number into an ascending list without repeats. -/
def insAsc (n : Nat) : List Nat → List Nat
  | [] => [n]
  | x :: xs => if n < x then n :: x :: xs else if n = x then x :: xs else x :: insAsc n xs

/-- The 4 KiB blocks of a reducing copy's destination, numbered upward: those of the stride span, or under the block table those that hold
elements (R256, log 61). -/
def State.redBlocks (s : State) (q : CopyQueue) (v : Nat) (hd : HEnt) (all : List (Nat × Nat × Nat)) : List Nat :=
  if pkBlocked v true then (all.map fun x => x.1 / 4096).foldl (fun l b => insAsc b l) []
  else
    let lo := ((hd.base : Int) + (pkSpan v true).1).toNat / 4096
    (upTo (s.redSpan q v)).map fun b => lo + b

/-- One step of a block that is NONE: a destination element goes to the staging block, or a source element is combined there. -/
def State.stageStep (s : State) (q : CopyQueue) (v : Nat) (hs : HEnt) (lo stage : Nat) (ds : List Nat) (mine : List (Nat × Nat × Nat)) (k : Nat) :
    Moved :=
  let e := s.unitEnv q.ctxid
  let z := fmtWidth (pkFmt v) / 8
  let put := fun (b : Nat) (l : List Byte) => match s.unitWrite e (stage + (b - lo)) l with
    | .ok t => Moved.ok t 0
    | .error f => .fault f 0
  if k < ds.length then
    let b := nth 0 ds k
    match s.unitRead e b z with
    | .error f => .fault f (pkDst v)
    | .ok l => put b l
  else
    let x := nth (0, 0, 0) mine (k - ds.length)
    match s.pkRow q v false hs (pkCoords v x.2.1) with
    | .error (.inl f) => .fault f (pkBth v)
    | .error (.inr a) => .trap 4 (pkSrc v) a
    | .ok a =>
      match s.unitRead e (a + x.2.2) z, s.unitRead e (stage + (x.1 - lo)) z with
      | .error f, _ => .fault f (pkSrc v)
      | _, .error f => .fault f 0
      | .ok y, .ok w => put x.1 (leBytes (redOp (pkRop v) (pkFmt v) (leNat w) (leNat y)) z)

/-- One step of a block that is STAGED: an element goes from the staging block to the destination. -/
def State.commitStep (s : State) (e : TEnv) (v lo stage : Nat) (ds : List Nat) (k : Nat) : Moved :=
  let z := fmtWidth (pkFmt v) / 8
  let b := nth 0 ds k
  match s.unitRead e (stage + (b - lo)) z with
  | .error f => .fault f 0
  | .ok l => match s.unitWrite e b l with
    | .ok t => .ok t z
    | .error f => .fault f (pkDst v)

/-- Set a block's state in the commit record. -/
def State.setBlock (s : State) (q : CopyQueue) (p : Packet) (crec b st : Nat) : Bool × State :=
  let e := s.unitEnv q.ctxid
  match s.unitRead e crec 128 with
  | .error f => (false, s.stopPacket q p f 0)
  | .ok l => match s.unitWrite e crec (leBytes (putBits (leNat l) (2 * b) 2 st) 128) with
    | .error f => (false, s.stopPacket q p f 0)
    | .ok t => (true, t.onPacket p.id fun r => { r with sub := 0 })

/-- One block of a reducing copy: NONE is computed, STAGED is written again, COMMITTED is skipped (R256). -/
def State.redBlock (s : State) (q : CopyQueue) (p : Packet) (hs : HEnt) (b lo : Nat) (all : List (Nat × Nat × Nat)) : Bool × State :=
  let v := p.num
  let e := s.unitEnv q.ctxid
  let stage := s.queueWord q 0x20 + 4096 * p.slot
  let crec := s.queueWord q 0x28 + 128 * p.slot
  let mine := all.filter fun x => decide (lo ≤ x.1) && decide (x.1 < lo + 4096)
  let ds := dedup (mine.map Prod.fst)
  match s.unitRead e crec 128 with
  | .error f => (false, s.stopPacket q p f 0)
  | .ok l =>
    let st := blockState (leNat l) b
    if st = 2 then (true, s)
    else
      let staged := if st = 1 then (true, s)
        else match State.pkSteps q p.id (ds.length + mine.length) (fun k t => t.stageStep q v hs lo stage ds mine k)
            (ds.length + mine.length + 1) s with
          | (true, t) => t.setBlock q p crec b 1
          | r => r
      match staged with
      | (false, t) => (false, t)
      | (true, t) => match State.pkSteps q p.id ds.length (fun k u => u.commitStep e v lo stage ds k) (ds.length + 1) t with
        | (true, u) => u.setBlock q p crec b 2
        | r => r

/-- Another packet of the device context is at work on a block: packets that commit to it are serialised (R256). -/
def State.blockTaken (s : State) (q : CopyQueue) (id lo : Nat) : Bool :=
  s.packets.any fun r => r.id != id && !r.finished && r.block == some lo && (s.queueOf r.cq).any fun u => u.ctxid == q.ctxid

/-- Blocks from where the packet stopped. -/
def redBlocksFrom : Nat → CopyQueue → Nat → State → State
  | 0, _, _, s => s
  | n + 1, q, id, s =>
    match s.packet? id with
    | none => s
    | some p =>
      match s.pkEnt q (pkSrc p.num), s.pkEnt q (pkDst p.num) with
      | some hs, some hd =>
        (match s.redElems q p.num hd with
         | .error (.inl f) => s.stopPacket q p f (pkBth p.num)
         | .error (.inr a) => s.endPacket q p 4 (pkDst p.num) a
         | .ok all =>
           let bs := s.redBlocks q p.num hd all
           if 512 < bs.length then s.endPacket q p 2 0 0
           else if bs.length ≤ p.moved then s.onPacket id fun r => { r with finished := true }
           else if s.blockTaken q id (4096 * nth 0 bs p.moved) then s
           else match (s.onPacket id fun r => { r with block := some (4096 * nth 0 bs p.moved) }).redBlock q p hs p.moved (4096 * nth 0 bs p.moved) all with
             | (true, t) => redBlocksFrom n q id ((t.onPacket id fun r => { r with block := none }).pkNext id bs.length)
             | (false, t) => t)
      | _, _ => s.endPacket q p 3 0 0

/-- Tiles of a subscription or drain. -/
def pkTiles (v : Nat) : Nat := pkExt v (pkNd v - 1)

/-- A tile of a subscription or drain as rows: their count, and the bytes of each; with ND = 1 a tile is one byte. -/
def tileRows (v : Nat) : Nat × Nat := if pkNd v = 1 then (1, 1) else ((((pkExts v).drop 1).dropLast).foldl (· * ·) 1, pkExt v 0)

/-- Beats of a tile, and where beat k lies in it: its offset from the tile's first byte, its row, its offset there, its bytes. -/
def tileBeats (v : Nat) : Nat := (tileRows v).1 * beats (tileRows v).2
def tileBeat (v k : Nat) : Nat × Nat × Nat × Nat :=
  let n := (tileRows v).2
  let r := k / beats n
  let o := 64 * (k % beats n)
  (r * n + o, r, o, beatLen n (k % beats n))

/-- The address of a row of tile j on a side. -/
def State.tileRow (s : State) (q : CopyQueue) (v : Nat) (dst : Bool) (h : HEnt) (j r : Nat) : Except (Sum (Nat × Nat) Nat) Nat :=
  if pkNd v = 1 then .ok (h.base + pkOff v dst + j)
  else s.pkRow q v dst h (coords (((pkExts v).drop 1).dropLast) r ++ [j])

/-- The core commands and recorded moves issued before a packet's CPYPUT that it waits for (R131). -/
def State.pkHeld (s : State) (p : Packet) : Bool :=
  p.by_ != 0 &&
    (let k := s.coreAt ((p.by_ - 1) / 4)
     k.cmds.any fun e => e.seq == p.seq && e.q == 6 && ((k.before e.seq).any (fun f => conflicts f e) || s.moveHolds e))

/-- A packet that may move: it has passed its checks, packets of the same queue taken before one with ORD = 1 are complete (R252), and no
earlier command of its producer's core overlaps it (R131). -/
def State.mayMove (s : State) (p : Packet) : Bool :=
  p.checked && p.fault.isNone && !p.finished && (!(pkOrd p.num) || !(s.packets.any fun r => r.cq == p.cq && decide (r.id < p.id)))
    && !(s.pkHeld p)

/-- The checks of a packet that a fault kept from them. -/
def State.recheck (s : State) (q : CopyQueue) (p : Packet) : State :=
  if p.checked || p.finished || p.fault.isSome then s else s.checkPacket q p

/-- Act on a packet in progress, as its queue's copy unit; `side` is the handle whose memory's stack does the work, where a loader or a storer
does (R257). -/
def withPacket (pk : Nat) (side : Packet → Option Nat) (f : CopyQueue → Packet → State → State) (s0 : State) : State :=
  match s0.packet? pk with
  | none => s0
  | some p0 =>
    match s0.queueOf p0.cq with
    | none => s0
    | some q =>
      let s := (s0.onDie (q.cluster / 16)).recheck q p0
      match s.packet? pk with
      | none => s
      | some p => match (if p.fault.isSome then none else s.pkUnreadable q p.num) with
        | some x => s.stopPacket q p x 0
        | none =>
        let die := match (side p).bind (s.pkEnt q) with
          | some h => (match (s.xlatAccess (s.unitEnv q.ctxid) .read h.base 1).pieces with
            | x :: _ => (x.key?.map homeDie).getD (q.cluster / 16)
            | [] => q.cluster / 16)
          | none => q.cluster / 16
        f q p (s.onDie die)

/-- Move beat k of a packet's next tile between its row in the tensor and a ring's slot at an address, from the slot or to it. -/
def State.tileBeatMove (s : State) (q : CopyQueue) (p : Packet) (h : HEnt) (drains : Bool) (slot k : Nat) : Moved :=
  let v := p.num
  let b := tileBeat v k
  match s.tileRow q v drains h p.moved b.2.1 with
  | .error (.inl f) => .fault f (pkBth v)
  | .error (.inr a) => .trap 4 (if drains then pkDst v else pkSrc v) a
  | .ok a =>
    if drains then s.moveBytes q s.act.die p.id (pkSrc v) (pkDst v) (slot + b.1) (a + b.2.2.1) b.2.2.2
    else s.moveBytes q s.act.die p.id (pkSrc v) (pkDst v) (a + b.2.2.1) (slot + b.1) b.2.2.2

/-- All that is left of a packet's next tile. -/
def State.moveTile (s : State) (q : CopyQueue) (p : Packet) (h : HEnt) (drains : Bool) (slot : Nat) : Bool × State :=
  State.pkSteps q p.id (tileBeats p.num) (fun k t => t.tileBeatMove q p h drains slot k) (tileBeats p.num + 1) s

/-- SUBSCRIBE_TILE_FILL: the next tile goes into a free slot, which is then filled (R257, R259). -/
def fillTile (q : CopyQueue) (p : Packet) (s : State) : State :=
  let v := p.num
  let e := s.unitEnv q.ctxid
  match s.pkEnt q (pkSrc v), s.pkEnt q (pkDst v) with
  | some hs, some hd =>
    if pkKind v != 2 || !(s.mayMove p) || decide (pkTiles v ≤ p.moved) then s
    else match s.headerKey e hd.base with
      | .error f => s.stopPacket q p f (pkDst v)
      | .ok none => s.endPacket q p 2 (pkDst v) 0
      | .ok (some k) =>
        let r := s.mem.ring k
        if r.bad then s.endPacket q p 2 (pkDst v) 0
        else if !(r.canPut 0) then s
        else
          (match s.moveTile q p hs false (hd.base + r.offset (r.putSlot 0)) with
           | (true, t) => ({ t with mem := t.mem.putRing k r.filled }.ringMsi e.ctxid hd.base).pkNext p.id (pkTiles v)
           | (false, t) => t)
  | _, _ => s

def subscribeFill (pk : Nat) (s : State) : State := withPacket pk (fun p => some (pkSrc p.num)) fillTile s

def execSubscribeTileFill (pk : Nat) (s : State) : Host.Outcome State Fault Refusal := always s (subscribeFill pk)

/-- DRAIN_SLOT_WRITE: the next filled slot goes to the destination and is freed (R257, R259). -/
def drainTile (q : CopyQueue) (p : Packet) (s : State) : State :=
  let v := p.num
  let e := s.unitEnv q.ctxid
  match s.pkEnt q (pkSrc v), s.pkEnt q (pkDst v) with
  | some hs, some hd =>
    if pkKind v != 3 || !(s.mayMove p) || decide (pkTiles v ≤ p.moved) then s
    else match s.headerKey e hs.base with
      | .error f => s.stopPacket q p f (pkSrc v)
      | .ok none => s.endPacket q p 2 (pkSrc v) 0
      | .ok (some k) =>
        let r := s.mem.ring k
        if r.bad then s.endPacket q p 2 (pkSrc v) 0
        else if !(r.canTake 0) then s
        else
          (match s.moveTile q p hd true (hs.base + r.offset (r.takeSlot 0)) with
           | (true, t) => ({ t with mem := t.mem.putRing k r.taken }.ringMsi e.ctxid hs.base).pkNext p.id (pkTiles v)
           | (false, t) => t)
  | _, _ => s

def drainSlot (pk : Nat) (s : State) : State := withPacket pk (fun p => some (pkDst p.num)) drainTile s

def execDrainSlotWrite (pk : Nat) (s : State) : Host.Outcome State Fault Refusal := always s (drainSlot pk)

/-! ### Completion (R254) -/

/-- The 24 bytes of a completion record. -/
def completionRec (tag status bytes tlen : Nat) : List Byte :=
  leBytes tag 3 ++ leBytes status 1 ++ leBytes 0 4 ++ leBytes bytes 8 ++ leBytes tlen 8

/-- A packet leaves: its gravity returns to the combiner of its unit's die, and its producer's core records it no more. -/
def State.leavePacket (s : State) (q : CopyQueue) (p : Packet) : State :=
  let s1 := s.giveBackTo (q.cluster / 16) q.ctxid q.rcb (pkGrav p.num) false
  let s2 := { s1 with packets := s1.packets.filter fun r => r.id != p.id }
  if p.by_ = 0 then s2
  else s2.onCoreAt ((p.by_ - 1) / 4) fun c => { c with cmds := c.cmds.filter fun e => !(e.q == 6 && e.seq == p.seq) }

/-- The ring of a finished packet takes its record when it has a free slot; a ring that no handle gives takes none. -/
def State.completePacket (s : State) (q : CopyQueue) (p : Packet) : State :=
  if !(s.unacked (pkKey p.id)).isEmpty then s
  else if pkRing p.num = 0 then s.leavePacket q p
  else match s.pkEnt q (pkRing p.num) with
    | none => s.leavePacket q p
    | some h =>
      match s.fillRing (s.unitEnv q.ctxid) (q.cluster / 16) h.base (completionRec (pkTag p.num) p.status p.done 0) (fun _ => false) with
      | .ok t => t.leavePacket q p
      | .full => s
      | .bad => s.leavePacket q p
      | .fault c a => s.stopPacket q p (c, a) (pkRing p.num)

/-- What moving is left to a copy or a reducing copy. -/
def movePacket (q : CopyQueue) (p : Packet) (s : State) : State :=
  if !(s.mayMove p) then s
  else if pkKind p.num = 0 then copyRows (pkRows p.num + 1) q p.id s
  else if pkKind p.num = 1 then redBlocksFrom 513 q p.id s else s

/-- COPY_PACKET_COMPLETE: move what is left, then complete once every write is performed at its home and a trap's record is written (R366). -/
def copyComplete (pk : Nat) (s : State) : State :=
  withPacket pk (fun _ => none) (fun q p s =>
    let t := movePacket q p s
    match t.packet? pk with
    | some r => if r.finished && r.fault.isNone && !(t.traps.any fun x => x.unit == .packet pk) then t.completePacket q r else t
    | none => t) s

def execCopyPacketComplete (pk : Nat) (s : State) : Host.Outcome State Fault Refusal := always s (copyComplete pk)

end Sys2Proof.Machine
end

