-- ==== Sys2Proof/Machine/Moves.lean ====
section
/-! DEFINITION. TLOAD and TSTORE (R300) and the collectives (R329 to R334): how they issue, and what they do once their handles are
ready. -/

namespace Sys2Proof.Machine

/-! ### Dense tensors in memory (R300) -/

/-- The pattern at coordinates of a tensor stored densely at an address. -/
def State.readDense (s : State) (ctxid fmt a : Nat) (dims ix : List Nat) : Cx Nat :=
  let b := denseIndex dims ix * fmtWidth fmt
  match s.unitRead (s.unitEnv ctxid) (a + b / 8) (cdiv (b % 8 + fmtWidth fmt) 8) with
  | .ok l => .ok (bitsOf (leNat l) (b % 8) (fmtWidth fmt))
  | .error f => .error f

/-- The walker's effects of reading it (R101). -/
def State.readDenseBy (s : State) (ctxid fmt a : Nat) (dims ix : List Nat) : State :=
  let b := denseIndex dims ix * fmtWidth fmt
  s.readBy ctxid (a + b / 8) (cdiv (b % 8 + fmtWidth fmt) 8)

def State.writeDense (s : State) (ctxid fmt a : Nat) (dims ix : List Nat) (v : Nat) : Cx State :=
  let w := fmtWidth fmt
  let b := denseIndex dims ix * w
  let va := a + b / 8
  let e := s.unitEnv ctxid
  if w % 8 = 0 then s.unitWrite e va (leBytes v (w / 8))
  else match s.unitRead e va 1 with
    | .error f => .error f
    | .ok l => s.unitWrite e va (leBytes (putBits (leNat l) (b % 8) w v) 1)

/-- Do something for each of n elements, the first fault stopping. -/
def eachElem (f : Nat → State → Cx State) : Nat → Nat → State → Cx State
  | 0, _, s => .ok s
  | n + 1, k, s =>
    match f k s with
    | .ok t => eachElem f n (k + 1) t
    | .error x => .error x

/-- Elements of a 64-byte beat of an operator's copy, one image where an image is larger. -/
def beatElems (fmt : Nat) : Nat := max 1 (512 / fmtWidth fmt)

/-- The same by beats, up to the first that an access at fault stops: the beats before it stand, and are not done again (R104, R300). -/
def moveBeats (op b : Nat) (f : Nat → State → Cx State) : Nat → Nat → Nat → State → State × Option (Nat × Nat)
  | 0, _, _, s => (s, none)
  | m + 1, n, k, s =>
    if n ≤ k then (s, none)
    else match eachElem f (min b (n - k)) k s with
      | .ok t => moveBeats op b f m n (k + b) (t.onOp op fun p => { p with placed := min n (k + b) })
      | .error x => (s, some x)

/-- Coordinates of the whole tensor for an element of the local shard. -/
def wholeIx (h : HEnt) (vals ix : List Nat) : List Nat :=
  let k := h.cellDim (nth 0 vals 2)
  if nth 0 vals 1 = 1 then setNth (nth 0 ix k + h.cellAt (nth 0 vals 2) (nth 0 vals 3)) ix k else ix

/-- A handle's shard and the extents of its whole tensor as TLOAD and TSTORE move them: codebook images whole (log 58). -/
def movedWhole (h : HEnt) (dims : List Nat) : HEnt × List Nat :=
  (h.cells, ({ h with dim := pad6 dims, ndim := dims.length } : HEnt).cells.dims)

/-- A shard's part of TLOAD. -/
def State.loadTensor (s : State) (o : OpInst) (hid : Nat) : State × Option (Nat × Nat) :=
  let h := (s.opEnt o true hid).getD noEnt
  let a := nth 0 o.vals 0
  let m := movedWhole h (o.vals.drop 4)
  moveBeats o.id (beatElems m.1.fmt) (fun k t =>
    let ix := coords m.1.dims k
    if nth 0 o.vals 1 = 2 then t.writeElem o.ctxid o.shard m.1 ix 0
    else match t.readDense o.ctxid m.1.fmt a m.2 (wholeIx m.1 o.vals ix) with
      | .ok v => (t.readDenseBy o.ctxid m.1.fmt a m.2 (wholeIx m.1 o.vals ix)).writeElem o.ctxid o.shard m.1 ix v
      | .error f => .error f) (m.1.count + 1) m.1.count o.placed s

/-- A shard's part of TSTORE. -/
def State.storeTensor (s : State) (o : OpInst) (hid : Nat) : State × Option (Nat × Nat) :=
  let h := (s.opEnt o false hid).getD noEnt
  let a := nth 0 o.vals 0
  let m := movedWhole h (o.vals.drop 4)
  if nth 0 o.vals 1 = 3 then (s, none)
  else moveBeats o.id (beatElems m.1.fmt) (fun k t =>
    let ix := coords m.1.dims k
    match t.readElem o.ctxid o.shard m.1 ix with
    | .ok v => (t.readElemBy o.ctxid o.shard m.1 ix).writeDense o.ctxid m.1.fmt a m.2 (wholeIx m.1 o.vals ix) v
    | .error f => .error f) (m.1.count + 1) m.1.count o.placed s

/-- TLOAD. -/
def execTload (fuse hid : Nat) (addr : Sow) (s : State) : Host.Outcome State Fault Refusal :=
  recOp (.tload fuse hid addr) (operatorCheck (.tload fuse hid addr) .ok .ok s) s fun s =>
    let t := issueRecord (.tload fuse hid addr) (endRun s)
    match t.justIssued with
    | some o => t.recordMove o
    | none => t

/-- TSTORE. -/
def execTstore (fuse : Nat) (last : Bool) (hid : Nat) (addr : Sow) (s : State) : Host.Outcome State Fault Refusal :=
  recOp (.tstore fuse last hid addr) (operatorCheck (.tstore fuse last hid addr) .ok .ok s) s fun s =>
    issueRecord (.tstore fuse last hid addr) (endRun s)

/-! ### Collectives: issue (R329, R330, R332) -/

/-- d's extents under ALLGATHER and BCAST agree with s's but along the dimensions that the parts decide. -/
def collVerdict (i : Instr) (s : State) : GVerdict :=
  let g := s.gfe
  let e := s.gent
  let patterns := fun (d x : Nat) => format ((e d).fmt == (e x).fmt) 1
  match i with
  | .allgather _ d x _ dim =>
    (patterns d x).and <| (gneed (decide (dim < (e x).ndim)) 2 2).and (shape (agreeBut [dim] (e x) (e d)) 1)
  | .redscat _ d x axes dim _ =>
    (format (plain (e d) && plain (e x)) 1).and <| (gneed (decide (dim < (e x).ndim)) 2 2).and <|
      shape (agreeBut [dim] (e x) (e d) && (e d).ext dim == (blockOf ((e x).ext dim) (g.parts axes) (g.part axes)).2) 1
  | .allred _ d x _ _ => (format (plain (e d) && plain (e x)) 1).and (shape ((e d).dims == (e x).dims) 1)
  | .bcast _ d x axes root =>
    (patterns d x).and (gneed (decide (g.sow root < g.parts axes)) 2 3)
  | _ => .ok

/-- Source and destination of a collective. -/
def collHandles (i : Instr) : Nat × Nat :=
  match i with
  | .allgather _ d x _ _ => (d, x)
  | .redscat _ d x _ _ _ => (d, x)
  | .allred _ d x _ _ => (d, x)
  | .bcast _ d x _ _ => (d, x)
  | _ => (0, 0)

/-- The shape of a collective's meaning: it issues on every GFE of the set and meets its parts later. -/
def collectiveRec (i : Instr) (s : State) : Host.Outcome State Fault Refusal :=
  recOp i (operatorCheck i .ok (collVerdict i s) s) s fun s =>
    let t := issueRecord i s
    match t.justIssued with
    | some o => t.recordMove o
    | none => t

def execAllgather (h : Hd) (d s axes dim : Nat) (st : State) : Host.Outcome State Fault Refusal := collectiveRec (.allgather h d s axes dim) st
def execRedscat (h : Hd) (d s axes dim rop : Nat) (st : State) : Host.Outcome State Fault Refusal :=
  collectiveRec (.redscat h d s axes dim rop) st
def execAllred (h : Hd) (d s axes rop : Nat) (st : State) : Host.Outcome State Fault Refusal := collectiveRec (.allred h d s axes rop) st
def execBcast (h : Hd) (d s axes : Nat) (root : Sow) (st : State) : Host.Outcome State Fault Refusal := collectiveRec (.bcast h d s axes root) st

/-- A peer outside the parts: the record does nothing on this part (R332). -/
def peerOut (axes : Nat) (peer : Sow) (s : State) : Bool := decide (s.gfe.parts axes ≤ s.gfe.sow peer)

/-- The shape of SEND and RECV: with a peer outside the parts the record passes its checks, does nothing and completes at issue (R332). -/
def pairRec (i : Instr) (axes : Nat) (peer : Sow) (s : State) : Host.Outcome State Fault Refusal :=
  if peerOut axes peer s then
    recOp i ((handlesVerdict (s.opdsOf i) s).and (attrsVerdict s (s.opdsOf i))) s fun s => (gfeNext i (s.beginRun i)).closeRun
  else recOp i (operatorCheck i .ok .ok s) s fun s =>
    let t := issueRecord i s
    match t.justIssued with
    | some o => t.recordMove o
    | none => t

/-- SEND. -/
def execSend (h : Hd) (x axes tag : Nat) (peer : Sow) (s : State) : Host.Outcome State Fault Refusal :=
  pairRec (.send h x axes tag peer) axes peer s

/-- RECV. -/
def execRecv (h : Hd) (d ring axes tag : Nat) (peer : Sow) (s : State) : Host.Outcome State Fault Refusal :=
  pairRec (.recv h d ring axes tag peer) axes peer s

/-! ### Collectives: meeting (R330, R331) -/

/-- Axes of a collective, and its number of parts and own part. -/
def axesOf (i : Instr) : Nat :=
  match i with
  | .allgather _ _ _ a _ => a
  | .redscat _ _ _ a _ _ => a
  | .allred _ _ _ a _ => a
  | .bcast _ _ _ a _ => a
  | .send _ _ a _ _ => a
  | .recv _ _ _ a _ _ => a
  | _ => 0

def OpInst.parts (o : OpInst) (axes : Nat) : Nat := if axes = 0 then o.width else if axes = 1 then o.chips else o.width * o.chips
def OpInst.part (o : OpInst) (axes : Nat) : Nat := if axes = 0 then o.shard else if axes = 1 then o.rank else o.shard + o.width * o.rank

/-- The number of part j among all parts of the launch: shard + width * rank. -/
def OpInst.wholePart (o : OpInst) (axes j : Nat) : Nat := if axes = 0 then j + o.width * o.rank else if axes = 1 then o.shard + o.width * j else j

/-- Every pattern of a handle, in dense order. -/
def State.patterns (s : State) (o : OpInst) (h : HEnt) : Cx (List Nat) := (upTo h.count).mapM fun k => s.readElem o.ctxid o.shard h (coords h.dims k)

/-- A part's contribution: its extents and its patterns, 8 bytes each or a whole image. -/
def patWidth (fmt : Nat) : Nat := max 8 (cdiv (fmtWidth fmt) 8)
def partBytes (fmt : Nat) (dims pats : List Nat) : List Byte :=
  (pad6 dims).flatMap (fun d => leBytes d 4) ++ pats.flatMap fun p => leBytes p (patWidth fmt)
def partDims (l : List Byte) : List Nat := (upTo 6).map fun k => leNat ((l.drop (4 * k)).take 4)
def partPat (fmt : Nat) (l : List Byte) (k : Nat) : Nat := leNat ((l.drop (24 + patWidth fmt * k)).take (patWidth fmt))

/-- The contribution of a part, by its whole number, to a collective. -/
def State.contribution (s : State) (o : OpInst) (whole : Nat) : Option (List Byte) :=
  (s.parts.find? fun p => p.stream == o.stream && p.seq == o.seq && p.part == whole).map PartMsg.bytes

/-- The extents of part j of a gathered handle: its block of d, where the own part's is (R309); else the own part's. -/
def partExts (o : OpInst) (hd hs : HEnt) (j : Nat) : List Nat :=
  match o.record with
  | .allgather _ _ _ axes dim =>
    if hs.ext dim = (blockOf (hd.ext dim) (o.parts axes) (o.part axes)).2 then setNth (blockOf (hd.ext dim) (o.parts axes) j).2 hs.dims dim
    else hs.dims
  | .bcast _ _ _ _ _ => hd.dims
  | _ => hs.dims

/-- What a part on another chip brings is the outside's (log 15): patterns of the outside's choice under the extents that its block has. -/
def State.bringRemote (s : State) (o : OpInst) (hd hs : HEnt) (j : Nat) : State :=
  let whole := o.wholePart (axesOf o.record) j
  if whole / o.width = o.rank || (s.contribution o whole).isSome then s
  else
    let z := cdiv (fmtWidth hs.fmt) 8
    let dims := partExts o hd hs j
    let pats := (upTo (dims.foldl (· * ·) 1)).map fun k =>
      leNat ((upTo z).map fun b => Config.outsideByte s.outside (z * k + b)) % 2 ^ fmtWidth hs.fmt
    { s with parts := s.parts ++ [⟨o.stream, o.opc, o.seq, whole, 0, 0, partBytes hs.fmt dims pats⟩], outside := s.outside + 1 }

/-- Combination of the parts' values at one place (R330). -/
def combine (rop fs fd : Nat) (pats : List Nat) : Nat :=
  let xs := pats.map (real fs)
  writeAs fd (if isFloat fs then
      (match rop with
       | 0 => sumTree xs
       | 1 => minTree xs
       | _ => maxTree xs)
    else
      (match rop with
       | 0 => Ex.ofInt (xs.foldl (fun z x => z + x.int) 0)
       | 1 => Ex.ofInt (xs.foldl (fun z x => min z x.int) (xs.head?.elim 0 Ex.int))
       | _ => Ex.ofInt (xs.foldl (fun z x => max z x.int) (xs.head?.elim 0 Ex.int))))

/-- Where index i along a dimension falls among parts of given extents: the part and the index within it. -/
def whichPart : List Nat → Nat → Nat → Nat × Nat
  | [], i, j => (j, i)
  | e :: es, i, j => if i < e then (j, i) else whichPart es (i - e) (j + 1)

/-- The pattern a collective gives d at coordinates, from the contributions in part order; none where the parts do not fit. -/
def collValue (o : OpInst) (hd hs : HEnt) (cs : List (List Byte)) (ix : List Nat) : Option Nat :=
  let same := fun (c : List Byte) => partDims c == pad6 hs.dims
  match o.record with
  | .allgather _ _ _ _ dim0 =>
    let dim := hd.cellDim dim0
    let es := cs.map fun c => nth 0 (partDims c) dim
    if es.foldl (· + ·) 0 != hd.ext dim || !(cs.all fun c => setNth 0 (partDims c) dim == setNth 0 (pad6 hd.dims) dim) then none
    else
      let w := whichPart es (nth 0 ix dim) 0
      let c := nth [] cs w.1
      some (partPat hs.fmt c (denseIndex ((partDims c).take hd.ndim) (setNth w.2 ix dim)))
  | .allred _ _ _ _ rop =>
    if cs.all same then some (combine rop hs.fmt hd.fmt (cs.map fun c => partPat hs.fmt c (denseIndex hs.dims ix))) else none
  | .redscat _ _ _ axes dim rop =>
    let st := (blockOf (hs.ext dim) (o.parts axes) (o.part axes)).1
    if cs.all same then
      some (combine rop hs.fmt hd.fmt (cs.map fun c => partPat hs.fmt c (denseIndex hs.dims (setNth (nth 0 ix dim + st) ix dim))))
    else none
  | .bcast _ _ _ _ _ =>
    let c := nth [] cs (nth 0 o.vals 0)
    if partDims c == pad6 hd.dims then some (partPat hs.fmt c (denseIndex hd.dims ix)) else none
  | _ => none

/-- What a part's work comes to: the state; a fault, with what was done before it; a trap; waiting for the others. -/
inductive PartOut where
  | ok (s : State)
  | done (s : State)
  | fault (f : Nat × Nat)
  | part (s : State) (f : Nat × Nat)
  | trap (t : TrapInfo)
  | wait
deriving DecidableEq, Repr

/-- A part gives its contribution, to the parts of this package and to the other chips'; once every part's is there, it writes its d. -/
def State.collStep (s : State) (o : OpInst) : PartOut :=
  let hs := ((s.opEnt o false (collHandles o.record).2).getD noEnt).cells
  let hd := ((s.opEnt o true (collHandles o.record).1).getD noEnt).cells
  let axes := axesOf o.record
  if !o.given then
    match s.patterns o hs with
    | .error f => .fault f
    | .ok ps =>
      let m := partBytes hs.fmt hs.dims ps
      let s1 := { s.readBy o.ctxid hs.base hs.len with parts := s.parts ++ [(⟨o.stream, o.opc, o.seq, o.wholePart axes (o.part axes), 0, 0, m⟩ : PartMsg)] }
      let away := ((upTo (o.parts axes)).map (o.wholePart axes)).filter fun w => w / o.width != o.rank
      .ok ((away.foldl (fun t w => t.say (.partMessage o.stream w 0 m)) s1).onOp o.id fun p => { p with given := true })
  else
    let whole := (upTo (o.parts axes)).map (o.wholePart axes)
    let s1 := (upTo (o.parts axes)).foldl (fun t j => t.bringRemote o hd hs j) s
    let cs := whole.filterMap (s1.contribution o)
    if cs.length < whole.length then .wait
    else match (upTo hd.count).mapM fun k => collValue o hd hs cs (coords hd.dims k) with
      | none => .trap ⟨4, 0, 0, 1⟩
      | some vs =>
        match eachElem (fun k t => t.writeElem o.ctxid o.shard hd (coords hd.dims k) (nth 0 vs k)) hd.count 0 s1 with
        | .ok t => .done t
        | .error f => .fault f

/-! ### SEND and RECV (R332 to R334) -/

/-- Peer and tag of a SEND or RECV; whether it sends. -/
def pairOf (o : OpInst) : Option (Bool × Nat × Nat) :=
  match o.record with
  | .send _ _ _ tag _ => some (true, nth 0 o.vals 0, tag)
  | .recv _ _ _ _ tag _ => some (false, nth 0 o.vals 0, tag)
  | _ => none

/-- Whether an operator is the unmatched SEND (or RECV) of a stream from (or on) a whole part with a peer and tag along some axes. -/
def isSide (send : Bool) (stream axes whole peer tag : Nat) (o : OpInst) : Bool :=
  o.stream == stream && axesOf o.record == axes && o.done == 0 && o.wholePart axes (o.part axes) == whole && pairOf o == some (send, peer, tag)

/-- The oldest such operator: matching takes each side in issue order. -/
def State.side (s : State) (send : Bool) (stream axes whole peer tag : Nat) : Option OpInst := s.ops.find? (isSide send stream axes whole peer tag)

/-- The bytes of a handle's local shard in dense order. -/
def State.denseBytes (s : State) (o : OpInst) (h : HEnt) : Cx (List Byte) :=
  if h.fmt = 9 then s.unitRead (s.unitEnv o.ctxid) h.base h.size
  else do
    let ps ← s.patterns o h
    let w := fmtWidth h.fmt
    let n := (List.zip (upTo ps.length) ps).foldl (fun a p => a + p.2 * 2 ^ (w * p.1)) 0
    pure (leBytes n (fmtSize h.fmt h.count))

/-- Handle a SEND sends from, a RECV receives into, and the RECV's ring. -/
def sendHandle (i : Instr) : Nat :=
  match i with
  | .send _ x _ _ _ => x
  | _ => 0
def recvHandles (i : Instr) : Nat × Nat :=
  match i with
  | .recv _ d r _ _ _ => (d, r)
  | _ => (0, 0)

/-- Place the bytes of a message from where it stopped, in beats of 64 bytes: the state, with a fault if one stops it (R334). -/
def State.placeBeats (o : OpInst) (base : Nat) (msg : List Byte) : Nat → State → State × Option (Nat × Nat)
  | 0, s => (s, none)
  | n + 1, s =>
    match s.op? o.id with
    | none => (s, none)
    | some p =>
      if msg.length ≤ p.placed then (s, none)
      else match s.unitWrite (s.unitEnv o.ctxid) (base + p.placed) ((msg.drop p.placed).take 64) with
        | .error f => (s, some f)
        | .ok t => State.placeBeats o base msg n (t.onOp o.id fun q => { q with placed := min msg.length (q.placed + 64) })

/-- The completion record of a RECV goes into its ring, if it names one (R332, R333). -/
def State.recvRecord (s : State) (o : OpInst) (n past tlen : Nat) : Filled :=
  if (recvHandles o.record).2 = 0 then .ok s
  else
    let r := (s.opEnt o true (recvHandles o.record).2).getD noEnt
    let tag := (pairOf o).elim 0 fun p => p.2.2
    s.fillRing (s.unitEnv o.ctxid) (o.gfe / 4) r.base (completionRec tag (if past = 0 then 0 else 0x15) n (if past = 0 then 0 else tlen))
      (fun _ => false)

/-- A message that a part on another chip has sent stands in the list of messages, under its RECV: its length, and its bytes as far as they are
needed. -/
def State.arrived (s : State) (o : OpInst) : Option (Nat × List Byte) :=
  (s.parts.find? fun m => m.stream == o.stream && m.opc == o.opc && m.seq == 2 ^ 40 + o.id).map fun m =>
    (leNat (m.bytes.take 8), m.bytes.drop 8)

/-- The outside's message arrives (log 15). -/
def State.arrive (s : State) (o : OpInst) : State :=
  let n := Config.freeNat s.fresh % 2 ^ 40
  let hd := (s.opEnt o true (recvHandles o.record).1).getD noEnt
  let m : PartMsg := ⟨o.stream, o.opc, 2 ^ 40 + o.id, 0, 0, 0, leBytes n 8 ++ (upTo (min n hd.len)).map (Config.outsideByte s.outside)⟩
  { s with parts := s.parts ++ [m], outside := s.outside + 1, fresh := s.fresh + 1 }

/-- What a RECV finds: the message and its length, and the SEND that holds it, if it lies in this package. The receiver acquires at system scope
what the sender's die has done (R332). -/
def State.messageFor (s : State) (o : OpInst) : Option (Cx (List Byte × Nat × Option Nat)) :=
  match pairOf o with
  | none => none
  | some (_, peer, tag) =>
    let axes := axesOf o.record
    let from' := o.wholePart axes peer
    if from' / o.width != o.rank then (s.arrived o).map fun m => .ok (m.2, m.1, none)
    else match s.side true o.stream axes from' (o.part axes) tag with
      | none => none
      | some x =>
        if !(s.depsDone x) || !(s.acquirable (o.gfe / 4) (x.gfe / 4)) then none
        else
          let t := s.onDie (x.gfe / 4)
          let h := (t.opEnt x false (sendHandle x.record)).getD noEnt
          some ((t.denseBytes x h).map fun l => (l, l.length, some x.id))

/-- Whether the peer lies on another chip. -/
def OpInst.peerAway (o : OpInst) : Bool :=
  match pairOf o with
  | some (_, peer, _) => o.wholePart (axesOf o.record) peer / o.width != o.rank
  | none => false

/-- A RECV whose SEND is ready: the message is placed, its record written, and both complete; a longer one raises cause 0x15 with HANDLE d. -/
def State.recvStep (s : State) (o : OpInst) : PartOut :=
  let axes := axesOf o.record
  let first := match pairOf o with
    | some (_, peer, tag) => (s.side false o.stream axes (o.wholePart axes (o.part axes)) peer tag).map OpInst.id == some o.id
    | none => false
  if !first then .wait
  else if o.peerAway && (s.arrived o).isNone then .ok (s.arrive o)
  else match s.messageFor o with
    | none => .wait
    | some (.error f) => .fault f
    | some (.ok (msg, tlen, sender)) =>
      let hd := (s.opEnt o true (recvHandles o.record).1).getD noEnt
      let n := min tlen hd.len
      let past := tlen - n
      match State.placeBeats o hd.base (msg.take n) (cdiv n 64 + 1) s with
      | (t, some f) => .part t f
      | (t, none) => match t.recvRecord o n past tlen with
        | .full => .ok t
        | .fault c a => .part t (c, a)
        | r =>
          let u := match r with
            | .ok u => u
            | _ => t
          let t1 := match sender with
            | some id => u.onOp id fun p => { p with done := 1 }
            | none => { u with parts := u.parts.filter fun m => !(m.stream == o.stream && m.opc == o.opc && m.seq == 2 ^ 40 + o.id) }
          let t1 := match sender.bind s.op? with
            | some x => match s.opEnt x false (sendHandle x.record) with
              | some h => (t1.onDie (x.gfe / 4)).readBy x.ctxid h.base h.len
              | none => t1
            | none => t1
          .done (if past = 0 then t1 else
            { t1 with traps := t1.traps ++ [t1.opRec o 0 0 [] false ⟨0x15, 0, (recvHandles o.record).1, past⟩ false], fresh := t1.fresh + 1 })

/-- A SEND to another chip hands its message to the outside; within the package it waits for its RECV. -/
def State.sendStep (s : State) (o : OpInst) : PartOut :=
  match pairOf o with
  | none => .wait
  | some (_, peer, tag) =>
    let axes := axesOf o.record
    if o.wholePart axes peer / o.width = o.rank then .wait
    else match s.denseBytes o ((s.opEnt o false (sendHandle o.record)).getD noEnt) with
      | .error f => .fault f
      | .ok l =>
        let h := (s.opEnt o false (sendHandle o.record)).getD noEnt
        .done ((s.readBy o.ctxid h.base h.len).say (.partMessage o.stream peer tag l))

end Sys2Proof.Machine
end

