-- ==== Sys2Proof/Machine/System.lean ====
section
/-! DEFINITION. The remaining records: TSHARD (R298), SPAWNB (R336, R379), QUIET (R337), SPECIN and SPECOFF (R338, R408, R421),
OPINSTALL and OPREMOVE (R339 to R344), SYSCALL (R345). -/

namespace Sys2Proof.Machine

/-! ### TSHARD (R298) -/

/-- An entry with other local extents, its strides as TDEF gives them. -/
def HEnt.redim (h : HEnt) (dims : List Nat) : HEnt :=
  let st := if h.layout = 1 then tiledStrides dims else denseStrides dims
  { h with dim := pad6 dims, str := if h.layout = 2 then setNth (nth 0 h.str 4) st 4 else st }

/-- Lowered instances that a change of attribute brings. -/
def State.tshardSteps (s : State) (hid attr : Nat) : List LowStep := lowering (s.attOf hid) (s.attrOf s.gfe attr).get?

/-- A handle that index 0 makes local has its local extents alone (R309). -/
def State.localize (s : State) (g : Gfe) (hid attr : Nat) : State :=
  if attr = 0 then { s with extents := AMap.era (hkey g.ctxid g.shard hid) s.extents } else s

/-- The change of attribute. A handle that is not placed, or no longer is, only takes its new extents. A placed handle whose attribute lowers
moves to a region of its new extents; a temporary keeps the old one for the instances, and for the operators issued earlier (log 27). -/
def State.tshardRun (s : State) (opcode hid attr : Nat) : Except (Bool × TrapInfo) State :=
  let g := s.gfe
  let h := s.gent hid
  let ext := s.extOf hid
  let steps := s.tshardSteps hid attr
  let e := { h.redim (localDims g (s.attrOf g attr).get? ext) with shard := attr }
  let a := issueAsker g s.act.gfe h.cluster
  if !h.placed || s.isGone g.ctxid g.shard hid then
    .ok (((s.retire g.ctxid g.shard hid).setEntry g.ctxid g.shard (e.place 0 0 15)).localize g hid attr)
  else if steps.isEmpty then .ok ((s.setEntry g.ctxid g.shard { h with shard := attr }).localize g hid attr)
  else
    let n := s.newTemp h
    let s1 := (n.2.keepAs g.ctxid g.shard hid n.1).moveRegion g hid n.1
    match s1.placeHandle a (e.place 0 0 15) (s.issueLevels h g 2) with
    | .error f => .error (false, ⟨0x0A, f, hid, 0⟩)
    | .ok s2 => match s2.lowerChain a opcode hid ext (some hid) steps n.1 with
      | .error t => .error (true, t)
      | .ok (_, ts, u) =>
        .ok { u with ops := u.ops.map fun (o : OpInst) => if o.id + 1 = u.nextOp then { o with temps := ts, olds := [(n.1, n.1)] } else o }

def tshardCheck (hid attr : Nat) (s : State) : GVerdict :=
  let g := s.gfe
  (handleVerdict hid s).and <|
  (attrVerdict g attr (s.gent hid).ndim s).and <|
  (gwait (decide (64 < s.outstanding s.act.gfe + (s.tshardSteps hid attr).length))).and <|
  (match s.tshardRun (recordOpcode (.tshard 0 hid attr)) hid attr with
    | .ok _ => .ok
    | .error (true, t) => .low t
    | .error (false, t) => .trap t)

/-- TSHARD: its instances issue with it, before any later record. -/
def execTshard (fuse hid attr : Nat) (s : State) : Host.Outcome State Fault Refusal :=
  let i := Instr.tshard fuse hid attr
  recOp i (tshardCheck hid attr s) s fun s =>
    match s.tshardRun (recordOpcode i) hid attr with
    | .ok t => gfeDone i t
    | .error _ => s

/-- A task, speculation or system record is a member of its fuse group, which runs unfused because of it (R32, R33). -/
def runDone (i : Instr) (s : State) : State := gfeNext i (s.onGfe fun g => { g with fuse := recordFuse i, fused := false })

/-! ### SPAWNB (R336, R379) -/

/-- Whether this GFE performs a record that shard 0 alone performs unless EACH is 1. -/
def Gfe.performs (g : Gfe) (each : Bool) : Bool := each || g.shard == 0

/-- The queue of a slot of the acting GFE's region on its die. -/
def State.gfeQueue (s : State) (slot : Nat) : Option Nat := s.slotQueue (s.act.gfe / 4) s.gfe.ctxid s.gfe.rcb slot

/-- The card's 32 bytes, or the fault of reading them. -/
def State.cardAt (s : State) (ctxid va : Nat) : Except (Nat × Nat) Card := (s.unitRead (s.unitEnv ctxid) va 32).map (cardOf va)

/-- GRAV and NEXT of a card as SPAWNB writes them: GRAV 2^30, NEXT 0. -/
def State.writeCard (s : State) (ctxid va : Nat) : Except (Nat × Nat) State := do
  let t ← s.unitWrite (s.unitEnv ctxid) (va + 0x18) (leBytes (2 ^ 30) 5)
  t.unitWrite (t.unitEnv ctxid) (va + 0x10) (leBytes 0 4)

/-- A task queue whose slot has room for a card that no task of it appends (R268, R354). -/
def HwQueue.full (q : HwQueue) : Bool := q.state == 0 || q.state == 3 || decide (q.cap ≤ q.elems.length) || decide (q.hwm < q.elems.length)

def spawnbCheck (each : Bool) (card : Nat) (slot : Sow) (s : State) : GVerdict :=
  let g := s.gfe
  let h := (s.placed card).gent card
  (handleVerdict card s).and <|
    if !(g.performs each) then .ok
    else (gwait (s.writerOf g.ctxid g.shard card)).and <|
      (placeVerdict card s).and <|
      (gcheck (decide (32 ≤ h.size) && h.base % 32 == 0) ⟨4, 0, card, 1⟩).and <|
      match s.cardAt g.ctxid h.base with
      | .error (c, a) => .fault c a
      | .ok k =>
        (gwait (k.argh != 0 && s.writerOf g.ctxid g.shard k.argh)).and <|
        match (if g.sow slot ≤ 63 then s.gfeQueue (g.sow slot) else none) with
        | none => .trap ⟨0x0E, 0, 0, 0⟩
        | some q =>
          (gneed (s.queue q).isTask 0x0E 0).and <|
          match s.rootOf g.ctxid g.rcb with
          | none => .trap ⟨0x0E, 0, 0, 0⟩
          | some r =>
            (gneed (!(s.closed r)) 0x0F 0).and <| (gwait (s.queue q).full).and <|
            match s.writeCard g.ctxid h.base with
            | .error (c, a) => .fault c a
            | .ok _ => .ok

/-- SPAWNB, its card placed on first touch (R115): ISSUED grows by 2^30, the card takes it, then it enters the queue. -/
def spawnb (card : Nat) (slot : Sow) (s : State) : State :=
  let g := s.gfe
  let h := s.gent card
  match s.rootOf g.ctxid g.rcb, s.gfeQueue (g.sow slot) with
  | some r, some q =>
    match (s.rootAdd r 0x40 (2 ^ 30)).writeCard g.ctxid h.base with
    | .ok t => t.onQueue q fun x => x.append ⟨h.base, g.shard, s.clk⟩
    | .error _ => s
  | _, _ => s

def execSpawnb (fuse : Nat) (each : Bool) (card : Nat) (slot : Sow) (s : State) : Host.Outcome State Fault Refusal :=
  let i := Instr.spawnb fuse each card slot
  recOp i (spawnbCheck each card slot s) s fun s => runDone i (if s.gfe.performs each then spawnb card slot (s.placed card) else s)

/-! ### QUIET (R337, R386) -/

/-- Operators that this GFE issued and that have not completed. -/
def State.busyOps (s : State) (k : Nat) : Bool := s.ops.any fun o => o.gfe == k && o.stream == (s.gfeAt k).stream

/-- The waiter that stands for a GFE. -/
def gfeWaiter (k : Nat) : Nat := 10000 + k

/-- The recorded address of a root that QUIET names. -/
def State.quietRoot (s : State) (rcb : Sow) : Option Nat :=
  match findRegion (s.dev s.gfe.ctxid).regions (s.gfe.sow rcb % 2 ^ 56) with
  | some r => if s.isRoot r.phys then some r.phys else none
  | none => none

/-- The record a GFE stands at. -/
def State.currentRecord (s : State) (k : Nat) : Option Instr :=
  match s.fetchRecord (s.gfeAt k) (s.gfeAt k).pc with
  | .ok i => some i
  | _ => none

/-- Every shard of the acting GFE's stream has come to its record with every operator before it completed, or is past it (R337, R345). -/
def State.streamQuiet (s : State) (i : Instr) : Bool :=
  s.gfe.set.all fun j =>
    let g := s.gfeAt j
    decide (s.gfe.joint < g.joint) || (g.joint == s.gfe.joint && !(s.busyOps j) && (j == s.act.gfe || s.currentRecord j == some i))

/-- QUIET's address is equal on every GFE, since graph registers are (R21). -/
def quietCheck (fuse : Nat) (rcb : Sow) (s : State) : GVerdict :=
  let k := s.act.gfe
  match s.gfe.block with
  | .quiet r => gwait (!(s.rootQuiet r (gfeWaiter k) && dominates (s.clockOf (k / 4)) (s.clockOf (homeDie r))))
  | _ => (gwait (!(s.streamQuiet (.quiet fuse rcb)))).and (gneed (s.quietRoot rcb).isSome 0x0E 0)

/-- QUIET: probes first, then it goes on once the root is quiet. -/
def execQuiet (fuse : Nat) (rcb : Sow) (s : State) : Host.Outcome State Fault Refusal :=
  let i := Instr.quiet fuse rcb
  recOp i (quietCheck fuse rcb s) s fun s =>
    match s.gfe.block, s.quietRoot rcb with
    | .quiet _, _ => runDone i (s.onGfe fun g => { g with block := .none })
    | _, some r =>
      { s with
        grav := s.grav ++ (upTo 8).map fun d => GravMsg.probe r d (gfeWaiter s.act.gfe)
        wakes := s.wakes.filter fun w => w != (r, gfeWaiter s.act.gfe) }.onGfe fun g => { g with block := .quiet r, joint := g.joint + 1 }
    | _, none => s

/-! ### SPECIN and SPECOFF (R338, R408, R421) -/

/-- An operator of a GFE that predicts from a history region. -/
def State.speculatedOn (s : State) (k reg : Nat) : Bool := s.ops.any fun o => o.gfe == k && o.speculating && o.specReg == reg

/-- Entries that a SPECOFF or a second SPECIN has turned off leave once no consumer speculates on them. -/
def State.freeSpecs (s : State) (k : Nat) : State :=
  let g := s.gfeAt k
  let over' := g.specs.filter fun p => p.off && !(s.speculatedOn k p.region)
  (over'.foldl (fun t p => ((t.dropTemp p.region).dropTemp p.h1).dropTemp p.h2) s).onGfeAt k fun x =>
    { x with specs := x.specs.filter fun p => !(p.off && !(s.speculatedOn k p.region)) }

/-- Turn the entries of a handle off. -/
def State.offSpecs (s : State) (k hid : Nat) : State :=
  (s.onGfeAt k fun g => { g with specs := g.specs.map fun p => if p.hid = hid then { p with off := true } else p }).freeSpecs k

def specinCheck (hid : Nat) (s : State) : GVerdict :=
  let g := s.gfe
  let h := s.gent hid
  (handleVerdict hid s).and <| (gneed (decide (h.fmt < 9)) 2 1).and <|
    match (s.offSpecs s.act.gfe hid).historyRegion (issueAsker g s.act.gfe) h with
    | .ok _ => .ok
    | .error f => .trap ⟨0x0A, f, hid, 0⟩

/-- SPECIN; a second one of a handle replaces the first for the records after it, and consumers that speculate keep the first's history. -/
def execSpecin (fuse hid kind depthM1 : Nat) (mean : Bool) (alpha abs rel : Nat) (s : State) : Host.Outcome State Fault Refusal :=
  let i := Instr.specin fuse hid kind depthM1 mean alpha abs rel
  recOp i (specinCheck hid s) s fun s =>
    match (s.offSpecs s.act.gfe hid).historyRegion (issueAsker s.gfe s.act.gfe) (s.gent hid) with
    | .ok ((r, h1, h2), t) =>
      let p : SpecHandle := ⟨hid, kind, depthM1 + 1, mean, alpha, abs, rel, t.nextOp, h1, h2, 0, r, false, false⟩
      runDone i (t.onGfe fun g => { g with specs := g.specs ++ [p] })
    | .error _ => s

def execSpecoff (fuse hid : Nat) (s : State) : Host.Outcome State Fault Refusal :=
  let i := Instr.specoff fuse hid
  recOp i (handleVerdict hid s) s fun s => runDone i (s.offSpecs s.act.gfe hid)

/-- TFREE; the history of a speculable handle goes with it (R421). -/
def execTfree (fuse a b : Nat) (s : State) : Host.Outcome State Fault Refusal :=
  recOp (.tfree fuse a b) (tfreeCheck a b s) s fun s =>
    let k := s.act.gfe
    gfeDone (.tfree fuse a b) (((((s.freeHandle s.gfe a).freeHandle s.gfe b).drainReleases).offSpecs k a).offSpecs k b)

/-! ### Records that every shard waits in (R341, R344, R345) -/

/-- Every other GFE of the set waits for shard 0. -/
def State.othersWait (s : State) : Bool :=
  s.gfe.set.all fun k => k == s.act.gfe || (match (s.gfeAt k).block with
    | .shard0 => true
    | _ => false)

/-- Every GFE of the set goes on after its record. -/
def State.allGoOn (s : State) (i : Instr) : State :=
  s.gfe.set.foldl (fun t k => t.onGfeAt k fun g => { g with pc := g.pc + recordBytes i, block := .none, fuse := recordFuse i, fused := false }) s

/-- Shard 0 performs a record once every GFE of the set has come to it. -/
def jointVerdict (s : State) (v : GVerdict) : GVerdict :=
  (gwait (s.busyOps s.act.gfe)).and (if s.gfe.shard = 0 then (gwait (!(s.othersWait))).and v else .ok)

/-- The other shards wait. -/
def jointly (s : State) (f : State → State) : State := if s.gfe.shard = 0 then f s else s.onGfe fun g => { g with block := .shard0 }

/-! ### OPINSTALL (R339 to R343) -/

/-- What reading an image's bytes gives: the bytes; an address in the heap or a page without X; one that is not mapped; or another
domain's memory, which has to be waited for (log 20). -/
inductive ImgRead where
  | ok (l : List Byte)
  | trap (va : Nat)
  | fault (va : Nat)
  | wait
deriving DecidableEq, Repr

/-- Where a leaf with X = 1 puts an address (R95). -/
def State.leafXlat (s : State) (e : TEnv) (p va : Nat) : Xlat :=
  if pteDisc p then .ok .zero false false none
  else match pteTT p with
    | 0 => .ok (.mem (leafTA p va)) false false none
    | 5 => .ok (.mmio (leafTA p va)) false true none
    | 6 => .ok (.pcie (leafTA p va)) false false none
    | 7 => .ok (.chip (leafTA p va)) false false none
    | _ => s.xlatWindow e (leafTA p va) .read false none

/-- Read parts of an image from pages with X = 1 (R91, R98). -/
def State.imageParts (s : State) (e : TEnv) : List (Nat × Nat × Nat) → ImgRead
  | [] => .ok []
  | (va, _, n) :: r =>
    if windowVa ≤ va || (decide (e.hbase ≤ va) && decide (va < e.hlimit)) then .trap va
    else match s.walk e.die e.ctxid va with
      | .fault => .fault va
      | .wait => .wait
      | .leaf p _ =>
        if !(pteX p) then .trap va
        else match s.leafXlat e p va with
          | .fault _ => .fault va
          | .ok loc swz _ _ =>
            if !(s.allReachable e.die [⟨loc, 0, n, swz⟩]) then .wait
            else match s.imageParts e r with
              | .ok l => .ok (s.pieceBytes ⟨loc, 0, n, swz⟩ ++ l)
              | x => x

def State.imageBytes (s : State) (ctxid va n : Nat) : ImgRead := s.imageParts (s.unitEnv ctxid) (lineSplit (n / 64 + 2) va 0 n)

/-- The header of an image (R340). -/
structure ImgHdr where
  magic : Nat
  nb : Nat
  entry : Nat
  nfp : Nat
  til : Nat
  nlive : Nat
  cnts : List Nat
  boff : Nat
  foff : Nat
  loff : Nat
  zero : Bool
deriving DecidableEq, Repr

def imgHdr (l : List Byte) : ImgHdr :=
  let f := fun i n => leNat ((l.drop i).take n)
  { magic := f 0 4, nb := f 4 2, entry := f 6 2, nfp := f 8 2, til := f 0x0A 1, nlive := f 0x0B 1, cnts := (upTo 6).map fun k => f (0x0C + 2 * k) 2,
    boff := f 0x18 4, foff := f 0x1C 4, loff := f 0x20 4, zero := f 0x24 28 == 0 }

/-- Every field in range. -/
def ImgHdr.ok (h : ImgHdr) : Bool :=
  h.magic == 0x57454F31 && decide (1 ≤ h.nb) && decide (h.nb ≤ 7680) && decide (h.entry < h.nb) && decide (1 ≤ h.nfp) && decide (h.nfp ≤ 24)
    && decide (h.til % 8 ≤ 5) && bitsOf h.til 6 2 == 0 && !(bitOf h.til 3) && h.boff % 32 == 0 && h.foff % 4 == 0 && h.loff % 16 == 0 && h.zero

/-- Footprint words, and a footprint entry in range. -/
def footWords (n : Nat) (l : List Byte) : List Nat := (upTo n).map fun k => leNat ((l.drop (4 * k)).take 4)
def footOk (w : Nat) : Bool := w % 4 != 0 && bitsOf w 2 2 == 0 && decide (bitsOf w 4 4 ≤ 4) && w / 256 == 0

/-- Live ranges: CKID, footprint index, length, offset; and the rows in range. -/
def liveRows (n : Nat) (l : List Byte) : List (Nat × Nat × Nat × Nat) :=
  (upTo n).map fun k =>
    let f := fun i m => leNat ((l.drop (16 * k + i)).take m)
    (f 0 1, f 1 1, f 4 4, f 8 8)
def liveOk (nfp n : Nat) (l : List Byte) : Bool :=
  (upTo n).all fun k =>
    let f := fun i m => leNat ((l.drop (16 * k + i)).take m)
    decide (f 0 1 ≤ 63) && decide (f 1 1 < nfp) && f 2 2 == 0

/-- The bundles of an image. -/
def bundlesOf (n : Nat) (l : List Byte) : List Nat := (upTo n).map fun k => leNat ((l.drop (32 * k)).take 32)

/-- A bundle that an idempotent operator may not hold (R342). -/
def notIdem (b : Nat) : Bool :=
  bitsOf b 228 8 == 0x58 || [0x11, 0x15, 0x18, 0x19, 0x21, 0x24, 0x25, 0x28, 0x29, 0x2A].contains (bitsOf b 48 8)

/-- The lowest run of n free indices below 7,680 (log 18). -/
def freeRun (store : AMap (BitVec 256)) (n : Nat) : Nat → Nat → Nat → Option Nat
  | 0, _, _ => none
  | k + 1, i, run =>
    if run = n then some (i - n)
    else if 7680 ≤ i then none
    else freeRun store n k (i + 1) (if (AMap.find? store i).isSome then 0 else run + 1)

/-- What an image comes to: the operator to install with its bundles, or why not. -/
inductive ImgOut where
  | ok (m : Installed) (bundles : List Nat)
  | no (v : GVerdict)
deriving DecidableEq, Repr

/-- A wait; else the lowest address in the heap or a page without X that the reads met, if any; else the first that is not mapped. -/
def firstBad (l : List ImgRead) : Option GVerdict :=
  let ts := l.filterMap fun r => match r with
    | .trap a => some a
    | _ => none
  if l.any (fun r => match r with
    | .wait => true
    | _ => false) then some .hold
  else match ts with
  | a :: r => some (.trap ⟨6, r.foldl min a, 0, 0⟩)
  | [] => l.findSome? fun r => match r with
    | .fault a => some (GVerdict.fault 6 a)
    | _ => none

def ImgRead.bytes : ImgRead → List Byte
  | .ok l => l
  | _ => []

/-- Read and check an image; a header that is not 64-byte aligned is out of range. -/
def State.readImage (s : State) (idem : Bool) (addr opc pbound : Nat) : ImgOut :=
  let c := s.gfe.ctxid
  let h0 := s.imageBytes c addr 64
  match firstBad [h0] with
  | some v => .no v
  | none =>
    let h := imgHdr h0.bytes
    if !h.ok || addr % 64 != 0 then .no (.trap ⟨2, 0, 0, 1⟩)
    else
      let fp := s.imageBytes c (addr + h.foff) (4 * h.nfp)
      let lv := s.imageBytes c (addr + h.loff) (16 * h.nlive)
      let bs := s.imageBytes c (addr + h.boff) (32 * h.nb)
      match firstBad [fp, lv, bs] with
      | some v => .no v
      | none =>
        let foot := footWords h.nfp fp.bytes
        let bundles := bundlesOf h.nb bs.bytes
        if !(foot.all footOk) || !(liveOk h.nfp h.nlive lv.bytes) then .no (.trap ⟨2, 0, 0, 1⟩)
        else if opc < 0x200 || (s.installed.any fun m => m.ctxid == c && m.opcode == opc) then .no (.trap ⟨2, 0, 0, 2⟩)
        else if idem && bundles.any notIdem then .no (.trap ⟨2, 0, 0, 3⟩)
        else match freeRun s.store h.nb 8000 0 0 with
          | none => .no (.trap ⟨0x0A, h.nb, 0, 0⟩)
          | some first => .ok ⟨c, opc, first, h.nb, h.entry, h.til, h.cnts, foot, liveRows h.nlive lv.bytes, pbound, idem, false⟩ bundles

/-- Write an image into every core. -/
def State.install (s : State) (m : Installed) (bundles : List Nat) : State :=
  { s with
    installed := s.installed ++ [m]
    store := (List.zip (upTo bundles.length) bundles).foldl
      (fun t p => AMap.ins (m.first + p.1) (BitVec.ofNat 256 (relocate m.first p.2)) t) s.store }

def opinstallCheck (idem : Bool) (addr : Sow) (opc : Nat) (pbound : Sow) (s : State) : GVerdict :=
  jointVerdict s (match s.readImage idem (s.gfe.sow addr % 2 ^ 56) opc (s.gfe.sow pbound % 2 ^ 32) with
    | .ok _ _ => .ok
    | .no v => v)

def execOpinstall (fuse : Nat) (idem : Bool) (addr : Sow) (opc : Nat) (pbound : Sow) (s : State) : Host.Outcome State Fault Refusal :=
  let i := Instr.opinstall fuse idem addr opc pbound
  recOp i (opinstallCheck idem addr opc pbound s) s fun s => jointly s fun s =>
    match s.readImage idem (s.gfe.sow addr % 2 ^ 56) opc (s.gfe.sow pbound % 2 ^ 32) with
    | .ok m bs => (s.install m bs).allGoOn i
    | .no _ => s

/-! ### OPREMOVE (R344) -/

/-- An issued instance of an image. -/
def State.instances (s : State) (ctxid first : Nat) : Bool := s.ops.any fun o => o.ctxid == ctxid && o.image == some first

def opremoveCheck (opc : Nat) (s : State) : GVerdict :=
  match s.gfe.block with
  | .removing f => gwait (s.instances s.gfe.ctxid f)
  | _ => if s.gfe.shard = 0 then (gwait (!(s.othersWait))).and (gneed (s.installedAt s.gfe.ctxid opc).isSome 2 1) else .ok

/-- OPREMOVE: the opcode is refused at once; its indices are free once its instances have completed. -/
def execOpremove (fuse opc : Nat) (s : State) : Host.Outcome State Fault Refusal :=
  let i := Instr.opremove fuse opc
  recOp i (opremoveCheck opc s) s fun s => jointly s fun s =>
    match s.gfe.block, s.installedAt s.gfe.ctxid opc with
    | .removing f, _ =>
      let nb := (s.image? s.gfe.ctxid f).elim 0 Installed.nb
      { s with
        installed := s.installed.filter fun m => !(m.ctxid == s.gfe.ctxid && m.first == f)
        store := s.store.filter fun p => !(decide (f ≤ p.1) && decide (p.1 < f + nb)) }.allGoOn i
    | _, some m =>
      { s with installed := s.installed.map fun (x : Installed) => if x.ctxid = m.ctxid && x.first = m.first then { x with removed := true } else x }.onGfe
        fun g => { g with block := .removing m.first }
    | _, none => s

/-! ### Service calls (R186, R345, R428) -/

/-- The 64 bytes of a service record. -/
def svcBytes (num : Nat) (args : List Nat) (token wher ctxid flags : Nat) : List Byte :=
  leBytes num 8 ++ ((upTo 6).flatMap fun k => leBytes (nth 0 args k) 8) ++ leBytes token 4 ++ leBytes wher 2 ++ leBytes (ctxid % 64) 1
    ++ leBytes flags 1

/-- The first number from t on that no waiting call has. -/
def freeToken (used : List Nat) : Nat → Nat → Nat
  | 0, t => t
  | n + 1, t => if used.contains t then freeToken used n ((t + 1) % 2 ^ 32) else t

/-- The token of the next call: the device chooses one that no waiting call has (log 5). -/
def State.svcToken (s : State) : Nat := freeToken (s.svcCalls.map SvcCall.token) (s.svcCalls.length + 1) (Config.freeNat s.fresh % 2 ^ 32)

/-- Write a record to a region's service ring and signal the control cores; a ring that cannot be used is bad. -/
def State.serviceRing (s : State) (e : TEnv) (die rcb : Nat) (bs : List Byte) : Filled :=
  let va := s.effective e.ctxid rcb 9 0x68 8
  if va = 0 then .bad
  else match s.fillRing e die va bs (fun r => r.dir || r.slotsz != 1) with
    | .ok t => .ok (t.say (.msi (s.dev e.ctxid).svcMsi.addr (s.dev e.ctxid).svcMsi.data))
    | .fault _ _ => .bad
    | x => x

/-- The record of a call of the acting GFE. -/
def State.gfeCall (s : State) (args : List Nat) : Filled :=
  let g := s.gfe
  s.serviceRing (s.unitEnv g.ctxid) (s.act.gfe / 4) g.rcb
    (svcBytes (AMap.get (0 : Word) g.g 1).toNat args s.svcToken (g.shard % 8) g.ctxid 1)

/-- A shard that calls waits for the whole stream, then for its release, then for a slot of the ring (R345). -/
def syscallCheck (fuse : Nat) (each : Bool) (args : List Sow) (s : State) : GVerdict :=
  let g := s.gfe
  (gwait (s.busyOps s.act.gfe)).and <|
    if !(g.performs each) then .ok
    else (gwait (if each then !(s.streamQuiet (.syscall fuse each args)) else !(s.othersWait))).and <|
      if !g.released then gwait (s.windowFull (s.act.gfe / 4))
      else match s.gfeCall (args.map g.sow) with
      | .ok _ => .ok
      | .full => .hold
      | _ => .trap ⟨0x12, 0, 0, 0⟩

/-- SYSCALL: a release at package scope, whose markers go first; then the record. The GFE waits for the result by its token, the others for shard 0
(R345). -/
def execSyscall (fuse : Nat) (each : Bool) (args : List Sow) (s : State) : Host.Outcome State Fault Refusal :=
  let i := Instr.syscall fuse each args
  recOp i (syscallCheck fuse each args s) s fun s =>
    if !(s.gfe.performs each) then s.onGfe fun g => { g with block := .shard0 }
    else if !s.gfe.released then (s.sendMarkers (s.act.gfe / 4)).onGfe fun g => { g with released := true }
    else match s.gfeCall (args.map s.gfe.sow) with
      | .ok t =>
        { t with
          svcCalls := t.svcCalls ++ [SvcCall.mk s.svcToken (AMap.get (0 : Word) s.gfe.g 1).toNat s.gfe.ctxid s.gfe.rcb 0 (s.act.gfe + 1)]
          fresh := t.fresh + 1 }.onGfe fun g => { g with block := .svc s.svcToken, released := false, joint := if each then g.joint + 1 else g.joint }
      | _ => s

/-- The result of a GFE's call: it presents it for g1 in the exchange, and so do the shards that waited for shard 0 (R345). -/
def gfeResult (k v : Nat) (s0 : State) : State :=
  let s := { s0 with act := { s0.act with gfe := k } }
  match s.currentRecord k with
  | some i =>
    let g := s.gfe
    let f := fun (x : Gfe) => { x with block := .exch 1 (BitVec.ofNat 64 v) (x.pc + recordBytes i) x.frames, fuse := recordFuse i, fused := false }
    let waiting := g.set.filter fun j => j != k && (match (s.gfeAt j).block with
      | .shard0 => true
      | _ => false)
    settleExchange (recordOpcode i) (waiting.foldl (fun t j => t.onGfeAt j f) (s.onGfeAt k f))
  | none => s

end Sys2Proof.Machine
end

