-- ==== Sys2Proof/Machine/Bind.lean ====
section
/-! DEFINITION. The dispatcher: the candidate list (R347, R348), priorities and aging (R48), the bind of tiles (R29, R30, R115, R116),
deals of job cards (R35 to R37, R381, R382), and the completion of operators (R23, R113, R117, R409). -/

namespace Sys2Proof.Machine

/-! ### Pre-emption as the dispatcher sees it (R45) -/

/-- A region or one above it is asked to pre-empt. -/
def State.stopsAt (s : State) (ctxid rcb : Nat) : Bool := (s.path ctxid rcb).any fun r => s.preempts.contains (ctxid, r.rcb)

/-! ### Candidates (R347, R348) -/

/-- Effective priority of an operator's next tile. -/
def State.opPrio (s : State) (o : OpInst) : Nat := min 15 (s.prio o.ctxid o.rcb + o.aged)

/-- Full steps of 2^20 clk since a time. -/
def State.stepsSince (s : State) (t : Nat) : Nat := (s.clk - t) / 2 ^ 20

/-- A writer of a speculable handle waits for the history to take the last version (R409). -/
def State.historyDue (s : State) (o : OpInst) : Bool :=
  o.handles.any fun h => h.wr && (s.gfeAt o.gfe).specs.any fun p => p.due && s.related o.ctxid o.shard h.hid p.hid

/-- An operator has a tile that may bind now. While its region is asked to pre-empt, one that has begun goes on until a tile of it has
stopped at a C mark. -/
def State.tileReady (s : State) (o : OpInst) : Bool :=
  let g := s.gfeAt o.gfe
  hasTiles o.record && !o.failed && o.stall.isNone && s.rstate o.ctxid o.rcb == 1 && s.depsDone o
    && (s.followers o.id 64).all s.depsDone
    && ((decide (o.nextTile < o.total) && o.follows.isNone) || !o.again.isEmpty || !o.stopped.isEmpty)
    && !(s.stopsAt o.ctxid o.rcb && (o.nextTile == 0 || !o.stopped.isEmpty))
    && !(g.fused && g.stream == o.stream && (g.fuseLast.bind s.op?).elim false fun p => p.group == o.group)
    && !(s.historyDue o)

/-- The cluster of an operand in cluster scratch. -/
def State.clusterOf (s : State) (o : OpInst) (h : OpHandle) : Option Nat := (s.opEnt o h.wr h.hid).bind HEnt.cluster

/-- A handle in a cluster's scratch binds the tiles that name it only on cores of that cluster, those of the members that follow too (R32,
R115). Handles in two clusters leave no core (log 18). -/
def State.confined (s : State) (o : OpInst) (core : Nat) : Bool :=
  (o :: s.followers o.id 64).all fun p => p.handles.all fun h => (s.clusterOf p h).all fun c => core % 128 / 8 == c

/-- FWSHARE.FW (R41, R371). -/
def Core.fw (c : Core) : Bool := bitOf (c.kreg 0x49) 8

/-- A context that work may bind to. -/
def State.coreFree (s : State) (core x : Nat) : Bool :=
  (s.ctxAt (4 * core + x)).status == .empty && decide (x < 4) && !((s.coreAt core).fw && x == 3) && !(s.coreAt core).halted
    && !(s.coreAt core).gated

/-- A candidate: effective priority, clk waited, whether it is a card, and its number. -/
structure Cand where
  prio : Nat
  wait : Nat
  card : Bool
  num : Nat
deriving DecidableEq, Repr

/-- One candidate goes before another (R347). -/
def Cand.beats (a b : Cand) : Bool :=
  decide (b.prio < a.prio) || (a.prio == b.prio && (decide (b.wait < a.wait) || (a.wait == b.wait && a.card == b.card && decide (a.num < b.num))))

/-- A record of the queue's last card has not entered its ring: the queue stays blocked (R365). -/
def State.cardTraps (s : State) (qi : Nat) : Bool := s.traps.any fun r => r.unit == .card qi

/-- A card at the head of a queue that may be dealt. -/
def State.cardReady (s : State) (qi : Nat) : Bool :=
  let q := s.queue qi
  q.state == 1 && q.isTask && !q.elems.isEmpty && q.checked && !q.faulted && !(s.cardTraps qi) && decide (s.rstate q.owner.1 q.owner.2 ≤ 1)
    && !(s.stopsAt q.owner.1 q.owner.2)

/-- The element at the head. -/
def HwQueue.head (q : HwQueue) : QElem := nth ⟨0, 0, 0⟩ q.elems 0

/-- Effective priority of a queue's card (R48, R354). -/
def State.cardPrio (s : State) (qi : Nat) : Nat :=
  let q := s.queue qi
  if q.high then 15 else min 15 (s.prio q.owner.1 q.owner.2 + s.stepsSince q.head.since)

def State.opCand (s : State) (o : OpInst) : Cand := ⟨s.opPrio o, s.clk - o.since, false, o.id⟩
def State.cardCand (s : State) (qi : Nat) : Cand := ⟨s.cardPrio qi, s.clk - (s.queue qi).head.since, true, qi % 256⟩

/-- Candidates of a core's die that may run on that core. -/
def State.cands (s : State) (core : Nat) : List Cand :=
  let die := dieOfCore core
  (s.ops.filter fun o => o.gfe / 4 == die && s.tileReady o && s.confined o core).map s.opCand
    ++ ((s.queues.filter fun p => p.1 / 256 == die && s.cardReady p.1).map fun p => s.cardCand p.1)

/-- Whether a region lets its work issue and hold a context: STATE 3 to 7 do not (R10, R50). -/
def State.regionIssues (s : State) (c : Ctx) : Bool := !c.bound || decide (s.rstate c.work.ctxid c.work.rcb ≤ 2)

/-- Work dealt from or waiting on a queue above its high watermark has the highest priority (R354). -/
def State.onHighQueue (s : State) (c : Ctx) : Bool :=
  (match c.status with
    | .blocked (.deq qi) => (s.queue qi).high
    | _ => false)
  || (match c.work.job with
    | .task die q _ _ _ _ => (s.queue (256 * die + q)).high
    | _ => false)

/-- Effective priority of a bound context's work, and of an evicted context, which waits to bind (R48). -/
def State.ctxPrio (s : State) (c : Ctx) : Nat := if s.onHighQueue c then 15 else s.prio c.work.ctxid c.work.rcb
def State.savedPrio (s : State) (v : Saved) : Nat := min 15 (s.ctxPrio v.ctx + s.stepsSince v.since)

/-- No other candidate goes first, and every evicted context of the core that may come back has a lower priority (R50, R349). -/
def State.isFirst (s : State) (core : Nat) (c : Cand) : Bool :=
  !((s.cands core).any fun d => d.beats c) && !((s.coreAt core).saved.any fun v => s.regionIssues v.ctx && decide (c.prio ≤ s.savedPrio v))

/-- Every aging step of a die's waiting operators has been taken (R48). -/
def State.agingSettled (s : State) (die : Nat) : Bool :=
  s.ops.all fun o => o.gfe / 4 != die || !(s.tileReady o) || decide (15 ≤ s.prio o.ctxid o.rcb + o.aged) || decide (s.stepsSince o.since ≤ o.aged)

/-- PRIORITY_AGING: a waiting operator gains a step for a full 2^20 clk. -/
def ageOp (op : Nat) (s : State) : State :=
  match s.op? op with
  | some o => if s.tileReady o && decide (o.aged < s.stepsSince o.since) && decide (s.prio o.ctxid o.rcb + o.aged < 15) then
      s.onOp op fun p => { p with aged := p.aged + 1 } else s
  | none => s

def execPriorityAging (op : Nat) (s : State) : Host.Outcome State Fault Refusal := always s (ageOp op)

/-! ### The bind of a tile (R29 to R32, R115, R116) -/

/-- Whoever asks for regions as an operator's tile binds on a core. -/
def OpInst.asker (o : OpInst) (core : Nat) : Asker :=
  { ctxid := o.ctxid, rcb := o.rcb, plane := o.shard, die := dieOfCore core, core := some (core % 128) }

/-- Place the operands of an operator for a tile on a core: the state, or the handle and FADDR of the failure. -/
def State.placeTile (s : State) (o : OpInst) (core : Nat) : List OpHandle → Except (Nat × Nat) State
  | [] => .ok s
  | h :: hs =>
    match s.opEnt o h.wr h.hid with
    | none => s.placeTile o core hs
    | some e =>
      match s.placeForTile (o.asker core) o.group core e (levelsOf e.pin h.level (s.preferred o.ctxid o.shard h.hid)) with
      | .ok t => t.placeTile o core hs
      | .error f => .error (h.hid, f)

def State.placeTiles (s : State) (core : Nat) : List OpInst → Except (Nat × Nat) State
  | [] => .ok s
  | o :: os =>
    match s.placeTile o core o.handles with
    | .ok t => t.placeTiles core os
    | .error e => .error e

/-- A pattern copy of a placed entry's bytes to another of the same length, or the fault that stops it. -/
def State.copyEntry (s : State) (ctxid plane a b : Nat) : Except (Nat × Nat) State :=
  match s.rawEntry ctxid plane a, s.rawEntry ctxid plane b with
  | some x, some y =>
    if x.placed && y.placed then
      (match s.unitRead (s.unitEnv ctxid) x.base (min x.len y.len) with
       | .ok l => (s.readBy ctxid x.base (min x.len y.len)).unitWrite (s.unitEnv ctxid) y.base l
       | .error f => .error f)
    else .ok s
  | _, _ => .ok s

/-- The prediction of an architected operator as a tile binds: PRED of H1 and H2 as they stand, over its buffer (R411, R412, log 106). -/
def State.predictAll (s : State) (o : OpInst) : State :=
  match s.specOf o, o.shadowOf o.specHid with
  | some p, some b =>
    (match s.rawEntry o.ctxid o.shard p.h1, s.rawEntry o.ctxid o.shard (if p.count < 2 then p.h1 else p.h2), s.rawEntry o.ctxid o.shard b with
     | some h1, some h2, some d =>
       (upTo d.count).foldl (fun t k =>
         let ix := coords d.dims k
         match s.readElem o.ctxid o.shard h1 ix, s.readElem o.ctxid o.shard h2 ix with
         | .ok v1, .ok v2 => (match t.writeElem o.ctxid o.shard d ix (predElem d.fmt p.kind p.alpha v1 v2) with
           | .ok u => u
           | .error _ => t)
         | _, _ => t) s
     | _, _, _ => s)
  | _, _ => s

/-- Before the first tile of a speculating operator binds, each shadow takes its output's local shard (R412). -/
def State.fillShadows (s : State) (o : OpInst) : Except (Nat × Nat) State :=
  if !o.speculating || o.nextTile != 0 then .ok s
  else (o.shadows.filter fun p => o.outs.contains p.1).foldlM (fun t p => t.copyEntry o.ctxid o.shard (o.under true p.1) p.2) s

/-- Whether the prediction of a tile's box lies within the tolerance of the real input (R236, R417). -/
def State.predictionPasses (s : State) (o : OpInst) (ix : List Nat) : Bool :=
  match s.specOf o, (o.shadowOf o.specHid).bind (s.rawEntry o.ctxid o.shard), s.opEnt o false o.specHid with
  | some p, some b, some h =>
    let st := p.abs + p.rel * 2 ^ 16 + p.mean.toNat * 2 ^ 32
    let box := (tileBox h.dims o.counts ix).elim [] fun q => boxCoords ((List.zip q.1 q.2).map fun r => (r.1, r.2 + 1))
    let pats := fun (e : HEnt) => box.map fun c => match s.readElem o.ctxid o.shard e c with
      | .ok v => v
      | .error _ => 0
    bitOf (byteAt (tcmpVerdict h.fmt st (List.zip (pats h) (pats b))) 0) 0
  | _, _, _ => false

/-- The verdict of one tile of an architected operator (R417). -/
def State.judgeArch (s : State) (op lin : Nat) (ix : List Nat) : State :=
  match s.op? op with
  | some o =>
    if o.phase == .judging && o.image.isNone && o.behind.isNone && !(o.asked.contains lin) then
      s.onOp op fun p => { p with verdicts := p.verdicts ++ [s.predictionPasses o ix], asked := p.asked ++ [lin] }
    else s
  | none => s

/-- The tiles that the walker has handed out, by number. -/
def OpInst.walked (o : OpInst) : List (Nat × List Nat) :=
  ((upTo o.nextTile).foldl (fun (a : Nat × List (Nat × List Nat)) k =>
    let t := walkTile o.order o.counts a.1
    (t.2, a.2 ++ [(k, t.1)])) (0, [])).2

/-- The verdicts of an architected operator's tiles that have run when its producer completes. -/
def State.judgeWhole (s : State) (op : Nat) : State :=
  match s.op? op with
  | some o => (o.walked.filter fun p => !(o.again.any fun r => r.lin == p.1)).foldl (fun t p => t.judgeArch op p.1 p.2) s
  | none => s

/-- Put saved ranges back into the local shards of their handles (R46, R363). -/
def State.restore (s : State) (o : OpInst) (l : List (Nat × Nat × List Byte)) : State :=
  l.foldl (fun t r => match t.opEnt o (o.writes r.1) r.1 with
    | some h => (match t.unitWrite (t.unitEnv o.ctxid) (h.base + r.2.1) r.2.2 with
      | .ok u => u
      | .error _ => t)
    | none => t) s

/-- The walker's effects of an architected tile's reads, taken over the shards it reads (R101, log 12). -/
def State.readShards (s : State) (o : OpInst) : State :=
  (o.handles.filter OpHandle.rd).foldl (fun t h => match t.opEnt o false h.hid with
    | some e => t.readBy o.ctxid e.base e.len
    | none => t) s

/-- Run a tile on a context: an installed operator's binds, an architected one's runs, and so do the members that follow it. -/
def State.runTile (s : State) (o : OpInst) (core x : Nat) (r : TileRun) : State :=
  match o.image with
  | some _ => s.bindMinted o core x r (if r.ckid.isSome then some r.pc else none)
  | none =>
    match (if o.speculating && o.behind.isNone then s.predictAll o else s).archTile o core r.ix with
    | .error f => s.archFault o core x r f
    | .ok u =>
      let u1 := ((u.readShards o).tileDone o.id).judgeArch o.id r.lin r.ix
      match u1.follower o.id with
      | some p => runMembers 64 p core x r.lin r.ix u1
      | none => u1

/-- The tile a bind takes: one to run again, one that stopped, or the walker's next; with the operator after it is taken. -/
def OpInst.nextRun (o : OpInst) (now : Nat) : TileRun × OpInst :=
  match o.again, o.stopped with
  | r :: l, _ => (r, { o with again := l, since := now, aged := 0 })
  | [], r :: l => (r, { o with stopped := l, kept := o.kept ++ [r], since := now, aged := 0 })
  | [], [] =>
    let t := o.take now
    ({ lin := t.1.1, ix := t.1.2 }, t.2)

/-- A tile whose handles cannot be placed traps with cause 0x0A and the tile's indices, and so ends with its members' tiles; what a tile that had
stopped held returns. -/
def State.allocTrap (s : State) (o : OpInst) (core x hid f : Nat) : State :=
  let r := o.nextRun s.clk
  let s1 := ({ s with traps := s.traps ++ [s.opRec o core x r.1.ix true ⟨0x0A, f, hid, 0⟩ false], fresh := s.fresh + 1 }.onOp o.id fun _ => r.2).giveBackTo
    (dieOfCore core) o.ctxid o.rcb (r.1.hg + r.1.cb) false
  (s.followers o.id 64).foldl (fun t p => t.onOp p.id fun q => { q with nextTile := q.nextTile + 1 }) s1

/-! ### Blocks placed again (R46) -/

/-- The views and releases of a displaced block follow its handle's new block. -/
def State.followBlock (s : State) (d : Displaced) : State :=
  match s.blockOf d.block.ctxid d.block.plane d.block.hid with
  | none => s
  | some b =>
    let va := s.blockVa b
    let t := d.views.foldl (fun t v => match t.rawEntry b.ctxid b.plane v.1 with
      | some h => t.setEntry b.ctxid b.plane (h.place (va + v.2.1) v.2.2 b.level)
      | none => t) s
    { t with
      blocks := t.blocks.map fun (c : Block) => if c.id = b.id then { c with views := d.block.views } else c
      releases := t.releases ++ d.releases.map fun r => (b.id, r.1, r.2.1, r.2.2.1, r.2.2.2)
      displaced := t.displaced.filter fun e => e.block.id != d.block.id }

/-- Place a displaced block's handle again on a die, on a core where one is given: at its level, else at a lower one. -/
def State.replace (s : State) (d : Displaced) (die : Nat) (core : Option Nat) : Except (Nat × Nat) State :=
  match s.rawEntry d.block.ctxid d.block.plane d.block.hid with
  | none => .ok { s with displaced := s.displaced.filter fun e => e.block.id != d.block.id }
  | some h =>
    if h.placed then .ok (s.followBlock d)
    else
      let a : Asker := { ctxid := d.block.ctxid, rcb := d.block.rcb, plane := d.block.plane, die := die, core := core }
      let levels := levelsOf h.pin d.block.level (s.preferred d.block.ctxid d.block.plane d.block.hid)
      let placed := match core with
        | some c => if d.block.by_ = 0 then s.placeHandle a h levels else s.placeForTile a d.block.by_ (128 * die + c) h levels
        | none => s.placeHandle a h levels
      match placed with
      | .ok t => .ok (t.followBlock d)
      | .error f => .error (h.hid, f)

def State.replaceAll (s : State) (dieOf : Displaced → Nat) (core : Option Nat) : List Displaced → Except (Nat × Nat) State
  | [] => .ok s
  | d :: l =>
    match s.replace d (dieOf d) core with
    | .ok t => t.replaceAll dieOf core l
    | .error e => .error e

/-- A block whose handle or views an operator names. -/
def Displaced.namedBy (d : Displaced) (o : OpInst) : Bool :=
  d.block.ctxid == o.ctxid && d.block.plane == o.shard && o.handles.any fun h => o.under h.wr h.hid == d.block.hid || d.block.views.contains h.hid

/-- The fill of a shadow faults: its record is not of a speculating context, and the operator waits for the resolution (R104, R412). -/
def State.fillFault (s : State) (o : OpInst) (f : Nat × Nat) : State :=
  let r := s.opRec o 0 0 [] false ⟨f.1, f.2, 0, 0⟩ (f.1 != 9)
  { s with traps := s.traps ++ [{ r with held := false }], fresh := s.fresh + 1 }.onOp o.id fun p =>
    { p with stall := if f.1 = 9 then p.stall else some (f.2, 0), failed := f.1 == 9 }

/-- A handle of an operator lies in regions that its tiles take on their cores. -/
def State.perCore (s : State) (o : OpInst) (hid : Nat) : Bool :=
  match s.opEnt o (o.writes hid) hid with
  | some h => s.heldByTile o.group o.ctxid o.shard h
  | none => false

/-- Bind the next tile of an operator that may bind: what a pre-emption left unplaced is placed again with the contents saved at the stop; of a
handle that each core has a region of, with what the tile itself saved. -/
def State.bindNext (s : State) (o : OpInst) (core x : Nat) : State :=
  let lost := fun (r : Nat × Nat × List Byte) => match s.opEnt o (o.writes r.1) r.1 with
    | some h => !h.placed
    | none => false
  match s.replaceAll (fun _ => dieOfCore core) (some (core % 128)) (s.displaced.filter fun d => d.namedBy o) with
  | .error (hid, f) => s.allocTrap o core x hid f
  | .ok s1 =>
    match s1.placeTiles core (o :: s1.followers o.id 64) with
    | .error (hid, f) => s1.allocTrap o core x hid f
    | .ok s2 =>
      match s2.fillShadows o with
      | .error f => if f.1 = 0 then s else s2.fillFault o f
      | .ok s3 =>
        let r := o.nextRun s.clk
        let back := ((o.stopped.flatMap TileRun.saved).filter fun p => lost p && !(s3.perCore o p.1))
          ++ r.1.saved.filter fun p => decide (0 < r.1.replays) || s3.perCore o p.1
        ((s3.onOp o.id fun _ => r.2).restore o back).runTile o core x r.1

/-- TILE_BIND. -/
def tileBind (op core x : Nat) (s : State) : State :=
  match s.op? op with
  | none => s
  | some o =>
    if o.gfe / 4 == dieOfCore core && s.tileReady o && s.coreFree core x && s.confined o core && s.agingSettled (dieOfCore core)
        && s.isFirst core (s.opCand o) then (s.onDie (dieOfCore core)).bindNext o core x
    else s

def execTileBind (op core x : Nat) (s : State) : Host.Outcome State Fault Refusal := always s (tileBind op core x)

/-! ### Cards (R35 to R37, R381, R382) -/

/-- The trap record of a queue's card. -/
def State.cardRec (s : State) (qi cause faddr : Nat) (res : Bool) : TrapRec :=
  let o := (s.queue qi).owner
  let w : TrapWho := { ctxid := o.1, rcb := o.2, opcode := 0, opc := 0, shard := (s.queue qi).head.plane, epc := 0, wher := 0, tix := [],
                       tv := false, bv := false, low := false, spec := false }
  { bytes := trapBytes (s.fdom o.1 o.2) s.time w ⟨cause, faddr, 0, 0⟩, ctxid := o.1, rcb := o.2, ck := 0, gk := 0, op := 0, cause := cause,
    res := res, held := false, spec := false, unit := .card qi }

/-- Discard the card at the head; its gravity returns (R382, R393). -/
def State.discardCard (s : State) (qi grav : Nat) (lost : Bool) : State :=
  let o := (s.queue qi).owner
  (s.giveBackTo (qi / 256) o.1 o.2 grav lost).onQueue qi fun q => { q.remove with faulted := false }

/-- The card at the head of a queue. -/
def State.headCard (s : State) (qi : Nat) : Except (Nat × Nat) Card := s.cardAt (s.queue qi).owner.1 (s.queue qi).head.val

/-- CARD_HEAD_CHECK: a card that reaches the head is read and checked; a stopped region's is discarded (R360), LOST set even where its GRAV cannot
be read. A read that faults has cause 0x06 and FADDR the card's address (R37). -/
def headCheck (qi : Nat) (s : State) : State :=
  let q := s.queue qi
  let dead := s.rstate q.owner.1 q.owner.2 == 3 || s.rstate q.owner.1 q.owner.2 == 4
  if !q.isTask || q.elems.isEmpty || (!dead && (q.checked || q.faulted)) || !(q.state == 1 || q.state == 2) || s.cardTraps qi then s
  else
    match s.headCard qi with
    | .error f =>
      if dead then (if f.1 = 0 then s else (s.discardCard qi 0 true).loseGrav q.owner.1 q.owner.2)
      else
        let va := q.head.val % 2 ^ 56
        { s with traps := s.traps ++ [s.cardRec qi (if f.1 = 0 then 0 else 6) va true] }.onQueue qi fun q => { q with faulted := true, faultAt := va }
    | .ok c =>
      if dead then s.discardCard qi c.grav true
      else if c.ok then s.onQueue qi fun q => { q with checked := true }
      else { s with traps := s.traps ++ [s.cardRec qi 0x0E 0 false] }.discardCard qi c.grav false

def execCardHeadCheck (die q : Nat) (s : State) : Host.Outcome State Fault Refusal := always s fun s => headCheck (256 * die + q) (s.onDie die)

/-- Contexts bound to work of a queue. -/
def State.boundTo (s : State) (qi : Nat) : Nat := (s.ctxs.filter fun p => p.2.dealtFrom qi).length

/-- The chunk of a deal (R35). -/
def chunkOf (remaining w : Nat) : Nat := max 1 (cdiv remaining (2 * w))

/-- The share of a chunk: the whole of the card's gravity with its last record, else a split (R381); none when the borrow is refused, and 0 in a
region without a root (R377). -/
def State.dealShare (s : State) (qi : Nat) (c : Card) (chunk : Nat) : Option ((Nat × Nat) × State) :=
  let die := qi / 256
  let o := (s.queue qi).owner
  match s.rootOf o.1 o.2 with
    | none => some ((0, c.grav), s)
    | some r =>
      if c.next + chunk = c.count then some ((c.grav, 0), s)
      else if s.canSplit die r c.grav 1 then some (s.split die r c.grav 1)
      else if s.closed r then none
      else some ((s.refill die r).split die r c.grav 1)

/-- Write NEXT and GRAV of a card, in one step (R381). -/
def State.dealt (s : State) (ctxid va next grav : Nat) : Except (Nat × Nat) State := do
  let t ← s.unitWrite (s.unitEnv ctxid) (va + 0x10) (leBytes next 4)
  t.unitWrite (t.unitEnv ctxid) (va + 0x18) (leBytes grav 5)

/-- The aging of the head card starts anew as a chunk of it binds (R48). -/
def HwQueue.dealt (q : HwQueue) (now : Nat) : HwQueue :=
  { q with elems := match q.elems with
      | e :: r => { e with since := now } :: r
      | [] => [] }

/-- Deal a chunk of the card at the head to an empty context. A card whose NEXT or GRAV cannot be written is checked again (log 62). One whose NEXT
is at or above COUNT gives a chunk of 0 and binds one task at NEXT (log 67). -/
def State.dealNow (s : State) (qi core x : Nat) : State :=
  let q := s.queue qi
  match s.headCard qi with
  | .error f => if f.1 = 0 then s else s.onQueue qi fun q => { q with checked := false }
  | .ok c =>
    let chunk := min (c.count - c.next) (chunkOf (c.count - c.next) (s.boundTo qi + 1))
    match s.dealShare qi c chunk with
    | none => { s with traps := s.traps ++ [s.cardRec qi 0x0F 0 false] }.discardCard qi c.grav false
    | some ((share, rest), t) =>
      match t.dealt q.owner.1 c.va (c.next + chunk) rest with
      | .error f => if f.1 = 0 then s else s.onQueue qi fun q => { q with checked := false }
      | .ok u =>
        let u1 := u.onQueue qi fun q => if c.next + chunk = c.count then q.remove else q.dealt s.clk
        (u1.readBy q.owner.1 c.va 32).bindTask core x (qi / 256) (qi % 256) c.next (chunk - 1) c q.owner.1 q.owner.2 q.head.plane share

/-- DEAL. -/
def deal (core x q : Nat) (s : State) : State :=
  let qi := 256 * dieOfCore core + q
  if s.cardReady qi && s.coreFree core x && s.agingSettled (dieOfCore core) && s.isFirst core (s.cardCand qi) then
    (s.onDie (dieOfCore core)).dealNow qi core x
  else s

def execDeal (core x q : Nat) (s : State) : Host.Outcome State Fault Refusal := always s (deal core x q)

/-! ### Completion (R23, R113, R117, R409, R417) -/

/-- A producer of a speculable handle has completed: its history is due, and the operators that predicted the version are judged. -/
def State.judgeConsumers (s : State) (o : OpInst) (hid : Nat) : State :=
  if !((s.gfeAt o.gfe).specs.any fun p => p.hid == hid && decide (p.since ≤ o.id)) then s
  else
    let s1 := s.onGfeAt o.gfe fun g => { g with specs := g.specs.map fun p => if p.hid = hid && decide (p.since ≤ o.id) then { p with due := true } else p }
    let cs := s1.ops.filter fun c => c.gfe == o.gfe && c.phase == .running && c.behind.isNone && c.specHid == hid
    cs.foldl (fun t c =>
      let t1 := t.onOp c.id fun p => { p with phase := .judging }
      (t1.ctxs.foldl (fun u p => if p.2.opId = c.id && p.2.spec then u.judgeTile p.1 else u) t1).judgeWhole c.id) s1

/-- Ask for the release of an input of an operator: what it was when the operator issued, if it has been redefined since. -/
def State.releaseInput (s : State) (o : OpInst) (hid : Nat) : State :=
  match (o.olds.find? fun p => p.1 == hid).bind fun p => s.rawEntry o.ctxid o.shard p.2 with
  | some e =>
    { s with releases := s.releases ++ ((s.blocks.filter fun b => b.ctxid == o.ctxid && b.plane == o.shard && s.inBlock e b && !(s.leaving b.id)
        && (b.hid == hid || b.hid == e.hid)).map fun b => (b.id, b.hid, o.ctxid, o.shard, o.id)) }
  | none => (s.askRelease o.ctxid o.shard hid o.id).offSpecs o.gfe hid

/-- The inputs of a record whose last use it is, which it does not write too, are released once earlier operators that name them have
completed (R117, R421). -/
def State.releaseInputs (s : State) (o : OpInst) : State :=
  if !o.last then s
  else (dedup ((o.handles.filter fun h => h.rd && decide (h.hid < 65536) && !(o.writes h.hid)).map OpHandle.hid)).foldl
    (fun t h => t.releaseInput o h) s

/-- An operator completes. -/
def State.completeOp (s : State) (o : OpInst) : State :=
  let s1 := o.outs.foldl (fun t h => t.judgeConsumers o h) (s.bumpVersions o)
  let s2 := { s1 with ops := s1.ops.filter fun p => p.id != o.id, packets := s1.packets.filter fun p => p.cq != 10000 + o.id }
  let s3 := (o.temps.foldl State.dropTemp s2).dropOlds o
  endStream o.gfe ((s3.releaseInputs o).drainReleases)

/-- What an operator without tiles does once its handles are ready. -/
def State.performOp (s : State) (o : OpInst) : PartOut :=
  let of := fun (x : State × Option (Nat × Nat)) => match x.2 with
    | none => PartOut.done x.1
    | some f => .part x.1 f
  match o.record with
  | .tload _ h _ => of (s.loadTensor o h)
  | .tstore _ _ h _ => of (s.storeTensor o h)
  | .recv _ _ _ _ _ _ => s.recvStep o
  | .send _ _ _ _ _ => s.sendStep o
  | _ => s.collStep o

/-- A translation fault stalls the operator until FRES; any other fault ends it (R104, R300, R331, R334). -/
def State.opFault (s : State) (o : OpInst) (f : Nat × Nat) : State :=
  if f.1 = 9 then s.opTrap o 0 0 [] false ⟨9, f.2, 0, 0⟩
  else { s with traps := s.traps ++ [s.opRec o 0 0 [] false ⟨f.1, f.2, 0, 0⟩ true], fresh := s.fresh + 1 }.onOp o.id fun p =>
    { p with stall := some (f.2, 0) }

/-- OPERATOR_COMPLETE: an operator without tiles acts; one whose tiles have ended, or that a trap has ended, completes. -/
def operatorComplete (op : Nat) (s0 : State) : State :=
  let s := s0.onDie ((s0.op? op).elim 8 fun o => o.gfe / 4)
  match s.op? op with
  | none => s
  | some o =>
    let settled := !(s.traps.any fun t => t.op == op) && !(s.ctxs.any fun p => p.2.opId == op)
    if o.failed then (if settled then s.completeOp o else s)
    else if o.total ≤ o.done then (if settled && !o.speculating then s.completeOp o else s)
    else if hasTiles o.record || o.stall.isSome || !(s.depsDone o) || s.rstate o.ctxid o.rcb != 1 || s.historyDue o || s.moveWaits o then s
    else match s.performOp o with
      | .ok t => t
      | .done t => t.completeOp o
      | .fault f => if f.1 = 0 then s else s.opFault o f
      | .part t f => if f.1 = 0 then t else t.opFault o f
      | .trap t => s.opTrap o 0 0 [] false t
      | .wait => s

def execOperatorComplete (op : Nat) (s : State) : Host.Outcome State Fault Refusal := always s (operatorComplete op)

end Sys2Proof.Machine
end

