-- ==== Sys2Proof/Machine/Faults.lean ====
section
/-! DEFINITION. What becomes of traps: delivery to the fault rings (R365, R366), the fault policies (R359 to R364), the resolution of
translation faults (R358), uncorrectable memory errors (R3), and the stop of regions (R360, R393, R430). -/

namespace Sys2Proof.Machine

/-! ### Stops (R25, R360, R393, R420, R430) -/

/-- A context that keeps only the counter of its results. -/
def State.emptyCtx (s : State) (ck : Nat) : State := s.setCtxAt ck { ({} : Ctx) with nextVar := (s.ctxAt ck).nextVar, issuedAt := (s.ctxAt ck).issuedAt }

/-- A handler that runs in a context is over (R368). -/
def State.dropHandler (s : State) (ck : Nat) : State :=
  s.onCoreAt (ck / 4) fun k => { k with handler := match k.handler with
    | some (x, b) => if x = ck % 4 then none else some (x, b)
    | none => none }

/-- Accesses or engine commands of a context's work are under way. -/
def State.underWay (s : State) (core : Nat) (c : Ctx) : Bool :=
  ((s.coreAt core).cmds.any fun e => e.mine c) || s.acks.any fun a => a.uid == c.work.uid && decide (a.ck / 4 = core)

/-- The gravity of a stopped context returns, with LOST, once its accesses have been performed (R383, R393). -/
def State.giveUp (s : State) (core : Nat) (c : Ctx) : State :=
  if c.hg + c.cb = 0 then s
  else if s.underWay core c then { s with returning := s.returning ++ [⟨core, c⟩] }
  else s.giveBackTo (dieOfCore core) c.work.ctxid c.work.rcb (c.hg + c.cb) true

/-- The returns that may be made now. -/
def State.settleReturns (s : State) : State :=
  s.returning.foldl (fun t r => t.giveUp r.core r.ctx) { s with returning := [] }

/-- A context stops: its gated stores are discarded, its gravity returns, its units are released. -/
def State.stopCtx (s : State) (ck : Nat) : State :=
  ((((s.leaveBlock ck).giveUp (ck / 4) (s.ctxAt ck)).releaseUnits (ck / 4) (ck % 4)).dropHandler ck).emptyCtx ck

/-- The evicted contexts of a core that a stop meets. -/
def State.stopSaved (s : State) (core : Nat) (hit : Ctx → Bool) : State :=
  (((s.coreAt core).saved.filter fun v => hit v.ctx).foldl (fun t v => t.giveUp core v.ctx) s).onCoreAt core fun k =>
    { k with saved := k.saved.filter fun v => !(hit v.ctx) }

/-- The temporaries of an operator and of its speculation. -/
def State.dropOpTemps (s : State) (o : OpInst) : State := ((o.shadows.map Prod.snd) ++ o.temps).foldl State.dropTemp s

/-- The tiles of an operator that wait to run again: the records of their saved ranges go, and what they hold returns with LOST (R351, R376,
R393). -/
def State.stopRuns (s : State) (o : OpInst) : State :=
  let t := (o.stopped ++ o.kept).foldl (fun t r => if r.bytes = 0 then t else t.dropSaved o.ctxid o.rcb r.bytes 1) s
  (o.stopped ++ o.again).foldl (fun t r => t.giveBackTo (o.gfe / 4) o.ctxid o.rcb (r.hg + r.cb) true) t

/-- End every stream, operator, tile and task of the regions of a device context that p picks, and put the regions in a state. -/
def State.stopWhere (s : State) (ctxid : Nat) (p : Nat → Bool) (st : Nat) : State :=
  let hit := fun (c r : Nat) => c == ctxid && p r
  let s1 := s.ctxs.foldl (fun t q => if q.2.bound && hit q.2.work.ctxid q.2.work.rcb then t.stopCtx q.1 else t) s
  let s2 := s1.cores.foldl (fun t q => t.stopSaved q.1 fun c => hit c.work.ctxid c.work.rcb) s1
  let s3 := (s2.ops.filter fun o => hit o.ctxid o.rcb).foldl (fun t o => (t.dropOpTemps o).stopRuns o) s2
  let s4 := (s3.gfes.filter fun q => q.2.busy && hit q.2.ctxid q.2.rcb).foldl (fun t q => (t.dropSpecs q.2).onGfeAt q.1 Gfe.freed) s3
  let s5 := (s4.parked.filter fun q => hit q.1 q.2.1).foldl (fun t q =>
    (q.2.2.foldl State.dropSpecs t).dropSaved q.1 q.2.1 (4096 * q.2.2.length) q.2.2.length) s4
  let gone := (s5.ops.filter fun o => hit o.ctxid o.rcb).map OpInst.id
  let s6 := { s5 with
    ops := s5.ops.filter fun o => !(hit o.ctxid o.rcb)
    packets := s5.packets.filter fun k => !(gone.any fun i => k.cq == 10000 + i)
    parked := s5.parked.filter fun q => !(hit q.1 q.2.1)
    displaced := s5.displaced.filter fun d => !(hit d.block.ctxid d.block.rcb)
    preempts := s5.preempts.filter fun q => !(hit q.1 q.2)
    svcCalls := s5.svcCalls.filter fun c => !(hit c.ctxid c.rcb)
    traps := s5.traps.filter fun r => !(r.held && hit r.ctxid r.rcb) }
  let s7 := (s5.ops.filter fun o => hit o.ctxid o.rcb).foldl State.dropOlds s6
  (((s7.dev ctxid).regions.filter fun r => p r.rcb).foldl (fun t r => t.setRstate ctxid r.rcb st) s7).drainReleases

/-- Stop a fault domain (R359, R360). -/
def State.stopDomain (s : State) (ctxid fdom : Nat) : State := s.stopWhere ctxid (fun r => s.fdom ctxid r == fdom) 3

/-- REXIT: the caller's region and its descendants end (R430). -/
def State.exitRegion (s : State) (ctxid rcb : Nat) : State :=
  s.stopWhere ctxid (fun r => (s.path ctxid r).any fun a => a.rcb == rcb) 4

/-! ### Report and replay (R361 to R363) -/

/-- A context's work ends as after an ENDOP, its gated stores and results in flight discarded. -/
def State.endAsEndop (s : State) (ck : Nat) : State :=
  ((s.leaveBlock ck).dropHandler ck).onCtxAt ck fun c =>
    { c.dropLatches with status := .ending, gated := [], wbuf := [], var := [], fix := [], marks := 0 }

/-- A GFE passes over its record. -/
def State.skipRecord (s : State) (k : Nat) : State :=
  s.onGfeAt k fun g =>
    let n := match s.codeWord g g.pc with
      | .ok w => max 1 (bitsOf w 16 6)
      | .error _ => 1
    let meets := match s.currentRecord k with
      | some (.quiet _ _) => true
      | some (.syscall _ each _) => each
      | _ => false
    { g with pc := g.pc + 4 * n, block := .none, released := false, joint := if meets then g.joint + 1 else g.joint, fuse := 0, fused := false, fuseLast := none }

/-- GFEs that wait for shard 0 of a set. -/
def State.waitersOf (s : State) (k : Nat) : List Nat :=
  if (s.gfeAt k).shard = 0 then (s.gfeAt k).set.filter fun j => match (s.gfeAt j).block with
    | .shard0 => j != k
    | _ => false
  else []

/-- A tile that a trap of its bind ended counts as done, and so do its members' tiles. -/
def State.endTile (s : State) (op : Nat) : State := (s.followers op 64).foldl (fun t p => t.tileDone p.id) (s.tileDone op)

/-- An output of an operator shares storage with one of its inputs. -/
def State.sharesStorage (s : State) (o : OpInst) : Bool :=
  o.handles.any fun a => a.wr && o.handles.any fun b => b.rd && s.related o.ctxid o.shard (o.under true a.hid) (o.under false b.hid)

/-- A record that adds to what its output holds. -/
def accumulates : Instr → Bool
  | .matmul _ acc _ _ _ _ => acc
  | .matmulcb _ acc _ _ _ _ _ _ => acc
  | _ => false

/-- Whether an operator's record may be replayed: one installed with IDEM; an architected compute or movement record, TLOAD or TSTORE that
reads nothing it writes (R361). -/
def State.replayable (s : State) (op : Nat) : Bool :=
  match s.op? op with
  | some o => (match o.image with
    | some m => (s.image? o.ctxid m).elim false Installed.idem
    | none => (hasTiles o.record || recordOpcode o.record == 0x16 || recordOpcode o.record == 0x17) && !(accumulates o.record)
        && !(s.sharesStorage o))
  | none => false

/-- The faulting tile runs again from its last checkpoint, keeping its gravity (R363). -/
def State.replayTile (s : State) (ck : Nat) : State :=
  let c := s.ctxAt ck
  match c.work.job with
  | .tile op lin ix =>
    let back := (s.op? op).bind fun o => o.kept.find? fun r => r.lin == lin
    let r : TileRun := match back with
      | some b => { b with hg := c.hg, cb := c.cb, replays := c.replays + 1 }
      | none => { lin := lin, ix := ix, hg := c.hg, cb := c.cb, replays := c.replays + 1 }
    ((((s.leaveBlock ck).releaseUnits (ck / 4) (ck % 4)).dropHandler ck).emptyCtx ck).onOp op fun o => { o with again := o.again ++ [r] }
  | _ => s

/-- What report does with a unit. -/
def State.reportUnit (s : State) (u : TrapUnit) : State :=
  match u with
  | .ctx ck => s.endAsEndop ck
  | .gfe k => (s.waitersOf k).foldl State.skipRecord (s.skipRecord k)
  | .op id =>
    (match s.op? id with
     | some o =>
       if o.failed then s
       else match o.stall with
         | some _ =>
           if hasTiles o.record then
             (s.onOp id fun p => { p with stall := none, again := p.again.drop 1 }).endTile id
           else s.onOp id fun p => { p with stall := none, failed := true }
         | none => s.endTile id
     | none => s)
  | _ => s

/-- How often a unit that met a replayable trap has run again already; none where its record is not replayable (R361, R363). A copy or a
reducing copy is run again too (R256); a loader's or storer's packet has filled or freed slots, which no replay undoes (R364). -/
def State.replaysOf (s : State) (u : TrapUnit) : Option Nat :=
  match u with
  | .ctx ck => if s.replayable (s.ctxAt ck).opId then some (s.ctxAt ck).replays else none
  | .op id =>
    (match s.op? id with
     | some o =>
       if !(s.replayable id) || o.stall.isNone then none
       else if hasTiles o.record then some ((o.again.head?.elim 1 TileRun.replays) - 1) else some (o.again.length - 1)
     | none => none)
  | .packet id => (s.packet? id).bind fun p => if pkKind p.num ≤ 1 then some p.runs else none
  | _ => none

/-- Run a unit again: a tile from its last checkpoint, an architected operator's tile or a TLOAD or TSTORE from its start, a packet from
its start, a reducing one by its commit record (R256, R363). -/
def State.replayUnit (s : State) (u : TrapUnit) : State :=
  match u with
  | .ctx ck => s.replayTile ck
  | .op id => s.onOp id fun o => { o with stall := none }
  | .packet id => s.onPacket id fun p => { p with finished := false, status := 0, moved := 0, done := 0, sub := 0, fault := none, block := none, runs := p.runs + 1 }
  | _ => s

/-- The fault policy of the trapping unit's region acts on the unit, with the cause of its trap (R359). The domain that stops is that of the region
the record names; where the unit's own region is not of it, the unit ends as under report. -/
def State.policyOf (s : State) (ctxid rcb own cause : Nat) (u : TrapUnit) : State :=
  let stop :=
    let t := s.stopDomain ctxid (s.fdom ctxid rcb)
    if s.fdom ctxid own = s.fdom ctxid rcb then t else t.reportUnit u
  match s.policy ctxid own with
  | 0 => stop
  | 1 =>
    if cause == 0x11 || cause == 0x14 then
      (match s.replaysOf u with
       | some n => if n < 2 then s.replayUnit u else stop
       | none => s.reportUnit u)
    else s.reportUnit u
  | _ => s.reportUnit u

/-- The policy of a unit of a region. -/
def State.applyPolicy (s : State) (ctxid rcb cause : Nat) (u : TrapUnit) : State := s.policyOf ctxid rcb rcb cause u

/-! ### Blocked units (R103, R104, R358) -/

/-- The units of a device context that are blocked on translation, each with the address at fault. -/
def State.blockedUnits (s : State) (ctxid : Nat) : List (TrapUnit × Nat) :=
  (s.ctxs.filterMap fun p => match p.2.status with
    | .blocked (.fault va _) => if p.2.work.ctxid = ctxid then some (TrapUnit.ctx p.1, va) else none
    | _ => none)
  ++ (s.cores.flatMap fun p => p.2.cmds.filterMap fun e => match e.fault with
    | some (va, _) => if e.ctxid = ctxid then some (TrapUnit.cmd p.1 e.seq, va) else none
    | none => none)
  ++ (s.ops.filterMap fun o => match o.stall with
    | some (va, _) =>
      if o.ctxid = ctxid && !(s.traps.any fun t => t.op == o.id && !t.res) then some (TrapUnit.op o.id, va) else none
    | none => none)
  ++ (s.packets.filterMap fun p => match p.fault, s.queueOf p.cq with
    | some (va, _), some q => if q.ctxid = ctxid then some (TrapUnit.packet p.id, va) else none
    | _, _ => none)
  ++ (s.copyQueues.filterMap fun q => match q.stall with
    | some va => if q.ctxid = ctxid then some (TrapUnit.copyQueue q.id, va) else none
    | none => none)
  ++ (s.queues.filterMap fun p =>
    if p.2.faulted && p.2.owner.1 == ctxid then
      (if p.2.state = 3 then some (TrapUnit.unmap p.1, p.2.faultAt) else some (TrapUnit.card p.1, p.2.faultAt))
    else none)

/-- A blocked unit translates again. -/
def State.retryUnit (s : State) (u : TrapUnit) : State :=
  match u with
  | .ctx ck => s.onCtxAt ck fun c => match c.status with
    | .blocked (.fault _ _) => { c with status := .ready, w := 0 }
    | _ => c
  | .cmd core seq => s.onCoreAt core fun k => { k with cmds := onCmd seq (fun e => { e with fault := none }) k.cmds }
  | .op id => s.onOp id fun o => { o with stall := none }
  | .packet id => s.onPacket id fun p => { p with fault := none }
  | .copyQueue id => { s with copyQueues := s.copyQueues.map fun q => if q.id = id then { q with stall := none } else q }
  | .card qi => s.onQueue qi fun q => { q with faulted := false }
  | .unmap qi => s.onQueue qi fun q => { q with faulted := false }
  | _ => s

/-- Set STATE of a queue. -/
def HwQueue.setState (q : HwQueue) (v : Nat) : HwQueue := { q with qcfg := BitVec.ofNat 64 (putBits q.qcfg.toNat 62 2 v) }

/-- The issuing context of a command that FRES has ended takes its trap, whose record is written; one that an eviction has taken does once it
is bound again (R216, R358). -/
def State.endWithout (s : State) (core : Nat) (e : EngCmd) : State :=
  let note := fun (v : Saved) => if e.mine v.ctx && v.ended.isNone then { v with ended := some (e, []) } else v
  if e.mine (s.ctxAt (4 * core + e.x)) then s.applyPolicy e.work.ctxid e.work.rcb 7 (.ctx (4 * core + e.x))
  else s.onCoreAt core fun k => { k with saved := k.saved.map note }

/-- A blocked unit is ended without a further record (R358). A copy queue whose header or slot faulted has nothing that could end: it waits on
(log 102). -/
def State.failUnit (s : State) (u : TrapUnit) : State :=
  match u with
  | .ctx ck =>
    let c := s.ctxAt ck
    s.applyPolicy c.work.ctxid c.work.rcb 7 u
  | .cmd core seq =>
    (match findCmd (s.coreAt core).cmds seq with
     | some e => (s.onCoreAt core fun c => c.dropCmd e).endWithout core e
     | none => s)
  | .op id =>
    (match s.op? id with
     | some o => s.applyPolicy o.ctxid o.rcb 7 u
     | none => s)
  | .packet id => s.onPacket id fun p => match p.fault with
    | some (_, c) => { p with fault := none, finished := true, status := c }
    | none => p
  | .card qi =>
    let o := (s.queue qi).owner
    (s.onQueue qi fun q => { q.remove with faulted := false }).loseGrav o.1 o.2
  | .unmap qi => s.onQueue qi fun q => { (q.setState q.before) with faulted := false }
  | _ => s

/-- A record of a unit that has not been delivered yet. -/
def State.undelivered (s : State) (u : TrapUnit) : Bool := s.traps.any fun r => r.unit == u && r.res

/-- Ask something of a blocked unit: at once, or when its record has been written (R366). -/
def State.resolveUnit (s : State) (u : TrapUnit) (act : Nat) : State :=
  if s.undelivered u then
    { s with traps := s.traps.map fun r => if r.unit = u && r.res then { r with after := act } else r }
  else if act = 1 then s.retryUnit u else s.failUnit u

/-- FRES with ACT 0. -/
def fresRetry (v : Nat) (s : State) : State :=
  if bitsOf v 62 2 = 0 then (s.blockedUnits (bitsOf v 56 6)).foldl (fun t u => t.resolveUnit u.1 1) s else s

/-- FRES with ACT 1. -/
def fresFail (v : Nat) (s : State) : State :=
  if bitsOf v 62 2 = 1 then
    ((s.blockedUnits (bitsOf v 56 6)).filter fun u => u.2 / 4096 % 2 ^ 44 == bitsOf v 12 44).foldl (fun t u => t.resolveUnit u.1 2) s
  else s

def execFresRetry (v : Nat) (s : State) : Host.Outcome State Fault Refusal := always s (fresRetry v)
def execFresFail (v : Nat) (s : State) : Host.Outcome State Fault Refusal := always s (fresFail v)

/-! ### Delivery (R365, R366) -/

/-- Write a record into one fault ring. -/
def State.tryRing (s : State) (e : TEnv) (die va : Nat) (bs : List Byte) : Filled :=
  if va = 0 then .bad else s.fillRing e die va bs fun r => r.dir || r.slotsz != 1

/-- The die a trapping unit belongs to. -/
def State.dieOfTrap (s : State) (r : TrapRec) : Nat :=
  match r.unit with
  | .card qi => qi / 256
  | .unmap qi => qi / 256
  | .op id => (s.op? id).elim 0 fun o => o.gfe / 4
  | .packet id => ((s.packet? id).bind fun p => s.queueOf p.cq).elim 0 fun q => q.cluster / 16
  | .copyQueue id => (s.queueOf id).elim 0 fun q => q.cluster / 16
  | _ => if r.ck != 0 then (r.ck - 1) / 512 else if r.gk != 0 then (r.gk - 1) / 4 else 0

/-- The first ring that can take a record: the region's, the root region's, the package's. A full ring is waited for. -/
def State.ringFor (s : State) (r : TrapRec) : Filled :=
  let e := s.unitEnv r.ctxid
  let die := s.dieOfTrap r
  match s.tryRing e die (s.effective r.ctxid r.rcb 8 0x60 8) r.bytes with
  | .ok t => .ok t
  | .full => .full
  | _ => match s.tryRing e die (s.rcbField r.ctxid (s.dev r.ctxid).rootRcb 0x60 8) r.bytes with
    | .ok t => .ok t
    | .full => .full
    | _ => match s.pkgRing with
      | some (c, va) => s.tryRing (s.unitEnv c) die va r.bytes
      | none => .bad

/-- A field of a record. -/
def TrapRec.field (r : TrapRec) (k n : Nat) : Nat := leNat ((r.bytes.drop k).take n)

/-- CAUSE, EPC, OPC, HANDLE and FADDR of the context are written with its record (R157). -/
def State.trapRegisters (s : State) (r : TrapRec) : State :=
  let put := fun (c : Ctx) =>
    if !c.bound then c
    else { c with bank := c.bank.writes [.k 0 (BitVec.ofNat 64 (r.field 0 1)), .k 1 (BitVec.ofNat 64 (r.field 0x12 2 % 2 ^ 13)),
      .k 2 (BitVec.ofNat 64 (r.field 0x0C 4 + r.field 0x0A 2 % 1024 * 2 ^ 32)), .k 3 (BitVec.ofNat 64 (r.field 0x10 2)),
      .k 4 (BitVec.ofNat 64 (r.field 0x20 8 % 2 ^ 56))] }
  match r.unit with
  | .cmd core seq =>
    (match findCmd (s.coreAt core).cmds seq with
     | some e => s.onIssuer core e put
     | none => s)
  | _ => if r.ck = 0 then s else s.onCtxAt (r.ck - 1) put

/-- Two records of one unit, which enter the ring in order of detection. -/
def TrapRec.sameUnit (a b : TrapRec) : Bool :=
  a.unit == b.unit || (a.ck != 0 && a.ck == b.ck) || (a.gk != 0 && a.gk == b.gk)

/-- After a record is written: the MSI, the registers, then its policy, or what a FRES has asked (R358, R359). -/
def State.afterRecord (s : State) (r : TrapRec) : State :=
  let t := (s.say (.msi (s.dev r.ctxid).trapMsi.addr (s.dev r.ctxid).trapMsi.data)).trapRegisters r
  if r.res then (if r.after = 1 then t.retryUnit r.unit else if r.after = 2 then t.failUnit r.unit else t)
  else t.policyOf r.ctxid r.rcb (r.pol.getD r.rcb) r.cause r.unit

/-- Deliver the k-th record: the first of its unit, and not held back by speculation (R416). -/
def deliverTrap (stuck : Bool) (k : Nat) (s : State) : State :=
  match s.traps.drop k with
  | [] => s
  | r :: _ =>
    if r.held || r.stuck != stuck || (s.traps.take k).any r.sameUnit then s
    else match s.ringFor r with
      | .ok t => ({ t with traps := dropNth t.traps k }).afterRecord r
      | .full => s
      | _ => { s with traps := setNth { r with stuck := true } s.traps k }

/-- TRAP_RECORD_DELIVERY. -/
def execTrapRecordDelivery (k : Nat) (s : State) : Host.Outcome State Fault Refusal := always s (deliverTrap false k)

/-- FAULT_RING_RETRY: the three rings are tried again for a held record. -/
def execFaultRingRetry (k : Nat) (s : State) : Host.Outcome State Fault Refusal := always s (deliverTrap true k)

/-! ### Uncorrectable memory errors (R3) -/

/-- The region that owns the data at an address: of the granted block that holds it, else the reader's own. -/
def State.ownerOf (s : State) (ctxid rcb va : Nat) : Nat :=
  match s.blocks.find? fun b => b.ctxid == ctxid && decide (s.blockVa b ≤ va) && decide (va < s.blockVa b + b.size) with
  | some b => b.rcb
  | none => rcb

/-- The records from the n-th on name the region that owns the data, and its fault domain; the trapping unit's region decides the policy (R359). -/
def State.reown (s : State) (n va : Nat) : State :=
  { s with traps := s.traps.take n ++ (s.traps.drop n).map fun (r : TrapRec) =>
      let own := s.ownerOf r.ctxid r.rcb va
      { r with rcb := own
               pol := some r.rcb
               bytes := r.bytes.take 6 ++ leBytes (s.fdom r.ctxid own) 2 ++ (r.bytes.drop 8).take 0x20 ++ leBytes own 8 ++ r.bytes.drop 0x30 } }

/-- A bound context meets the error. -/
def State.ctxError (s : State) (ck : Nat) (t : TrapInfo) : State :=
  let c := s.ctxAt ck
  if !c.bound || c.status == .trapped || c.status == .ending then s else takeTrapAt ck t (s.leaveBlock ck)

/-- A GFE meets the error in its record. -/
def State.gfeError (s : State) (k : Nat) (t : TrapInfo) : State :=
  let g := s.gfeAt k
  if g.busy && !g.halted && g.block == .none then gfeTrapAt k ((s.currentRecord k).elim 0 recordOpcode) t s else s

/-- An architected operator's next tile meets the error on a context, or an operator without tiles does: it waits for its policy. -/
def State.opError (s : State) (id ck : Nat) (t : TrapInfo) : State :=
  match s.op? id with
  | none => s
  | some o =>
    let put := fun (t : State) (p : OpInst) (r : TileRun) (rec : TrapRec) =>
      { t with traps := t.traps ++ [rec], fresh := t.fresh + 1 }.onOp id fun _ => { p with stall := some (0, r.lin), again := r :: p.again }
    if o.image.isSome || o.failed || o.stall.isSome || !(s.depsDone o) then s
    else if hasTiles o.record then
      (if s.tileReady o then
        let r := o.nextRun s.clk
        put s r.2 { r.1 with replays := r.1.replays + 1 } (s.opRec o (ck / 4) (ck % 4) r.1.ix true t false)
      else s)
    else if o.done = 0 then put s o { lin := 0, ix := [] } (s.opRec o 0 0 [] false t false)
    else s

/-- A packet in progress meets the error. -/
def State.packetError (s : State) (id : Nat) (t : TrapInfo) : State :=
  match s.packet? id with
  | some p => (match s.queueOf p.cq with
    | some q => if p.finished || p.fault.isSome then s else s.endPacket q p t.cause t.handle t.faddr
    | none => s)
  | none => s

/-- The card at the head of a queue cannot be read: it is discarded. -/
def State.cardError (s : State) (qi va : Nat) : State :=
  let q := s.queue qi
  if !q.isTask || q.elems.isEmpty || q.faulted || s.cardTraps qi then s
  else { s with traps := s.traps ++ [s.cardRec qi 0x11 va false] }.discardCard qi 0 true |>.loseGrav q.owner.1 q.owner.2

/-- An error that no unit of the device's work meets, as an access from a port does. -/
def State.ownerError (s : State) (ctxid : Nat) (t : TrapInfo) : State :=
  let rcb := (s.dev ctxid).rootRcb
  let w : TrapWho := { ctxid := ctxid, rcb := rcb, opcode := 0, opc := 0, shard := 0, epc := 0, wher := 0, tix := [], tv := false, bv := false,
                       low := false, spec := false }
  { s with traps := s.traps ++ [
    { bytes := trapBytes (s.fdom ctxid rcb) s.time w t, ctxid := ctxid, rcb := rcb, ck := 0, gk := 0, op := 0, cause := t.cause, res := false,
      held := false, spec := false, unit := .none }] }

/-- UNCORRECTABLE_MEMORY_ERROR: an access at an address meets an error, which raises cause 0x11 in the fault domain of the region that owns
the data. The unit whose access it is: 0 context m of core n, 1 command m of core n, 2 GFE n, 3 operator n, in a tile that would run on context m,
4 packet n, 5 the card of queue n; for any other the data are device context n's. -/
def memoryError (unit n m va : Nat) (s : State) : State :=
  let t : TrapInfo := ⟨0x11, va, 0, 0⟩
  let s1 := match unit with
    | 0 => s.ctxError (4 * n + m) t
    | 1 => (match findCmd (s.coreAt n).cmds m with
      | some e => if e.started then s.endCmd n e t else s
      | none => s)
    | 2 => s.gfeError n t
    | 3 => s.opError n m t
    | 4 => s.packetError n t
    | 5 => s.cardError n va
    | _ => s.ownerError n t
  s1.reown s.traps.length va

def execUncorrectableMemoryError (unit n m addr : Nat) (s : State) : Host.Outcome State Fault Refusal := always s (memoryError unit n m addr)

end Sys2Proof.Machine
end

