-- ==== Sys2Proof/Machine/Queues.lean ====
section
/-! DEFINITION. Hardware queues: the registers of a queue and their writes (R352), map, unmap and sleep (R353), the backing area
(R452), wakes and latched wakes (R355). A queue is named by 256 * die + q. -/

namespace Sys2Proof.Machine

/-! ### Registers (R352) -/

/-- Watermarks and capacity in range for a map. -/
def HwQueue.inRange (q : HwQueue) : Bool :=
  let l := bitsOf q.qcfg.toNat 49 4
  decide (4 ≤ l) && decide (q.lwm ≤ q.hwm) && decide (q.hwm ≤ 2 ^ l)

/-- A write of QCFG without its command; new watermarks take effect on the depth at once (R352, R354). -/
def HwQueue.update (q : HwQueue) (v : Nat) : HwQueue :=
  let o := q.qcfg.toNat
  if q.state = 0 then { q with qcfg := BitVec.ofNat 64 (bitsOf v 17 43 * 2 ^ 17) }
  else
    let hwm := bitsOf v 33 16
    let lwm := bitsOf v 17 16
    if lwm ≤ hwm && decide (hwm ≤ q.cap) then
      { q with qcfg := BitVec.ofNat 64 (putBits (putBits o 33 16 hwm) 17 16 lwm)
               high := (q.high || decide (hwm < q.elems.length)) && !decide (q.elems.length < lwm) }
    else q

/-- QCFG_UPDATE. -/
def qcfgUpdate (qi v : Nat) (s : State) : State := s.onQueue qi fun q => q.update v

def execQcfgUpdate (die q v : Nat) (s : State) : Host.Outcome State Fault Refusal := always s (qcfgUpdate (256 * die + q) v)

/-! ### Wakes (R353, R355) -/

/-- The queue's WAKEPEND in its RCB. -/
def State.wakePend (s : State) (q : HwQueue) : Nat := s.rcbField q.owner.1 q.owner.2 0x58 8

/-- One wake: SLEEP becomes ACTIVE; an unmapped or unmapping queue latches it. -/
def wake (qi : Nat) (s : State) : State :=
  let q := s.queue qi
  if q.state = 2 then s.onQueue qi fun q => q.setState 1
  else if q.state = 1 then s
  else s.setRcb q.owner.1 q.owner.2 0x58 8 (Nat.lor (s.wakePend q) (2 ^ q.slot))

/-- QWAKE: a write of any value. -/
def execQwake (die q _v : Nat) (s : State) : Host.Outcome State Fault Refusal := always s (wake (256 * die + q))

/-- The signal word of a queue, if it can be read. -/
def State.sigWord (s : State) (qi : Nat) : Option Nat :=
  let q := s.queue qi
  match s.unitRead (s.unitEnv q.owner.1) (q.qsig.toNat % 2 ^ 56) 8 with
  | .ok l => some (leNat l)
  | .error _ => none

/-- The wake that a write of the signal word has made due is taken. -/
def State.takeWake (s : State) (qi : Nat) : State :=
  if (s.queue qi).due then wake qi (s.onQueue qi fun q => { q with due := false }) else s

/-- QSIG_WAKE: a write has left the signal word at a nonzero value while EN is 1. -/
def sigWake (qi v : Nat) (s : State) : State := if s.sigWord qi == some v then s.takeWake qi else s

/-- Every wake that is due is taken. -/
def State.takeWakes (s : State) : State := s.queues.foldl (fun t p => t.takeWake p.1) s

def execQsigWake (die q v : Nat) (s : State) : Host.Outcome State Fault Refusal := always s (sigWake (256 * die + q) v)

/-! ### The backing area (R452) -/

/-- An element of the area from its 16 bytes. -/
def elemOf (task : Bool) (now : Nat) (l : List Byte) : QElem :=
  if task then ⟨leNat (l.take 8) % 2 ^ 56, leNat ((l.drop 8).take 8) % 8, now⟩ else ⟨leNat (l.take 16), 0, now⟩

/-- The 16 bytes of an element. -/
def QElem.bytes (task : Bool) (e : QElem) : List Byte := if task then leBytes e.val 8 ++ leBytes e.plane 8 else leBytes e.val 16

/-- The elements that a map reads; none where the area cannot be read or COUNT is past the capacity. -/
def State.savedElems (s : State) (q : HwQueue) : Option (List QElem) :=
  let e := s.unitEnv q.owner.1
  let va := q.qsave.toNat % 2 ^ 56
  match s.unitRead e va 16 with
  | .error _ => none
  | .ok h =>
    let n := leNat (h.take 4)
    if q.cap < n then none
    else match s.unitRead e (va + 16) (16 * n) with
      | .error _ => none
      | .ok l => some ((upTo n).map fun i => elemOf q.isTask s.clk (l.drop (16 * i)))

/-- The bytes that an unmap writes. -/
def HwQueue.area (q : HwQueue) : List Byte := leBytes q.elems.length 4 ++ leBytes 0 12 ++ q.elems.flatMap (QElem.bytes q.isTask)

/-! ### Commands (R353, R355) -/

/-- A latched wake is taken after a map. -/
def replayWake (qi : Nat) (s : State) : State :=
  let q := s.queue qi
  let p := s.wakePend q
  if bitOf p q.slot then wake qi (s.setRcb q.owner.1 q.owner.2 0x58 8 (p - 2 ^ q.slot)) else s

/-- A queue's saved contents stand behind a route yet (log 20). -/
def State.areaBehind (s : State) (q : HwQueue) : Bool :=
  let e := s.unitEnv q.owner.1
  let va := q.qsave.toNat % 2 ^ 56
  match s.unitRead e va 16 with
  | .error (0, _) => true
  | .error _ => false
  | .ok h => match s.unitRead e (va + 16) (16 * leNat (h.take 4)) with
    | .error (0, _) => decide (leNat (h.take 4) ≤ q.cap)
    | _ => false

/-- A map. -/
def queueMap (qi : Nat) (s : State) : State :=
  let q := s.queue qi
  if q.state = 0 && q.inRange then
    (if s.areaBehind q then { s with waiting := s.waiting ++ [(true, qi)] }
     else match s.savedElems q with
     | some l => replayWake qi (s.onQueue qi fun q => { (q.setState 1) with elems := l, high := decide (q.hwm < l.length), checked := false, faulted := false })
     | none => s)
  else s

def execQueueMap (die q : Nat) (s : State) : Host.Outcome State Fault Refusal := always s (queueMap (256 * die + q))

/-- An unmap starts. -/
def queueUnmap (qi : Nat) (s : State) : State :=
  let q := s.queue qi
  if q.state = 1 || q.state = 2 then s.onQueue qi fun q => { (q.setState 3) with before := q.state, faulted := false } else s

def execQueueUnmap (die q : Nat) (s : State) : Host.Outcome State Fault Refusal := always s (queueUnmap (256 * die + q))

/-- A sleep. -/
def queueSleep (qi : Nat) (s : State) : State := if (s.queue qi).state = 1 then s.onQueue qi fun q => q.setState 2 else s

def execQueueSleep (die q : Nat) (s : State) : Host.Outcome State Fault Refusal := always s (queueSleep (256 * die + q))

/-- The trap record of an unmap whose area faults. -/
def State.unmapRec (s : State) (qi va : Nat) : TrapRec := { s.cardRec qi 7 va true with unit := .unmap qi }

/-- UNMAP_SAVE: the contents are written and the queue becomes unmapped; a fault leaves it unmapping. -/
def unmapSave (qi : Nat) (s : State) : State :=
  let q := s.queue qi
  if q.state = 3 && !q.faulted then
    (match s.unitWrite (s.unitEnv q.owner.1) (q.qsave.toNat % 2 ^ 56) q.area with
     | .ok t => t.onQueue qi fun q => { (q.setState 0) with elems := [], high := false, checked := false }
     | .error (0, _) => s
     | .error (_, va) => { s with traps := s.traps ++ [s.unmapRec qi va] }.onQueue qi fun q => { q with faulted := true, faultAt := va })
  else s

def execUnmapSave (die q : Nat) (s : State) : Host.Outcome State Fault Refusal := always s (unmapSave (256 * die + q))

/-! ### Register writes (R352) -/

/-- A write of QCFG: its fields, then its command. -/
def writeQcfg (qi v : Nat) (s : State) : State :=
  let t := qcfgUpdate qi v s
  match bitsOf v 60 2 with
  | 1 => queueMap qi t
  | 2 => queueUnmap qi t
  | 3 => queueSleep qi t
  | _ => t

/-- A write of register r, by its offset in the queue's 64 bytes. -/
def writeQueueReg (qi r v : Nat) (s : State) : State :=
  if r = 0 then writeQcfg qi v s
  else if r = 8 then (if (s.queue qi).state = 0 then s.onQueue qi fun q => { q with qrcb := BitVec.ofNat 64 (v % 2 ^ 62) } else s)
  else if r = 0x10 then (if (s.queue qi).state = 0 then s.onQueue qi fun q => { q with qsave := BitVec.ofNat 64 (v % 2 ^ 56) } else s)
  else if r = 0x18 then s.onQueue qi fun q => { q with qsig := BitVec.ofNat 64 (bitOf v 63 |>.toNat |> (· * 2 ^ 63) |> (· + v % 2 ^ 56)) }
  else wake qi s

end Sys2Proof.Machine
end

