-- ==== Sys2Proof/Machine/Shoot.lean ====
section
/-! DEFINITION. Shoot-down (R105 to R107), the walk of a TLB miss (R99 to R101), and the states of a core that flush or keep its TLB
(R106, R448). -/

namespace Sys2Proof.Machine

/-! ### Commands (R105) -/

/-- Fields of SDCTL and SDVA. -/
def sdKind (v : Nat) : Nat := bitsOf v 0 3
def sdCtx (v : Nat) : Nat := bitsOf v 8 6
def sdPages (v : Nat) : Nat := if bitsOf v 16 32 = 0 then 2 ^ 32 else bitsOf v 16 32
def sdGo (v : Nat) : Bool := bitOf v 63

/-- A page from va overlaps the command's range. -/
def sdOverlaps (v first va size : Nat) : Bool := decide (va < first + 4096 * sdPages v) && decide (first < va + size)

/-- Whether a command covers an entry: `global` its G bit, `ctxid` its device context, and its page. -/
def sdCovers (v first : Nat) (glob : Bool) (ctxid va size : Nat) : Bool :=
  let own := !glob && ctxid == sdCtx v
  match sdKind v with
  | 0 => true
  | 1 => own
  | 2 => own && sdOverlaps v first va size
  | 3 => glob && sdOverlaps v first va size
  | _ => (own || glob) && sdOverlaps v first va size

/-- Whether a command covers a TLB entry. -/
def TlbEnt.shot (e : TlbEnt) (v first : Nat) : Bool := sdCovers v first (pteG e.pte) e.ctxid e.va e.size

/-- Invalidate the entries of a die that a command covers. -/
def State.invalidate (s : State) (die v first : Nat) : State :=
  { s with
    cores := s.cores.map fun p => if p.1 / 128 = die then (p.1, { p.2 with tlb := p.2.tlb.filter fun e => !(e.shot v first) }) else p
    ctlb := s.ctlb.map fun p => if p.1 / 16 = die then (p.1, p.2.filter fun e => !(e.shot v first)) else p }

/-- First address of the range in SDVA. -/
def sdFirst (va : Nat) : Nat := bitsOf va 12 44 * 4096

/-- A write of SDCTL or PSDCTL: refused, kept without a start, or a command. -/
inductive SdWrite where
  | refused
  | keep
  | start
deriving DecidableEq, Repr

def sdWrite (old v : Nat) : SdWrite :=
  if decide (5 ≤ sdKind v) || (sdGo v && sdGo old) then .refused else if sdGo v then .start else .keep

/-- The bits of SDCTL that a write sets. -/
def sdBits (v : Nat) : Nat := sdKind v + sdCtx v * 2 ^ 8 + bitsOf v 16 32 * 2 ^ 16

/-- A write of a die's SDCTL. One without GO is kept, but ignored while a command is under way (log 63). -/
def writeSdctl (die v : Nat) (s : State) : State :=
  let old := (AMap.get (0 : Word) s.sdctl die).toNat
  match sdWrite old v with
  | .refused => { s with sdctl := AMap.ins die (BitVec.ofNat 64 (putBits old 62 1 1)) s.sdctl }
  | .keep => if sdGo old then s else { s with sdctl := AMap.ins die (BitVec.ofNat 64 (sdBits v + bitsOf old 62 1 * 2 ^ 62)) s.sdctl }
  | .start =>
    let first := sdFirst (AMap.get (0 : Word) s.sdva die).toNat
    { s with sdctl := AMap.ins die (BitVec.ofNat 64 (sdBits v + 2 ^ 63)) s.sdctl, sdfirst := AMap.ins die first s.sdfirst }.invalidate die v first

/-- A write of SDCTL that names a kind. -/
def sdctlKind (kind die v : Nat) (s : State) : State := if sdGo v && sdKind v == kind then writeSdctl die v s else s

def execSdctlKindAll (die v : Nat) (s : State) : Host.Outcome State Fault Refusal := always s (sdctlKind 0 die v)
def execSdctlKindCtx (die v : Nat) (s : State) : Host.Outcome State Fault Refusal := always s (sdctlKind 1 die v)
def execSdctlKindCtxRange (die v : Nat) (s : State) : Host.Outcome State Fault Refusal := always s (sdctlKind 2 die v)
def execSdctlKindGlobalRange (die v : Nat) (s : State) : Host.Outcome State Fault Refusal := always s (sdctlKind 3 die v)
def execSdctlKindUnion (die v : Nat) (s : State) : Host.Outcome State Fault Refusal := always s (sdctlKind 4 die v)

/-! ### Acknowledgement (R106) -/

/-- An access of a device context went through an entry that the command covers. -/
def sdTouches (v first ctxid : Nat) (pages : List (Nat × Nat × Bool)) : Bool := pages.any fun p => sdCovers v first p.2.2 ctxid p.1 p.2.1

/-- The device context of the work with a bind number, if it is still bound or evicted. -/
def State.ctxOfUid (s : State) (uid : Nat) : Option Nat :=
  match List.find? (fun (p : Nat × Ctx) => p.2.work.uid == uid) s.ctxs with
  | some p => some p.2.work.ctxid
  | none => s.cores.findSome? fun p => (p.2.saved.find? fun v => v.ctx.work.uid == uid).map fun v => v.ctx.work.ctxid

/-- Every store and load that left a die through an entry the command covers has been performed. -/
def State.routesQuiet (s : State) (die v first : Nat) : Bool :=
  (s.acks.all fun a => a.ck / 512 != die || a.performed || !((s.ctxOfUid a.uid).all fun c => sdTouches v first c a.pages))
    && (s.ctxs.all fun p => p.1 / 512 != die || p.2.var.all fun w => w.waiting == 0 || !(sdTouches v first p.2.work.ctxid w.pages))
    && (s.ctxs.all fun p => p.1 / 512 != die || p.2.remote != some none || ((sdKind v == 1 || sdKind v == 2) && p.2.work.ctxid != sdCtx v))

/-- No context of a die holds a buffered store that may have used an entry the command covers; a core that a debugger has halted delays no
command (log 64). -/
def State.storesQuiet (s : State) (die v first : Nat) : Bool :=
  s.ctxs.all fun p => p.1 / 512 != die || (s.coreAt (p.1 / 4)).halted
    || (p.2.gated ++ p.2.wbuf).all fun g => !(sdTouches v first p.2.work.ctxid g.pages)

/-- Every access through an invalidated entry of a die has been performed. Walks and engine units end within the step that starts them. -/
def State.shotDone (s : State) (die v first : Nat) : Bool := s.routesQuiet die v first && s.storesQuiet die v first

/-- SHOOTDOWN_ACKNOWLEDGE. -/
def shootAck (die : Nat) (s : State) : State :=
  let v := (AMap.get (0 : Word) s.sdctl die).toNat
  if sdGo v && s.shotDone die v (AMap.get 0 s.sdfirst die) then
    { s with sdctl := AMap.ins die (BitVec.ofNat 64 (v - 2 ^ 63)) s.sdctl }
  else s

def execShootdownAcknowledge (die : Nat) (s : State) : Host.Outcome State Fault Refusal := always s (shootAck die)

/-! ### The package pair (R107) -/

/-- A write of PSDCTL: the command goes to the engine of every die in service, beside what the die's own SDCTL asks of it (log 73). -/
def writePsdctl (v : Nat) (s : State) : State :=
  let old := s.psdctl.toNat
  match sdWrite old v with
  | .refused => { s with psdctl := BitVec.ofNat 64 (putBits old 62 1 1) }
  | .keep => if sdGo old then s else { s with psdctl := BitVec.ofNat 64 (sdBits v + bitsOf old 62 1 * 2 ^ 62) }
  | .start =>
    let first := sdFirst s.psdva.toNat
    s.dies.foldl (fun t d => t.invalidate d v first)
      { s with psdctl := BitVec.ofNat 64 (sdBits v + 2 ^ 63), sdfirst := AMap.ins 8 first s.sdfirst }

def psdctlKind (kind v : Nat) (s : State) : State := if sdGo v && sdKind v == kind then writePsdctl v s else s

def execPsdctlKindAll (v : Nat) (s : State) : Host.Outcome State Fault Refusal := always s (psdctlKind 0 v)
def execPsdctlKindCtx (v : Nat) (s : State) : Host.Outcome State Fault Refusal := always s (psdctlKind 1 v)
def execPsdctlKindCtxRange (v : Nat) (s : State) : Host.Outcome State Fault Refusal := always s (psdctlKind 2 v)
def execPsdctlKindGlobalRange (v : Nat) (s : State) : Host.Outcome State Fault Refusal := always s (psdctlKind 3 v)
def execPsdctlKindUnion (v : Nat) (s : State) : Host.Outcome State Fault Refusal := always s (psdctlKind 4 v)

/-- A command has been performed on every die in service. -/
def State.packageShot (s : State) (v : Nat) : Bool := s.dies.all fun d => s.shotDone d v (AMap.get 0 s.sdfirst 8)

/-- PACKAGE_SHOOTDOWN_ACKNOWLEDGE. -/
def packageAck (s : State) : State :=
  let v := s.psdctl.toNat
  if sdGo v && s.packageShot v then { s with psdctl := BitVec.ofNat 64 (v - 2 ^ 63) } else s

def execPackageShootdownAcknowledge (s : State) : Host.Outcome State Fault Refusal := always s packageAck

/-! ### Walks (R96, R99 to R101) -/

/-- The bytes that a memory operation of the acting context accesses: whether it writes, and virtual ranges. -/
def State.opAccess (s : State) (i : Instr) : Bool × List Range :=
  let b := s.ctx.bank
  let one := fun (w : Bool) (sa : Nat) (imm : Int) (n : Nat) => (w, [Range.mk (s.opVa sa imm) n])
  let many := fun (w : Bool) (sa : Nat) (ps : List (Int × Nat × Nat)) => (w, ps.map fun p => Range.mk (operandVa (b.sreg sa) p.1) p.2.2)
  match i with
  | .ld _ sa sz _ _ imm => one false sa imm (szBytes sz)
  | .lda _ sa sz _ _ imm => one false sa imm (szBytes sz)
  | .st _ sa sz _ _ imm => one true sa imm (szBytes sz)
  | .stl _ sa sz _ _ imm => one true sa imm (szBytes sz)
  | .vld _ sa qp bfx imm => many false sa (if bfx then [(imm, 0, bfxBytes b.bfxPattern)] else lanesParts imm (b.lanes qp))
  | .vst _ sa qp _ imm => many true sa (lanesParts imm (b.lanes qp))
  | .vlds _ sa qp sb esz imm => many false sa (stridedParts imm (sext (b.int sb) 64) esz (b.lanes qp))
  | .vgather _ sa qp vb scl imm => many false sa (indexedParts imm (b.vreg vb) scl (b.lanes qp))
  | .vscatter _ sa qp vb scl imm => many true sa (indexedParts imm (b.vreg vb) scl (b.lanes qp))
  | .cpyput _ sa imm => one true sa imm 64
  | .rawait _ sa _ => one true sa 0 64
  | .rarel sa _ => one true sa 0 64
  | .rapeek _ sa _ => one true sa 0 64
  | .atom _ sa _ _ w8 _ _ _ imm => one true sa imm (if w8 then 8 else 4)
  | .acas _ sa _ _ w8 _ _ imm => one true sa imm (if w8 then 8 else 4)
  | .barinit sa _ _ imm => one true sa imm 16
  | .bararr _ sa _ _ _ imm => one true sa imm 16
  | .barwait _ sa _ _ _ _ imm => one true sa imm 16
  | .spawn _ _ sa imm => one true sa imm 32
  | _ => (false, [])

/-- A context of a core whose next bundle's memory operation accesses an address that its page tables give, as read or as write. -/
def State.wantsPage (s : State) (ck ctxid va : Nat) (wr : Bool) : Bool :=
  let c := s.ctxAt ck
  c.bound && c.work.ctxid == ctxid && !((s.envOf ck).hbase ≤ va && decide (va < (s.envOf ck).hlimit))
    && (match s.bundle? c.bank.pc with
      | some b => (match nth .empty b.slots 3 with
        | .op o =>
          let a := { s with act := { s.act with core := ck / 4, x := ck % 4 } }.opAccess o.op
          c.bank.pred o.g && (a.1 || !wr) && anyMeet a.2 [⟨va, 1⟩]
        | _ => false)
      | none => false)

/-- An engine command of a core accesses it. -/
def State.cmdWantsPage (s : State) (core ctxid va : Nat) (wr : Bool) : Bool :=
  (s.coreAt core).cmds.any fun e => decide (e.q ≤ 5) && e.ctxid == ctxid && !(decide (nth 0 e.heap 0 ≤ va) && decide (va < nth 0 e.heap 1))
    && anyMeet (if wr then e.writes.1 else e.ranges) [⟨va, 1⟩]

/-- PAGE_TABLE_WALK: an access of the core misses its TLBs, or writes through an entry whose D is 0; a walk that finds a leaf which permits the
access sets A, and D for a write, and fills the TLBs. One that ends in a fault leaves the access to take it; one that needs another domain's
table waits. Only the general range is walked (R93). -/
def tableWalk (core ctxid va : Nat) (wr : Bool) (s : State) : State :=
  let die := dieOfCore core
  let fill := fun (acc : Acc) (fw : Bool) =>
    let e : TEnv := ⟨ctxid, 0, 0, 0, fw, some core, die⟩
    match s.walk die ctxid va with
    | .leaf p a => if (leafFault p e acc).isNone then s.walked e va acc (some (p, a)) else s
    | _ => s
  let by' := (upTo 4).find? fun x => s.wantsPage (4 * core + x) ctxid va wr
  let fw := match by' with
    | some x => (s.envOf (4 * core + x)).fw
    | none => false
  if decide (va < windowVa) && (by'.isSome || s.cmdWantsPage core ctxid va wr) then
    (match s.tlb core ctxid va with
     | some t => if wr && !pteD t.pte && !pteDisc t.pte then fill .write fw else s
     | none => fill (if wr then .write else .read) fw)
  else s

def execPageTableWalk (core ctxid va : Nat) (wr : Bool) (s : State) : Host.Outcome State Fault Refusal := always s (tableWalk core ctxid va wr)

/-! ### Debugger and power gating (R106, R448) -/

/-- DEBUGGER_HALT and DEBUGGER_HALT_END: a halted core issues nothing; its TLB is invalidated like any other's. -/
def execDebuggerHalt (core : Nat) (s : State) : Host.Outcome State Fault Refusal :=
  always s fun s => s.onCoreAt core fun k => { k with halted := true }

def execDebuggerHaltEnd (core : Nat) (s : State) : Host.Outcome State Fault Refusal :=
  always s fun s => s.onCoreAt core fun k => { k with halted := false }

/-- CORE_ISLAND_POWER_GATING: an island at LVL 0 whose core holds no work is gated and its TLB flushed. -/
def powerGate (core : Nat) (s : State) : State :=
  if s.island core % 16 == 0 && !(AMap.get (false, 0) s.islands core).1 && ((upTo 4).all fun x => (s.ctxAt (4 * core + x)).status == .empty)
      && (s.coreAt core).cmds.isEmpty && (s.coreAt core).saved.isEmpty then
    s.onCoreAt core fun k => { k with gated := true, tlb := [] }
  else s

def execCoreIslandPowerGating (core : Nat) (s : State) : Host.Outcome State Fault Refusal := always s (powerGate core)

end Sys2Proof.Machine
end

