-- ==== Sys2Proof/Machine/Speculate.lean ====
section
/-! DEFINITION. The speculation controller: history updates (R409), downstream consumers (R413), commit (R418) and squash (R419, R420). -/

namespace Sys2Proof.Machine

/-! ### History (R409) -/

/-- A judging compare of an operator that waits in some engine queue. -/
def State.judged (s : State) (op : Nat) : Bool :=
  s.cores.any fun p => p.2.cmds.any fun e => decide (1 < e.args.length) && (match e.op with
    | .tcmp _ _ _ _ _ _ => e.argAt 1 == op
    | _ => false)

/-- The compares of the consumers that predicted a handle's last version have read it. -/
def State.comparesDone (s : State) (k reg : Nat) : Bool :=
  s.ops.all fun o => o.gfe != k || o.specReg != reg || o.phase != .judging || !(s.judged o.id)

/-- HISTORY_UPDATE: H1 goes to H2 and the handle's local shard to H1. Copies that cannot be made yet are made later (log 104). -/
def historyUpdate (die gfe hid : Nat) (s0 : State) : State :=
  let s := s0.onDie die
  let k := 4 * die + gfe
  let g := s.gfeAt k
  match g.specs.find? fun p => p.hid == hid && p.due with
  | none => s
  | some p =>
    if s.comparesDone k p.region then
      match (s.copyEntry g.ctxid g.shard p.h1 p.h2).bind fun t => t.copyEntry g.ctxid g.shard hid p.h1 with
      | .ok t => t.onGfeAt k fun x =>
          { x with specs := x.specs.map fun q => if q.region = p.region then { q with count := min 2 (q.count + 1), due := false } else q }
      | .error _ => s
    else s

def execHistoryUpdate (die gfe hid : Nat) (s : State) : Host.Outcome State Fault Refusal := always s (historyUpdate die gfe hid)

/-! ### Downstream consumers (R413) -/

/-- The operator whose shadows a waiting one may read, where every input that it does not read so has no outstanding writer. -/
def State.upstream (s : State) (o : OpInst) : Option OpInst :=
  ((o.handles.filter OpHandle.rd).findSome? fun h => s.upstreamOf o h.hid).filter fun c =>
    o.handles.all fun h => !h.rd || (s.writersBefore o.ctxid o.shard h.hid o.id).isEmpty || (s.upstreamOf o h.hid).map OpInst.id == some c.id

/-- DOWNSTREAM_SPECULATION: a waiting operator speculates behind another. -/
def downstream (op : Nat) (s0 : State) : State :=
  let s := s0.onDie ((s0.op? op).elim 8 fun o => o.gfe / 4)
  match s.op? op with
  | none => s
  | some o =>
    if o.phase != .no || o.behind.isSome || o.nextTile != 0 || o.done != 0 || o.follows.isSome || o.low.isSome || !(hasTiles o.record)
        || decide (8 ≤ s.specCount (o.gfe / 4)) then s
    else match s.upstream o with
      | none => s
      | some c =>
        match s.takeShadows (issueAsker (s.gfeAt o.gfe) o.gfe) o.shard o.ctxid o.outs with
        | .error _ => s
        | .ok (l, t) =>
          t.onOp op fun p => { p with
            phase := .running
            behind := some c.id
            shadows := l ++ s.twins o
            deps := p.outs.flatMap fun w => (t.writersBefore p.ctxid p.shard w p.id).map OpInst.id }

def execDownstreamSpeculation (op : Nat) (s : State) : Host.Outcome State Fault Refusal := always s (downstream op)

/-! ### Commit (R418) -/

/-- The operators that speculate behind one, and those that read its shadows beside a prediction of their own. -/
def State.behindOf (s : State) (op : Nat) : List OpInst := s.ops.filter fun o => o.behind == some op
def State.uponOf (s : State) (op : Nat) : List OpInst := s.ops.filter fun o => o.upon.contains op

/-- An operator passes: every tile has a verdict, and every verdict passes; those whose shadows it reads have been committed. -/
def State.passes (s : State) (o : OpInst) : Bool :=
  o.phase == .judging && o.behind.isNone && o.verdicts.length == o.total && (o.verdicts.all fun b => b)
    && !(o.upon.any fun c => (s.op? c).elim false OpInst.speculating)

/-- Step 1: the handle's entry takes the shadow's placement, and the old region is released. -/
def State.renameTo (s : State) (o : OpInst) (name t : Nat) : State :=
  let hid := o.under true name
  match s.rawEntry o.ctxid o.shard hid, s.rawEntry o.ctxid o.shard t with
  | some h, some e =>
    let s1 := (s.askRelease o.ctxid o.shard hid o.id).setEntry o.ctxid o.shard (h.place e.base e.len e.res)
    { s1 with
      blocks := s1.blocks.map fun (b : Block) => if b.hid = t && decide (65536 ≤ t) then { b with hid := hid } else b
      temps := AMap.era t s1.temps }
  | _, _ => s

/-- Steps 2 and 3 for one context: its buffered stores are performed in order, its held bundle issues, it speculates no more. -/
def State.unspec (s : State) (ck : Nat) : State :=
  let c := s.ctxAt ck
  let s1 := s.onCtxAt ck fun c => { c with
    spec := false
    down := false
    wbuf := []
    status := if c.status = .blocked .spec then .ready else c.status }
  let s2 := c.wbuf.foldl (fun t g => g.pieces.foldl (State.perform ck g.pages g.so) t) s1
  s2.onCoreAt (ck / 4) fun k => { k with cmds := k.cmds.map fun e => if e.mine c then { e with spec := false } else e }

/-- Commit one operator of the group. -/
def State.commitOp (s : State) (o : OpInst) : State :=
  let s1 := (o.shadows.filter fun p => o.outs.contains p.1).foldl (fun t p => t.renameTo o p.1 p.2) s
  let s2 := (s1.ctxs.filter fun p => p.2.opId == o.id).foldl (fun t p => t.unspec p.1) s1
  let s3 := if o.behind.isNone then (match o.shadowOf o.specHid with
      | some b => s2.dropTemp b
      | none => s2) else s2
  { s3 with traps := s3.traps.map fun (r : TrapRec) => if r.held && r.op = o.id then { r with held := false } else r }.onOp o.id fun p =>
    { p with phase := .no, behind := none, upon := [], shadows := [], verdicts := [], asked := [], specHid := 0, specReg := 0 }

/-- SPEC_COMMIT. -/
def specCommit (op : Nat) (s0 : State) : State :=
  let s := s0.onDie ((s0.op? op).elim 8 fun o => o.gfe / 4)
  match s.op? op with
  | some o => if s.passes o then ((o :: s.behindOf op).foldl State.commitOp s).freeSpecs o.gfe |>.drainReleases else s
  | none => s

def execSpecCommit (op : Nat) (s : State) : Host.Outcome State Fault Refusal := always s (specCommit op)

/-! ### Squash (R419, R420) -/

/-- Edges of an operator among those issued before it, as R23 gives them. -/
def State.depsBefore (s : State) (o : OpInst) : List Nat :=
  (s.ops.filter fun p => decide (p.id < o.id) && s.edge p o.ctxid o.shard o.handles).map OpInst.id

/-- The engine commands of an operator's contexts have completed, but for those that a held fault stops and those issued after such a one, which go
on once it is gone. -/
def State.commandsDone (s : State) (op : Nat) : Bool :=
  s.ctxs.all fun p => p.2.opId != op || ((s.coreAt (p.1 / 4)).cmds.all fun e => !(e.mine p.2) || e.fault.isSome || decide (6 ≤ e.q)
    || ((s.coreAt (p.1 / 4)).before e.seq).any fun f => f.mine p.2 && f.fault.isSome)

/-- A squashed tile as it restarts: at its entry, with its HG and CB. -/
def Ctx.restart (c : Ctx) : Option TileRun :=
  match c.work.job with
  | .tile _ lin ix => some { lin := lin, ix := ix, hg := c.hg, cb := c.cb }
  | _ => none

/-- A squashed context is left empty: its gated and buffered stores, its held effects, its stopped commands and its units go. -/
def State.squashCtx (s : State) (ck : Nat) : State :=
  let s1 := s.onCoreAt (ck / 4) fun k => { k with cmds := k.cmds.filter fun e => !(e.mine (s.ctxAt ck) && e.fault.isSome) }
  ((((s1.leaveBlock ck).releaseUnits (ck / 4) (ck % 4)).dropHandler ck).emptyCtx ck)

/-- An operator as it is issued again. An architected one runs all its tiles again. -/
def State.unissue (s : State) (o : OpInst) (again stopped : List TileRun) : OpInst :=
  let deps := s.depsBefore o
  if o.image.isSome then
    { o with phase := .no, behind := none, upon := [], shadows := [], verdicts := [], asked := [], specHid := 0, specReg := 0, failed := false, stall := none,
             again := again, stopped := stopped, deps := deps, since := s.clk, aged := 0 }
  else
    { o with phase := .no, behind := none, upon := [], shadows := [], verdicts := [], asked := [], specHid := 0, specReg := 0, failed := false, stall := none,
             again := [], stopped := [], deps := deps, since := s.clk, aged := 0, nextTile := 0, code := 0, done := 0 }

/-- Squash one operator. Its tiles restart on their contexts when `stay` holds, blocked until its edges let them; under pre-emption they wait for the
region (R420); else they bind anew. -/
def State.squashOp (s : State) (o : OpInst) (stay : Bool) : State :=
  let cs := s.ctxs.filter fun p => p.2.opId == o.id
  let runs := cs.filterMap fun p => p.2.restart.map fun r => (p.1, r)
  let s1 := cs.foldl (fun t p => t.squashCtx p.1) s
  let s2 := (o.shadows.filter fun p => o.outs.contains p.1 || (o.behind.isNone && p.1 == o.specHid)).foldl (fun t p => t.dropTemp p.2)
    { s1 with traps := s1.traps.filter fun (r : TrapRec) => !(r.held && r.op == o.id) }
  let stop := s2.stopsAt o.ctxid o.rcb
  let keep := stay && !stop
  let early := s2.ops.any fun p => (s2.depsBefore o).contains p.id
  let rest := o.again ++ runs.map Prod.snd
  let o1 := s2.unissue o (if keep then o.again else if stop then [] else rest) (if stop && !keep then rest else [])
  let s3 := s2.onOp o.id fun _ => o1
  if keep && o.image.isSome then
    runs.foldl (fun t r =>
      let u := t.bindTile o1 (r.1 / 4) (r.1 % 4) r.2.lin r.2.ix none none [] r.2.hg r.2.cb 0
      if early then u.onCtxAt r.1 fun c => { c with status := .blocked .edges } else u) s3
  else s3

/-- SPEC_SQUASH: an operator with a failing verdict, or one whose region is asked to pre-empt, and the operators behind it. -/
def specSquash (op : Nat) (s0 : State) : State :=
  let s := s0.onDie ((s0.op? op).elim 8 fun o => o.gfe / 4)
  match s.op? op with
  | some o =>
    let after := s.behindOf op ++ s.uponOf op
    let group := o :: after
    if o.speculating && o.behind.isNone && ((o.phase == .judging && o.verdicts.contains false) || s.stopsAt o.ctxid o.rcb)
        && group.all (fun p => s.commandsDone p.id) then
      (after.foldl (fun t p => t.squashOp p false) (s.squashOp o true)).freeSpecs o.gfe |>.drainReleases
    else s
  | none => s

def execSpecSquash (op : Nat) (s : State) : Host.Outcome State Fault Refusal := always s (specSquash op)

end Sys2Proof.Machine
end

