-- ==== Sys2Proof/Machine/Services.lean ====
section
/-! DEFINITION. Service calls and their results (R186, R370, R428 to R430), service requests, handlers and deadlines (R367 to R371). -/

namespace Sys2Proof.Machine

/-! ### The bundle a context stands at -/

/-- Marks of a bundle that act at an index: in the locked service store only R and J do (R135). -/
def marked (b : Bundle) (pc : Nat) (f : Header → Bool) : Bool := f b.hdr && decide (pc < 7680)

/-- The bundle a context stands at has a mark that has not acted. -/
def State.standsAt (s : State) (c : Ctx) (f : Header → Bool) (bit : Nat) : Bool :=
  match s.bundle? c.bank.pc with
  | some b => marked b c.bank.pc f && !(bitOf c.marks bit)
  | none => false

/-- A context that stands at a C mark which has not acted, while its region is asked to pre-empt. -/
def State.atStop (s : State) (ck : Nat) : Bool :=
  let c := s.ctxAt ck
  (match c.work.job with
    | .tile _ _ _ => true
    | _ => false)
  && !c.spec && !c.inHandler && s.stopsAt c.work.ctxid c.work.rcb && s.standsAt c Header.c 0
  && (match c.status with
    | .ready => true
    | .blocked (.fault _ _) => false
    | .blocked .remote => false
    | .blocked (.svcResult _) => false
    | .blocked _ => true
    | _ => false)

/-! ### SVC (R186, R370) -/

/-- The service record of the acting context. -/
def State.svcRecord (s : State) : List Byte :=
  let b := s.ctx.bank
  svcBytes (b.int 1) ((upTo 6).map fun k => b.int (2 + k)) s.svcToken (whereOf s.act.ck) s.ctx.work.ctxid (2 * s.ctx.locked.toNat)

/-- The record's way into the region's service ring. -/
def State.svcRing (s : State) : Filled := s.serviceRing s.env (dieOfCore s.act.core) s.ctx.work.rcb s.svcRecord

/-- The checks of SVC: a ring that cannot be used traps, a full one blocks; from the locked store neither happens. -/
def svcCheck (s : State) : Verdict :=
  let ring : Verdict := if s.ctx.locked then .ok else match s.svcRing with
    | .bad => .trap ⟨0x12, 0, 0, 0⟩
    | .fault _ _ => .trap ⟨0x12, 0, 0, 0⟩
    | .full => .block .svcRing
    | .ok _ => .ok
  (specVerdict s).and <| match ring with
  | .trap t => .trap t
  | v => (acquireDone s).and <| (releaseVerdict 4 s).and v

/-- Note a call of the acting context. -/
def State.callMade (s : State) (token : Nat) : State :=
  let c := s.ctx
  { s with
    svcCalls := s.svcCalls ++ [SvcCall.mk token (c.bank.int 1) c.work.ctxid c.work.rcb (s.act.ck + 1) 0]
    fresh := s.fresh + 1 }.onCtx fun c => if c.locked then { c with fwSvc := some token } else { c with svc := some token }

/-- SVC: the next bundle waits for the result. -/
def execSvc (s : State) : Host.Outcome State Fault Refusal :=
  slotOp (svcCheck s) s fun s =>
    let t := s.svcToken
    joinViews (if s.ctx.locked then { s with fwRing := s.fwRing ++ [s.svcRecord] }.callMade t
      else match s.svcRing with
        | .ok u => u.callMade t
        | _ => s)

/-! ### Results (R429, R430) -/

/-- A call's result stands among a context's results under a number that no other result has. -/
def svcId (token : Nat) : Nat := 2 ^ 32 + token

/-- The result of a call as a result in flight: its arrival is an acquire at package scope, and no rollback undoes it. -/
def svcVar (token v : Nat) (c : Clock) : VarW :=
  { id := svcId token, dst := .int 1 8 false, bytes := leBytes v 8, waiting := 0, stamps := [c], acq := true, dom := true, old := true }

/-- A context that made a call. -/
def Ctx.calls (c : Ctx) (token : Nat) : Bool := c.svc == some token || c.fwSvc == some token

/-- The result of a context's call; a context evicted since takes it along, and may have come back to another slot of its core. -/
def State.svcArrives (s : State) (ck token v : Nat) : State :=
  let w := svcVar token v (s.clockOf 8)
  match (upTo 4).find? fun x => (s.ctxAt (ck / 4 * 4 + x)).calls token with
  | some x => s.onCtxAt (ck / 4 * 4 + x) fun c => { c with var := c.var ++ [w] }
  | none => s.onCoreAt (ck / 4) fun k => { k with
    saved := k.saved.map fun q => if q.ctx.calls token then { q with ctx := { q.ctx with var := q.ctx.var ++ [w] } } else q }

/-- A write of SVCRES: the call that SVCTOK names is completed, after a release of the writing hart. -/
def writeSvcres (v : Nat) (s : State) : State :=
  let token := s.ioReg 0x28 % 2 ^ 32
  match s.svcCalls.find? fun c => c.token == token with
  | none => s
  | some c =>
    let t := { s with svcCalls := s.svcCalls.filter fun d => d.token != token }.sendMarkers 8
    if c.ck != 0 then t.svcArrives (c.ck - 1) token v
    else if c.gk != 0 then t.onGfeAt (c.gk - 1) fun g => if g.block = .svc token then { g with block := .result v (t.clockOf 8) } else g
    else t

/-- The result of a GFE's call is taken once the clocks of its set's dies dominate the I/O die's at its write: an acquire at package scope
(R126, R345). -/
def callLands (k v : Nat) (c : Clock) (s : State) : State :=
  if (s.gfeAt k).set.all fun j => dominates (s.clockOf (j / 4)) c then gfeResult k v s else s

def execSvcres (v : Nat) (s : State) : Host.Outcome State Fault Refusal := always s (writeSvcres v)

/-- REXIT: a control core completes a call of service 0x50, which ends the caller's region. -/
def rexit (token : Nat) (s : State) : State :=
  match s.svcCalls.find? fun c => c.token == token && c.num == 0x50 with
  | some c => { s with svcCalls := s.svcCalls.filter fun d => d.token != token }.exitRegion c.ctxid c.rcb
  | none => s

def execRexit (token : Nat) (s : State) : Host.Outcome State Fault Refusal := always s (rexit token)

/-! ### Service requests (R367 to R369) -/

/-- A request is pending; its target and handler. -/
def Core.pending (c : Core) : Bool := bitOf c.svcreq.toNat 63
def Core.target (c : Core) : Nat := bitsOf c.svcreq.toNat 56 2
def Core.kind (c : Core) : Nat := bitsOf c.svcreq.toNat 48 6
/-- DEADLINE (R147). -/
def Core.deadline (c : Core) : Nat := c.kreg 0x48

/-- The deadline has trapped the target, whose request enters as soon as it may. -/
def deadlineTrapped : Nat := 2 ^ 40

/-- The D clk without a mark have passed (R369). -/
def Core.late (c : Core) (n : Nat) : Bool :=
  c.pending && c.handler.isNone && decide (0 < c.deadline) && decide (n * c.deadline ≤ c.dcount) && decide (c.dcount < deadlineTrapped)

/-- Swap the service bank in: s0 to s15 and p1 to p15. -/
def Bank.withService (b : Bank) (ss : AMap SReg) (p : BitVec 16) : Bank :=
  { b with s := (upTo 16).foldl (fun m i => AMap.ins i (AMap.get ⟨0, false⟩ ss i) m) b.s, p := p }

/-- s0 to s15 of a bank. -/
def Bank.low (b : Bank) : AMap SReg := (upTo 16).map fun i => (i, b.sreg i)

/-- Enter the pending handler in a context of a core. Results in flight settle, the gated stores commit, a region begins and the handler stands at
position 0 (logs 76, 77). The bank gives s0 the index of the bundle, s1 KIND, s2 ARG; an empty context stands at no
bundle, and its s0 is a free value (log 5). -/
def State.enterHandler (s : State) (core x : Nat) : State :=
  let ck := 4 * core + x
  let k := s.coreAt core
  let s1 := commitAt ck (s.leaveBlock ck)
  let c := (s1.ctxAt ck).settled
  let at0 := if c.bound then c.bank.pc else Config.freeNat s.fresh % 7680
  let bank := (c.bank.withService k.svcS k.svcP).writes [intW 0 at0, intW 1 k.kind, intW 2 (k.svcreq.toNat % 2 ^ 48)]
  let s2 := s1.setCtxAt ck (({ c with
    bank := { bank with pc := 7680 + 8 * k.kind }
    status := .ready
    pos := 0
    inHandler := true
    pAsY := false
    marks := 0
    next := none
    remote := none
    owed := c.answered
    outer := c.deadline
    deadline := none
    shown := none
    released := false
    probed := false
    onEng := false
    grav := 0
    notBefore := s.clk } : Ctx).newRegion)
  { s2 with fresh := s2.fresh + 1 }.onCoreAt core fun k => { k with
    handler := some (x, c.bank)
    svcreq := BitVec.ofNat 64 (k.svcreq.toNat - 2 ^ 63)
    dcount := 0 }

/-- A request may enter its target now: at a context that is empty and not evicted (R367), at a Y-marked bundle or a P-marked one past the deadline, ready or blocked, with
no result in flight but that of a service call. -/
def State.mayEnter (s : State) (core x : Nat) : Bool :=
  let k := s.coreAt core
  let c := s.ctxAt (4 * core + x)
  k.pending && k.target == x && k.handler.isNone && !c.inHandler && !k.gated && (match c.status with
    | .empty => !(k.saved.any fun q => q.x == x)
    | .trapped => false
    | .ending => false
    | .blocked (.fault _ _) => false
    | .blocked .remote => false
    | _ => decide (k.dcount = deadlineTrapped) || !(s.atStop (4 * core + x)) && (match s.bundle? c.bank.pc with
        | some b => marked b c.bank.pc Header.y || (marked b c.bank.pc Header.p && (c.pAsY || k.late 1))
        | none => false))
  && (c.var.all fun v => c.svc.any fun t => v.id == svcId t)

/-- SERVICE_HANDLER_ENTRY. -/
def handlerEntry (core x : Nat) (s : State) : State := if s.mayEnter core x then s.enterHandler core x else s

def execServiceHandlerEntry (core x : Nat) (s : State) : Host.Outcome State Fault Refusal := always s (handlerEntry core x)

/-- SERVICE_DEADLINE_P_MARK: D clk without a Y mark have passed. -/
def deadlineP (core x : Nat) (s : State) : State :=
  if (s.coreAt core).target = x && (s.coreAt core).late 1 then s.onCtxAt (4 * core + x) fun c => { c with pAsY := true } else s

def execServiceDeadlinePMark (core x : Nat) (s : State) : Host.Outcome State Fault Refusal := always s (deadlineP core x)

/-- SERVICE_DEADLINE_TRAP: a further D clk have passed; the target traps with cause 0x14 before its next bundle. -/
def deadlineTrap (core x : Nat) (s : State) : State :=
  let c := s.ctxAt (4 * core + x)
  if (s.coreAt core).target = x && (s.coreAt core).late 2 && c.bound && !c.inHandler && c.status == .ready then
    (takeTrapAt (4 * core + x) ⟨0x14, 0, 0, 0⟩ s).onCoreAt core fun k => { k with dcount := deadlineTrapped }
  else s

def execServiceDeadlineTrap (core x : Nat) (s : State) : Host.Outcome State Fault Refusal := always s (deadlineTrap core x)

/-- A write of SVCREQ: refused while a request is pending; one for an empty context enters at once. -/
def writeSvcreq (core v : Nat) (s : State) : State :=
  if !(bitOf v 63) then s
  else if (s.coreAt core).pending then s.onCoreAt core fun k => { k with svcreq := BitVec.ofNat 64 (putBits k.svcreq.toNat 62 1 1) }
  else
    let t := s.onCoreAt core fun k => { k with
      svcreq := BitVec.ofNat 64 (2 ^ 63 + bitsOf v 56 2 * 2 ^ 56 + bitsOf v 48 6 * 2 ^ 48 + v % 2 ^ 48), dcount := 0 }
    let x := bitsOf v 56 2
    if (t.ctxAt (4 * core + x)).status = .empty then handlerEntry core x t else t

def execSvcreq (core v : Nat) (s : State) : Host.Outcome State Fault Refusal := always s (writeSvcreq core v)

/-- The handler's return: the service bank keeps its registers, the context takes its own back and stands at the target, where the marks
before R have acted, at position 0 and in a new region (logs 76, 77); one that held no work is empty again (R135, R153, R368). -/
def State.leaveHandler (s : State) (core x t : Nat) : State :=
  let ck := 4 * core + x
  match (s.coreAt core).handler with
  | none => s
  | some (_, own) =>
    let s1 := commitAt ck s
    let c := (s1.ctxAt ck).settled
    let s2 := s1.onCoreAt core fun k => { k with svcS := c.bank.low, svcP := c.bank.p, handler := none }
    let back := { (c.bank.withService own.low own.p) with pc := t }
    if c.bound then
      s2.setCtxAt ck (({ c with bank := back, inHandler := false, fwSvc := none, pos := 0, next := none,
                                deadline := if t = own.pc then c.outer else none, outer := none,
                                marks := if t = own.pc then 7 else 0 } : Ctx).newRegion)
    else s2.emptyCtx ck

end Sys2Proof.Machine
end

