-- ==== Sys2Proof/Machine/Uses.lean ====
section
/-! DEFINITION. What the slots of a bundle name: the registers that an operation reads and writes with the latency of a fixed result
(R143, R144), the formats it names (R446), and its checks in one place (R139). -/

namespace Sys2Proof.Machine

/-! ### Registers (R138, R143, R144) -/

/-- Position a and position b of a V operation; a hold bit reads no register (R140). -/
def rdA (f : VFields) : List (Nat × Nat) := if f.ha then [] else [(1, f.va)]
def rdB (f : VFields) : List (Nat × Nat) := if f.hb then [] else [(1, f.vb)]

/-- The hold bits of positions a and b. -/
def holdBits : Instr → Bool × Bool
  | .vadd f | .vsub f | .vmul f | .vfma f | .vmin f | .vmax f | .vclamp f | .vscale f | .vcmp f | .vsel f => (f.ha, f.hb)
  | .vand f | .vor f | .vxor f | .vshl f | .vshr f | .vext f | .vperm f => (f.ha, f.hb)
  | .vabs f | .vneg f | .vrcp f | .vrsq f | .vexp2 f | .vlog2 f | .vcvt f | .vshlImm f | .vshrImm f | .vred f | .vbcast f => (f.ha, false)
  | _ => (false, false)

/-- The recorded registers that hold uses of dropped latches read (R141). -/
def Ctx.heldReads (c : Ctx) (i : Instr) : List (Nat × Nat) :=
  let reg := fun (use : Bool) (l : Latch) => if use && l.val.isNone then [(1, l.reg)] else []
  reg (holdBits i).1 c.latchA ++ reg (holdBits i).2 c.latchB ++ reg (match i with
    | .accwr _ _ ha _ => ha
    | _ => false) c.latchM

/-- Registers an operation reads: kind (0 s, 1 v, 2 p, 3 q) and number. -/
def slotReads : Instr → List (Nat × Nat)
  | .mov _ a => [(0, a)]
  | .lih d _ => [(0, d)]
  | .add _ a b => [(0, a), (0, b)]
  | .addi _ a _ => [(0, a)]
  | .sub _ a b => [(0, a), (0, b)]
  | .mul _ a b => [(0, a), (0, b)]
  | .mulh _ a b _ => [(0, a), (0, b)]
  | .div _ a b _ => [(0, a), (0, b)]
  | .rem _ a b _ => [(0, a), (0, b)]
  | .and _ a b => [(0, a), (0, b)]
  | .or _ a b => [(0, a), (0, b)]
  | .xor _ a b => [(0, a), (0, b)]
  | .shl _ a b => [(0, a), (0, b)]
  | .shlImm _ a _ => [(0, a)]
  | .shr _ a b => [(0, a), (0, b)]
  | .shrImm _ a _ => [(0, a)]
  | .sra _ a b => [(0, a), (0, b)]
  | .sraImm _ a _ => [(0, a)]
  | .min _ a b _ => [(0, a), (0, b)]
  | .max _ a b _ => [(0, a), (0, b)]
  | .sel _ n a b => [(2, n), (0, a), (0, b)]
  | .cmp _ _ a b _ => [(0, a), (0, b)]
  | .cmpi _ _ a _ _ => [(0, a)]
  | .pand _ pa pb _ => [(2, pa), (2, pb)]
  | .por _ pa pb _ => [(2, pa), (2, pb)]
  | .pxor _ pa pb _ => [(2, pa), (2, pb)]
  | .cnarrow c a b => [(0, c), (0, a), (0, b)]
  | .cperm c _ => [(0, c)]
  | .cget _ a _ => [(0, a)]
  | .ctest _ _ a _ => [(0, a)]
  | .mtk _ a => [(0, a)]
  | .br a => [(0, a)]
  | .retm a => [(0, a)]
  | .loopReg a _ => [(0, a)]
  | .dispatch a _ _ _ => [(0, a)]
  | .svc => [(0, 1), (0, 2), (0, 3), (0, 4), (0, 5), (0, 6), (0, 7)]
  | .wload src ts _ => if ts then [] else [(0, src)]
  | .cbload sa => [(0, sa)]
  | .mxnest _ sa => [(0, sa)]
  | .mxgo f => (0, f.sc) :: ((if f.asel then [(0, f.a)] else []) ++ (if f.mode = 2 && f.bsel then [(0, f.b)] else []))
  | .accrd sc _ ss _ _ scl _ => (0, sc) :: (if scl then [(0, ss)] else [])
  | .accwr sc va ha _ => (0, sc) :: (if ha then [] else [(1, va)])
  | .accz sc _ _ => [(0, sc)]
  | .rtload sa _ _ _ _ _ => [(0, sa)]
  | .rtapply sa sb sw _ _ _ _ uw _ => [(0, sa), (0, sb)] ++ (if uw then [] else [(0, sw)])
  | .rtwords sa => [(0, sa)]
  | .ptrans dst src ds ss _ => (if ss then [(0, src)] else []) ++ (if ds then [(0, dst)] else [])
  | .pgather _ sa si _ => [(0, sa), (0, si)]
  | .pred sd sa sb _ kind _ => [(0, sd), (0, sa)] ++ (if kind = 0 then [] else [(0, sb)])
  | .tcmp sa sb sc st _ _ => [(0, sa), (0, sb), (0, sc), (0, st)]
  | .ld _ sa _ _ _ _ => [(0, sa)]
  | .st sd sa _ _ _ _ => [(0, sd), (0, sa)]
  | .lda _ sa _ _ _ _ => [(0, sa)]
  | .stl sd sa _ _ _ _ => [(0, sd), (0, sa)]
  | .vld _ sa qp _ _ => [(0, sa), (3, qp)]
  | .vst vs sa qp _ _ => [(1, vs), (0, sa), (3, qp)]
  | .vlds _ sa qp sb _ _ => [(0, sa), (3, qp), (0, sb)]
  | .vgather _ sa qp vb _ _ => [(0, sa), (3, qp), (1, vb)]
  | .vscatter vs sa qp vb _ _ => [(1, vs), (0, sa), (3, qp), (1, vb)]
  | .tmov dst src ds ss _ _ => (if ss then [(0, src)] else []) ++ (if ds then [(0, dst)] else [])
  | .cpyput vs sa _ => [(1, vs), (0, sa)]
  | .rawait _ sa _ => [(0, sa)]
  | .rarel sa _ => [(0, sa)]
  | .rapeek _ sa _ => [(0, sa)]
  | .atom _ sa sb _ _ _ _ _ _ => [(0, sa), (0, sb)]
  | .acas _ sa sb sc _ _ _ _ => [(0, sa), (0, sb), (0, sc)]
  | .ewait sa => [(0, sa)]
  | .barinit sa _ _ _ => [(0, sa)]
  | .bararr _ sa _ rc n _ => (0, sa) :: (if rc then [(0, n)] else [])
  | .barwait _ sa _ dl sb sc _ => [(0, sa), (0, sb)] ++ (if dl then [(0, sc)] else [])
  | .enq slot rq sa => (0, sa) :: (if rq then [(0, slot)] else [])
  | .deq _ slot rq => if rq then [(0, slot)] else []
  | .spawn slot rq sa _ => (0, sa) :: (if rq then [(0, slot)] else [])
  | .gsplit _ rk k => if rk then [(0, k)] else []
  | .gret sb => [(0, sb)]
  | .waitq sa => [(0, sa)]
  | .waitt sa _ => [(0, sa)]
  | .vadd f => (3, f.qp) :: (rdA f ++ rdB f)
  | .vsub f => (3, f.qp) :: (rdA f ++ rdB f)
  | .vmul f => (3, f.qp) :: (rdA f ++ rdB f)
  | .vfma f => (3, f.qp) :: (rdA f ++ rdB f ++ [(1, f.vc)])
  | .vmin f => (3, f.qp) :: (rdA f ++ rdB f)
  | .vmax f => (3, f.qp) :: (rdA f ++ rdB f)
  | .vclamp f => (3, f.qp) :: (rdA f ++ rdB f ++ [(1, f.vc)])
  | .vabs f => (3, f.qp) :: (rdA f)
  | .vneg f => (3, f.qp) :: (rdA f)
  | .vrcp f => (3, f.qp) :: (rdA f)
  | .vrsq f => (3, f.qp) :: (rdA f)
  | .vexp2 f => (3, f.qp) :: (rdA f)
  | .vlog2 f => (3, f.qp) :: (rdA f)
  | .vcvt f => (3, f.qp) :: (rdA f)
  | .vscale f => (3, f.qp) :: (rdA f ++ rdB f)
  | .vcmp f => (3, f.qp) :: (rdA f ++ rdB f)
  | .vsel f => (3, f.qp) :: (rdA f ++ rdB f ++ [(3, f.vc)])
  | .vand f => (3, f.qp) :: (rdA f ++ rdB f)
  | .vor f => (3, f.qp) :: (rdA f ++ rdB f)
  | .vxor f => (3, f.qp) :: (rdA f ++ rdB f)
  | .vshl f => (3, f.qp) :: (rdA f ++ rdB f)
  | .vshlImm f => (3, f.qp) :: (rdA f)
  | .vshr f => (3, f.qp) :: (rdA f ++ rdB f)
  | .vshrImm f => (3, f.qp) :: (rdA f)
  | .vred f => (3, f.qp) :: (rdA f)
  | .vbcast f => (3, f.qp) :: (rdA f)
  | .vext f => (3, f.qp) :: (rdA f ++ rdB f)
  | .vperm f => (3, f.qp) :: (rdA f ++ rdB f)
  | .viota f => [(3, f.qp)]
  | .qand f => [(3, f.qp), (3, f.va), (3, f.vb)]
  | .qor f => [(3, f.qp), (3, f.va), (3, f.vb)]
  | .qnot f => [(3, f.qp), (3, f.va)]
  | _ => []

/-- Registers an operation writes, each with its latency; 0 for a variable-latency result. -/
def slotWrites : Instr → List ((Nat × Nat) × Nat)
  | .mov d _ => [((0, d), 1)]
  | .li d _ => [((0, d), 1)]
  | .lih d _ => [((0, d), 1)]
  | .add d _ _ => [((0, d), 1)]
  | .addi d _ _ => [((0, d), 1)]
  | .sub d _ _ => [((0, d), 1)]
  | .mul d _ _ => [((0, d), 3)]
  | .mulh d _ _ _ => [((0, d), 3)]
  | .div d _ _ _ => [((0, d), 18)]
  | .rem d _ _ _ => [((0, d), 18)]
  | .and d _ _ => [((0, d), 1)]
  | .or d _ _ => [((0, d), 1)]
  | .xor d _ _ => [((0, d), 1)]
  | .shl d _ _ => [((0, d), 1)]
  | .shlImm d _ _ => [((0, d), 1)]
  | .shr d _ _ => [((0, d), 1)]
  | .shrImm d _ _ => [((0, d), 1)]
  | .sra d _ _ => [((0, d), 1)]
  | .sraImm d _ _ => [((0, d), 1)]
  | .min d _ _ _ => [((0, d), 1)]
  | .max d _ _ _ => [((0, d), 1)]
  | .sel d _ _ _ => [((0, d), 1)]
  | .cmp pd pc _ _ _ => [((2, pd), 1), ((2, pc), 1)]
  | .cmpi pd pc _ _ _ => [((2, pd), 1), ((2, pc), 1)]
  | .pand pd _ _ _ => [((2, pd), 1)]
  | .por pd _ _ _ => [((2, pd), 1)]
  | .pxor pd _ _ _ => [((2, pd), 1)]
  | .cnarrow c _ _ => [((0, c), 1)]
  | .cperm c _ => [((0, c), 1)]
  | .cget d _ _ => [((0, d), 1)]
  | .ctest pd pc _ _ => [((2, pd), 1), ((2, pc), 1)]
  | .mfk d _ => [((0, d), 1)]
  | .callm d _ => [((0, d), 1)]
  | .accrd _ vd _ _ _ _ _ => [((1, vd), 0)]
  | .rtread vd _ _ => [((1, vd), 0)]
  | .ld sd _ _ _ _ _ => [((0, sd), 0)]
  | .lda sd _ _ _ _ _ => [((0, sd), 0)]
  | .vld vd _ _ _ _ => [((1, vd), 0)]
  | .vlds vd _ _ _ _ _ => [((1, vd), 0)]
  | .vgather vd _ _ _ _ _ => [((1, vd), 0)]
  | .rawait sd _ _ => [((0, sd), 0)]
  | .rapeek sd _ _ => [((0, sd), 0)]
  | .atom sd _ _ _ _ _ _ nret _ => if nret then [] else [((0, sd), 0)]
  | .acas sd _ _ _ _ _ _ _ => [((0, sd), 0)]
  | .bararr sd _ _ _ _ _ => [((0, sd), 0)]
  | .barwait pd _ _ _ _ _ _ => [((2, pd), 1)]
  | .deq sd _ _ => [((0, sd), 0)]
  | .gsplit sd _ _ => [((0, sd), 0)]
  | .time sd => [((0, sd), 0)]
  | .vadd f => [((1, f.vd), 3)]
  | .vsub f => [((1, f.vd), 3)]
  | .vmul f => [((1, f.vd), 4)]
  | .vfma f => [((1, f.vd), 4)]
  | .vmin f => [((1, f.vd), 3)]
  | .vmax f => [((1, f.vd), 3)]
  | .vclamp f => [((1, f.vd), 3)]
  | .vabs f => [((1, f.vd), 3)]
  | .vneg f => [((1, f.vd), 3)]
  | .vrcp f => [((1, f.vd), 8)]
  | .vrsq f => [((1, f.vd), 8)]
  | .vexp2 f => [((1, f.vd), 8)]
  | .vlog2 f => [((1, f.vd), 8)]
  | .vcvt f => [((1, f.vd), 3)]
  | .vscale f => [((1, f.vd), 4)]
  | .vcmp f => [((3, f.vd), 3), ((3, bitsOf f.vc 0 4), 3)]
  | .vsel f => [((1, f.vd), 3)]
  | .vand f => [((1, f.vd), 3)]
  | .vor f => [((1, f.vd), 3)]
  | .vxor f => [((1, f.vd), 3)]
  | .vshl f => [((1, f.vd), 3)]
  | .vshlImm f => [((1, f.vd), 3)]
  | .vshr f => [((1, f.vd), 3)]
  | .vshrImm f => [((1, f.vd), 3)]
  | .vred f => [((1, f.vd), 6)]
  | .vbcast f => [((1, f.vd), 3)]
  | .vext f => [((1, f.vd), 3)]
  | .vperm f => [((1, f.vd), 3)]
  | .viota f => [((1, f.vd), 3)]
  | .qand f => [((3, f.vd), 1)]
  | .qor f => [((3, f.vd), 1)]
  | .qnot f => [((3, f.vd), 1)]
  | _ => []

/-- Formats an operation names. -/
def slotFormats : Instr → List Nat
  | .vadd f | .vsub f | .vmul f | .vfma f | .vmin f | .vmax f | .vclamp f | .vabs f | .vneg f => [f.fmt]
  | .vrcp f | .vrsq f | .vexp2 f | .vlog2 f | .vscale f | .vcmp f | .vred f | .vbcast f | .vext f | .vperm f | .viota f => [f.fmt]
  | .vshl f | .vshlImm f | .vshr f | .vshrImm f => [f.fmt]
  | .vcvt f => [f.fmt, bitsOf f.vc 0 4]
  | .tcfg _ fmt _ => [fmt]
  | .wload _ _ fmt => [fmt]
  | .mxgo f => [f.afmt]
  | .accrd _ _ _ fmt _ _ _ => [fmt]
  | .pred _ _ _ fmt _ _ => [fmt]
  | .tcmp _ _ _ _ fmt _ => [fmt]
  | .rtload _ _ _ rf _ _ => [if rf then 11 else 0]
  | .rtapply _ _ _ _ _ rf _ _ _ => [if rf then 11 else 0]
  | _ => []

/-! ### Checks (R139) -/

/-- The checks of VLD: the pattern of a BFX load is one that unpacks (R245). -/
def vldCheck (sa qp : Nat) (bfx : Bool) (imm : Int) (s : State) : Verdict :=
  let b := s.ctx.bank
  if bfx then
    vecLoadCheck sa [(imm, 0, bfxBytes b.bfxPattern)] (need (bfxEN b.bfxPattern && bfxOk b.bfxPattern) ⟨2, 0, 0, 3⟩) s
  else vecLoadCheck sa (lanesParts imm (b.lanes qp)) .ok s

/-- What the checks of a slot operation decide for the acting context. -/
def verdictOf (i : Instr) (s : State) : Verdict :=
  match i with
  | .cnarrow c a b => cnarrowCheck c a b s
  | .cperm c _ => cpermCheck c s
  | .mfk _ k => mfkCheck k s
  | .mtk k a => mtkCheck k a s
  | .br a => brCheck a s
  | .bri t => briCheck t s
  | .callm _ t => callmCheck t s
  | .retm a => retmCheck a s
  | .brloop t => brloopCheck t s
  | .dispatch a sh na smask => dispatchCheck a sh na smask s
  | .endop => endopCheck s
  | .trap code => trapCheck code s
  | .tcfg tn _ _ => tcfgCheck tn s
  | .tzero tn => tzeroCheck tn s
  | .wload src ts fmt => wloadCheck src ts fmt s
  | .cbload sa => cbloadCheck sa s
  | .mxgo f => mxgoCheck f s
  | .accrd sc _ _ fmt _ _ off => accrdCheck sc fmt off s
  | .accwr sc _ _ off => accwrCheck sc off s
  | .accz sc nl off => acczCheck sc nl off s
  | .rtload sa _ _ rf _ _ => rtloadCheck sa rf s
  | .rtapply sa sb sw _ _ rf _ uw _ => rtapplyCheck sa sb sw rf uw s
  | .rtread _ _ _ => rtreadCheck s
  | .rtclr => rtclrCheck s
  | .rtgain => rtgainCheck s
  | .rtwords sa => rtwordsCheck sa s
  | .ptrans dst src ds ss _ => ptransCheck dst src ds ss s
  | .pgather tn sa si nM1 => pgatherCheck tn sa si nM1 s
  | .pred sd sa sb fmt kind _ => predCheck sd sa sb fmt kind s
  | .tcmp sa sb sc _ fmt _ => tcmpCheck sa sb sc fmt s
  | .ld _ sa sz _ _ imm => ldCheck sa sz imm s
  | .st _ sa sz _ _ imm => stCheck sa sz imm s
  | .lda _ sa sz _ _ imm => ldaCheck sa sz imm s
  | .stl _ sa sz _ scope imm => stlCheck sa sz scope imm s
  | .tmov dst src ds ss nrM1 str => tmovCheck dst src ds ss nrM1 str s
  | .cpyput _ sa imm => cpyputCheck sa imm s
  | .rawait _ sa k => rawaitCheck sa k s
  | .rarel sa nM1 => rarelCheck sa nM1 s
  | .rapeek _ sa k => rapeekCheck sa k s
  | .atom _ sa _ _ w8 ord scope _ imm => atomCheck sa w8 ord scope imm s
  | .acas _ sa _ _ w8 ord scope imm => acasCheck sa w8 ord scope imm s
  | .fence kind scope emask => fenceCheck kind scope emask s
  | .ewait sa => ewaitCheck sa s
  | .barinit sa scope _ imm => barinitCheck sa scope imm s
  | .bararr _ sa scope rc n imm => bararrCheck sa scope rc n imm s
  | .barwait _ sa scope dl sb sc imm => barwaitCheck sa scope dl sb sc imm s
  | .enq slot rq _ => enqCheck slot rq s
  | .deq _ slot rq => deqCheck slot rq s
  | .spawn slot rq sa imm => spawnCheck slot rq sa imm s
  | .gsplit _ rk k => gsplitCheck rk k s
  | .gret sb => gretCheck sb s
  | .waitq sa => waitqCheck sa s
  | .waitt sa rel => waittCheck sa rel s
  | .vld _ sa qp bfx imm => vldCheck sa qp bfx imm s
  | .vst _ sa qp _ imm => vecStoreCheck sa (lanesParts imm (s.ctx.bank.lanes qp)) s
  | .vlds _ sa qp sb esz imm => vecLoadCheck sa (stridedParts imm (sext (s.ctx.bank.int sb) 64) esz (s.ctx.bank.lanes qp)) .ok s
  | .vgather _ sa qp vb scl imm => vecLoadCheck sa (indexedParts imm (s.ctx.bank.vreg vb) scl (s.ctx.bank.lanes qp)) .ok s
  | .vscatter _ sa qp vb scl imm => vecStoreCheck sa (indexedParts imm (s.ctx.bank.vreg vb) scl (s.ctx.bank.lanes qp)) s
  | .svc => svcCheck s
  | _ => .ok

end Sys2Proof.Machine
end

