-- ==== Sys2Proof/Machine/Turn.lean ====
section
/-! DEFINITION. Which context of a core issues (R38 to R41), what a bundle comes to when it is presented (R134 to R144), and the events that
resume a blocked bundle, land a result, acknowledge a store and trap a late context (R39, R44, R121, R143). -/

namespace Sys2Proof.Machine

/-! ### The turn rule (R40, R41) -/

/-- A core that may issue: neither halted, gated, nor stopped by a change of its island. -/
def State.coreRuns (s : State) (core : Nat) : Bool :=
  !(s.coreAt core).halted && !(s.coreAt core).gated && !(AMap.get (false, 0) s.islands core).1

/-- A context that is ready and not stalling. -/
def State.isReady (s : State) (core x : Nat) : Bool :=
  let c := s.ctxAt (4 * core + x)
  c.status == .ready && decide (c.notBefore ≤ s.clk) && s.regionIssues c

/-- Contexts by w, largest first, equal ones in the order given. -/
def byW (w : Nat → Nat) (x : Nat) : List Nat → List Nat
  | [] => [x]
  | y :: ys => if w y < w x then x :: y :: ys else y :: byW w x ys

/-- The condition under which the issuing context goes on: w[o_k] + k ≤ 3 for every k from 1. -/
def turnHolds (w : Nat → Nat) : Nat → List Nat → Bool
  | _, [] => true
  | k, o :: os => decide (w o + k ≤ 3) && turnHolds w (k + 1) os

/-- The first after cur in cyclic order with the largest w. -/
def nextTurn (w : Nat → Nat) (cur : Nat) (os : List Nat) : Option Nat :=
  let top := os.foldl (fun a x => max a (w x)) 0
  ((upTo 4).map fun i => (cur + 1 + i) % 4).find? fun x => os.contains x && w x == top

/-- The turn rule over the contexts open to it. -/
def turnRule (w : Nat → Nat) (cur : Nat) (avail : List Nat) : Option Nat :=
  let os := (avail.filter fun x => x != cur).foldl (fun l x => byW w x l) []
  if avail.contains cur && turnHolds w 1 os then some cur else nextTurn w cur os

/-- Context 3 takes the next slot under its share. A slot that it takes because no other context is ready does not count (log 69). -/
def Core.shareDue (c : Core) : Bool :=
  let f := min (c.kreg 0x49 % 32) 16
  decide (0 < f) && ((c.history.take 3).all fun h => h.1 != 3)
    && decide ((((c.history.filter fun h => h.2.1).take 64).filter fun h => h.2.2).length < f)

/-- FW of FWSHARE, which takes effect once context 3 holds no work (R371). -/
def State.fwOn (s : State) (core : Nat) : Bool := (s.coreAt core).fw && !(s.ctxAt (4 * core + 3)).bound

/-- The context for the next issue slot, and whether it takes it under the firmware share. -/
def State.pick (s : State) (core : Nat) : Option (Nat × Bool) :=
  let c := s.coreAt core
  let ready := (upTo 4).filter (s.isReady core)
  let rule := fun (l : List Nat) => (turnRule (fun x => (s.ctxAt (4 * core + x)).w) c.lastX l).map fun x => (x, false)
  let chosen := match c.turn with
    | some t => ready.contains t.1
    | none => false
  if chosen then c.turn
  else if s.fwOn core then
    let rest := ready.filter fun x => x != 3
    if ready.contains 3 && rest.isEmpty then some (3, false)
    else if ready.contains 3 && c.shareDue then some (3, true)
    else rule rest
  else rule ready

/-- Switch to a context: the other one's latches drop, and the clk is no issue slot. -/
def State.switchTo (s : State) (core : Nat) (t : Nat × Bool) : State :=
  (s.onCtxAt (4 * core + (s.coreAt core).lastX) Ctx.dropLatches).onCoreAt core fun c => { c with turn := some t, slotAt := s.clk + 1 }

/-- The core has to switch before it issues from a context. -/
def State.mustSwitch (s : State) (core : Nat) (t : Nat × Bool) : Bool := t.1 != (s.coreAt core).lastX && (s.coreAt core).turn != some t

/-- CONTEXT_SWITCH. -/
def contextSwitch (core : Nat) (s : State) : State :=
  match s.pick core with
  | some t => if s.coreRuns core && decide ((s.coreAt core).slotAt ≤ s.clk) && s.mustSwitch core t then s.switchTo core t else s
  | none => s

def execContextSwitch (core : Nat) (s : State) : Host.Outcome State Fault Refusal := always s (contextSwitch core)

/-- The slot is taken: the w of the ready contexts that did not issue, unless it was taken under the share; and the history. -/
def State.slotTaken (s : State) (core x : Nat) (share : Bool) : State :=
  let others := (upTo 4).filter fun y => y != x && s.isReady core y
  let s1 := if share then s else others.foldl (fun t y => t.onCtxAt (4 * core + y) fun c => { c with w := c.w + 1 }) s
  (s1.onCtxAt (4 * core + x) fun c => { c with w := 0, issuedAt := s.clk }).onCoreAt core fun k => { k with
    lastX := x
    turn := none
    slotAt := s.clk + 1
    history :=
      let h := (x, x == 3 || s.isReady core 3, share) :: k.history
      h.take 3 ++ ((h.drop 3).filter fun e => e.2.1).take 64 }

/-! ### A bundle as it is presented (R134, R138, R139, R143, R144) -/

/-- The acting context. -/
def State.acting (s : State) (core x : Nat) : State := { s with act := { s.act with core := core, x := x } }

/-- The operations of a bundle whose guards hold, with their slots. -/
def openOps (b : Bank) (l : List SlotDec) : List (Nat × Instr) :=
  (List.zip (upTo 4) l).filterMap fun p => match p.2 with
    | .op o => if b.pred o.g then some (p.1, o.op) else none
    | _ => none

/-- Every operation of a bundle, with its slot. -/
def slotOps (l : List SlotDec) : List (Nat × Instr) :=
  (List.zip (upTo 4) l).filterMap fun p => match p.2 with
    | .op o => some (p.1, o.op)
    | _ => none

/-- The registers that an operation names as destinations. -/
def slotDests (i : Instr) : List (Nat × Nat) := (slotWrites i).map Prod.fst

/-- A destination that an earlier slot names too; p0 and q0 are exempt (R138). -/
def sameDest (seen : List (Nat × Nat)) (i : Instr) : Bool :=
  (slotDests i).any fun d => seen.contains d && !(decide (2 ≤ d.1) && d.2 == 0)

/-- A format that reduced service does not offer (R446). -/
def State.closedFormat (s : State) (i : Instr) : Bool := s.reduced && (slotFormats i).any fun f => decide (1 < f)

/-- The first slot, in the order S, V, M, X, that fails to decode (R134, R165), names a destination of an earlier slot (R138; log 65: of the
two slots the later one takes the trap) or a closed format (R446). -/
def State.slotTrap (s : State) : List (Nat × Nat) → List (Nat × SlotDec) → Option TrapInfo
  | _, [] => none
  | seen, (_, .empty) :: r => s.slotTrap seen r
  | _, (n, .bad c) :: _ => some ⟨c, 0, 0, n⟩
  | seen, (n, .op o) :: r =>
    if sameDest seen o.op || s.closedFormat o.op then some ⟨2, 0, 0, n⟩ else s.slotTrap (seen ++ slotDests o.op) r

/-- The decode trap of a bundle: the header's first (R139). -/
def State.decodeTrap (s : State) (b : Bundle) : Option TrapInfo :=
  if b.bad then some ⟨2, 0, 0, 4⟩ else s.slotTrap [] (List.zip (upTo 4) b.slots)

/-- A register name as the register it stands for: v names through RRB (R150). -/
def Bank.resolve (b : Bank) (r : Nat × Nat) : Nat × Nat := if r.1 = 1 then (1, b.phys r.2) else r

/-- The register that a write in flight goes to. -/
def RegW.reg : RegW → Nat × Nat
  | .s n _ => (0, n)
  | .v n _ _ => (1, n)
  | .p n _ => (2, n)
  | .q n _ _ => (3, n)
  | .k i _ => (4, i)

/-- Guards of a bundle as registers read. -/
def guardReads (l : List SlotDec) : List (Nat × Nat) :=
  l.filterMap fun d => match d with
    | .op o => some (2, o.g)
    | _ => none

/-- A register that a bundle uses waits for a variable-latency result (R143). A hold of a dropped latch reads its register (R141). -/
def Ctx.interlocked (c : Ctx) (l : List SlotDec) : Bool :=
  let ops := (openOps c.bank l).map Prod.snd
  let names := guardReads l ++ ops.flatMap fun i => slotReads i ++ slotDests i
  let regs := names.map c.bank.resolve ++ ops.flatMap c.heldReads
  c.var.any fun v => match dstReg v.dst with
    | some r => regs.contains r
    | none => false

/-- A write in flight that reaches a register: those of p0 and q0 are discarded (R145). -/
def FixW.lands (f : FixW) : Bool := !((f.w.reg.1 == 2 || f.w.reg.1 == 3) && f.w.reg.2 == 0)

/-- The checking scoreboard: a source with a write due later, or a destination with an earlier write due at or after the new one's (R144).
A destination of variable latency counts as due at once (log 74). -/
def Ctx.scoreboard (c : Ctx) (guard : Nat) (i : Instr) : Bool :=
  (((2, guard) :: slotReads i).map c.bank.resolve ++ c.heldReads i).any (fun r => c.fix.any fun f => f.w.reg == r && f.lands)
    || (slotWrites i).any fun w => c.fix.any fun f => f.w.reg == c.bank.resolve w.1 && f.lands && decide (c.pos + w.2 ≤ f.due)

/-- Ranks of verdicts: traps, then translation faults, then what makes the bundle wait. -/
def Verdict.rank : Verdict → Nat
  | .trap _ => 0
  | .rmwTrap _ _ _ => 0
  | .fault _ _ => 1
  | .block _ => 2
  | .wait => 3
  | .waitEng => 3
  | .ok => 5
  | _ => 4

/-- The first verdict of the lowest rank. -/
def worst : List Verdict → Verdict
  | [] => .ok
  | v :: vs => let w := worst vs; if v.rank ≤ w.rank then v else w

/-- The checks of one slot: the scoreboard's, then the operation's own, an order that R139 leaves open (log 75). -/
def State.slotVerdict (s : State) (guard : Nat) (p : Nat × Instr) : Verdict :=
  let c := s.ctx
  (need (!(bitOf (c.bank.kreg 0x41) 0 && c.scoreboard guard p.2)) ⟨0x0B, 0, 0, 0⟩).and <|
    let v := verdictOf p.2 s
    if p.1 = 2 && v.rank = 5 then acquireDone s else v

/-- A bundle's whole verdict once its marks have acted and the results due have landed: the acting context's. The two traps that concern the
bundle as a whole, the pre-emption bound (R44) and case 3 of the scoreboard (R144), stand before those of its slots (log 66). -/
def State.bundleVerdict (s : State) (b : Bundle) : Verdict :=
  let c := s.ctx
  if s.held s.act.core c then .wait
  else
    let over' := c.bank.kreg 0x40 != 0 && !c.inHandler && !(marked b c.bank.pc Header.p) && decide (c.bank.kreg 0x40 < c.pcount)
    (need (!over') ⟨0x0C, 0, 0, 0⟩).and <|
    (need (!(bitOf (c.bank.kreg 0x41) 0 && marked b c.bank.pc (fun h => h.p || h.c) && c.fix.any FixW.lands)) ⟨0x0B, 0, 0, 0⟩).and <|
    if c.interlocked b.slots then .wait
    else worst ((List.zip (upTo 4) b.slots).map fun p => match p.2 with
      | .op o => if c.bank.pred o.g then s.slotVerdict o.g (p.1, o.op) else .ok
      | _ => .ok)

/-- The decoded bundle of the acting context, or the trap of its fetch and decode. -/
def State.presented (s : State) : Except TrapInfo Bundle :=
  match s.bundle? s.ctx.bank.pc with
  | none => .error ⟨1, 0, 0, 0⟩
  | some b => match s.decodeTrap b with
    | some t => .error t
    | none => .ok b

/-- The time at which a bundle with a WAITT is first presented is kept (R273). -/
def noteShown (b : Bundle) (s : State) : State :=
  if s.ctx.shown.isNone && (slotOps b.slots).any (fun p => match p.2 with
    | .waitt _ _ => true
    | _ => false) then s.onCtx fun c => { c with shown := some s.time }
  else s

/-- T of a WAITT is computed as soon as a can be read (R273). -/
def noteDeadline (b : Bundle) (s : State) : State :=
  let waits := (openOps s.ctx.bank b.slots).findSome? fun p => match p.2 with
    | .waitt sa rel => some (sa, rel)
    | _ => none
  match waits with
  | some (sa, rel) =>
    if s.ctx.var.any fun v => dstReg v.dst == some (0, sa) then s else s.onCtx fun c => { c with deadline := some (waittDeadline sa rel s) }
  | none => s

/-- An answer that a home gave for the bundle before a fault or an eviction put it off still stands (R251). -/
def answerRecalled (s : State) : State :=
  match s.ctx.remote, s.ctx.owed with
  | none, some (pc, a) => if pc = s.ctx.bank.pc then s.onCtx fun c => { c with remote := some (some a), owed := none } else s
  | _, _ => s

/-! ### Blocked bundles (R39) -/

/-- A blocked context whose bundle need no longer block is ready. -/
def unblock (core x : Nat) (s : State) : State :=
  let ck := 4 * core + x
  let t := (s.acting core x).onCtx Ctx.landed
  let stays := match t.presented with
    | .ok b => (match t.bundleVerdict b with
      | .block _ => true
      | _ => false)
    | .error _ => false
  if stays then s else (s.leaveBlock ck).onCtxAt ck fun c => { c with status := .ready, w := 0 }

/-- The same for whatever a context is blocked for: a fault, a step at another die's home and a service call end their own block, and so does
another die's barrier unless the deadline has passed (R267). -/
def blockedResume (core x : Nat) (s : State) : State :=
  match (s.ctxAt (4 * core + x)).status with
  | .blocked (.fault _ _) => s
  | .blocked .remote => s
  | .blocked (.svcResult _) => s
  | .blocked .edges => if (s.op? (s.ctxAt (4 * core + x)).opId).elim true s.depsDone then unblock core x s else s
  | .blocked (.barrier key dl) =>
    if homeDie key != dieOfCore core && !(dl.any fun t => decide (t ≤ s.time)) then s else unblock core x s
  | .blocked _ => unblock core x s
  | _ => s

/-- BLOCKED_BUNDLE_RESUME. -/
def execBlockedBundleResume (core x : Nat) (s : State) : Host.Outcome State Fault Refusal := always s (blockedResume core x)

/-- RING_HEADER_WATCH: the contexts that wait on a ring header look again; so do those that wait for a slot of a service ring (R259). -/
def ringWatch (addr : Nat) (s : State) : State :=
  s.ctxs.foldl (fun t p => match p.2.status with
    | .blocked (.ring key _) => if key = addr then blockedResume (p.1 / 4) (p.1 % 4) t else t
    | .blocked .svcRing => blockedResume (p.1 / 4) (p.1 % 4) t
    | _ => t) s

def execRingHeaderWatch (addr : Nat) (s : State) : Host.Outcome State Fault Refusal := always s (ringWatch addr)

/-! ### Results and acknowledgements (R121, R126, R143, R186) -/

/-- A result may land: every response has come, and one that acquires has stamps the die's clock dominates; that of a service call waits for
the handler that runs in its context. -/
def State.mayLand (s : State) (ck : Nat) (v : VarW) : Bool :=
  let c := s.ctxAt ck
  v.waiting == 0 && (!v.dom || v.stamps.all (dominates (s.clockOf (dieOfCore (ck / 4)))))
    && !(c.inHandler && (c.svc.any fun t => v.id == svcId t))

/-- VARIABLE_LATENCY_RESULT: the k-th result of a context lands. -/
def resultLands (core x k : Nat) (s : State) : State :=
  let ck := 4 * core + x
  match (s.ctxAt ck).var.drop k with
  | [] => s
  | v :: _ =>
    if s.mayLand ck v then
      s.onCtxAt ck fun c =>
        let d := c.landVar k
        if d.svc.any (fun t => v.id == svcId t) then
          { d with svc := none
                   status := match d.status with
                     | .blocked (.svcResult _) => .ready
                     | st => st }
        else if d.fwSvc.any (fun t => v.id == svcId t) then
          { d with fwSvc := none
                   status := match d.status with
                     | .blocked (.svcResult _) => .ready
                     | st => st }
        else d
    else s

def execVariableLatencyResult (core x k : Nat) (s : State) : Host.Outcome State Fault Refusal := always s (resultLands core x k)

/-- STORE_ACKNOWLEDGED: the k-th store that has been performed is acknowledged. -/
def storeAcked (k : Nat) (s : State) : State :=
  match s.acks.drop k with
  | [] => s
  | a :: _ => if a.performed then { s with acks := dropNth s.acks k } else s

def execStoreAcknowledged (k : Nat) (s : State) : Host.Outcome State Fault Refusal := always s (storeAcked k)

/-! ### The pre-emption bound (R44) and decode -/

/-- PBOUND_EXCEEDED: a ready context whose count has passed PBOUND and whose next bundle has no P mark traps. -/
def pboundTrap (core x : Nat) (s : State) : State :=
  let c := s.ctxAt (4 * core + x)
  let p := match s.bundle? c.bank.pc with
    | some b => marked b c.bank.pc Header.p
    | none => false
  if c.status == .ready && c.bound && !c.inHandler && c.bank.kreg 0x40 != 0 && !p && decide (c.bank.kreg 0x40 < c.pcount) then
    takeTrapAt (4 * core + x) ⟨0x0C, 0, 0, 0⟩ s
  else s

def execPboundExceeded (core x : Nat) (s : State) : Host.Outcome State Fault Refusal := always s (pboundTrap core x)

/-- ILLEGAL_OPCODE: the acting context's slot holds an opcode that the map does not assign, or it fetches an index without a bundle. -/
def execIllegalOpcode (slot : Nat) (s : State) : Host.Outcome State Fault Refusal := .next (takeTrap ⟨1, 0, 0, slot⟩ s)

/-- EMPTY_BUNDLE: four empty slots; only the marks and the stall count act, which the step carries out. -/
def execEmptyBundle (s : State) : Host.Outcome State Fault Refusal := always s fun s => s

end Sys2Proof.Machine
end

