-- ==== Sys2Proof/Machine/Preempt.lean ====
section
/-! DEFINITION. The swap of the weights (R223), eviction of a context (R43, R349), pre-emption of a region and its resumption (R45 to R47, R159, R316, R350, R351), and the
launch of a stream (R18, R276, R436). -/

namespace Sys2Proof.Machine

/-! ### The swap (R223) -/

/-- The context that issued an MXGO cannot issue again before it completes (R223): it waits for it, stops at a C mark, or is bound no more. -/
def State.stuckOnMxgo (s : State) (core : Nat) (e : EngCmd) : Bool :=
  let c := s.ctxAt (4 * core + e.x)
  !(e.mine c) || c.status == .ending || c.status == .blocked (.queue 0) || c.onEng || c.holdsOn e || s.atStop (4 * core + e.x)

/-- The MXGO of a core that waits at a swap point. -/
def Core.swapper (c : Core) : Option EngCmd := c.cmds.find? fun e => (match e.op with
  | .mxgo f => e.started && e.fault.isNone && !e.swapped && !nestDone (e.levels f)
  | _ => false)

/-- The shadow weights of a core are not full, and no command will fill them. -/
def Core.unfilled (c : Core) : Bool :=
  (match c.shadow with
    | .full _ => false
    | _ => true)
  && !(c.cmds.any fun f => match f.op with
    | .wload _ _ _ => true
    | _ => false)

/-- SWAP: the full shadow becomes the active weights; an MXGO whose shadow can never fill ends with cause 0x0E (R223). -/
def swapWeights (core : Nat) (s : State) : State :=
  let c := s.coreAt core
  match c.swapper with
  | none => s
  | some e =>
    match c.shadow with
    | .full w => s.onCoreAt core fun k => { k with active := some w, shadow := .empty, cmds := onCmd e.seq (fun f => { f with swapped := true }) k.cmds }
    | _ => if c.unfilled && s.stuckOnMxgo core e then s.endCmd core e ⟨0x0E, 0, 0, 0⟩ else s

/-- SWAP. -/
def execSwap (core : Nat) (s : State) : Host.Outcome State Fault Refusal := always s (swapWeights core)

/-! ### Eviction (R43, R349) -/

/-- Where a context may be chosen for eviction: at a P mark, blocked, or waiting for an SVC result; its engine commands go on (R43, R349).
A holder of a unit, a speculating context and a handler are not evicted (R210, R368, R420), nor is one in an EWAIT's wait (R274). -/
def State.mayBeVictim (s : State) (ck : Nat) : Bool :=
  let c := s.ctxAt ck
  let k := s.coreAt (ck / 4)
  c.bound && !c.spec && !c.inHandler && k.holdM != some (ck % 4) && k.holdR != some (ck % 4) && !(s.held (ck / 4) c)
    && (match c.status with
      | .ready => s.standsAt c Header.p 1 && !(s.atStop ck)
      | .blocked (.fault _ _) => false
      | .blocked .remote => false
      | .blocked .edges => false
      | .blocked _ => true
      | _ => false)

/-- Its loads have landed, which an eviction waits for (R43). -/
def State.evictable (s : State) (ck : Nat) : Bool :=
  s.mayBeVictim ck && ((s.ctxAt ck).var.all fun v => (s.ctxAt ck).svc.any fun t => v.id == svcId t)

/-- The cores of a die that a candidate may use. -/
def State.coresFor (s : State) (die : Nat) (d : Cand) : List Nat :=
  ((upTo 128).map fun i => 128 * die + i).filter fun core => d.card || (match s.op? d.num with
    | some o => s.confined o core
    | none => false)

/-- A candidate of higher priority for which no context is free. -/
def State.starved (s : State) (core prio : Nat) : Option Cand :=
  (s.cands core).find? fun d => decide (prio < d.prio)
    && !((s.coresFor (dieOfCore core) d).any fun c => (upTo 4).any fun x => s.coreFree c x)

/-- Among the contexts of the cores that may serve, the victim has the lowest priority, then the earliest last issue. -/
def State.isVictim (s : State) (ck : Nat) (d : Cand) : Bool :=
  let key := fun (c : Ctx) => s.ctxPrio c * 2 ^ 64 + c.issuedAt
  !((s.coresFor (dieOfCore (ck / 4)) d).any fun core => (upTo 4).any fun x =>
    s.mayBeVictim (4 * core + x) && decide (key (s.ctxAt (4 * core + x)) < key (s.ctxAt ck)))

/-- A fixed-latency result of a context evicted while blocked that has not landed: the later bundles may read the previous value until it is
due, or the new one at once; a free choice for each register (R144, log 5). -/
def Ctx.stays (c : Ctx) (was : Status) (fresh : Nat) (f : FixW) : Bool :=
  was != .ready && decide (c.pos < f.due) && Config.freeBool (fresh + 4096 * f.w.reg.1 + f.w.reg.2)

/-- A context as an eviction saves it, from the status it had. -/
def Ctx.evicted (c : Ctx) (was : Status) (fresh : Nat) : Ctx :=
  { c.dropLatches with
    fix := (c.fix.filter (c.stays was fresh)).map fun f => { f with due := f.due - c.pos }
    bank := c.bank.writes ((c.fix.filter fun f => !(c.stays was fresh f)).map FixW.w)
    pos := 0
    status := match was with
      | .blocked (.svcResult t) => .blocked (.svcResult t)
      | _ => .ready
    marks := if was = .ready then 3 else c.marks
    remote := none
    owed := c.answered
    probed := false
    grav := 0
    released := false
    onEng := false }

/-- Save a context and leave it empty. -/
def State.evict (s : State) (core x : Nat) : State :=
  let ck := 4 * core + x
  let t := commitAt ck (s.leaveBlock ck)
  let v : Saved := { ctx := (t.ctxAt ck).evicted (s.ctxAt ck).status s.fresh, since := s.clk, x := x }
  ({ t with fresh := t.fresh + 2 ^ 15 }.onCoreAt core fun k => { k with saved := k.saved ++ [v] }).emptyCtx ck

/-- EVICTION. -/
def eviction (core x : Nat) (s : State) : State :=
  let ck := 4 * core + x
  if s.evictable ck && s.agingSettled (dieOfCore core) then
    (match s.starved core (s.ctxPrio (s.ctxAt ck)) with
     | some d => if (s.coresFor (dieOfCore core) d).contains core && s.isVictim ck d then s.evict core x else s
     | none => s)
  else s

def execEviction (core x : Nat) (s : State) : Host.Outcome State Fault Refusal := always s (eviction core x)

/-- A context bound back takes the trap of a command that has ended meanwhile, before its next bundle (R216); where the command's record is
written already, its policy acts (R358). -/
def State.takeEnded (s : State) (core x : Nat) : Option (EngCmd × List Nat) → State
  | none => s
  | some (e, []) => s.applyPolicy e.work.ctxid e.work.rcb 7 (.ctx (4 * core + x))
  | some (e, l) =>
    let t := s.cmdTrap core { e with x := x } ⟨nth 0 l 0, nth 0 l 1, nth 0 l 2, nth 0 l 3⟩
    if nth 0 l 0 = 0x11 then t.reown s.traps.length (nth 0 l 1) else t

/-- Bind the k-th evicted context back; the commands of its work that still run are its new place's. -/
def State.bindBack (s : State) (core k x : Nat) (v : Saved) : State :=
  let twin := v.ctx.bank.kreg 0x42
  let t := (s.cleanTiles core (bitsOf twin 0 4) (bitsOf twin 4 4) v.ctx.work.ctxid).onCoreAt core fun c => { c with
    saved := dropNth c.saved k
    cmds := c.cmds.map fun e => if e.mine v.ctx then { e with x := x } else e }
  (t.onCtxAt (4 * core + x) fun old =>
    ({ v.ctx with nextVar := max v.ctx.nextVar old.nextVar, w := 0, pcount := 0, notBefore := s.clk } : Ctx).newRegion).takeEnded core x v.ended

/-- EVICTED_CONTEXT_RESUME: no waiting candidate for the core and no other evicted context of it has a higher priority, or the same and a longer
wait. -/
def evictedResume (core k x : Nat) (s : State) : State :=
  match (s.coreAt core).saved.drop k with
  | [] => s
  | v :: _ =>
    if s.coreFree core x && s.regionIssues v.ctx && s.agingSettled (dieOfCore core) && !((s.cands core).any fun d => decide (s.savedPrio v < d.prio))
        && !((s.coreAt core).saved.any fun u => s.regionIssues u.ctx
          && (decide (s.savedPrio v < s.savedPrio u) || (s.savedPrio v == s.savedPrio u && decide (u.since < v.since)))) then s.bindBack core k x v
    else s

def execEvictedContextResume (core k x : Nat) (s : State) : Host.Outcome State Fault Refusal := always s (evictedResume core k x)

/-! ### A stop at a C mark (R45, R159, R351) -/

/-- Free bytes (log 5). -/
def State.freeBytes (s : State) (n : Nat) : List Byte := (upTo n).map fun i => Config.freeByte (s.fresh + i)

/-- Fill n bytes of a save area's records from an offset on with the device's own layout (log 17). -/
def State.fillSave (s : State) (ctxid rcb off n : Nat) : Option State :=
  match s.unitWrite (s.ownEnv ctxid) (s.saveVa ctxid rcb + 64 + off) (s.freeBytes n) with
  | .ok t => some { t with fresh := t.fresh + n }
  | .error _ => none

/-- The entry of an operator's operand as its tiles on a core have it. -/
def State.entFor (s : State) (o : OpInst) (core hid : Nat) : Option HEnt :=
  (s.opEnt o (o.writes hid) hid).map (s.entryOn o.group o.ctxid o.shard core)

/-- The live ranges of a checkpoint that lie in scratch: handle, offset, length; none where a range leaves its handle's local shard. -/
def State.liveOf (s : State) (o : OpInst) (m : Installed) (core ckid : Nat) : Option (List (Nat × Nat × Nat)) :=
  (m.live.filter fun r => r.1 == ckid).foldr (fun r acc =>
    let hid := (nth ⟨0, false, false, 0⟩ o.handles r.2.1).hid
    match acc, s.entFor o core hid with
    | some l, some h =>
      if h.len < r.2.2.2 + r.2.2.1 then none else some (if h.placed && h.res == 0 then l else (hid, r.2.2.2, r.2.2.1) :: l)
    | _, _ => none) (some [])

/-- Read ranges. -/
def State.rangeBytes (s : State) (o : OpInst) (core : Nat) : List (Nat × Nat × Nat) → Option (List (Nat × Nat × List Byte))
  | [] => some []
  | (hid, off, n) :: r =>
    match s.entFor o core hid, s.rangeBytes o core r with
    | some h, some l =>
      (match s.unitRead (s.unitEnv o.ctxid) (h.base + off) n with
       | .ok bs => some ((hid, off, bs) :: l)
       | .error _ => none)
    | _, _ => none

/-- The engine commands of a context's work. -/
def State.ownCmds (s : State) (ck : Nat) : List EngCmd :=
  (s.coreAt (ck / 4)).cmds.filter fun e => e.mine (s.ctxAt ck) && decide (e.q ≤ 5)

/-- The engine commands of a context have completed, or stopped: a started MXGO with nothing behind it stops at its row, where it may have
stopped already at a translation fault (R158); one whose shadow weights cannot fill ends instead (R223). -/
def State.enginesStop (s : State) (ck : Nat) : Bool :=
  match s.ownCmds ck with
  | [] => true
  | [e] => e.started && !((s.coreAt (ck / 4)).swapper.any (fun f => f.seq == e.seq) && (s.coreAt (ck / 4)).unfilled) && (match e.op with
    | .mxgo _ => true
    | _ => false)
  | _ => false

/-- NC0 to NC5 of the MXGO that a stop interrupts. -/
def State.stoppedNest (s : State) (ck : Nat) : List Nat :=
  match s.ownCmds ck with
  | e :: _ => e.args.drop 2
  | [] => []

/-- The tile stops: its run is kept, and its context and units are free. -/
def State.stopTile (s : State) (ck op : Nat) (r : TileRun) : State :=
  let s1 := (s.onCoreAt (ck / 4) fun k => { k with cmds := k.cmds.filter fun e => !(e.mine (s.ctxAt ck) && decide (e.q ≤ 5)) }).dropKept op r.lin
  (((s1.leaveBlock ck).releaseUnits (ck / 4) (ck % 4)).emptyCtx ck).onOp op fun o => { o with stopped := o.stopped ++ [r] }

/-- The C mark has acted without a stop. -/
def State.passMark (s : State) (ck : Nat) : State := s.onCtxAt ck fun c => { c with marks := Nat.lor c.marks 1 }

/-- Save the live ranges and stop; a range outside its handle traps, and ranges that do not fit let the operator run on. -/
def State.saveTile (s : State) (ck : Nat) : State :=
  let c := s.ctxAt ck
  match c.work.job, s.op? c.opId, s.bundle? c.bank.pc with
  | .tile op lin ix, some o, some b =>
    (match o.image.bind (s.image? o.ctxid) with
     | none => s
     | some m =>
       match s.liveOf o m (ck / 4) b.hdr.ckid with
       | none => takeTrapAt ck ⟨4, 0, 0, 0⟩ (s.leaveBlock ck)
       | some l =>
         let n := l.foldl (fun a r => a + r.2.2) 0
         let run := fun (saved : List (Nat × Nat × List Byte)) =>
           (⟨lin, ix, some b.hdr.ckid, c.bank.pc, s.stoppedNest ck, c.hg, c.cb, c.replays, saved⟩ : TileRun)
         if n = 0 then s.stopTile ck op (run [])
         else match s.saveHdr o.ctxid o.rcb, s.rangeBytes o (ck / 4) l with
           | some (size, used, nrec), some saved =>
             if size - used < n then s.passMark ck
             else (match s.fillSave o.ctxid o.rcb used n with
               | some t => (t.setSave o.ctxid o.rcb (used + n) (nrec + 1)).stopTile ck op (run saved)
               | none => s.passMark ck)
           | _, _ => s.passMark ck)
  | _, _, _ => s

/-- The stop of a context at its C mark: its commands have completed or stop, its gated stores commit and are acknowledged. -/
def stopAtMark (core x : Nat) (s : State) : State :=
  let ck := 4 * core + x
  let c := s.ctxAt ck
  if s.atStop ck && c.var.isEmpty && s.enginesStop ck then
    let t := if c.gated.isEmpty then s else (commitAt ck s).onCtxAt ck Ctx.newRegion
    if (t.unacked ck).isEmpty then t.saveTile ck else t
  else s

/-! ### When a region has stopped (R45, R47, R316) -/

/-- A region lies at or below another. -/
def State.under (s : State) (ctxid rcb r : Nat) : Bool := (s.path ctxid r).any fun a => a.rcb == rcb

/-- An issued operator is not running: it has not begun, or a tile of it has stopped; a member of a fuse group goes with its first. -/
def State.opAtRest (s : State) (o : OpInst) : Bool :=
  o.phase == .no && o.stall.isNone && !o.failed
    && (if o.follows.isSome then true
        else if hasTiles o.record then o.nextTile == 0 || !o.stopped.isEmpty
        else !o.given && !(s.packets.any fun p => p.cq == 10000 + o.id))

/-- A GFE's record neither traps nor waits for a service. -/
def Gfe.atRest (g : Gfe) : Bool :=
  match g.block with
  | .svc _ => false
  | .result _ _ => false
  | .trap => false
  | _ => true

/-- Everything of a region and of those below it has stopped or completed. -/
def State.treeAtRest (s : State) (ctxid rcb : Nat) : Bool :=
  let hit := fun (c r : Nat) => c == ctxid && s.under ctxid rcb r
  (s.ctxs.all fun p => !p.2.bound || !(hit p.2.work.ctxid p.2.work.rcb))
    && (s.cores.all fun p => p.2.saved.all fun v => !(hit v.ctx.work.ctxid v.ctx.work.rcb))
    && (s.ops.all fun o => !(hit o.ctxid o.rcb) || s.opAtRest o)
    && (s.gfes.all fun p => !p.2.busy || !(hit p.2.ctxid p.2.rcb) || p.2.atRest)

/-- A scratch block leaves its place; what names it is kept. -/
def State.displace (s : State) (b : Block) : State :=
  let va := s.blockVa b
  let views := b.views.filterMap fun v => match s.rawEntry b.ctxid b.plane v with
    | some h => if h.placed && decide (va ≤ h.base) && decide (h.base < va + b.size) then some (v, h.base - va, h.len) else none
    | none => none
  let d : Displaced := ⟨{ b with views := views.map Prod.fst }, va, views, (s.releases.filter fun r => r.1 == b.id).map Prod.snd⟩
  let t := ((b.hid :: b.views).foldl (fun t h => t.unplaceIn va b h) s).freeBlock b.id
  { t with displaced := t.displaced ++ [d], releases := t.releases.filter fun r => r.1 != b.id }

/-- The scratch blocks that stopped operators of a region tree name. -/
def State.stoppedBlocks (s : State) (ctxid rcb : Nat) : List Block :=
  let ops := s.ops.filter fun o => o.ctxid == ctxid && s.under ctxid rcb o.rcb && !o.stopped.isEmpty
  s.blocks.filter fun b => b.level != 0 && b.ctxid == ctxid && s.under ctxid rcb b.rcb && (ops.any fun o => s.opNames o ctxid b.plane b.id)

/-- A GFE's state as it is saved: a probe is sent anew. -/
def Gfe.asSaved (g : Gfe) : Gfe :=
  match g.block with
  | .quiet _ => { g with block := .none }
  | _ => g

/-- Save the GFEs of one stream in the area reserved for them. -/
def State.parkStream (s : State) (ctxid rcb : Nat) (set : List Nat) : State :=
  let gs := set.map fun k => (s.gfeAt k).asSaved
  let s1 := set.foldl (fun (t : State) k => t.onGfeAt k Gfe.freed) s
  let s2 := { s1 with
    parked := s1.parked ++ [(ctxid, rcb, gs)]
    ops := s1.ops.map fun (o : OpInst) => if set.contains o.gfe && (gs.any fun g => g.stream == o.stream) then { o with gfe := 1000 } else o }
  match s2.saveHdr ctxid rcb with
  | some (_, used, nrec) => ((s2.fillSave ctxid rcb 0 (4096 * set.length)).getD s2).setSave ctxid rcb used (nrec + set.length)
  | none => s2

/-- The streams of a region tree, by the GFE of their shard 0. -/
def State.streamsUnder (s : State) (ctxid rcb : Nat) : List Gfe :=
  (s.gfes.filter fun p => p.2.busy && p.2.shard == 0 && p.2.ctxid == ctxid && s.under ctxid rcb p.2.rcb).map Prod.snd

/-- STATE 2: the blocks go, the streams are saved, and the GFEs are free. -/
def State.settle (s : State) (ctxid rcb : Nat) : State :=
  let s1 := (s.stoppedBlocks ctxid rcb).foldl State.displace s
  let s2 := (s1.streamsUnder ctxid rcb).foldl (fun t g => t.parkStream ctxid g.rcb g.set) s1
  let s3 := { s2 with preempts := s2.preempts.filter fun p => p != (ctxid, rcb) }
  ((s3.dev ctxid).regions.filter fun r => s3.under ctxid rcb r.rcb && (r.rcb == rcb || s3.rstate ctxid r.rcb == 1)).foldl
    (fun t r => t.setRstate ctxid r.rcb 2) s3

/-- Settle every request whose region is at rest. -/
def settlePreempts (s : State) : State :=
  s.preempts.foldl (fun t p => if t.treeAtRest p.1 p.2 then t.settle p.1 p.2 else t) s

/-- CHECKPOINT_STOP. -/
def execCheckpointStop (core x : Nat) (s : State) : Host.Outcome State Fault Refusal := always s fun s => settlePreempts (stopAtMark core x s)

/-! ### Requests (R47, R350, R351) -/

/-- Die width of a region's stream. -/
def State.streamWidth (s : State) (ctxid rcb : Nat) : Nat :=
  match List.find? (fun (p : Nat × Gfe) => p.2.busy && p.2.ctxid == ctxid && p.2.rcb == rcb) s.gfes with
  | some p => p.2.width
  | none => 0

/-- The save area holds the region's stream. -/
def State.saveFits (s : State) (ctxid rcb : Nat) : Bool :=
  let w := s.streamWidth ctxid rcb
  w == 0 || (match s.saveHdr ctxid rcb with
    | some (size, _, _) => decide (4096 * w ≤ size)
    | none => false)

/-- The device takes a request: space for the streams is set aside. -/
def State.takeRequest (s : State) (ctxid rcb : Nat) : State :=
  if 2 ≤ s.rstate ctxid rcb || s.preempts.contains (ctxid, rcb) then s
  else
    let t := (s.streamsUnder ctxid rcb).foldl (fun t g => match t.saveHdr ctxid g.rcb with
      | some (_, used, nrec) => t.setSave ctxid g.rcb (used + 4096 * g.set.length) nrec
      | none => t) s
    settlePreempts { t with preempts := t.preempts ++ [(ctxid, rcb)] }

/-- A write of RPRE. -/
def writeRpre (v : Nat) (s : State) : State :=
  let ctxid := bitsOf v 56 6
  let rcb := v % 2 ^ 56
  if !(s.dev ctxid).resident || (findRegion (s.dev ctxid).regions rcb).isNone || !(s.saveFits ctxid rcb) then
    s.setIo 0x10 (putBits (s.ioReg 0x10) 62 1 1)
  else (s.setIo 0x10 (v % 2 ^ 62)).takeRequest ctxid rcb

def execRpre (v : Nat) (s : State) : Host.Outcome State Fault Refusal := always s (writeRpre v)

/-- A stream below a priority that holds a GFE on a die in service: its region, priority and launch. -/
def State.lowStreams (s : State) (p : Nat) : List Gfe :=
  (s.gfes.filter fun q => q.2.busy && s.dies.contains (q.1 / 4) && decide (s.prio q.2.ctxid q.2.rcb < p)).map Prod.snd

/-- DEVICE_PREEMPTION_REQUEST: a launch has waited 2^22 clk; the region is the lowest below it, and the last launched of those. -/
def deviceRequest (ctxid rcb : Nat) (s : State) : State :=
  if s.launches.any fun l => decide (2 ^ 22 ≤ s.clk - l.since) &&
      (let low := s.lowStreams (s.prio l.ctxid l.rcb)
       low.any fun g => g.ctxid == ctxid && g.rcb == rcb && low.all fun h =>
         decide (s.prio g.ctxid g.rcb < s.prio h.ctxid h.rcb)
           || (s.prio g.ctxid g.rcb == s.prio h.ctxid h.rcb && decide (h.launched ≤ g.launched)))
  then (if s.saveFits ctxid rcb then s.takeRequest ctxid rcb else s)
  else s

def execDevicePreemptionRequest (ctxid rcb : Nat) (s : State) : Host.Outcome State Fault Refusal := always s (deviceRequest ctxid rcb)

/-! ### GFEs of a placement set (R18, R19) -/

/-- The first free GFE of a die. -/
def State.freeGfe (s : State) (die : Nat) : Option Nat := ((upTo 4).map fun i => 4 * die + i).find? fun k => !(s.gfeAt k).busy

/-- Distinct dies in ascending order. -/
def ascending : List Nat → Bool
  | a :: b :: r => decide (a < b) && ascending (b :: r)
  | _ => true

/-- The placement set on dies in service that each have a free GFE. -/
def State.placementSet (s : State) (dies : List Nat) : Option (List Nat) :=
  if ascending dies && (dies.all fun d => s.dies.contains d && (s.freeGfe d).isSome) then some (dies.map fun d => (s.freeGfe d).getD 0) else none

/-! ### Resumption (R46, R316) -/

/-- The stream that a pre-emption saved for a region. -/
def State.parkedOf (s : State) (ctxid rcb : Nat) : Option (List Gfe) := (s.parked.find? fun p => p.1 == ctxid && p.2.1 == rcb).map fun p => p.2.2

/-- Restore a saved stream on a new set, shard for shard. -/
def State.unpark (s : State) (ctxid rcb : Nat) (gs : List Gfe) (set : List Nat) : State :=
  let s1 := (List.zip set gs).foldl (fun (t : State) p => t.onGfeAt p.1 fun _ => { p.2 with set := set }) s
  { s1 with
    parked := s1.parked.filter fun p => !(p.1 == ctxid && p.2.1 == rcb)
    ops := s1.ops.map fun (o : OpInst) =>
      if o.gfe = 1000 && (gs.any fun g => g.stream == o.stream) then { o with gfe := nth 1000 set o.shard } else o }

/-- The die on which a displaced block of a region tree is placed again: of its shard's GFE. -/
def State.dieFor (s : State) (d : Displaced) : Nat :=
  match List.find? (fun (p : Nat × Gfe) => p.2.busy && p.2.ctxid == d.block.ctxid && p.2.rcb == d.block.rcb && p.2.shard == d.block.plane) s.gfes with
  | some p => p.1 / 4
  | none => d.block.die

/-- The saved contents of the stopped tiles of a region tree whose handles are placed, in the order of the stops. -/
def State.restoreAll (s : State) (ctxid rcb : Nat) (p : Nat → Nat → Bool) : State :=
  (s.ops.filter fun o => o.ctxid == ctxid && s.under ctxid rcb o.rcb).foldl (fun t o =>
    t.restore o ((o.stopped.flatMap TileRun.saved).filter fun r => p o.shard r.1)) s

/-- The save areas no longer hold the streams. -/
def State.dropStreams (s : State) (ctxid rcb : Nat) : State :=
  (s.streamsUnder ctxid rcb).foldl (fun t g => t.dropSaved ctxid g.rcb (4096 * g.set.length) g.set.length) s

/-- Every stream below a region is restored on the given dies, or on the dies it can have; none when one cannot. -/
def State.unparkAll (s : State) (ctxid rcb : Nat) (dies : List Nat) : List (Nat × Nat × List Gfe) → Option State
  | [] => some s
  | (c, r, gs) :: l =>
    if c = ctxid && s.under ctxid rcb r then
      let where' := if r = rcb then dies else (s.dies.filter fun d => (s.freeGfe d).isSome).take gs.length
      if where'.length != gs.length then none
      else match s.placementSet where' with
        | some set => (s.unpark c r gs set).unparkAll ctxid rcb dies l
        | none => none
    else s.unparkAll ctxid rcb dies l

/-- REGION_RESUME: a pre-empted region of a resident context gets GFEs and scratch again. -/
def regionResume (ctxid rcb : Nat) (dies : List Nat) (s : State) : State :=
  if (s.dev ctxid).resident && !(s.dev ctxid).suspending && s.rstate ctxid rcb == 2 then
    (match s.unparkAll ctxid rcb dies s.parked with
     | none => s
     | some t =>
       let back := t.displaced.filter fun d => d.block.ctxid == ctxid && t.under ctxid rcb d.block.rcb && decide (d.block.level < 4) && d.block.by_ == 0
       match t.replaceAll t.dieFor none back with
       | .error _ => s
       | .ok u =>
         let u1 := u.restoreAll ctxid rcb fun plane hid => back.any fun d => d.block.plane == plane && (d.block.hid == hid || d.block.views.contains hid)
         let u2 := u1.dropStreams ctxid rcb
         (((u2.dev ctxid).regions.filter fun r => u2.under ctxid rcb r.rcb && u2.rstate ctxid r.rcb == 2).foldl
           (fun w r => w.setRstate ctxid r.rcb (if (w.streamsUnder ctxid r.rcb).any fun g => g.rcb == r.rcb then 1 else 0)) u2).onDev ctxid fun d =>
             { d with resuming := if d.rootRcb = rcb && d.resuming == 1 then 2 else d.resuming })
  else s

def execRegionResume (ctxid rcb : Nat) (dies : List Nat) (s : State) : Host.Outcome State Fault Refusal := always s (regionResume ctxid rcb dies)

/-! ### Launch (R18, R25, R276, R436) -/

/-- The header of a graph image. -/
structure GraphHdr where
  ok : Bool
  entry : Nat
  codew : Nat
  shoff : Nat
  nshard : Nat

/-- A header that is not one, or whose fields are out of range, is refused. -/
def graphHdr (va : Nat) (l : List Byte) : GraphHdr :=
  let f := fun i n => leNat ((l.drop i).take n)
  { ok := f 0 4 == 0x41444E31 && f 0x0E 2 == 1 && decide (f 0x0C 2 ≤ 4095) && f 0x10 4 % 4 == 0 && va % 64 == 0
    entry := f 8 4, codew := f 4 4, shoff := f 0x10 4, nshard := f 0x0C 2 }

def State.graphHdr (s : State) (ctxid va : Nat) : Option GraphHdr :=
  match s.unitRead (s.unitEnv ctxid) va 32 with
  | .ok l => some (Machine.graphHdr va l)
  | .error _ => none

/-- Memory that a unit would read stands behind a route yet (log 20). -/
def State.behindRoute (s : State) (ctxid va n : Nat) : Bool :=
  match s.unitRead (s.unitEnv ctxid) va n with
  | .error (0, _) => true
  | _ => false

/-- Write STATUS of a launch record: as traffic to its home. -/
def State.setStatus (s : State) (ctxid addr v : Nat) : State :=
  match s.xlatAccess (s.unitEnv ctxid) .write (addr + 0x1C) 4 with
  | .ok ps _ ls => ps.foldl (fun t p => match p.loc with
      | .mem key => if homeDie key = s.act.die then t.putPiece p ((leBytes v 4).drop p.idx) else
          { t.send s.act.die (homeDie key) (.write p (((leBytes v 4).drop p.idx).take p.n) t.nextAck) with nextAck := t.nextAck + 1 }
      | _ => t.unitPut s.act.die p ((leBytes v 4).drop p.idx)) (s.walkedAll (s.unitEnv ctxid) .write ls)
  | .fault _ _ => s

/-- A launch as its record gives it. -/
def launchOf (ctxid addr now : Nat) (l : List Byte) : LaunchRec :=
  let f := fun i n => leNat ((l.drop i).take n)
  { addr := addr, ctxid := ctxid, rcb := f 8 8 % 2 ^ 56, img := f 0 8 % 2 ^ 56, width := 2 ^ (f 0x10 4 % 4), chips := f 0x14 4 + 1, rank := f 0x18 4,
    regs := (upTo 64).map fun i => if bitOf (f 0x20 8) i then f (0x28 + 8 * i) 8 else 0, since := now }

/-- The status of a region that a launch may not use: stopped, or not idle. -/
def State.launchState (s : State) (ctxid rcb : Nat) : Nat :=
  if (findRegion (s.dev ctxid).regions rcb).isNone then 4
  else if s.rstate ctxid rcb = 0 then 0 else if s.rstate ctxid rcb = 3 then 6 else 4

/-- STATUS of a launch that is refused; 0 for one that waits. -/
def State.launchStatus (s : State) (l : LaunchRec) : Nat :=
  if s.launchState l.ctxid l.rcb != 0 then s.launchState l.ctxid l.rcb
  else if decide (1024 < l.chips) || decide (l.chips ≤ l.rank) then 5
  else if (s.dev l.ctxid).htplanes < l.width then 7
  else if s.dies.length < l.width then 3
  else match s.graphHdr l.ctxid l.img with
    | some h => if h.ok then 0 else 2
    | none => 2

/-- A write of LAUNCH: a record that can be read waits, with STATUS 0, or is refused. -/
def writeLaunch (v : Nat) (s : State) : State :=
  let ctxid := bitsOf v 56 6
  let addr := v % 2 ^ 56 / 64 * 64
  let wait : State := { s with waiting := s.waiting ++ [(false, v)] }
  if !(s.dev ctxid).resident then s
  else match s.unitRead (s.unitEnv ctxid) addr 0x228 with
    | .error (c, _) => if c = 0 then wait else s
    | .ok b =>
      let l := launchOf ctxid addr s.clk b
      let st := s.launchStatus l
      if s.behindRoute ctxid l.img 32 then wait
      else if st = 0 then { s.setStatus ctxid addr 0 with launches := s.launches ++ [l] } else s.setStatus ctxid addr st

def execLaunch (v : Nat) (s : State) : Host.Outcome State Fault Refusal := always s (writeLaunch v)

/-- The GFE of a shard of a new stream. -/
def LaunchRec.gfe (l : LaunchRec) (h : GraphHdr) (set : List Nat) (shard stream now : Nat) : Gfe :=
  { busy := true, ctxid := l.ctxid, rcb := l.rcb, set := set, shard := shard, width := l.width, chips := l.chips, rank := l.rank, img := l.img,
    codew := h.codew, shoff := h.shoff, nshard := h.nshard, pc := 32 + 4 * h.entry, since := now,
    g := (upTo 64).foldl (fun m i => AMap.put 0 i (BitVec.ofNat 64 (nth 0 l.regs i)) m) [], stream := stream, launched := stream }

/-- Start a stream on a set. -/
def State.startStream (s : State) (l : LaunchRec) (h : GraphHdr) (set : List Nat) : State :=
  let s1 := (List.zip (upTo set.length) set).foldl (fun (t : State) p => t.onGfeAt p.2 fun _ => l.gfe h set p.1 s.nextStream s.clk) s
  ({ s1 with nextStream := s1.nextStream + 1 }.setRstate l.ctxid l.rcb 1).setStatus l.ctxid l.addr 1

/-- LAUNCH_START: the k-th waiting launch takes GFEs of the given dies; one whose region is no longer idle is refused. -/
def launchStart (k : Nat) (dies : List Nat) (s : State) : State :=
  match s.launches.drop k with
  | [] => s
  | l :: _ =>
    let s1 := { s with launches := dropNth s.launches k }
    if s.launchState l.ctxid l.rcb != 0 then s1.setStatus l.ctxid l.addr (s.launchState l.ctxid l.rcb)
    else if dies.length != l.width || s.stopsAt l.ctxid l.rcb || !(s.dev l.ctxid).resident then s
    else match s.placementSet dies, s.graphHdr l.ctxid l.img with
      | some set, some h =>
        if h.ok then s1.startStream l h set else s1.setStatus l.ctxid l.addr 2
      | _, _ => s

def execLaunchStart (k : Nat) (dies : List Nat) (s : State) : Host.Outcome State Fault Refusal := always s (launchStart k dies)

end Sys2Proof.Machine
end

