-- ==== Sys2Proof/Machine/Contexts.lean ====
section
/-! DEFINITION. The context services: the command registers (R431) and the commands of R432 to R435. A command resolves in one step, as an
acquire and a release of domain 8. -/

namespace Sys2Proof.Machine

/-! ### Commands (R431) -/

/-- Commands that exist (R432). -/
def commandOps : List Nat := [0x01, 0x02, 0x03, 0x04, 0x05, 0x06, 0x08, 0x09, 0x0C, 0x0D, 0x0E, 0x0F]

/-- The command has resolved with a status; RESULT is 0. -/
def State.resolve (s : State) (status : Nat) : State := ((s.setIo 0x60 status).setIo 0x58 (s.ioReg 0x58 % 2 ^ 63)).sendMarkers 8

/-- A write of CSCMD. -/
def writeCscmd (v : Nat) (s : State) : State :=
  let old := s.ioReg 0x58
  let fields := bitsOf v 56 6 * 2 ^ 56 + v % 256
  if bitOf old 63 then s.setIo 0x58 (putBits old 62 1 1)
  else if bitOf v 63 then
    let t := s.setIo 0x58 (2 ^ 63 + fields)
    if commandOps.contains (v % 256) then t else t.resolve 5
  else s.setIo 0x58 (bitsOf old 62 1 * 2 ^ 62 + fields)

/-- A command with an opcode waits for a device context. -/
def State.commanded (s : State) (op c : Nat) : Bool :=
  bitOf (s.ioReg 0x58) 63 && s.ioReg 0x58 % 256 == op && bitsOf (s.ioReg 0x58) 56 6 == c

/-- The command block. -/
def State.cmdBlock (s : State) : List Byte := s.mem.readBytes (bitsOf (s.ioReg 0x50) 6 33 * 64) 256

/-- A field of a block. -/
def fieldOf (l : List Byte) (i n : Nat) : Nat := leNat ((l.drop i).take n)

/-- No status: the command waits for memory behind a route (log 20). -/
def waits : Nat := 256

/-- Carry out a command: its effect with STATUS 0, or the status of its refusal, which has no effect. -/
def service (op c : Nat) (f : State → List Byte → Except Nat State) (s : State) : State :=
  if s.commanded op c && s.acquirable 8 (homeDie (bitsOf (s.ioReg 0x50) 6 33 * 64)) then
    (if op != 1 && !(s.dev c).created then s.resolve 3
     else match f s s.cmdBlock with
      | .ok t => t.resolve 0
      | .error e => if e = waits then s else s.resolve e)
  else s

/-- Refuse with a status unless a condition holds. -/
def refuse (c : Bool) (status : Nat) : Except Nat Unit := if c then .ok () else .error status

/-! ### CTXCREATE and regions (R432 to R434, R373, R375) -/

/-- A value that is zero where R91 reads zero. -/
def heapOk (v : Nat) : Bool := v % 64 == 0 && decide (v < 2 ^ 56)

/-- The descriptor's fields in range. -/
def descriptorOk (l : List Byte) : Bool :=
  let f := fieldOf l
  f 0 8 % 2048 == 0 && decide (f 0 8 < 2 ^ 39) && f 8 8 % 4096 == 0 && decide (f 8 8 < 2 ^ 56) && decide (1 ≤ f 0x10 4) && decide (f 0x10 4 ≤ 65536)
    && [1, 2, 4, 8].contains (f 0x14 1) && heapOk (f 0x18 8) && heapOk (f 0x20 8) && heapOk (f 0x28 8)
    && ((upTo 8).all fun d => f (0x30 + 16 * d) 8 % 2 ^ 21 == 0 && decide (f (0x30 + 16 * d) 8 < 2 ^ 56) && f (0x38 + 16 * d) 8 % 2 ^ 21 == 0)
    && f 0xB0 8 % 256 == 0 && decide (f 0xB0 8 < 2 ^ 56) && Config.imsic (f 0xB8 8) && Config.imsic (f 0xC8 8)

/-- A device context from its descriptor. -/
def devOf (l : List Byte) : DevCtx :=
  let f := fieldOf l
  { resident := true, created := true, ptroot := f 0 8, htbase := f 8 8, htcount := f 0x10 4, htplanes := f 0x14 1,
    heap := [f 0x18 8, f 0x20 8, f 0x28 8], pools := (upTo 8).map fun d => (f (0x30 + 16 * d) 8, f (0x38 + 16 * d) 8), rootRcb := f 0xB0 8,
    trapMsi := ⟨f 0xB8 8, f 0xC0 4⟩, svcMsi := ⟨f 0xC8 8, f 0xD0 4⟩ }

/-- Where an RCB lies, if its 256 bytes are readable and writable memory, read as an acquire; else the status. -/
def State.rcbPlace (s : State) (ctxid rcb : Nat) : Except Nat Nat :=
  if rcb % 256 != 0 then .error 1
  else match s.xlatAccess (s.unitEnv ctxid) .read rcb 256, s.xlatAccess (s.unitEnv ctxid) .write rcb 256 with
    | .ok ps _ _, .ok _ _ _ =>
      (match ps with
       | ⟨.mem k, _, _, _⟩ :: _ =>
         if ps.all fun p => match p.loc with
           | .mem j => j == k + p.idx
           | _ => false
         then (if s.acquirable 8 (homeDie k) then .ok k else .error waits) else .error 1
       | _ => .error 1)
    | .fault 0 _, _ => .error waits
    | _, .fault 0 _ => .error waits
    | _, _ => .error 1

/-- The checks of a quiescence root: its RCB in HBM, its counts zero. -/
def State.rootOk (s : State) (phys : Nat) : Bool :=
  !(s.isRoot phys) || (decide (phys < scratchBase) && s.issued phys == 0 && s.returned phys == 0)

/-- Register a region with the device's fields written. -/
def State.register (s : State) (c rcb phys parent : Nat) (root : Bool) : State :=
  { s with mem := ((s.mem.writeNat (phys + 0x10) 1 c).writeNat (phys + 0x0F) 1 (putBits (s.mem.readNat (phys + 0x0F) 1) 4 3 0)) }.onDev c
    fun d => { d with regions := d.regions ++ [Region.mk rcb phys parent root] }

/-- CTXCREATE. -/
def ctxcreate (c : Nat) (s : State) (l : List Byte) : Except Nat State := do
  refuse (!((upTo 64).all fun i => (s.dev i).resident)) 2
  refuse (!(s.dev c).created) 3
  refuse (descriptorOk l) 1
  let t := s.onDev c fun _ => devOf l
  let rcb := fieldOf l 0xB0 8
  match t.rcbPlace c rcb with
  | .error e => .error e
  | .ok k =>
    refuse (t.mem.readNat k 8 == 0 && t.rootOk k) 1
    .ok (t.register c rcb k 0 true)

def execCtxcreate (c : Nat) (s : State) : Host.Outcome State Fault Refusal := always s (service 0x01 c (ctxcreate c))

/-- Fields of an RCB by OVR bit: offset, size and reset value; CTRL is apart. -/
def rcbFields : List (Nat × Nat × Nat × Nat) :=
  [(0, 0x18, 8, unlimited), (1, 0x20, 8, unlimited), (2, 0x28, 8, unlimited), (3, 0x30, 8, unlimited), (4, 0x38, 8, unlimited), (5, 0x0E, 1, 0),
   (6, 0x0C, 2, 0), (8, 0x60, 8, 0), (9, 0x68, 8, 0), (10, 0x70, 8, 0), (11, 0x40, 8, 0), (11, 0x48, 8, 0), (11, 0x50, 8, 0)]

/-- Write the fields that software did not give; STATE and WAKEPEND in every case. -/
def Memory.fillRcb (m : Memory) (k given : Nat) : Memory :=
  let ctrl := m.readNat (k + 0x0F) 1
  let ctrl' := (if bitOf given 11 then ctrl / 4 * 4 else 0) + (if bitOf given 7 then ctrl % 4 else 0)
  ((rcbFields.foldl (fun m f => if bitOf given f.1 then m else m.writeNat (k + f.2.1) f.2.2.1 f.2.2.2) m).writeNat (k + 0x0F) 1 ctrl').writeNat
    (k + 0x58) 8 0

/-- REGCREATE. -/
def regcreate (c : Nat) (s : State) (l : List Byte) : Except Nat State := do
  let rcb := fieldOf l 0 8
  let given := fieldOf l 8 4
  refuse (decide (given < 2 ^ 12)) 1
  match s.rcbPlace c rcb with
  | .error e => .error e
  | .ok k =>
    let parent := s.mem.readNat k 8
    refuse (parent != 0) 1
    refuse (findRegion (s.dev c).regions parent).isSome 4
    refuse (!([3, 4].contains (s.rstate c parent)) && (findRegion (s.dev c).regions rcb).isNone) 3
    let t := { s with mem := s.mem.fillRcb k given }
    refuse (t.rootOk k) 1
    .ok (t.register c rcb k parent false)

def execRegcreate (c : Nat) (s : State) : Host.Outcome State Fault Refusal := always s (service 0x08 c (regcreate c))

/-- A hardware queue names a region of a device context that p picks. -/
def State.queueNames (s : State) (c : Nat) (p : Nat → Bool) : Bool := s.queues.any fun q => q.2.owner.1 == c && p q.2.owner.2

/-- REGDESTROY. -/
def regdestroy (c : Nat) (s : State) (l : List Byte) : Except Nat State := do
  let rcb := fieldOf l 0 8
  refuse (findRegion (s.dev c).regions rcb).isSome 1
  refuse ([0, 3, 4].contains (s.rstate c rcb) && !(s.queueNames c fun r => r == rcb)
    && !((s.dev c).regions.any fun r => !r.root && r.parent == rcb)) 3
  .ok (s.onDev c fun d => { d with regions := d.regions.filter fun r => r.rcb != rcb })

def execRegdestroy (c : Nat) (s : State) : Host.Outcome State Fault Refusal := always s (service 0x09 c (regdestroy c))

/-! ### Suspension, resumption and the end of a context (R9, R46, R432) -/

/-- The request for the root region of a context that is to be suspended; one that its save area refuses (R351) is made again once it fits, and the
command has not resolved till then (log 108). -/
def State.askRoot (s : State) (c : Nat) : State := if s.saveFits c (s.dev c).rootRcb then s.takeRequest c (s.dev c).rootRcb else s

/-- CTXSUSPEND: the root region is asked to pre-empt; the command resolves with CTXSUSPEND_COMPLETE. -/
def ctxsuspend (c : Nat) (s : State) : State :=
  if s.commanded 0x02 c && !(s.dev c).suspending then
    (if !(s.dev c).created || !(s.dev c).resident then s.resolve 3
     else (s.onDev c fun d => { d with suspending := true }).askRoot c)
  else s

def execCtxsuspend (c : Nat) (s : State) : Host.Outcome State Fault Refusal := always s (ctxsuspend c)

/-- The scratch of a device context is free; what it held is placed again at need. -/
def State.dropScratch (s : State) (c : Nat) : State := (s.blocks.filter fun b => b.ctxid == c && b.level != 0).foldl State.displace s

/-- CTXSUSPEND_COMPLETE: the root has been pre-empted, or nothing of it runs. -/
def suspendComplete (c : Nat) (s : State) : State :=
  let root := (s.dev c).rootRcb
  if s.commanded 0x02 c && (s.dev c).suspending && decide (2 ≤ s.rstate c root) && s.treeAtRest c root then
    ((s.dropScratch c).onDev c fun d => { d with resident := false, suspending := false }).resolve 0
  else if s.commanded 0x02 c && (s.dev c).suspending then s.askRoot c
  else s

def execCtxsuspendComplete (c : Nat) (s : State) : Host.Outcome State Fault Refusal := always s (suspendComplete c)

/-- CTXRESUME: the context is resident, and its root region, where it was pre-empted, gets GFEs again by a REGION_RESUME, before which the command
does not resolve. -/
def ctxresume (c : Nat) (s : State) (_ : List Byte) : Except Nat State := do
  refuse (!((upTo 64).all fun i => (s.dev i).resident)) 2
  refuse (!(s.dev c).resident) 3
  .ok (s.onDev c fun d => { d with resident := true })

/-- The command as it is presented: the context becomes resident; presented again it resolves once the root region runs. -/
def resumeCtx (c : Nat) (s : State) : State :=
  if s.commanded 0x03 c && (s.dev c).resuming == 2 then (s.onDev c fun d => { d with resuming := 0 }).resolve 0
  else if s.commanded 0x03 c && (s.dev c).resuming == 1 then s
  else if s.rstate c (s.dev c).rootRcb == 2 && s.commanded 0x03 c && s.acquirable 8 (homeDie (bitsOf (s.ioReg 0x50) 6 33 * 64))
      && (s.dev c).created && !(s.dev c).resident then
    (if (upTo 64).all fun i => (s.dev i).resident then s.resolve 2 else s.onDev c fun d => { d with resident := true, resuming := 1 })
  else service 0x03 c (ctxresume c) s

def execCtxresume (c : Nat) (s : State) : Host.Outcome State Fault Refusal := always s (resumeCtx c)

/-- A copy queue holds a packet that its unit has not taken. -/
def State.untaken (s : State) (q : CopyQueue) : Bool :=
  match s.unitRead (s.unitEnv q.ctxid) q.hdr 16 with
  | .ok l => l.take 8 != l.drop 8
  | .error _ => false

/-- A copy queue's header stands behind a route yet. -/
def State.headerBehind (s : State) (q : CopyQueue) : Bool := s.behindRoute q.ctxid q.hdr 16

/-- The shoot-down of a context on every die (R107): a command of KIND 1. -/
def shootCtx (c : Nat) : Nat := 1 + c * 2 ^ 8

/-- The owner that no device context is, and an owner after a context is destroyed. -/
def noOwner : Nat := 64
def renamed (c owner : Nat) : Nat := if owner = c then noOwner else owner

/-- What a destroyed context leaves goes; what it last owned counts as another's from now on, whoever has its number next (R109, R208, R209). -/
def State.forgetCtx (s : State) (c : Nat) : State :=
  let t := s.stopWhere c (fun _ => true) 4
  let gone := (t.copyQueues.filter fun q => q.ctxid == c).map CopyQueue.id
  let bundles := t.installed.filter fun m => m.ctxid == c
  let other := fun (k : Nat) => k / 2 ^ 35 != c
  { t with
    granules := t.granules.map fun (p : Nat × Nat) => (p.1, if p.2 = c + 1 then noOwner + 1 else p.2)
    cores := t.cores.map fun (p : Nat × Core) => (p.1, { p.2 with
      lastM := p.2.lastM.map (renamed c)
      lastR := p.2.lastR.map (renamed c)
      tiles := p.2.tiles.map fun (x : Nat × TileDesc) => (x.1, { x.2 with owner := renamed c x.2.owner }) })
    extents := t.extents.filter fun (p : Nat × _) => other p.1
    prefer := t.prefer.filter fun (p : Nat × _) => other p.1
    gone := t.gone.filter other
    preempts := t.preempts.filter fun (p : Nat × _) => p.1 != c
    parked := t.parked.filter fun (p : Nat × _) => p.1 != c
    blocks := t.blocks.filter fun b => b.ctxid != c
    releases := t.releases.filter fun r => r.2.2.1 != c
    displaced := t.displaced.filter fun d => d.block.ctxid != c
    installed := t.installed.filter fun m => m.ctxid != c
    store := t.store.filter fun p => !(bundles.any fun m => decide (m.first ≤ p.1) && decide (p.1 < m.first + m.nb))
    copyQueues := t.copyQueues.filter fun q => q.ctxid != c
    packets := t.packets.filter fun p => !(gone.contains p.cq)
    launches := t.launches.filter fun l => l.ctxid != c
    pkgRing := match t.pkgRing with
      | some (d, va) => if d = c then none else some (d, va)
      | none => none }.onDev c fun _ => {}

/-- CTXDESTROY: refused in use; else it waits for the shoot-down of the context on every die in service. -/
def ctxdestroy (c : Nat) (s : State) : State :=
  if s.commanded 0x04 c && !(s.copyQueues.any fun q => q.ctxid == c && s.headerBehind q) then
    (if !(s.dev c).created || (s.gfes.any fun p => p.2.busy && p.2.ctxid == c) || s.queueNames c (fun r => (findRegion (s.dev c).regions r).isSome)
        || (s.copyQueues.any fun q => q.ctxid == c && s.untaken q) then s.resolve 3
     else if s.packageShot (shootCtx c) then ((s.dies.foldl (fun t d => t.invalidate d (shootCtx c) 0) s).forgetCtx c).resolve 0
     else s)
  else s

def execCtxdestroy (c : Nat) (s : State) : Host.Outcome State Fault Refusal := always s (ctxdestroy c)

/-! ### Settings -/

/-- CTXHEAP. -/
def ctxheap (c : Nat) (s : State) (l : List Byte) : Except Nat State := do
  let f := fieldOf l
  refuse (heapOk (f 0 8) && heapOk (f 8 8) && heapOk (f 16 8)) 1
  .ok (s.onDev c fun d => { d with heap := [f 0 8, f 8 8, f 16 8] })

def execCtxheap (c : Nat) (s : State) : Host.Outcome State Fault Refusal := always s (service 0x05 c (ctxheap c))

/-- CTXMSI. -/
def ctxmsi (c : Nat) (s : State) (l : List Byte) : Except Nat State := do
  let f := fieldOf l
  refuse (Config.imsic (f 0 8) && Config.imsic (f 0x10 8)) 1
  .ok (s.onDev c fun d => { d with trapMsi := ⟨f 0 8, f 8 4⟩, svcMsi := ⟨f 0x10 8, f 0x18 4⟩ })

def execCtxmsi (c : Nat) (s : State) : Host.Outcome State Fault Refusal := always s (service 0x06 c (ctxmsi c))

/-! ### Copy queues and rings (R250, R258, R435) -/

/-- A copy queue header that R250 allows. -/
def copyHeaderOk (hdr : Nat) (l : List Byte) : Bool :=
  let f := fieldOf l
  hdr % 64 == 0 && f 0x10 8 % 64 == 0 && decide (f 0x18 1 ≤ 12) && f 0x20 8 % 4096 == 0 && f 0x28 8 % 128 == 0

/-- CQCREATE. -/
def cqcreate (c : Nat) (s : State) (l : List Byte) : Except Nat State := do
  let hdr := fieldOf l 0 8
  let u := fieldOf l 0x10 2
  let place := 16 * (u % 8) + bitsOf u 3 4
  match s.unitRead (s.unitEnv c) hdr 64 with
  | .error (e, _) => .error (if e = 0 then waits else 1)
  | .ok h =>
    refuse (copyHeaderOk hdr h && decide (u < 2 ^ 12) && decide (bitsOf u 9 3 < (s.dev c).htplanes)
      && !(s.copyQueues.any fun q => q.ctxid == c && q.hdr == hdr)) 1
    refuse (findRegion (s.dev c).regions (fieldOf l 8 8)).isSome 4
    refuse (decide ((s.copyQueues.filter fun q => q.cluster == place && q.unit == bitsOf u 7 2).length < 64) && s.dies.contains (u % 8)) 2
    .ok { s with copyQueues := s.copyQueues ++ [⟨s.nextCq, c, hdr, place, bitsOf u 7 2, bitsOf u 9 3, fieldOf l 8 8, none⟩], nextCq := s.nextCq + 1 }

def execCqcreate (c : Nat) (s : State) : Host.Outcome State Fault Refusal := always s (service 0x0C c (cqcreate c))

/-- CQDESTROY. -/
def cqdestroy (c : Nat) (s : State) (l : List Byte) : Except Nat State :=
  match s.copyQueues.find? fun q => q.ctxid == c && q.hdr == fieldOf l 0 8 with
  | none => .error 1
  | some q => do
    refuse (!(s.headerBehind q)) waits
    refuse (!(s.untaken q) && !(s.packets.any fun p => p.cq == q.id)) 3
    .ok { s with copyQueues := s.copyQueues.filter fun r => r.id != q.id }

def execCqdestroy (c : Nat) (s : State) : Host.Outcome State Fault Refusal := always s (service 0x0D c (cqdestroy c))

/-- A well-formed ring at an address; else the status. -/
def State.ringAt (s : State) (c va : Nat) : Except Nat Ring :=
  match s.headerKey (s.unitEnv c) va with
  | .ok (some k) => if (s.mem.ring k).bad then .error 1 else .ok (s.mem.ring k)
  | .error (0, _) => .error waits
  | _ => .error 1

/-- RINGMSI. -/
def ringmsi (c : Nat) (s : State) (l : List Byte) : Except Nat State := do
  let f := fieldOf l
  let _ ← s.ringAt c (f 0 8)
  refuse (Config.imsic (f 8 8) && decide (f 0x14 1 < 2)) 1
  .ok (s.onDev c fun d => { d with ringMsis := if f 0x14 1 = 1 then AMap.ins (f 0 8) ⟨f 8 8, f 0x10 4⟩ d.ringMsis else AMap.era (f 0 8) d.ringMsis })

def execRingmsi (c : Nat) (s : State) : Host.Outcome State Fault Refusal := always s (service 0x0E c (ringmsi c))

/-- The package fault ring is set, and every held record tries the three rings again (R365). -/
def State.setPkgRing (s : State) (r : Option (Nat × Nat)) : State :=
  { s with pkgRing := r, traps := s.traps.map fun (t : TrapRec) => { t with stuck := false } }

/-- PKGRING. -/
def pkgring (c : Nat) (s : State) (l : List Byte) : Except Nat State :=
  let va := fieldOf l 0 8
  if va = 0 then .ok (s.setPkgRing none)
  else match s.ringAt c va with
    | .ok r => if !r.dir && r.slotsz == 1 then .ok (s.setPkgRing (some (c, va))) else .error 1
    | .error e => .error e

def execPkgring (c : Nat) (s : State) : Host.Outcome State Fault Refusal := always s (service 0x0F c (pkgring c))

end Sys2Proof.Machine
end

