-- ==== Sys2Proof/Machine/Mmio.lean ====
section
/-! DEFINITION. Writes of device MMIO (R425 and the rules of each register), and the operating points of islands (R448). -/

namespace Sys2Proof.Machine

/-! ### Islands (R448) -/

/-- A change of an island's operating point starts: its issue stops until the change is done. -/
def levelChange (i v : Nat) (s : State) : State :=
  if 1055 ≤ i then s
  else { s.setIo (0x1000 + 8 * i) (v % 16) with islands := AMap.ins i (true, v % 16) s.islands }

/-- ISLAND_LEVEL_CHANGE. -/
def execIslandLevelChange (i v : Nat) (s : State) : Host.Outcome State Fault Refusal := always s (levelChange i v)

/-- ISLAND_CHANGE_DONE: a gated core island that leaves LVL 0 runs again. -/
def levelDone (i : Nat) (s : State) : State :=
  if (AMap.get (false, 0) s.islands i).1 then
    let t := { s with islands := AMap.ins i (false, (AMap.get (false, 0) s.islands i).2) s.islands }
    if decide (i < 1024) && t.island i != 0 then t.onCoreAt i fun k => { k with gated := false } else t
  else s

def execIslandChangeDone (i : Nat) (s : State) : Host.Outcome State Fault Refusal := always s (levelDone i)

/-- POWER_LIMIT: above the limit the power controller lowers a core island of the highest level, and reports. -/
def powerLimit (i : Nat) (s : State) : State :=
  if i < 1024 && decide (0 < s.island i % 16) && !(AMap.get (false, 0) s.islands i).1
      && ((upTo 1024).all fun j => decide (s.island j % 16 ≤ s.island i % 16)) then
    (levelChange i (s.island i % 16 - 1) s).say (.wired 0 i)
  else s

def execPowerLimit (i : Nat) (s : State) : Host.Outcome State Fault Refusal := always s (powerLimit i)

/-! ### Register writes (R425) -/

/-- A write of a die's register at an offset of its 1 MiB. -/
def dieWrite (d r v : Nat) (s : State) : State :=
  if r = 0 then writeSdctl d v s
  else if r = 8 then { s with sdva := AMap.ins d (BitVec.ofNat 64 (bitsOf v 12 44 * 2 ^ 12)) s.sdva }
  else if r = 0x10 then { s with graddr := AMap.ins d (BitVec.ofNat 64 (v % 2 ^ 62)) s.graddr }
  else if r = 0x18 then grvalWrite d v s
  else if r < 0x5000 then writeQueueReg (256 * d + (r - 0x1000) / 0x40) (r % 0x40) v s
  else writeSvcreq (128 * d + (r - 0x8000) / 8) v s

/-- A write of a register of the I/O die. -/
def ioWrite (o v : Nat) (s : State) : State :=
  match o with
  | 0x00 => writePsdctl v s
  | 0x08 => { s with psdva := BitVec.ofNat 64 (bitsOf v 12 44 * 2 ^ 12) }
  | 0x10 => writeRpre v s
  | 0x18 => fresFail v (fresRetry v s)
  | 0x20 => writeLaunch v s
  | 0x28 => s.setIo 0x28 v
  | 0x30 => writeSvcres v s
  | 0x40 => s.setIo 0x40 (bitsOf v 63 1 * 2 ^ 63 + v % 64)
  | 0x48 => s.setIo 0x48 (v % 1024)
  | 0x50 => s.setIo 0x50 (bitsOf v 6 33 * 2 ^ 6)
  | 0x58 => writeCscmd v s
  | _ => s

/-- A write of the register at an offset; DEVSTAT and CSSTAT are read-only, and an offset without a register changes nothing here: the
party that wrote there has its access fault. -/
def mmioWrite (o v : Nat) (s : State) : State :=
  if !(mmioListed o) then s
  else if o < 0x1000 then ioWrite o v s
  else if o < 0x1000000 then levelChange ((o - 0x1000) / 8) v s
  else dieWrite ((o - 0x1000000) / 0x100000) (o % 0x100000) v s

/-- MMIO_REGISTER_WRITE: a control core's write; one to an offset that the map does not list is an access fault of the hart (log 15 for its
numbering). -/
def execMmioRegisterWrite (off v : Nat) (s : State) : Host.Outcome State Fault Refusal :=
  always s fun s => if mmioListed off then mmioWrite off (v % 2 ^ 64) s else s.say (.inboundFault 0 off 7)

end Sys2Proof.Machine
end

