-- ==== Sys2Proof/Machine/Routes.lean ====
section
/-! DEFINITION. Traffic between domains as it is applied (R124 to R126), the I/O ordering point (R127), and the recovery of a failed link,
port or copy unit (R442). -/

namespace Sys2Proof.Machine

/-! ### Application (R126) -/

/-- Whether the head of a route may be applied now. -/
def State.mayApply (s : State) (src dst : Nat) (m : Msg) : Bool :=
  match m.t with
  | .read _ _ _ => dominates (s.clockOf dst) m.stamp
  | .rmw _ _ _ _ _ _ => dominates (s.clockOf dst) m.stamp
  | _ => (upTo 9).all fun j => j == src || clockGe (Clock.at (s.clockOf dst) j) (Clock.at m.stamp j)

/-- A write has been performed at its home. -/
def State.ackDone (s : State) (ack : Nat) : State :=
  { s with acks := s.acks.map fun (a : Ack) => if a.id = ack then { a with performed := true } else a }

/-- The bytes of a piece arrive for the result that waits for them, with the home's clock. -/
def State.answer (s : State) (ck id idx : Nat) (bs : List Byte) (c : Clock) : State :=
  s.onCtxAt ck fun x => { x with var := x.var.map fun (v : VarW) =>
    if v.id = id then { v with bytes := fillBytes v.kept v.bytes idx bs, waiting := v.waiting - 1, stamps := v.stamps ++ [c] } else v }

/-- A write at its home. -/
def State.applyWrite (s : State) (p : Piece) (bs : List Byte) : State :=
  match p.loc with
  | .mmio off => mmioWrite off (leNat bs) s
  | _ => s.noticeClosed (s.putPiece p bs)

/-- Bytes of the value that a step returns. -/
def Rmw.bytes : Rmw → Nat
  | .atom _ w8 _ => if w8 then 8 else 4
  | .acas w8 _ _ => if w8 then 8 else 4
  | _ => 8

/-- A step at its home: its value; one of target type 7 is performed by a remote chip, whose answer is free (log 15). -/
def State.applyRmw (s : State) (r : Rmw) (key : Nat) : Nat × State :=
  if 2 ^ 60 ≤ key then
    (leNat ((upTo r.bytes).map (Config.outsideByte s.outside)), { s.say (.chipRmw (key - 2 ^ 60) r) with outside := s.outside + 1 })
  else
    let p := performRmw r key s
    (p.1, (s.noticeClosed p.2).signalled key 8)

/-- The answer of a step reaches the context that asked: before issue as what its bundle waits for, else as its result. A BARWAIT that has to wait
blocks at the object at once (R267). A step that fails at its home traps the context at the bundle that made it. -/
def State.rmwAnswer (s : State) (r : Rmw) (key ck id : Nat) (pre : Bool) (epc v : Nat) (c : Clock) : State :=
  if pre then
    (if (s.ctxAt ck).status != .blocked .remote || (s.ctxAt ck).work.uid != id then s
     else match r with
       | .bartest _ dl =>
         if v = 0 then (s.joinBar key ck).onCtxAt ck fun x => { x with remote := none, status := .blocked (.barrier key dl), pcount := 0, w := 0 }
         else s.onCtxAt ck fun x => { x with remote := some (some (v, c)), status := .ready, w := 0 }
       | _ => s.onCtxAt ck fun x => { x with remote := some (some (v, c)), status := .ready, w := 0 })
  else if v < 2 ^ 200 || rmwNo = v then s.answer ck id 0 (leBytes v r.bytes) c
  else if (s.ctxAt ck).var.any fun w => w.id == id then
    let t := s.onCtxAt ck fun x => { x with var := x.var.filter fun (w : VarW) => w.id != id }
    let pc := (t.ctxAt ck).bank.pc
    let u := takeTrapAt ck ⟨v - 2 ^ 200, 0, 0, 0⟩ (t.onCtxAt ck fun x => { x with bank := { x.bank with pc := epc } })
    u.onCtxAt ck fun x => { x with bank := { x.bank with pc := pc } }
  else s

/-- Apply traffic that has been taken off its route. -/
def State.applyMsg (s : State) (src dst : Nat) (m : Msg) : State :=
  match m.t with
  | .marker => { s with ac := AMap.ins dst (clockSet (s.clockOf dst) src (Clock.at m.stamp src)) s.ac }
  | .write p bs ack => (s.applyWrite p bs).ackDone ack
  | .read p ck id =>
    let a := s.readPiece p
    a.2.answer ck id p.idx a.1 (s.clockOf dst)
  | .rmw r key ck id pre epc =>
    let a := s.applyRmw r key
    a.2.rmwAnswer r key ck id pre epc a.1 (s.clockOf dst)
  | .inbound p bs port chip =>
    { s.applyWrite p bs with
      chipLines := if chip then s.chipLines ++ (p.key?.map (· / 64)).toList else s.chipLines
      posted := AMap.ins port (AMap.get 0 s.posted port - 1) s.posted }

/-- ROUTE_TRAFFIC_APPLY: the head of a route, once the clock allows. -/
def routeApply (src dst : Nat) (s : State) : State :=
  match AMap.get [] s.routes (9 * src + dst) with
  | [] => s
  | m :: r => if s.mayApply src dst m then { s with routes := AMap.ins (9 * src + dst) r s.routes }.applyMsg src dst m else s

def execRouteTrafficApply (src dst : Nat) (s : State) : Host.Outcome State Fault Refusal := always s (routeApply src dst)

/-! ### Inbound traffic (R127, R128, R438, R441) -/

/-- Where inbound MMIO addresses, and those of the export window, begin (log 15). -/
def inboundMmio : Nat := 2 ^ 56
def inboundExport : Nat := 2 ^ 57

/-- A translated address of an inbound access as a place: HBM, scratch or MMIO (R438; log 15 for the numbering). -/
def inboundLoc (addr : Nat) : Option Loc :=
  if addr < 2 ^ 39 then some (.mem addr)
  else if inboundMmio ≤ addr then (if mmioListed (addr - inboundMmio) then some (.mmio (addr - inboundMmio)) else none)
  else if scratchBase ≤ addr then (windowPlace (addr - scratchBase)).map fun w => .mem (scratchBase + w.off)
  else none

/-- The pieces of an inbound access: one at a translated address needs each line to be reachable; one of target type 7 is translated and checked
as EXPCTX gives, and a fault completes it with its cause (R441). -/
def State.inboundX (s : State) (acc : Acc) (addr n : Nat) : AccX :=
  if inboundExport ≤ addr then
    let e := s.ioReg 0x40
    if !(bitOf e 63) || decide (inboundExport + 2 ^ 42 < addr + n) then .fault acc.cause addr
    else match s.xlatAccess { s.unitEnv (e % 64) with fw := false } acc (addr - inboundExport) n with
      | .fault c _ => .fault c addr
      | x => x
  else
    let parts := lineSplit (n / 64 + 2) addr 0 n
    let ps := parts.filterMap fun p => (inboundLoc p.1).map fun l => (⟨l, p.2.1, p.2.2, false⟩ : Piece)
    if ps.length != parts.length || !(mmioShape ps) then .fault acc.cause addr else .ok ps false []

/-- The walker's effects of an inbound access. -/
def State.inboundWalked (s : State) (acc : Acc) (x : AccX) : State := s.walkedAll (s.unitEnv (s.ioReg 0x40 % 64)) acc x.leaves

/-- An inbound access faults: it ends with the cause; cause 0 stands for the wait for another domain (log 20). -/
def State.inboundFail (s : State) (port addr c : Nat) : State := if c = 0 then s else s.say (.inboundFault port addr c)

/-- One packet of a posted write: as traffic to its home, or at once where that lies behind the I/O die itself. -/
def State.postPacket (s : State) (port : Nat) (chip : Bool) (p : Piece) (bs : List Byte) : State :=
  if p.loc.domain = 9 then s
  else if p.loc.domain = 8 then s.applyWrite p bs
  else { s.send 8 p.loc.domain (.inbound p bs port chip) with posted := AMap.ins port (AMap.get 0 s.posted port + 1) s.posted }

/-- INBOUND_POSTED_WRITE: a release by domain 8, then a packet to each line's home; one that faults is discarded and reported. -/
def postedWrite (port addr : Nat) (bytes : List Nat) (s : State) : State :=
  if s.windowFull 8 then s
  else match s.inboundX .write addr bytes.length with
    | .fault c a => s.inboundFail port a c
    | .ok ps so ls =>
      ps.foldl (fun t p => t.postPacket port (decide (inboundExport ≤ addr)) p (((bytes.drop p.idx).take p.n).map (BitVec.ofNat 8))) ((s.inboundWalked .write (.ok ps so ls)).sendMarkers 8)

def execInboundPostedWrite (port addr : Nat) (bytes : List Nat) (s : State) : Host.Outcome State Fault Refusal :=
  always s (postedWrite port addr bytes)

/-- Every earlier posted write of a port has been acknowledged. -/
def State.portQuiet (s : State) (port : Nat) : Bool := AMap.get 0 s.posted port == 0

/-- A read that leaves the I/O die now is served: each home's clock is past domain 8's (R126). Unlike a hart's, it does not wait for what other ports
have posted (R127). -/
def State.inboundServed (s : State) (ps : List Piece) : Bool :=
  ps.all fun p => match p.loc with
    | .mem key => dominates (s.clockOf (homeDie key)) (s.clockOf 8)
    | _ => true

/-- INBOUND_READ: it waits for the posted writes of its own port alone. -/
def inboundRead (port addr n : Nat) (s : State) : State :=
  if !(s.portQuiet port) then s
  else match s.inboundX .read addr n with
    | .fault c a => s.inboundFail port a c
    | .ok ps so ls =>
      if !(s.inboundServed ps) then s
      else
        let r := s.readPieces ps
        (r.2.inboundWalked .read (.ok ps so ls)).say (.inboundData port addr r.1)

def execInboundRead (port addr n : Nat) (s : State) : Host.Outcome State Fault Refusal := always s (inboundRead port addr n)

/-- INBOUND_MSI. -/
def inboundMsi (port addr data : Nat) (s : State) : State := if s.portQuiet port then s.say (.msi addr data) else s

def execInboundMsi (port addr data : Nat) (s : State) : Host.Outcome State Fault Refusal := always s (inboundMsi port addr data)

/-! ### Accesses of the control cores, and remote chips' atomics (R127 to R129, R424) -/

/-- The number under which a hart's stores are acknowledged. -/
def hartKey (hart : Nat) : Nat := 2000000 + hart

def State.hart (s : State) (h : Nat) : Hart := AMap.get {} s.harts h

def State.onHart (s : State) (h : Nat) (f : Hart → Hart) : State := { s with harts := AMap.ins h (f (s.hart h)) s.harts }

/-- A hart's store leaves as domain 8's. -/
def State.hartStore (s : State) (hart : Nat) (p : Piece) (bs : List Byte) : State :=
  if p.loc.domain = 9 then s
  else if p.loc.domain = 8 then s.applyWrite p bs
  else (s.send 8 p.loc.domain (.write p bs s.nextAck)).addAck (hartKey hart) 0 p.loc.domain false false [] false

/-- The stamps that the homes of a load's pieces return. -/
def State.homeStamps (s : State) (ps : List Piece) : List Clock :=
  ps.filterMap fun p => if p.loc.domain < 8 then some (s.clockOf p.loc.domain) else none

/-- FENCE of a hart as a full fence at package scope: its stores are acknowledged, the clock dominates what its loads saw, and then it
advances with its markers (R125, R127, R130). -/
def State.hartFence (s : State) (hart : Nat) : State :=
  let s1 := s.onHart hart fun h => { h with fencing := true }
  if (s.acks.any fun a => a.ck == hartKey hart) || s.windowFull 8 || !((s.hart hart).stamps.all (dominates (s.clockOf 8))) then s1
  else (s1.sendMarkers 8).onHart hart fun _ => {}

/-- An access of a hart, none of which passes a FENCE under way. Loads and steps act at their home once they can reach it (log 20). A step in the
export window is a remote chip's, through the port of that number: it waits for that port's posted writes alone (R127, R128). -/
def hostStep (a : HostAccess) (s : State) : State :=
  match a with
  | .fence h => s.hartFence h
  | .store h addr bytes =>
    if (s.hart h).fencing then s
    else match s.inboundX .write addr bytes.length with
      | .fault c x => s.inboundFail h x c
      | .ok ps so ls =>
        ps.foldl (fun t p => t.hartStore h p (((bytes.drop p.idx).take p.n).map (BitVec.ofNat 8))) (s.inboundWalked .write (.ok ps so ls))
  | .load h addr n =>
    if (s.hart h).fencing then s
    else match s.inboundX .read addr n with
      | .fault c x => s.inboundFail h x c
      | .ok ps so ls =>
        if !(s.allReachable 8 ps) then s
        else
          let r := s.readPieces ps
          ((r.2.inboundWalked .read (.ok ps so ls)).onHart h fun t => { t with stamps := t.stamps ++ s.homeStamps ps }).say (.hostData h addr r.1)
  | .rmw h addr r =>
    let remote := decide (inboundExport ≤ addr)
    if (if remote then !(s.portQuiet h) else (s.hart h).fencing) then s
    else match s.inboundX .atomic addr r.bytes with
      | .ok [⟨.mem key, i, n, w⟩] so ls =>
        if !(if remote then s.inboundServed [⟨.mem key, i, n, w⟩] else s.allReachable 8 [⟨.mem key, i, n, w⟩]) then s
        else
          let p := s.applyRmw r key
          ((p.2.inboundWalked .atomic (.ok [⟨.mem key, i, n, w⟩] so ls)).onHart h fun t =>
            { t with stamps := t.stamps ++ s.homeStamps [⟨.mem key, i, n, w⟩] }).say (.hostData h addr (leBytes p.1 r.bytes))
      | .ok _ _ _ => s.say (.inboundFault h addr 7)
      | .fault c x => s.inboundFail h x c

/-! ### Recovery (R442) -/

/-- Whether the failed part carried a packet or a collective, which the spec leaves to the fabric (log 5). -/
def State.onLane (s : State) (n : Nat) : Bool := Config.freeBool (s.fresh + 1 + n)

/-- A packet of a failed part restarts: a reducing copy by its commit record, a copy whole, a loader's or storer's with the tile in progress, since
the tiles before it have been handed on (R256, R442, log 103). -/
def Packet.restart (p : Packet) : Packet :=
  if decide (2 ≤ pkKind p.num) then { p with sub := 0 }
  else { p with done := if pkKind p.num = 0 then 0 else p.done, moved := 0, sub := 0, block := none }

/-- A packet that no route is left for ends with cause 0x11, under its region's policy. -/
def State.loseRoute (s : State) (p : Packet) : State :=
  match s.queueOf p.cq with
  | some q => s.endPacket q p 0x11 0 0
  | none => s

/-- LINK_FAILURE_RECOVERY: packets of the failed part restart; where no route remains they end with cause 0x11, and so do collectives. Everything
else is as if nothing had failed. -/
def recover (_lane : Nat) (s : State) : State :=
  let lost := Config.freeBool s.fresh
  let hit := s.packets.filter fun (p : Packet) => !p.finished && p.started && decide (p.cq < 10000) && s.onLane p.id
  let t := if lost then hit.foldl State.loseRoute s
    else { s with packets := s.packets.map fun (p : Packet) => if hit.any fun h => h.id == p.id then p.restart else p }
  let u := if lost then (s.ops.filter fun o => isCollective o.record && o.given && !o.failed && s.onLane (s.nextPacket + o.id)).foldl
      (fun u o => u.opTrap o 0 0 [] false ⟨0x11, 0, 0, 0⟩) t
    else t
  { u with fresh := s.fresh + s.nextPacket + s.nextOp + 1 }

def execLinkFailureRecovery (lane : Nat) (s : State) : Host.Outcome State Fault Refusal := always s (recover lane)

end Sys2Proof.Machine
end

