-- ==== Sys2Proof/Machine/Sha.lean ====
section
/-! DEFINITION. SHA-384, which the rules of the measured boot name without defining it (R443, R444): its rounds and constants are those of the
standard, FIPS 180-4 (PRESUMED, log 16). -/

namespace Sys2Proof.Machine

/-- A word of SHA-384. -/
abbrev ShaWord := BitVec 64

/-- The round constants: the first 64 fraction bits of the cube roots of the first 80 primes. -/
def shaK0 : List ShaWord :=
  [0x428a2f98d728ae22, 0x7137449123ef65cd, 0xb5c0fbcfec4d3b2f, 0xe9b5dba58189dbbc, 0x3956c25bf348b538,
   0x59f111f1b605d019, 0x923f82a4af194f9b, 0xab1c5ed5da6d8118, 0xd807aa98a3030242, 0x12835b0145706fbe,
   0x243185be4ee4b28c, 0x550c7dc3d5ffb4e2, 0x72be5d74f27b896f, 0x80deb1fe3b1696b1, 0x9bdc06a725c71235,
   0xc19bf174cf692694, 0xe49b69c19ef14ad2, 0xefbe4786384f25e3, 0x0fc19dc68b8cd5b5, 0x240ca1cc77ac9c65]
def shaK1 : List ShaWord :=
  [0x2de92c6f592b0275, 0x4a7484aa6ea6e483, 0x5cb0a9dcbd41fbd4, 0x76f988da831153b5, 0x983e5152ee66dfab,
   0xa831c66d2db43210, 0xb00327c898fb213f, 0xbf597fc7beef0ee4, 0xc6e00bf33da88fc2, 0xd5a79147930aa725,
   0x06ca6351e003826f, 0x142929670a0e6e70, 0x27b70a8546d22ffc, 0x2e1b21385c26c926, 0x4d2c6dfc5ac42aed,
   0x53380d139d95b3df, 0x650a73548baf63de, 0x766a0abb3c77b2a8, 0x81c2c92e47edaee6, 0x92722c851482353b]
def shaK2 : List ShaWord :=
  [0xa2bfe8a14cf10364, 0xa81a664bbc423001, 0xc24b8b70d0f89791, 0xc76c51a30654be30, 0xd192e819d6ef5218,
   0xd69906245565a910, 0xf40e35855771202a, 0x106aa07032bbd1b8, 0x19a4c116b8d2d0c8, 0x1e376c085141ab53,
   0x2748774cdf8eeb99, 0x34b0bcb5e19b48a8, 0x391c0cb3c5c95a63, 0x4ed8aa4ae3418acb, 0x5b9cca4f7763e373,
   0x682e6ff3d6b2b8a3, 0x748f82ee5defb2fc, 0x78a5636f43172f60, 0x84c87814a1f0ab72, 0x8cc702081a6439ec]
def shaK3 : List ShaWord :=
  [0x90befffa23631e28, 0xa4506cebde82bde9, 0xbef9a3f7b2c67915, 0xc67178f2e372532b, 0xca273eceea26619c,
   0xd186b8c721c0c207, 0xeada7dd6cde0eb1e, 0xf57d4f7fee6ed178, 0x06f067aa72176fba, 0x0a637dc5a2c898a6,
   0x113f9804bef90dae, 0x1b710b35131c471b, 0x28db77f523047d84, 0x32caab7b40c72493, 0x3c9ebe0a15c9bebc,
   0x431d67c49c100d4c, 0x4cc5d4becb3e42b6, 0x597f299cfc657e2a, 0x5fcb6fab3ad6faec, 0x6c44198c4a475817]
def shaK : List ShaWord := shaK0 ++ shaK1 ++ shaK2 ++ shaK3

/-- The first value of the chain: of the square roots of the ninth to the sixteenth prime. -/
def shaInit : List ShaWord :=
  [0xcbbb9d5dc1059ed8, 0x629a292a367cd507, 0x9159015a3070dd17, 0x152fecd8f70e5939,
   0x67332667ffc00b31, 0x8eb44a8768581511, 0xdb0c2e0d64f98fa7, 0x47b5481dbefa4fa4]

/-- The two mixes of the message schedule and the two of a round. -/
def shaMix (r1 r2 n : Nat) (x : ShaWord) : ShaWord := x.rotateRight r1 ^^^ x.rotateRight r2 ^^^ (x >>> n)
def shaTurn (r1 r2 r3 : Nat) (x : ShaWord) : ShaWord := x.rotateRight r1 ^^^ x.rotateRight r2 ^^^ x.rotateRight r3

/-- The k-th of a list of words. -/
def shaAt (l : List ShaWord) (k : Nat) : ShaWord := (l.drop k).head?.getD 0

/-- A round over the eight working words, with a word of the schedule and its constant. -/
def shaRound (v : List ShaWord) (w k : ShaWord) : List ShaWord :=
  match v with
  | [a, b, c, d, e, f, g, h] =>
    let t1 := h + shaTurn 14 18 41 e + ((e &&& f) ^^^ (~~~e &&& g)) + k + w
    let t2 := shaTurn 28 34 39 a + ((a &&& b) ^^^ (a &&& c) ^^^ (b &&& c))
    [t1 + t2, a, b, c, d + t1, e, f, g]
  | l => l

/-- The rounds that remain, over the last sixteen words of the schedule, oldest first. -/
def shaRounds : List ShaWord → List ShaWord → List ShaWord → List ShaWord
  | [], _, v => v
  | k :: ks, ws, v =>
    let w := shaAt ws 0
    let next := shaMix 19 61 6 (shaAt ws 14) + shaAt ws 9 + shaMix 1 8 7 (shaAt ws 1) + w
    shaRounds ks (ws.drop 1 ++ [next]) (shaRound v w k)

/-- A number from bytes, the first one highest, and back. -/
def beNat (l : List Byte) : Nat := l.foldl (fun n b => n * 256 + b.toNat) 0
def beBytes (v n : Nat) : List Byte := ((List.range n).map fun i => BitVec.ofNat 8 (v / 256 ^ i)).reverse

/-- The blocks of 128 bytes, taken in order; fuel counts them. -/
def shaBlocks : Nat → List Byte → List ShaWord → List ShaWord
  | 0, _, v => v
  | n + 1, l, v =>
    let ws := (List.range 16).map fun i => BitVec.ofNat 64 (beNat ((l.drop (8 * i)).take 8))
    shaBlocks n (l.drop 128) (List.zipWith (· + ·) v (shaRounds shaK ws v))

/-- The padded message: a one bit, zeros, and its length in bits as 16 bytes. -/
def shaPad (l : List Byte) : List Byte :=
  l ++ [0x80] ++ List.replicate ((239 - l.length % 128) % 128) 0 ++ beBytes (8 * l.length) 16

/-- The SHA-384 digest of a byte string: 48 bytes. -/
@[irreducible] def sha384 (l : List Byte) : List Byte :=
  let p := shaPad l
  ((shaBlocks (p.length / 128) p shaInit).take 6).flatMap fun w => beBytes w.toNat 8

end Sys2Proof.Machine
end

