-- ==== Sys2Proof/Machine/Boot.lean ====
section
/-! DEFINITION. Starts and the measured boot chain (R443, R445, R446), the SPDM responder (R444), leader election (R447), and the interrupts
that the I/O die's wired sources and ports raise (R426). -/

namespace Sys2Proof.Machine

/-! ### The chain (R443) -/

/-- The bytes and the digest of an image. -/
def imageData (i : BootImage) : List Byte := i.bytes.map (BitVec.ofNat 8)
def imageDigest (i : BootImage) : List Byte := sha384 (imageData i)

/-- The bytes of a key or signature. -/
def bytesOf (l : List Nat) : List Byte := l.map (BitVec.ofNat 8)

/-- An image is accepted: both public keys are those whose digests the fuses hold, both signatures verify, and its version is at least the fused
one. -/
def accepted (i : BootImage) : Bool :=
  sha384 (bytesOf i.mlKey) == Config.fusedMlDsaKey && sha384 (bytesOf i.ecKey) == Config.fusedEcdsaKey
    && Config.mlDsaVerifies (imageDigest i) (bytesOf i.mlKey) (bytesOf i.mlSig) && Config.ecdsaVerifies (imageDigest i) (bytesOf i.ecKey) (bytesOf i.ecSig)
    && decide (Config.fusedVersion ≤ i.version)

/-- Which of the images run: root-of-trust firmware, control-core firmware, service store, operating system; each once its verifier runs. -/
def chainRuns (imgs : List BootImage) : List Bool :=
  let ok := fun k => (imgs.drop k).head?.any accepted
  [ok 0, ok 0 && ok 1, ok 0 && ok 2, ok 0 && ok 1 && ok 3]

/-- Whether the k-th image of a chain runs. -/
def runsAt (imgs : List BootImage) (k : Nat) : Bool := nth false (chainRuns imgs) k

/-- A measurement register. -/
def Root.measure (r : Root) (k : Nat) : List Byte := AMap.get (List.replicate 48 0) r.meas k

/-- Extend the register of the k-th stage, numbered as the stages are (log 13). -/
def Root.extend (r : Root) (k : Nat) (digest : List Byte) : Root := { r with meas := AMap.ins k (sha384 (r.measure k ++ digest)) r.meas }

/-- The measurements of a chain, from zero. -/
def Root.measured (r : Root) (imgs : List BootImage) : Root :=
  (List.zip (upTo 4) imgs).foldl (fun r p => if runsAt imgs p.1 then r.extend p.1 (imageDigest p.2) else r) { r with meas := [] }

/-- The locked service store from its image (R153, log 13). -/
def lockedStore (i : BootImage) : AMap (BitVec 256) :=
  (upTo (min 512 (i.bytes.length / 32))).map fun k => (7680 + k, BitVec.ofNat 256 (leNat ((imageData i).drop (32 * k) |>.take 32)))

/-! ### Starts (R445) -/

/-- Failed warm starts in a row, one that never reached the control-core firmware among them. -/
def Root.failed (r : Root) : Nat := r.failures + r.warming.toNat

/-- What outlives a start: the time base, the always-on domain, the chip's identifier, the model's own counters; the memory of a warm start. -/
def State.restarted (s : State) (keep : Bool) : State :=
  { State.reset with
    schedule := s.schedule
    fresh := s.fresh
    clk := s.clk
    time := s.time
    outside := s.outside
    out := s.out
    mem := if keep then s.mem else []
    io := AMap.put 0 0x48 (BitVec.ofNat 64 (s.ioReg 0x48)) []
    root := { epoch := s.root.epoch, failures := s.root.failed, kept := s.root.kept } }

/-- The claim a chip sends when it starts or claims again, which it counts among those it sees (R447). -/
def State.claimLeader (s : State) : State :=
  let me := s.ioReg 0x48 % 1024
  { s.say (.claim s.root.epoch me) with
    root := { s.root with claims := [(s.root.epoch, me)], windowAt := some s.time, leader := none } }

/-- The images of a chain load: each is verified and measured; the control cores and the locked store run what is accepted. -/
def State.load (s : State) (imgs : List BootImage) : State :=
  { s with
    store := if runsAt imgs 1 && runsAt imgs 2 then (imgs.drop 2).head?.elim [] lockedStore else []
    root := { s.root.measured imgs with up := runsAt imgs 1, loading := true } }

/-- A start with its images: once the control-core firmware runs, service begins with the dies that are ready. A warm start that does not reach it has
failed; it counts when the next start or a loss of power ends it. -/
def State.start (s : State) (cold : Bool) (dies : List Nat) (imgs : List BootImage) : State :=
  let s0 := s.restarted (!cold)
  let s1 := { s0 with root := { s0.root with epoch := s0.root.epoch + cold.toNat } }.load imgs
  if runsAt imgs 1 then
    { s1 with
      dies := dies
      reduced := !dies.isEmpty
      root := { s1.root with failures := 0, kept := dies } }.claimLeader
  else { s1 with root := { s1.root with warming := !cold } }

/-- The dies named, in order. -/
def diesOf (l : List Nat) : List Nat := (upTo 8).filter fun d => l.contains d

def execColdStart (dies : List Nat) (imgs : List BootImage) (s : State) : Host.Outcome State Fault Refusal :=
  always s fun s => s.start true (diesOf dies) imgs

/-- WARM_START: with the dies whose results were saved; after two failures in a row the start is cold, and the dies join as each completes its steps. A
check that fails repeats its step, with the same outcome. -/
def execWarmStart (imgs : List BootImage) (s : State) : Host.Outcome State Fault Refusal :=
  always s fun s => if 2 ≤ s.root.failed then s.start true [] imgs else s.start false s.root.kept imgs

/-- DIE_JOIN_SERVICE. -/
def dieJoin (die : Nat) (s : State) : State :=
  if s.root.up && decide (die < 8) && !(s.dies.contains die) then
    { s with
      dies := diesOf (die :: s.dies)
      reduced := s.reduced || s.dies.isEmpty
      root := { s.root with kept := diesOf (die :: s.root.kept) } }
  else s

def execDieJoinService (die : Nat) (s : State) : Host.Outcome State Fault Refusal := always s (dieJoin die)

/-- REDUCED_SERVICE_END: all eight dies, and no stream runs. -/
def reducedEnd (s : State) : State :=
  if s.reduced && s.dies.length == 8 && !(s.gfes.any fun p => p.2.busy) then { s with reduced := false } else s

def execReducedServiceEnd (s : State) : Host.Outcome State Fault Refusal := always s reducedEnd

/-- POWER_LOSS: what no always-on domain keeps is lost; a warm start that had not reached the control-core firmware has failed. -/
def powerLoss (s : State) : State := { s.restarted false with powered := false }

def execPowerLoss (s : State) : Host.Outcome State Fault Refusal := always s powerLoss

/-! ### SPDM (R444) -/

/-- Answer a request. -/
def State.spdm (s : State) (req : Nat) (bytes : List Byte) (f : Root → Root) : State :=
  { s.say (.spdm req bytes) with root := f { s.root with transcript := s.root.transcript ++ [req] } }

/-- The requests in which the version, the capabilities and the algorithms have been settled. -/
def Root.settled (r : Root) : Bool := r.spdmVersion && r.spdmCaps && r.spdmAlgs

/-- GET_VERSION starts a new exchange. -/
def execGetVersion (s : State) : Host.Outcome State Fault Refusal :=
  always s fun s => s.spdm 0x84 (Config.spdmBytes 0x84 []) fun r =>
    { r with spdmVersion := true, spdmCaps := false, spdmAlgs := false, transcript := [0x84] }

def execGetCapabilities (v : Nat) (s : State) : Host.Outcome State Fault Refusal :=
  always s fun s => s.spdm 0xE1 (Config.spdmBytes 0xE1 (v :: s.root.transcript)) fun r => { r with spdmCaps := r.spdmVersion }

def execNegotiateAlgorithms (v : Nat) (s : State) : Host.Outcome State Fault Refusal :=
  always s fun s => s.spdm 0xE3 (Config.spdmBytes 0xE3 (v :: s.root.transcript)) fun r => { r with spdmAlgs := r.spdmVersion && r.spdmCaps }

/-- An answer once the exchange is settled; what is answered before that is free. -/
def State.spdmAnswer (s : State) (req : Nat) (args : List Nat) (bytes : List Byte) : State :=
  s.spdm req (if s.root.settled then bytes else Config.spdmBytes req (args ++ s.root.transcript)) fun r => r

/-- GET_DIGESTS: of the chains of the eight slots. -/
def execGetDigests (s : State) : Host.Outcome State Fault Refusal :=
  always s fun s => s.spdmAnswer 0x81 [] ((upTo 8).flatMap fun k => sha384 (Config.certificate k))

/-- GET_CERTIFICATE: a part of a chain. -/
def execGetCertificate (slot off len : Nat) (s : State) : Host.Outcome State Fault Refusal :=
  always s fun s => s.spdmAnswer 0x82 [slot, off, len] (((Config.certificate slot).drop off).take len)

/-- What a signature covers: the exchange so far and the request's nonce. -/
def signed (r : Root) (args : List Nat) : List Byte := (r.transcript ++ args).flatMap fun v => leBytes v 8

/-- CHALLENGE: the digest of the chain, and a signature. -/
def execChallenge (slot nonce : Nat) (s : State) : Host.Outcome State Fault Refusal :=
  always s fun s => s.spdmAnswer 0x83 [slot, nonce]
    (sha384 (Config.certificate slot) ++ Config.signature (signed s.root [0x83, slot, nonce]))

/-- The measurement block of register k as SPDM lays it out: its index, the specification 1, the size, then the value's type, its size and the register
(log 16). -/
def Root.block (r : Root) (k : Nat) : List Byte :=
  [BitVec.ofNat 8 (k + 1), 1] ++ leBytes 51 2 ++ [Config.measurementType k] ++ leBytes 48 2 ++ r.measure k

/-- The measurement blocks of an index: 0 their number, 1 to 16 one register, 255 all. -/
def Root.blocks (r : Root) (idx : Nat) : List Byte :=
  if idx = 0 then [16]
  else if idx = 255 then (upTo 16).flatMap r.block
  else if idx ≤ 16 then r.block (idx - 1) else []

/-- GET_MEASUREMENTS: the registers, and a signature. -/
def execGetMeasurements (idx nonce : Nat) (s : State) : Host.Outcome State Fault Refusal :=
  always s fun s => s.spdmAnswer 0xE0 [idx, nonce] (s.root.blocks idx ++ Config.signature (signed s.root [0xE0, idx, nonce] ++ s.root.blocks idx))

/-! ### Leader election (R447) -/

/-- This chip. -/
def State.self (s : State) : Nat := s.ioReg 0x48 % 1024

/-- One claim goes before another: the higher epoch, then the lower identifier. -/
def claimBeats (a b : Nat × Nat) : Bool := decide (b.1 < a.1) || (a.1 == b.1 && decide (a.2 ≤ b.2))

/-- The best claim. -/
def bestClaim : List (Nat × Nat) → Option (Nat × Nat)
  | [] => none
  | c :: r => match bestClaim r with
    | none => some c
    | some d => some (if claimBeats c d then c else d)

/-- An election has settled: a chip that lost it abandons the images of this start and loads the leader's, through the same chain (R447). -/
def State.elected (s : State) : State :=
  let t := match s.root.leader with
    | some l => if s.root.loading && l != s.self then s.load (Config.leaderImages l s.root.epoch) else s
    | none => s
  { t with root := { t.root with loading := false } }

/-- CLAIM_WINDOW_EXPIRY: 100 ms after the first claim. -/
def windowExpiry (s : State) : State :=
  match s.root.windowAt with
  | some t =>
    if t + 10 ^ 8 ≤ s.time then
      { s with root := { s.root with leader := (bestClaim s.root.claims).map Prod.snd, claims := [], windowAt := none, lastBeat := s.time } }.elected
    else s
  | none => s

def execClaimWindowExpiry (s : State) : Host.Outcome State Fault Refusal := always s windowExpiry

/-- CLAIM: a claim heard over a link; the first one of an election opens its window. One heard after the window belongs to the next election. -/
def hearClaim (chip epoch : Nat) (s0 : State) : State :=
  let s := windowExpiry s0
  { s with root := { s.root with
    claims := (if s.root.windowAt.isSome then s.root.claims else [(s.root.epoch, s.self)]) ++ [(epoch, chip)]
    windowAt := some (s.root.windowAt.getD s.time) } }

def execClaim (chip epoch : Nat) (s : State) : Host.Outcome State Fault Refusal := always s (hearClaim chip epoch)

/-- HEARTBEAT: the leader sends one every 250 ms; another chip hears it. -/
def heartbeat (s : State) : State :=
  match s.root.leader with
  | none => s
  | some l =>
    if l != s.self then { s with root := { s.root with lastBeat := s.time } }
    else if s.root.lastBeat + 250 * 10 ^ 6 ≤ s.time then
      { s.say (.heartbeat s.root.epoch) with root := { s.root with lastBeat := s.time } }
    else s

def execHeartbeat (s : State) : Host.Outcome State Fault Refusal := always s heartbeat

/-- HEARTBEAT_TIMEOUT: 2 s without a heartbeat. -/
def heartbeatTimeout (s : State) : State :=
  if s.root.up && s.root.leader != some s.self && s.root.windowAt.isNone && decide (s.root.lastBeat + 2 * 10 ^ 9 ≤ s.time) then
    { s with root := { s.root with epoch := s.root.epoch + 1 } }.claimLeader
  else s

def execHeartbeatTimeout (s : State) : Host.Outcome State Fault Refusal := always s heartbeatTimeout

/-! ### Wired sources and ports (R426) -/

/-- THERMAL_ALERT of an island. -/
def execThermalAlert (i : Nat) (s : State) : Host.Outcome State Fault Refusal := always s fun s => s.say (.wired 1 i)

def execWatchdog (s : State) : Host.Outcome State Fault Refusal := always s fun s => s.say (.wired 2 0)

/-- PCIE_PORT_EVENT: a legacy interrupt, AER or port event, forwarded by the APLIC. -/
def execPciePortEvent (port : Nat) (s : State) : Host.Outcome State Fault Refusal := always s fun s => s.say (.wired 3 port)

/-- ETHERNET_UALINK_PORT_EVENT: a record in the port's event queue, and its interrupt. -/
def execEthernetUalinkPortEvent (port : Nat) (s : State) : Host.Outcome State Fault Refusal := always s fun s => s.say (.portEvent port)

end Sys2Proof.Machine
end

