-- ==== Sys2Proof/Machine/Dispatch.lean ====
section
/-! DEFINITION. The dispatcher: every operation and event of the opcode table to its meaning. -/

namespace Sys2Proof.Machine

/-- What an operation of the acting context or GFE, or an event of the device, does. -/
def exec (i : Instr) (s : State) : Host.Outcome State Fault Refusal :=
  match i with
  | .mov d a => Sys2Proof.Machine.execMov d a s
  | .li d imm => Sys2Proof.Machine.execLi d imm s
  | .lih d imm => Sys2Proof.Machine.execLih d imm s
  | .add d a b => Sys2Proof.Machine.execAdd d a b s
  | .addi d a imm => Sys2Proof.Machine.execAddi d a imm s
  | .sub d a b => Sys2Proof.Machine.execSub d a b s
  | .mul d a b => Sys2Proof.Machine.execMul d a b s
  | .mulh d a b mode => Sys2Proof.Machine.execMulh d a b mode s
  | .div d a b mode => Sys2Proof.Machine.execDiv d a b mode s
  | .rem d a b mode => Sys2Proof.Machine.execRem d a b mode s
  | .and d a b => Sys2Proof.Machine.execAnd d a b s
  | .or d a b => Sys2Proof.Machine.execOr d a b s
  | .xor d a b => Sys2Proof.Machine.execXor d a b s
  | .shl d a b => Sys2Proof.Machine.execShl d a b s
  | .shlImm d a n => Sys2Proof.Machine.execShlImm d a n s
  | .shr d a b => Sys2Proof.Machine.execShr d a b s
  | .shrImm d a n => Sys2Proof.Machine.execShrImm d a n s
  | .sra d a b => Sys2Proof.Machine.execSra d a b s
  | .sraImm d a n => Sys2Proof.Machine.execSraImm d a n s
  | .min d a b mode => Sys2Proof.Machine.execMin d a b mode s
  | .max d a b mode => Sys2Proof.Machine.execMax d a b mode s
  | .sel d n a b => Sys2Proof.Machine.execSel d n a b s
  | .cmp pd pc a b cond => Sys2Proof.Machine.execCmp pd pc a b cond s
  | .cmpi pd pc a imm cond => Sys2Proof.Machine.execCmpi pd pc a imm cond s
  | .pand pd pa pb neg => Sys2Proof.Machine.execPand pd pa pb neg s
  | .por pd pa pb neg => Sys2Proof.Machine.execPor pd pa pb neg s
  | .pxor pd pa pb neg => Sys2Proof.Machine.execPxor pd pa pb neg s
  | .cnarrow c a b => Sys2Proof.Machine.execCnarrow c a b s
  | .cperm c keep => Sys2Proof.Machine.execCperm c keep s
  | .cget d a field => Sys2Proof.Machine.execCget d a field s
  | .ctest pd pc a mask => Sys2Proof.Machine.execCtest pd pc a mask s
  | .mfk d k => Sys2Proof.Machine.execMfk d k s
  | .mtk k a => Sys2Proof.Machine.execMtk k a s
  | .br a => Sys2Proof.Machine.execBr a s
  | .bri t => Sys2Proof.Machine.execBri t s
  | .callm d t => Sys2Proof.Machine.execCallm d t s
  | .retm a => Sys2Proof.Machine.execRetm a s
  | .loop count stM1 => Sys2Proof.Machine.execLoop count stM1 s
  | .loopReg a stM1 => Sys2Proof.Machine.execLoopReg a stM1 s
  | .brloop t => Sys2Proof.Machine.execBrloop t s
  | .dispatch a sh na smask => Sys2Proof.Machine.execDispatch a sh na smask s
  | .endop => Sys2Proof.Machine.execEndop s
  | .svc => Sys2Proof.Machine.execSvc s
  | .trap code => Sys2Proof.Machine.execTrap code s
  | .vadd f => Sys2Proof.Machine.execVadd f s
  | .vsub f => Sys2Proof.Machine.execVsub f s
  | .vmul f => Sys2Proof.Machine.execVmul f s
  | .vfma f => Sys2Proof.Machine.execVfma f s
  | .vmin f => Sys2Proof.Machine.execVmin f s
  | .vmax f => Sys2Proof.Machine.execVmax f s
  | .vclamp f => Sys2Proof.Machine.execVclamp f s
  | .vabs f => Sys2Proof.Machine.execVabs f s
  | .vneg f => Sys2Proof.Machine.execVneg f s
  | .vrcp f => Sys2Proof.Machine.execVrcp f s
  | .vrsq f => Sys2Proof.Machine.execVrsq f s
  | .vexp2 f => Sys2Proof.Machine.execVexp2 f s
  | .vlog2 f => Sys2Proof.Machine.execVlog2 f s
  | .vcvt f => Sys2Proof.Machine.execVcvt f s
  | .vscale f => Sys2Proof.Machine.execVscale f s
  | .vcmp f => Sys2Proof.Machine.execVcmp f s
  | .vsel f => Sys2Proof.Machine.execVsel f s
  | .vand f => Sys2Proof.Machine.execVand f s
  | .vor f => Sys2Proof.Machine.execVor f s
  | .vxor f => Sys2Proof.Machine.execVxor f s
  | .vshl f => Sys2Proof.Machine.execVshl f s
  | .vshlImm f => Sys2Proof.Machine.execVshlImm f s
  | .vshr f => Sys2Proof.Machine.execVshr f s
  | .vshrImm f => Sys2Proof.Machine.execVshrImm f s
  | .vred f => Sys2Proof.Machine.execVred f s
  | .vbcast f => Sys2Proof.Machine.execVbcast f s
  | .vext f => Sys2Proof.Machine.execVext f s
  | .vperm f => Sys2Proof.Machine.execVperm f s
  | .viota f => Sys2Proof.Machine.execViota f s
  | .qand f => Sys2Proof.Machine.execQand f s
  | .qor f => Sys2Proof.Machine.execQor f s
  | .qnot f => Sys2Proof.Machine.execQnot f s
  | .tcfg tn fmt rowsM1 => Sys2Proof.Machine.execTcfg tn fmt rowsM1 s
  | .tzero tn => Sys2Proof.Machine.execTzero tn s
  | .wload src ts fmt => Sys2Proof.Machine.execWload src ts fmt s
  | .cbload sa => Sys2Proof.Machine.execCbload sa s
  | .mxnest lvl sa => Sys2Proof.Machine.execMxnest lvl sa s
  | .mxnestImm lvl ws cnt astr cstr => Sys2Proof.Machine.execMxnestImm lvl ws cnt astr cstr s
  | .mxgo f => Sys2Proof.Machine.execMxgo f s
  | .accrd sc vd ss fmt at32 scl off => Sys2Proof.Machine.execAccrd sc vd ss fmt at32 scl off s
  | .accwr sc va ha off => Sys2Proof.Machine.execAccwr sc va ha off s
  | .accz sc nl off => Sys2Proof.Machine.execAccz sc nl off s
  | .rtload sa nrM1 ncM1 rf gm str => Sys2Proof.Machine.execRtload sa nrM1 ncM1 rf gm str s
  | .rtapply sa sb sw nrM1 ncM1 rf gm uw str => Sys2Proof.Machine.execRtapply sa sb sw nrM1 ncM1 rf gm uw str s
  | .rtread vd row half => Sys2Proof.Machine.execRtread vd row half s
  | .rtclr => Sys2Proof.Machine.execRtclr s
  | .rtgain => Sys2Proof.Machine.execRtgain s
  | .rtwords sa => Sys2Proof.Machine.execRtwords sa s
  | .ptrans dst src ds ss ew => Sys2Proof.Machine.execPtrans dst src ds ss ew s
  | .pgather tn sa si nM1 => Sys2Proof.Machine.execPgather tn sa si nM1 s
  | .pred sd sa sb fmt kind alpha => Sys2Proof.Machine.execPred sd sa sb fmt kind alpha s
  | .tcmp sa sb sc sx fmt cm => Sys2Proof.Machine.execTcmp sa sb sc sx fmt cm s
  | .ld sd sa sz sx scope imm => Sys2Proof.Machine.execLd sd sa sz sx scope imm s
  | .st sd sa sz sx scope imm => Sys2Proof.Machine.execSt sd sa sz sx scope imm s
  | .lda sd sa sz sx scope imm => Sys2Proof.Machine.execLda sd sa sz sx scope imm s
  | .stl sd sa sz sx scope imm => Sys2Proof.Machine.execStl sd sa sz sx scope imm s
  | .vld vd sa qp bfx imm => Sys2Proof.Machine.execVld vd sa qp bfx imm s
  | .vst vs sa qp bfx imm => Sys2Proof.Machine.execVst vs sa qp bfx imm s
  | .vlds vd sa qp sb esz imm => Sys2Proof.Machine.execVlds vd sa qp sb esz imm s
  | .vgather vd sa qp vb scl imm => Sys2Proof.Machine.execVgather vd sa qp vb scl imm s
  | .vscatter vs sa qp vb scl imm => Sys2Proof.Machine.execVscatter vs sa qp vb scl imm s
  | .tmov dst src ds ss nrM1 str => Sys2Proof.Machine.execTmov dst src ds ss nrM1 str s
  | .cpyput vs sa imm => Sys2Proof.Machine.execCpyput vs sa imm s
  | .rawait sd sa k => Sys2Proof.Machine.execRawait sd sa k s
  | .rarel sa nM1 => Sys2Proof.Machine.execRarel sa nM1 s
  | .rapeek sd sa k => Sys2Proof.Machine.execRapeek sd sa k s
  | .atom sd sa sb aop w8 ord scope nret imm => Sys2Proof.Machine.execAtom sd sa sb aop w8 ord scope nret imm s
  | .acas sd sa sb sc w8 ord scope imm => Sys2Proof.Machine.execAcas sd sa sb sc w8 ord scope imm s
  | .fence kind scope emask => Sys2Proof.Machine.execFence kind scope emask s
  | .ewait sa => Sys2Proof.Machine.execEwait sa s
  | .barinit sa scope cnt imm => Sys2Proof.Machine.execBarinit sa scope cnt imm s
  | .bararr sd sa scope rc n imm => Sys2Proof.Machine.execBararr sd sa scope rc n imm s
  | .barwait pd sa scope dl sb sc imm => Sys2Proof.Machine.execBarwait pd sa scope dl sb sc imm s
  | .enq slot rq sa => Sys2Proof.Machine.execEnq slot rq sa s
  | .deq sd slot rq => Sys2Proof.Machine.execDeq sd slot rq s
  | .spawn slot rq sa imm => Sys2Proof.Machine.execSpawn slot rq sa imm s
  | .gsplit sd rk k => Sys2Proof.Machine.execGsplit sd rk k s
  | .gret sb => Sys2Proof.Machine.execGret sb s
  | .waitq sa => Sys2Proof.Machine.execWaitq sa s
  | .time sd => Sys2Proof.Machine.execTime sd s
  | .waitt sa rel => Sys2Proof.Machine.execWaitt sa rel s
  | .nop fuse ws => Sys2Proof.Machine.execNop fuse ws s
  | .setg fuse d v => Sys2Proof.Machine.execSetg fuse d v s
  | .setgImm64 fuse d imm => Sys2Proof.Machine.execSetgImm64 fuse d imm s
  | .gop fuse d op a b => Sys2Proof.Machine.execGop fuse d op a b s
  | .gopLdt fuse d a b => Sys2Proof.Machine.execGopLdt fuse d a b s
  | .graphLoop fuse d n t => Sys2Proof.Machine.execGraphLoop fuse d n t s
  | .endloop fuse => Sys2Proof.Machine.execEndloop fuse s
  | .graphBr fuse t => Sys2Proof.Machine.execGraphBr fuse t s
  | .brc fuse cond a b t => Sys2Proof.Machine.execBrc fuse cond a b t s
  | .call fuse t => Sys2Proof.Machine.execCall fuse t s
  | .ret fuse => Sys2Proof.Machine.execRet fuse s
  | .halt fuse => Sys2Proof.Machine.execHalt fuse s
  | .tdef fuse hid fmt pin lay attr dims bt => Sys2Proof.Machine.execTdef fuse hid fmt pin lay attr dims bt s
  | .tfree fuse a b => Sys2Proof.Machine.execTfree fuse a b s
  | .tview fuse d sr box => Sys2Proof.Machine.execTview fuse d sr box s
  | .treshape fuse d sr dims => Sys2Proof.Machine.execTreshape fuse d sr dims s
  | .tshard fuse hid attr => Sys2Proof.Machine.execTshard fuse hid attr s
  | .tplace fuse hid level => Sys2Proof.Machine.execTplace fuse hid level s
  | .tload fuse hid addr => Sys2Proof.Machine.execTload fuse hid addr s
  | .tstore fuse last hid addr => Sys2Proof.Machine.execTstore fuse last hid addr s
  | .tcopy h rnd d sr => Sys2Proof.Machine.execTcopy h rnd d sr s
  | .tgatherb h rlog d pool tbl n => Sys2Proof.Machine.execTgatherb h rlog d pool tbl n s
  | .tconcat h axis d a b => Sys2Proof.Machine.execTconcat h axis d a b s
  | .tappend h hid x => Sys2Proof.Machine.execTappend h hid x s
  | .ttrans h d sr perm => Sys2Proof.Machine.execTtrans h d sr perm s
  | .matmul h acc d a w bias => Sys2Proof.Machine.execMatmul h acc d a w bias s
  | .matmulcb h acc d a w cbt bias scale => Sys2Proof.Machine.execMatmulcb h acc d a w cbt bias scale s
  | .convOp h d x w bias sx sy px py dx dy => Sys2Proof.Machine.execConvOp h d x w bias sx sy px py dx dy s
  | .eltw h d a b c st0 st1 st2 st3 k => Sys2Proof.Machine.execEltw h d a b c st0 st1 st2 st3 k s
  | .reduce h op d a axis => Sys2Proof.Machine.execReduce h op d a axis s
  | .softmax h d a scale => Sys2Proof.Machine.execSoftmax h d a scale s
  | .norm h layer d a g b eps => Sys2Proof.Machine.execNorm h layer d a g b eps s
  | .attn h causal d q k v heads scale => Sys2Proof.Machine.execAttn h causal d q k v heads scale s
  | .embed h d t ix => Sys2Proof.Machine.execEmbed h d t ix s
  | .topk h d a x k => Sys2Proof.Machine.execTopk h d a x k s
  | .argmax h d a => Sys2Proof.Machine.execArgmax h d a s
  | .qr h gm r a => Sys2Proof.Machine.execQr h gm r a s
  | .lsq h gm x a b => Sys2Proof.Machine.execLsq h gm x a b s
  | .rotl h gm d x w => Sys2Proof.Machine.execRotl h gm d x w s
  | .allgather h d sr axes dim => Sys2Proof.Machine.execAllgather h d sr axes dim s
  | .redscat h d sr axes dim rop => Sys2Proof.Machine.execRedscat h d sr axes dim rop s
  | .allred h d sr axes rop => Sys2Proof.Machine.execAllred h d sr axes rop s
  | .bcast h d sr axes root => Sys2Proof.Machine.execBcast h d sr axes root s
  | .send h sr axes tag peer => Sys2Proof.Machine.execSend h sr axes tag peer s
  | .recv h d ring axes tag peer => Sys2Proof.Machine.execRecv h d ring axes tag peer s
  | .spawnb fuse each card slot => Sys2Proof.Machine.execSpawnb fuse each card slot s
  | .quiet fuse rcb => Sys2Proof.Machine.execQuiet fuse rcb s
  | .specin fuse hid kind depthM1 mean alpha abs rel => Sys2Proof.Machine.execSpecin fuse hid kind depthM1 mean alpha abs rel s
  | .specoff fuse hid => Sys2Proof.Machine.execSpecoff fuse hid s
  | .opinstall fuse idem addr opc pbound => Sys2Proof.Machine.execOpinstall fuse idem addr opc pbound s
  | .opremove fuse opc => Sys2Proof.Machine.execOpremove fuse opc s
  | .syscall fuse each args => Sys2Proof.Machine.execSyscall fuse each args s
  | .userOperator fuse flags opc hs => Sys2Proof.Machine.execUserOperator fuse flags opc hs s
  | .tileBind op core x => Sys2Proof.Machine.execTileBind op core x s
  | .deal core x q => Sys2Proof.Machine.execDeal core x q s
  | .cardHeadCheck die q => Sys2Proof.Machine.execCardHeadCheck die q s
  | .operatorComplete op => Sys2Proof.Machine.execOperatorComplete op s
  | .launch v => Sys2Proof.Machine.execLaunch v s
  | .launchStart k dies => Sys2Proof.Machine.execLaunchStart k dies s
  | .contextSwitch core => Sys2Proof.Machine.execContextSwitch core s
  | .blockedBundleResume core x => Sys2Proof.Machine.execBlockedBundleResume core x s
  | .pboundExceeded core x => Sys2Proof.Machine.execPboundExceeded core x s
  | .eviction core x => Sys2Proof.Machine.execEviction core x s
  | .evictedContextResume core k x => Sys2Proof.Machine.execEvictedContextResume core k x s
  | .priorityAging op => Sys2Proof.Machine.execPriorityAging op s
  | .checkpointStop core x => Sys2Proof.Machine.execCheckpointStop core x s
  | .regionResume ctxid rcb dies => Sys2Proof.Machine.execRegionResume ctxid rcb dies s
  | .devicePreemptionRequest ctxid rcb => Sys2Proof.Machine.execDevicePreemptionRequest ctxid rcb s
  | .pageTableWalk core ctxid va wr => Sys2Proof.Machine.execPageTableWalk core ctxid va wr s
  | .engineCommandStart core seq => Sys2Proof.Machine.execEngineCommandStart core seq s
  | .engineCommandComplete core seq units => Sys2Proof.Machine.execEngineCommandComplete core seq units s
  | .swap core => Sys2Proof.Machine.execSwap core s
  | .sdctlKindAll die v => Sys2Proof.Machine.execSdctlKindAll die v s
  | .sdctlKindCtx die v => Sys2Proof.Machine.execSdctlKindCtx die v s
  | .sdctlKindCtxRange die v => Sys2Proof.Machine.execSdctlKindCtxRange die v s
  | .sdctlKindGlobalRange die v => Sys2Proof.Machine.execSdctlKindGlobalRange die v s
  | .sdctlKindUnion die v => Sys2Proof.Machine.execSdctlKindUnion die v s
  | .shootdownAcknowledge die => Sys2Proof.Machine.execShootdownAcknowledge die s
  | .psdctlKindAll v => Sys2Proof.Machine.execPsdctlKindAll v s
  | .psdctlKindCtx v => Sys2Proof.Machine.execPsdctlKindCtx v s
  | .psdctlKindCtxRange v => Sys2Proof.Machine.execPsdctlKindCtxRange v s
  | .psdctlKindGlobalRange v => Sys2Proof.Machine.execPsdctlKindGlobalRange v s
  | .psdctlKindUnion v => Sys2Proof.Machine.execPsdctlKindUnion v s
  | .packageShootdownAcknowledge => Sys2Proof.Machine.execPackageShootdownAcknowledge s
  | .rpre v => Sys2Proof.Machine.execRpre v s
  | .fresRetry v => Sys2Proof.Machine.execFresRetry v s
  | .fresFail v => Sys2Proof.Machine.execFresFail v s
  | .trapRecordDelivery k => Sys2Proof.Machine.execTrapRecordDelivery k s
  | .faultRingRetry k => Sys2Proof.Machine.execFaultRingRetry k s
  | .uncorrectableMemoryError unit n m addr => Sys2Proof.Machine.execUncorrectableMemoryError unit n m addr s
  | .queueMap die q => Sys2Proof.Machine.execQueueMap die q s
  | .queueUnmap die q => Sys2Proof.Machine.execQueueUnmap die q s
  | .queueSleep die q => Sys2Proof.Machine.execQueueSleep die q s
  | .qcfgUpdate die q v => Sys2Proof.Machine.execQcfgUpdate die q v s
  | .unmapSave die q => Sys2Proof.Machine.execUnmapSave die q s
  | .qwake die q v => Sys2Proof.Machine.execQwake die q v s
  | .qsigWake die q v => Sys2Proof.Machine.execQsigWake die q v s
  | .svcreq core v => Sys2Proof.Machine.execSvcreq core v s
  | .serviceHandlerEntry core x => Sys2Proof.Machine.execServiceHandlerEntry core x s
  | .serviceDeadlinePMark core x => Sys2Proof.Machine.execServiceDeadlinePMark core x s
  | .serviceDeadlineTrap core x => Sys2Proof.Machine.execServiceDeadlineTrap core x s
  | .svcres v => Sys2Proof.Machine.execSvcres v s
  | .grval die v => Sys2Proof.Machine.execGrval die v s
  | .ctxcreate c => Sys2Proof.Machine.execCtxcreate c s
  | .ctxsuspend c => Sys2Proof.Machine.execCtxsuspend c s
  | .ctxsuspendComplete c => Sys2Proof.Machine.execCtxsuspendComplete c s
  | .ctxresume c => Sys2Proof.Machine.execCtxresume c s
  | .ctxdestroy c => Sys2Proof.Machine.execCtxdestroy c s
  | .ctxheap c => Sys2Proof.Machine.execCtxheap c s
  | .ctxmsi c => Sys2Proof.Machine.execCtxmsi c s
  | .regcreate c => Sys2Proof.Machine.execRegcreate c s
  | .regdestroy c => Sys2Proof.Machine.execRegdestroy c s
  | .cqcreate c => Sys2Proof.Machine.execCqcreate c s
  | .cqdestroy c => Sys2Proof.Machine.execCqdestroy c s
  | .ringmsi c => Sys2Proof.Machine.execRingmsi c s
  | .pkgring c => Sys2Proof.Machine.execPkgring c s
  | .islandLevelChange ix v => Sys2Proof.Machine.execIslandLevelChange ix v s
  | .islandChangeDone ix => Sys2Proof.Machine.execIslandChangeDone ix s
  | .mmioRegisterWrite off v => Sys2Proof.Machine.execMmioRegisterWrite off v s
  | .copy cq => Sys2Proof.Machine.execCopy cq s
  | .reducingCopy cq => Sys2Proof.Machine.execReducingCopy cq s
  | .subscribe cq => Sys2Proof.Machine.execSubscribe cq s
  | .subscribeTileFill pk => Sys2Proof.Machine.execSubscribeTileFill pk s
  | .drain cq => Sys2Proof.Machine.execDrain cq s
  | .drainSlotWrite pk => Sys2Proof.Machine.execDrainSlotWrite pk s
  | .copyPacketComplete pk => Sys2Proof.Machine.execCopyPacketComplete pk s
  | .ringHeaderWatch addr => Sys2Proof.Machine.execRingHeaderWatch addr s
  | .routeTrafficApply src dst => Sys2Proof.Machine.execRouteTrafficApply src dst s
  | .inboundPostedWrite port addr bytes => Sys2Proof.Machine.execInboundPostedWrite port addr bytes s
  | .inboundRead port addr n => Sys2Proof.Machine.execInboundRead port addr n s
  | .inboundMsi port addr data => Sys2Proof.Machine.execInboundMsi port addr data s
  | .borrowRefill die k => Sys2Proof.Machine.execBorrowRefill die k s
  | .combinerIdleFlush die k => Sys2Proof.Machine.execCombinerIdleFlush die k s
  | .flushProbe die k => Sys2Proof.Machine.execFlushProbe die k s
  | .closeNotice die k => Sys2Proof.Machine.execCloseNotice die k s
  | .gravityFlushArrival k => Sys2Proof.Machine.execGravityFlushArrival k s
  | .historyUpdate die gfe hid => Sys2Proof.Machine.execHistoryUpdate die gfe hid s
  | .downstreamSpeculation op => Sys2Proof.Machine.execDownstreamSpeculation op s
  | .specCommit op => Sys2Proof.Machine.execSpecCommit op s
  | .specSquash op => Sys2Proof.Machine.execSpecSquash op s
  | .linkFailureRecovery lane => Sys2Proof.Machine.execLinkFailureRecovery lane s
  | .coldStart dies imgs => Sys2Proof.Machine.execColdStart dies imgs s
  | .warmStart imgs => Sys2Proof.Machine.execWarmStart imgs s
  | .dieJoinService die => Sys2Proof.Machine.execDieJoinService die s
  | .reducedServiceEnd => Sys2Proof.Machine.execReducedServiceEnd s
  | .getVersion => Sys2Proof.Machine.execGetVersion s
  | .getCapabilities v => Sys2Proof.Machine.execGetCapabilities v s
  | .negotiateAlgorithms v => Sys2Proof.Machine.execNegotiateAlgorithms v s
  | .getDigests => Sys2Proof.Machine.execGetDigests s
  | .getCertificate slot off len => Sys2Proof.Machine.execGetCertificate slot off len s
  | .challenge slot nonce => Sys2Proof.Machine.execChallenge slot nonce s
  | .getMeasurements idx nonce => Sys2Proof.Machine.execGetMeasurements idx nonce s
  | .claim chip epoch => Sys2Proof.Machine.execClaim chip epoch s
  | .claimWindowExpiry => Sys2Proof.Machine.execClaimWindowExpiry s
  | .heartbeat => Sys2Proof.Machine.execHeartbeat s
  | .heartbeatTimeout => Sys2Proof.Machine.execHeartbeatTimeout s
  | .powerLimit ix => Sys2Proof.Machine.execPowerLimit ix s
  | .illegalOpcode slot => Sys2Proof.Machine.execIllegalOpcode slot s
  | .bytecodeIllegalOpcode opc => Sys2Proof.Machine.execBytecodeIllegalOpcode opc s
  | .emptyBundle => Sys2Proof.Machine.execEmptyBundle s
  | .variableLatencyResult core x k => Sys2Proof.Machine.execVariableLatencyResult core x k s
  | .storeAcknowledged k => Sys2Proof.Machine.execStoreAcknowledged k s
  | .powerLoss => Sys2Proof.Machine.execPowerLoss s
  | .coreIslandPowerGating core => Sys2Proof.Machine.execCoreIslandPowerGating core s
  | .debuggerHalt core => Sys2Proof.Machine.execDebuggerHalt core s
  | .debuggerHaltEnd core => Sys2Proof.Machine.execDebuggerHaltEnd core s
  | .thermalAlert ix => Sys2Proof.Machine.execThermalAlert ix s
  | .watchdog => Sys2Proof.Machine.execWatchdog s
  | .pciePortEvent port => Sys2Proof.Machine.execPciePortEvent port s
  | .ethernetUalinkPortEvent port => Sys2Proof.Machine.execEthernetUalinkPortEvent port s
  | .rexit token => Sys2Proof.Machine.execRexit token s

end Sys2Proof.Machine
end

