-- ==== Sys2Proof/Machine/Issue.lean ====
section
/-! DEFINITION. How a context issues its next bundle (R134 to R144, R153 to R156), how a GFE takes its next record (R22, R283), how time
passes (R44, R369, R427), and where a program is placed to run next (log 2). -/

namespace Sys2Proof.Machine

/-! ### The marks of a bundle (R135) -/

/-- What the actions before issue come to: the bundle goes on with a state, or the context does something else. -/
inductive Marked where
  | goOn (s : State)
  | instead (s : State)
deriving DecidableEq, Repr

/-- Note that a mark of the acting context's bundle has acted. -/
def actedMark (bit : Nat) (s : State) : State := s.onCtx fun c => { c with marks := Nat.lor c.marks (2 ^ bit) }

/-- C: while the region is asked to pre-empt, the context stops, or waits for what must complete first. -/
def markC (s : State) : Marked :=
  if s.atStop s.act.ck then
    let t := stopAtMark s.act.core s.act.x s
    if (t.ctxAt s.act.ck).status = .ready && bitOf (t.ctxAt s.act.ck).marks 0 then .goOn t else .instead (settlePreempts t)
  else .goOn (actedMark 0 s)

/-- P: an eviction is an event of its own; here the mark only lets it be. -/
def markP (s : State) : Marked := .goOn (actedMark 1 s)

/-- A request for this context is to be entered at its bundle. -/
def wantsEntry (b : Bundle) (s : State) : Bool :=
  let k := s.core
  let c := s.ctx
  k.pending && k.target == s.act.x && k.handler.isNone && !c.inHandler && !(bitOf c.marks 2)
    && (marked b c.bank.pc Header.y || (marked b c.bank.pc Header.p && (c.pAsY || k.late 1)) || decide (k.dcount = deadlineTrapped))

/-- Y: a pending request enters, once the results in flight have landed. The mark has acted only once a handler has returned to the bundle, so a
request that comes while the bundle blocks enters too (R368). -/
def markY (b : Bundle) (s : State) : Marked :=
  if wantsEntry b s then .instead (if s.mayEnter s.act.core s.act.x then s.enterHandler s.act.core s.act.x else s) else .goOn s

/-- R: the gated stores commit and a region begins. -/
def markR (b : Bundle) (s : State) : Marked :=
  if b.hdr.r && !(bitOf s.ctx.marks 3) then .goOn (actedMark 3 ((commitGated s).onCtx Ctx.newRegion)) else .goOn (actedMark 3 s)

/-- One action after another. -/
def Marked.bind (m : Marked) (f : State → Marked) : Marked :=
  match m with
  | .goOn s => f s
  | .instead s => .instead s

/-- The actions in the order C, P, Y, R. -/
def marks (b : Bundle) (s : State) : Marked := (((markC s).bind markP).bind (markY b)).bind (markR b)

/-! ### Issue -/

/-- Irrevocable operations of the X slot (R154). -/
def irrevocableX : Instr → Bool
  | .stl _ _ _ _ _ _ => true
  | .tmov _ _ _ _ _ _ => true
  | .cpyput _ _ _ => true
  | .rarel _ _ => true
  | .atom _ _ _ _ _ _ _ _ _ => true
  | .acas _ _ _ _ _ _ _ _ => true
  | .fence _ _ _ => true
  | .barinit _ _ _ _ => true
  | .bararr _ _ _ _ _ _ => true
  | .enq _ _ _ => true
  | .deq _ _ _ => true
  | .spawn _ _ _ _ => true
  | .gsplit _ _ _ => true
  | .gret _ => true
  | _ => false

/-- An irrevocable operation; SVC and ENDOP are those of the S slot besides the writes that mark themselves (R149, R154). -/
def irrevocable (p : Nat × Instr) : Bool := p.1 == 2 || irrevocableX p.2 || p.2 == .svc || p.2 == .endop

/-- Whether the effect of a scalar operation is taken after those of the other slots: a write of TIMEBASE, which acts on later bundles (R149), and
ENDOP (R185). -/
def actsLast : Instr → Bool
  | .mtk k _ => k == 0x60
  | .endop => true
  | _ => false

/-- The operations of a bundle in the order their effects are taken. What a slot puts in flight holds no other slot of the bundle (R138): the
memory slot, whose checks look at results and commands under way, goes before the vector and matrix slots. -/
def issueOrder (l : List (Nat × Instr)) : List Instr :=
  let early := l.filter fun p => p.1 == 0 && !actsLast p.2
  ((early ++ l.filter fun p => p.1 == 3) ++ (l.filter fun p => p.1 == 1 || p.1 == 2) ++ l.filter fun p => p.1 == 0 && actsLast p.2).map Prod.snd

/-- Take the effects of a bundle's operations. -/
def runOps : List Instr → State → Host.Outcome State Fault Refusal
  | [], s => .next s
  | i :: r, s =>
    match exec i s with
    | .next t => runOps r t
    | o => o

/-- Where a context goes on: at its target, or at the next bundle. -/
def Ctx.following (c : Ctx) : Nat := c.next.getD (c.bank.pc + 1)

/-- Sequential flow out of a part of the store (R153). -/
def Ctx.flowsOut (c : Ctx) : Bool := c.next.isNone && (c.bank.pc == 7679 || c.bank.pc == 8191)

/-- A context past a bundle it has issued (R142). -/
def Ctx.advance (c : Ctx) (now : Nat) (b : Bundle) : Ctx :=
  { c with
    bank := { c.bank with pc := c.following }
    pos := c.pos + 1 + b.hdr.stall
    notBefore := now + 1 + b.hdr.stall
    next := none
    irrev := false
    marks := 0
    released := false
    remote := none
    grav := 0
    probed := false
    onEng := false
    deadline := none
    shown := none
    pAsY := false
    pcount := if marked b c.bank.pc Header.p then 0 else c.pcount }

/-- Charge a bundle's clk of issue (R14); a handler's too, which only does not wait for budgets (R368). -/
def State.chargeIssue (s : State) : State :=
  if s.ctx.bound then s.charge s.ctx.work.ctxid s.ctx.work.rcb 0 0x18 1 else s

/-- What follows the effects of a bundle: the stores commit after an irrevocable operation, the context advances, the slot is counted. -/
def finish (b : Bundle) (ops : List (Nat × Instr)) (share : Bool) (s : State) : State :=
  let c := s.ctx
  if c.status = .trapped then s
  else if c.status = .ending then (s.chargeIssue.onCtx fun c => { c with marks := 0 }).slotTaken s.act.core s.act.x share
  else
    let s1 := s.chargeIssue.onCtx fun c => c.advance s.clk b
    let s2 := if c.irrev || ops.any irrevocable then (commitGated s1).onCtx Ctx.newRegion else s1
    let s3 := s2.slotTaken s.act.core s.act.x share
    if c.inHandler && decide (c.following < 7680) then s3.leaveHandler s.act.core s.act.x c.following
    else s3

/-- Issue a bundle whose checks have passed: the acting context's. One from which the flow would leave its part of the store traps before it has
any effect (R153, R157). -/
def issueBundle (b : Bundle) (share : Bool) (s : State) : Host.Outcome State Fault Refusal :=
  let ops := openOps s.ctx.bank b.slots
  let s1 := if b.hdr.j then joinViews s else s
  match runOps (if (slotOps b.slots).isEmpty then [.emptyBundle] else issueOrder ops) s1 with
  | .next t => if t.ctx.status = .ready && t.ctx.flowsOut then .next (takeTrap ⟨1, 0, 0, 0⟩ s) else .next (finish b ops share t)
  | o => o

/-- The core keeps to the context while its bundle waits in issue (R40, R143). -/
def keepTurn (v : Verdict) (share : Bool) (s : State) : State :=
  match v with
  | .block _ => s
  | .trap _ => s
  | .rmwTrap _ _ _ => s
  | .fault _ _ => s
  | .ask _ _ _ => s
  | .probe _ => s
  | _ => s.onCore fun k => { k with turn := some (s.act.x, share) }

/-- The hold of an EWAIT that has been waited for goes. -/
def dropHold (s : State) : State := if s.held s.act.core s.ctx then s else s.onCtx fun c => { c with hold := none }

/-- Present a decoded bundle: its marks act, the results due land, its checks decide, and it issues. One that comes past twice the service
deadline traps (R369), and a tile at its held ENDOP is judged if its producer has completed (R417). -/
def presentBundle (b : Bundle) (share : Bool) (s : State) : Host.Outcome State Fault Refusal :=
  match marks b s with
  | .instead t => .next t
  | .goOn t =>
    let u := noteDeadline b (noteShown b (answerRecalled (dropHold (t.onCtx Ctx.landed))))
    if (deadlineTrap s.act.core s.act.x u).ctx.status = .trapped then .next (deadlineTrap s.act.core s.act.x u)
    else match u.bundleVerdict b with
    | .ok => issueBundle b share u
    | .block .spec => .next (blockCtx .spec (if (openOps u.ctx.bank b.slots).any fun p => p.2 == .endop then judgeHeld u else u))
    | v => .next (keepTurn v share (runVerdict v u fun s => s))

/-- The service call whose result the acting context's next bundle waits for (R186). -/
def Ctx.waitsFor (c : Ctx) : Option Nat := if c.inHandler then c.fwSvc else c.svc

/-- The acting context takes an issue slot. -/
def issueSlot (share : Bool) (s : State) : Host.Outcome State Fault Refusal :=
  match s.ctx.waitsFor with
  | some t => .next (blockCtx (.svcResult t) s)
  | none =>
    match s.presented with
    | .error t => .next (takeTrap t s)
    | .ok b => presentBundle b share s

/-- A ready context, when the turn is its own. -/
def issueReady (core x : Nat) (s : State) : Host.Outcome State Fault Refusal :=
  if s.coreRuns core && decide ((s.coreAt core).slotAt ≤ s.clk) then
    match s.pick core with
    | some t =>
      if t.1 != x then .next s
      else if s.mustSwitch core t then .next (s.switchTo core t)
      else issueSlot t.2 (s.acting core x)
    | none => .next s
  else .next s

/-- A context's move: those of a region that may hold none stop, evicted ones of the core first (R50); else to end, to look again at what it waits for, or to issue. -/
def ctxStep (core x : Nat) (s : State) : Host.Outcome State Fault Refusal :=
  if (s.coreAt core).saved.any fun v => !(s.regionIssues v.ctx) then .next (s.stopSaved core fun c => !(s.regionIssues c))
  else if !(s.regionIssues (s.ctxAt (4 * core + x))) && (s.ctxAt (4 * core + x)).status != .trapped then .next (s.stopCtx (4 * core + x))
  else match (s.ctxAt (4 * core + x)).status with
  | .ending => .next (s.tryEnd core x)
  | .blocked _ => .next (blockedResume core x s)
  | .ready => issueReady core x s
  | _ => .next s

/-! ### Records (R22, R281, R283) -/

/-- A GFE that may take its next record. -/
def State.gfeReady (s : State) (k : Nat) : Bool :=
  let g := s.gfeAt k
  g.busy && !g.halted && s.rstate g.ctxid g.rcb == 1 && !(s.stopsAt g.ctxid g.rcb) && (match g.block with
    | .none => true
    | .quiet _ => true
    | .removing _ => true
    | _ => false)

/-- The acting GFE. -/
def State.actingGfe (s : State) (k : Nat) : State := { s with act := { s.act with gfe := k } }

/-- A GFE whose next record may not issue yet: its region has spent its ISSUEBUD (R15), or 64 operators are outstanding (R24). Every record is an
operator here. -/
def State.gfeHeld (s : State) (k : Nat) : Bool :=
  let g := s.gfeAt k
  g.block == .none && (s.issueSpent g.ctxid g.rcb || decide (64 ≤ s.outstanding k))

/-- Fetch, decode and execute the record at a GFE's offset. -/
def gfeRecord (k : Nat) (s : State) : Host.Outcome State Fault Refusal :=
  match s.fetchRecord (s.gfeAt k) (s.gfeAt k).pc with
  | .ok i => exec i (s.actingGfe k)
  | .trap opc t => .next (gfeTrapAt k opc t s)
  | .fault c va => .next (gfeFaultAt k 0 c va s)

/-- Effective priority of a waiting record (R48). -/
def State.recordPrio (s : State) (k : Nat) : Nat := min 15 (s.prio (s.gfeAt k).ctxid (s.gfeAt k).rcb + s.stepsSince (s.gfeAt k).since)

/-- A GFE's record would issue now. -/
def State.wouldIssue (s : State) (k : Nat) : Bool :=
  s.gfeReady k && !(s.gfeHeld k) && (s.gfeAt k).block == .none && (match gfeRecord k s with
    | .next t => t.gfeAt k != s.gfeAt k
    | _ => true)

/-- Another GFE of the die has a record of higher effective priority that would issue now; it goes first (R49). The GFEs of other dies are not
looked at (log 71). -/
def State.outranked (s : State) (k : Nat) : Bool :=
  (upTo 4).any fun i =>
    let j := 4 * (k / 4) + i
    j != k && decide (s.recordPrio k < s.recordPrio j) && s.wouldIssue j

/-- A GFE that has moved: once its record has issued the next one waits from now on (R48), and A is set where the record and the entries it names were read (R101). -/
def State.gfeMoved (s : State) (k : Nat) (t : State) : State :=
  if t.gfeAt k = s.gfeAt k then t
  else
    let g := s.gfeAt k
    let issued := decide ((t.gfeAt k).pc ≠ g.pc) || (t.gfeAt k).block == .none
    let hs := match s.fetchRecord g g.pc with
      | .ok i => (s.opdsOf i).map Opd.hid
      | _ => ([] : List Nat)
    (hs.foldl (fun (u : State) h => u.readBy g.ctxid (u.entryVa g.ctxid g.shard h) 64) (t.readBy g.ctxid (g.img + g.pc) 4)).onGfeAt k fun h =>
      { h with since := if issued then s.clk else h.since }

/-- A GFE's move: take the result of a call, or the next record. -/
def gfeStep (k : Nat) (s0 : State) : Host.Outcome State Fault Refusal :=
  let s := (s0.onDie (k / 4)).actingGfe k
  match (s.gfeAt k).block with
  | .result v c => .next (callLands k v c s)
  | _ =>
    if !(s.gfeReady k) || s.gfeHeld k || s.outranked k then .next s
    else match gfeRecord k s with
      | .next t => .next (s.gfeMoved k t)
      | o => o

/-! ### Time (R44, R369, R427) -/

/-- The cycles of a core's clock within n clk of the fastest one: 825 + 165 × LVL MHz of 3.3 GHz, 1.65 GHz in reduced service, and none that count while
a change stops the core's issue (R446, R448, R449, log 109). -/
def State.coreCycles (s : State) (core n : Nat) : Nat :=
  let r := if s.reduced then 10 else 5 + s.island core % 16
  if (AMap.get (false, 0) s.islands core).1 then 0 else (s.clk + n) * r / 20 - s.clk * r / 20

/-- The counts of a context over n clk. -/
def Ctx.tick (n : Nat) (c : Ctx) : Ctx := if c.status = .ready && c.bound && !c.inHandler then { c with pcount := c.pcount + n } else c

/-- The deadline count of a core over n clk. -/
def State.tickCore (s : State) (core n : Nat) (k : Core) : Core :=
  let c := s.ctxAt (4 * core + k.target)
  if k.pending && k.handler.isNone && decide (0 < k.deadline) && c.status == .ready && !c.inHandler && decide (k.dcount < deadlineTrapped) then
    { k with dcount := k.dcount + n }
  else k

/-- The writes that wait for memory are tried again (log 20). -/
def retryWaiting (s : State) : State :=
  s.waiting.foldl (fun t w => if w.1 then queueMap w.2 t else writeLaunch w.2 t) { s with waiting := [] }

/-- Time passes: n clk and so many ticks of the time base; requests whose region has come to rest are settled, and so are returns whose holder's
accesses have been performed; wakes that are due are taken. -/
def tick (n ticks : Nat) (s : State) : State :=
  retryWaiting <| State.takeWakes <| State.settleReturns <| settlePreempts { s with
    clk := s.clk + n
    time := s.time + ticks
    cores := s.cores.map fun p => (p.1, s.tickCore p.1 (s.coreCycles p.1 n) p.2)
    ctxs := s.ctxs.map fun p => (p.1, p.2.tick (s.coreCycles (p.1 / 4) n)) }

/-! ### A step -/

/-- What an actor does, as a unit of its domain. -/
def actorStep (a : Actor) (s : State) : Host.Outcome State Fault Refusal :=
  match a with
  | .ctx core x => ctxStep core x (s.onDie (dieOfCore core))
  | .gfe k => gfeStep k s
  | .event i => exec i (s.onDie 8)
  | .host h => .next (hostStep h (s.onDie 8))
  | .tick n t => .next (tick n t (s.onDie 8))

/-- A step that would record a fault of cause 0 meets memory behind a route: it has not happened yet (log 20). -/
def unlessBehind (s : State) (o : Host.Outcome State Fault Refusal) : Host.Outcome State Fault Refusal :=
  match o with
  | .next t => if t.traps.any fun r => r.cause == 0 then .next s else .next t
  | o => o

/-- A start brings a package without power up (R445). -/
def isStart : Actor → Bool
  | .event (.coldStart _ _) => true
  | .event (.warmStart _) => true
  | _ => false

/-- The next actor of the schedule, and the schedule after it; with none left, time passes (log 1). -/
def State.nextActor (s : State) : Actor × List Actor :=
  match s.schedule with
  | [] => (.tick 1 1, [])
  | a :: r => (a, r)

/-- A step of the package. -/
def packageStep (s : State) : Host.Outcome State Fault Refusal :=
  if s.powered || isStart s.nextActor.1 then
    unlessBehind { s with schedule := s.nextActor.2 } (actorStep s.nextActor.1 { s with schedule := s.nextActor.2 })
  else .fault .unpowered

/-! ### Placing an instruction (log 2) -/

/-- Where a placed record's image and its region's RCB lie. -/
def placedImg : Nat := 0x1000
def placedRcb : Nat := 0x2000

/-- The first bytes of a placed region's RCB: no budget limits it, and its STATE is 1 (R10, R17). -/
def placedFields : List Byte :=
  [0, 0, 0, 0, 0, 0, 0, 0, 0, 0, 0, 0, 0, 0, 0, 0x10, 0, 0, 0, 0, 0, 0, 0, 0] ++ (List.replicate 5 (leBytes unlimited 8)).flatten

/-- A record's word as the first of a running stream on GFE 0, through a heap that maps the low pages onto themselves. -/
def placeRecord (s : State) (w : Nat) : State :=
  { s with
    powered := true
    schedule := [.gfe 0]
    preempts := []
    dies := diesOf (0 :: s.dies)
    mem := ((((s.mem.clear (placedImg + 32) 256).clear placedRcb 256).writeNat (placedImg + 32) 4 w).writeBytes placedRcb placedFields)
    devs := AMap.ins 0 { s.dev 0 with
      resident := true, created := true, heap := [0x1000, 0x3000, 0], rootRcb := placedRcb,
      regions := [Region.mk placedRcb placedRcb 0 true] } s.devs
    gfes := AMap.ins 0 { ({} : Gfe) with busy := true, rcb := placedRcb, set := [0], img := placedImg, codew := 64, stream := s.nextStream } s.gfes
    nextStream := s.nextStream + 1 }

/-- A bundle at index 0 of the microcode store, with context 0 of core 0 standing at it. -/
def placeBundle (s : State) (b : Nat) : State :=
  { s with
    powered := true
    schedule := [.ctx 0 0]
    store := AMap.ins 0 (BitVec.ofNat 256 b) s.store
    islands := AMap.era 0 s.islands
    cores := AMap.ins 0 { (s.coreAt 0) with halted := false, gated := false, slotAt := 0, turn := none, lastX := 0, svcreq := 0 } s.cores
    ctxs := AMap.ins 0 { ({} : Ctx) with status := .ready } (AMap.era 1 (AMap.era 2 (AMap.era 3 s.ctxs))) }

end Sys2Proof.Machine
end

