-- ==== Sys2Proof/Machine/Step.lean ====
section
/-! DEFINITION. The step of the package, and the placing of an instruction where the next step runs it. -/

namespace Sys2Proof.Machine

/-- One step: the next actor of the schedule acts. -/
def step (s : State) : Host.Outcome State Fault Refusal := packageStep s

/-- The state with an instruction placed so that the next step runs it (log 2). -/
def State.withFetchWord (s : State) (nbits w : Nat) : State := if nbits ≤ 32 then placeRecord s w else placeBundle s w

end Sys2Proof.Machine
end

