-- ==== Sys2Proof/Safety.lean ====
section
/-! DEFINITION. What counts as a safe run: it neither faults nor is refused, and every state on its way holds its memories in their
canonical form. -/

namespace Sys2Proof

/-- A state whose memories are in their canonical form: addresses strictly rising, no entry equal to what an unlisted address reads as. -/
def Machine.State.Canonical (s : Machine.State) : Prop := s.mem.wf = true ∧ s.tileMem.wf = true

/-- The clocks of a later state are not behind those of an earlier one. -/
def Machine.State.NotBefore (s t : Machine.State) : Prop := s.clk ≤ t.clk ∧ s.time ≤ t.time

/-- A run of k steps that ends in a next state, each state on its way canonical. -/
def SafeRun : Nat → Machine.State → Prop
  | 0, s => s.Canonical
  | k + 1, s => s.Canonical ∧ ∃ t, Machine.step s = .next t ∧ SafeRun k t

end Sys2Proof
end

