-- ==== Sys2Proof/Certificates/Slice0/Obligations.lean ====
section
/-! DEFINITION. The statements for the provers. -/

namespace Sys2Proof.Claims

open Sys2Proof.Machine

/-! ### The words of the statements -/

/-- Bits [63:0] of an s register of the acting context (R166). -/
def val (s : State) (n : Nat) : BitVec 64 := (s.ctx.bank.sreg n).bits.setWidth 64

/-- WriteInt of R166: bits [63:0], the upper bits zero, the tag clear. -/
def int64 (d : Nat) (x : BitVec 64) : RegW := .s d ⟨x.setWidth 128, false⟩

/-- The operation completes, and all it does is to put register writes in flight, due n positions later: every register, every byte of
memory, every other context and unit stays as it is. -/
def Results (i : Instr) (s : State) (n : Nat) (ws : List RegW) : Prop := exec i s = .next (s.onCtx fun c => c.later n ws)

/-- The operation completes in a state of which a property holds. -/
def Gives (i : Instr) (s : State) (P : State → Prop) : Prop := ∃ t, exec i s = .next t ∧ P t

/-- The operation traps with a cause, and the trap is all that happens. -/
def Traps (i : Instr) (s : State) (cause : Nat) : Prop := ∃ t : TrapInfo, t.cause = cause ∧ exec i s = .next (takeTrap t s)

/-- An index that a transfer of the context may go to: in its image, or in the locked service store for a context that runs there (R153, R177). -/
def Inside (s : State) (t : Nat) : Prop :=
  if s.ctx.bank.pc < 7680 then s.ctx.work.img ≤ t ∧ t < s.ctx.work.img + s.ctx.work.nb else 7680 ≤ t

/-- The context runs a handler of the locked service store, whose RETM may leave it (R153, R368). -/
def Handling (s : State) : Prop := 7680 ≤ s.ctx.bank.pc ∧ s.ctx.inHandler = true

/-- What a release at a scope waits for has come: no store is gated, no load outstanding (what an engine command has yet to deliver is none); at die scope or narrower every store acknowledged; at package
or system scope those of the own die performed, at system scope every type-7 access acknowledged, and the markers sent (R121, R125, R128). -/
def Released (s : State) (scope : Nat) : Prop :=
  s.ctx.gated = [] ∧ (∀ v ∈ s.ctx.var, v.eng = true) ∧
    (if scope ≤ 3 then s.unacked s.act.ck = []
     else s.ctx.released = true ∧ ∀ a ∈ s.unacked s.act.ck, (a.dom = dieOfCore s.act.core → a.performed = true) ∧ (scope = 5 → a.chip = false))

/-- The condition codes of R170. -/
def ccode (k : Nat) (a b : BitVec 64) : Bool :=
  match k with
  | 0 => a == b
  | 1 => a != b
  | 2 => a.slt b
  | 3 => !a.slt b
  | 4 => a.sle b
  | 5 => !a.sle b
  | 6 => a.ult b
  | 7 => !a.ult b
  | 8 => a.ule b
  | _ => !a.ule b

end Sys2Proof.Claims

open Sys2Proof Sys2Proof.Machine Sys2Proof.Claims

/-! ### The S slot -/

/-- R168: the integer operations of latency 1; each writes its result modulo 2^64, untagged, MOV all 129 bits. -/
def Sys2Proof.Claims.IntegerOps : Prop :=
  ∀ (s : State) (d a b n : Nat) (imm : Int),
    Results (.mov d a) s 1 [.s d (s.ctx.bank.sreg a)] ∧
    Results (.li d imm) s 1 [int64 d (BitVec.ofInt 64 imm)] ∧
    (∀ k : BitVec 22, Results (.lih d k.toNat) s 1 [int64 d (k ++ (val s d).setWidth 42)]) ∧
    Results (.add d a b) s 1 [int64 d (val s a + val s b)] ∧
    Results (.addi d a imm) s 1 [int64 d (val s a + BitVec.ofInt 64 imm)] ∧
    Results (.sub d a b) s 1 [int64 d (val s a - val s b)] ∧
    Results (.and d a b) s 1 [int64 d (val s a &&& val s b)] ∧
    Results (.or d a b) s 1 [int64 d (val s a ||| val s b)] ∧
    Results (.xor d a b) s 1 [int64 d (val s a ^^^ val s b)] ∧
    Results (.shl d a b) s 1 [int64 d (val s a <<< ((val s b).toNat % 64))] ∧
    Results (.shlImm d a n) s 1 [int64 d (val s a <<< n)] ∧
    Results (.shr d a b) s 1 [int64 d (val s a >>> ((val s b).toNat % 64))] ∧
    Results (.shrImm d a n) s 1 [int64 d (val s a >>> n)] ∧
    Results (.sra d a b) s 1 [int64 d ((val s a).sshiftRight ((val s b).toNat % 64))] ∧
    Results (.sraImm d a n) s 1 [int64 d ((val s a).sshiftRight n)] ∧
    Results (.min d a b 0) s 1 [int64 d (if (val s a).sle (val s b) then val s a else val s b)] ∧
    Results (.min d a b 1) s 1 [int64 d (if (val s a).ule (val s b) then val s a else val s b)] ∧
    Results (.max d a b 0) s 1 [int64 d (if (val s a).sle (val s b) then val s b else val s a)] ∧
    Results (.max d a b 1) s 1 [int64 d (if (val s a).ule (val s b) then val s b else val s a)] ∧
    Results (.sel d n a b) s 1 [int64 d (if s.ctx.bank.pred n then val s a else val s b)]

/-- R168, R169: products and quotients, with their latencies of R143: the high half of a product by mode, quotient and remainder rounded
toward zero, a division by zero giving all ones and the dividend. -/
def Sys2Proof.Claims.ProductsAndQuotients : Prop :=
  ∀ (s : State) (d a b : Nat),
    Results (.mul d a b) s 3 [int64 d (val s a * val s b)] ∧
    Results (.mulh d a b 0) s 3 [int64 d (((val s a).signExtend 128 * (val s b).signExtend 128).extractLsb' 64 64)] ∧
    Results (.mulh d a b 1) s 3 [int64 d (((val s a).setWidth 128 * (val s b).setWidth 128).extractLsb' 64 64)] ∧
    Results (.mulh d a b 2) s 3 [int64 d (((val s a).signExtend 128 * (val s b).setWidth 128).extractLsb' 64 64)] ∧
    Results (.div d a b 0) s 18 [int64 d (if val s b = 0 then BitVec.allOnes 64 else (val s a).sdiv (val s b))] ∧
    Results (.div d a b 1) s 18 [int64 d (if val s b = 0 then BitVec.allOnes 64 else val s a / val s b)] ∧
    Results (.rem d a b 0) s 18 [int64 d (if val s b = 0 then val s a else (val s a).srem (val s b))] ∧
    Results (.rem d a b 1) s 18 [int64 d (if val s b = 0 then val s a else val s a % val s b)]

/-- R170, R171, R175: compares and CTEST write t to pd and not t to pc; predicate logic inverts its inputs by NA and NB. -/
def Obligations.ComparesAndPredicates : Prop :=
  ∀ (s : State) (pd pc a b k : Nat) (imm : Int) (na nb : Bool) (mask : BitVec 5),
    (k ≤ 9 → Results (.cmp pd pc a b k) s 1 [.p pd (ccode k (val s a) (val s b)), .p pc (!ccode k (val s a) (val s b))]) ∧
    (k ≤ 9 → Results (.cmpi pd pc a imm k) s 1
      [.p pd (ccode k (val s a) (BitVec.ofInt 64 imm)), .p pc (!ccode k (val s a) (BitVec.ofInt 64 imm))]) ∧
    Results (.pand pd a b (2 * na.toNat + nb.toNat)) s 1 [.p pd ((s.ctx.bank.pred a ^^ na) && (s.ctx.bank.pred b ^^ nb))] ∧
    Results (.por pd a b (2 * na.toNat + nb.toNat)) s 1 [.p pd ((s.ctx.bank.pred a ^^ na) || (s.ctx.bank.pred b ^^ nb))] ∧
    Results (.pxor pd a b (2 * na.toNat + nb.toNat)) s 1 [.p pd ((s.ctx.bank.pred a ^^ na) ^^ (s.ctx.bank.pred b ^^ nb))] ∧
    (let r := s.ctx.bank.sreg a
     let t := r.tag && decide (r.bits.extractLsb' 27 5 &&& mask = mask)
     Results (.ctest pd pc a mask.toNat) s 1 [.p pd t, .p pc (!t)])

/-- R172, R173, R174: CNARROW and CPERM narrow a capability in place or trap, in the order given; CGET reads a field whatever the tag. -/
def Obligations.CapabilityOperations : Prop :=
  ∀ (s : State) (c d a b : Nat) (keep : BitVec 4),
    let r := s.ctx.bank.sreg c
    let base := r.bits.extractLsb' 72 56
    let len := r.bits.extractLsb' 32 40
    let perm := r.bits.extractLsb' 28 4
    (r.tag = false → Traps (.cnarrow c a b) s 0x03) ∧
    (r.tag = true → r.bits.getLsbD 28 = false → Traps (.cnarrow c a b) s 0x05) ∧
    (r.tag = true → r.bits.getLsbD 28 = true → (len.toNat < (val s a).toNat ∨ len.toNat - (val s a).toNat < (val s b).toNat) →
      Traps (.cnarrow c a b) s 0x04) ∧
    (r.tag = true → r.bits.getLsbD 28 = true → (val s a).toNat + (val s b).toNat ≤ len.toNat →
      Results (.cnarrow c a b) s 1
        [.s c ⟨(base + (val s a).setWidth 56) ++ (val s b).setWidth 40 ++ r.bits.extractLsb' 0 32, true⟩]) ∧
    (r.tag = false → Traps (.cperm c keep.toNat) s 0x03) ∧
    (r.tag = true → Results (.cperm c keep.toNat) s 1
      [.s c ⟨r.bits.extractLsb' 32 96 ++ (perm &&& keep) ++ r.bits.extractLsb' 0 28, true⟩]) ∧
    Results (.cget d c 0) s 1 [int64 d (base.setWidth 64)] ∧
    Results (.cget d c 1) s 1 [int64 d (len.setWidth 64)] ∧
    Results (.cget d c 2) s 1 [int64 d ((r.bits.extractLsb' 27 5).setWidth 64)] ∧
    Results (.cget d c 3) s 1 [int64 d ((r.bits.extractLsb' 20 4).setWidth 64)] ∧
    Results (.cget d c 4) s 1 [int64 d ((r.bits.extractLsb' 16 4).setWidth 64)] ∧
    Results (.cget d c 5) s 1 [int64 d ((r.bits.extractLsb' 0 16).setWidth 64)] ∧
    Results (.cget d c 6) s 1 [int64 d (if r.tag then 1 else 0)] ∧
    Results (.cget d c 7) s 1 [int64 d (base.setWidth 64 + len.setWidth 64)]

/-- R149, R158, R176: MFK reads a k-register, TIMEBASE and the core's two among them; one of NC0 to NC5 while no command of the core is
outstanding. -/
def Sys2Proof.Claims.KRegisterReads : Prop :=
  ∀ (s : State) (d k : Nat), (Instr.mfk d k).wf = true →
    (k ≠ 0x48 → k ≠ 0x49 → k ≠ 0x60 → k < 0x28 ∨ 0x2D < k ∨ s.core.cmds = [] →
      Results (.mfk d k) s 1 [int64 d (AMap.get 0 s.ctx.bank.k k)]) ∧
    (k = 0x48 ∨ k = 0x49 → Results (.mfk d k) s 1 [int64 d (AMap.get 0 s.core.k k)]) ∧
    (k = 0x60 → Results (.mfk d k) s 1 [int64 d (BitVec.ofNat 64 s.time)])

/-- R92, R147, R148, R151, R176: MTK. The RW registers take their bits for later bundles; RSZ clears RRB, and a value it may not hold traps with
cause 0x02; RRB is taken modulo RSZ. Outside the locked service store TWIN and the heap registers only narrow, and a write of an R-access
register, and any other write of TWIN or the heap triple, traps with cause 0x05. -/
def Sys2Proof.Claims.KRegisterWrites : Prop :=
  ∀ (s : State) (k a : Nat), (Instr.mtk k a).wf = true →
    let v := val s a
    let line := (v.extractLsb' 6 50 ++ (0 : BitVec 6)).setWidth 64
    let rsz := s.ctx.bank.kreg 0x23
    let inside := ∀ n, n ≤ v.toNat / 16 % 16 →
      ∃ m, m ≤ s.ctx.bank.kreg 0x42 / 16 % 16 ∧ (v.toNat + n) % 16 = (s.ctx.bank.kreg 0x42 + m) % 16
    (k = 0x20 ∨ k = 0x40 → Results (.mtk k a) s 1 [.k k ((v.setWidth 32).setWidth 64)]) ∧
    (k = 0x21 → Results (.mtk k a) s 1 [.k k ((v.setWidth 4).setWidth 64)]) ∧
    (k = 0x24 → Results (.mtk k a) s 1 [.k k (((v.extractLsb' 56 4 ++ (0 : BitVec 56)).setWidth 64) ||| line)]) ∧
    (0x30 ≤ k → k ≤ 0x35 → Results (.mtk k a) s 1 [.k k ((v.setWidth 48).setWidth 64)]) ∧
    (k = 0x41 → Results (.mtk k a) s 1 [.k k ((v.setWidth 1).setWidth 64)]) ∧
    (k = 0x50 → Results (.mtk k a) s 1 [.k k (v &&& ~~~0xE080)]) ∧
    (k = 0x51 ∨ k = 0x52 → Results (.mtk k a) s 1 [.k k v]) ∧
    (k = 0x53 → Results (.mtk k a) s 1 [.k k 0]) ∧
    (k = 0x23 → v.toNat % 1024 % 16 = 0 → v.toNat % 1024 ≤ 512 →
      Results (.mtk k a) s 1 [.k 0x23 ((v.setWidth 10).setWidth 64), .k 0x22 0]) ∧
    (k = 0x23 → v.toNat % 1024 % 16 ≠ 0 ∨ 512 < v.toNat % 1024 → Traps (.mtk k a) s 0x02) ∧
    (k = 0x22 → Results (.mtk k a) s 1 [.k 0x22 (BitVec.ofNat 64 (if rsz = 0 then 0 else v.toNat % 512 % rsz))]) ∧
    (s.ctx.bank.pc < 7680 →
      (k ≤ 0x0D ∨ k = 0x12 ∨ 0x28 ≤ k ∧ k ≤ 0x2D ∨ k = 0x48 ∨ k = 0x49 ∨ k = 0x60 → Traps (.mtk k a) s 0x05) ∧
      (k = 0x42 → inside → Results (.mtk k a) s 1 [.k k ((v.setWidth 8).setWidth 64)]) ∧
      (k = 0x42 → ¬inside → Traps (.mtk k a) s 0x05) ∧
      (k = 0x10 → s.ctx.bank.kreg k < line.toNat → Results (.mtk k a) s 1 [.k k line]) ∧
      (k = 0x10 → line.toNat ≤ s.ctx.bank.kreg k → Traps (.mtk k a) s 0x05) ∧
      (k = 0x11 → line.toNat < s.ctx.bank.kreg k → Results (.mtk k a) s 1 [.k k line]) ∧
      (k = 0x11 → s.ctx.bank.kreg k ≤ line.toNat → Traps (.mtk k a) s 0x05))

/-- R147, R149: MTK from the locked service store writes the R-access registers and TWIN too, irrevocably; DEADLINE and FWSHARE are the core's; the
heap registers take any value, revocably. TIMEBASE takes the value written, and never steps back (R427, log 34). -/
def Obligations.LockedStoreWrites : Prop :=
  ∀ (s : State) (k a : Nat), (Instr.mtk k a).wf = true → 7680 ≤ s.ctx.bank.pc →
    let v := val s a
    let line := (v.extractLsb' 6 50 ++ (0 : BitVec 6)).setWidth 64
    let fixed := fun (x : BitVec 64) => exec (.mtk k a) s = .next (s.onCtx fun c => { c.later 1 [.k k x] with irrev := true })
    (k = 0x0 → fixed ((v.setWidth 8).setWidth 64)) ∧
    (k = 0x1 → fixed ((v.setWidth 13).setWidth 64)) ∧
    (k = 0x2 → fixed ((v.setWidth 42).setWidth 64)) ∧
    (k = 0x3 → fixed ((v.setWidth 16).setWidth 64)) ∧
    (k = 0x4 → fixed ((v.setWidth 56).setWidth 64)) ∧
    (8 ≤ k → k ≤ 0x0D → fixed ((v.setWidth 16).setWidth 64)) ∧
    (k = 0x42 → fixed ((v.setWidth 8).setWidth 64)) ∧
    (0x28 ≤ k → k ≤ 0x2D → fixed v) ∧
    (0x10 ≤ k → k ≤ 0x12 → Results (.mtk k a) s 1 [.k k line]) ∧
    (k = 0x48 → exec (.mtk k a) s = .next ((s.onCore fun c => { c with k := AMap.ins k ((v.setWidth 32).setWidth 64) c.k }).onCtx fun c =>
      { c with irrev := true })) ∧
    (k = 0x49 → Gives (.mtk k a) s fun t => t.core.kreg k / 256 % 2 = v.toNat / 256 % 2 ∧ t.core.kreg k % 32 = min (v.toNat % 32) 16 ∧
      t.ctx.irrev = true ∧ t.ctx.bank = s.ctx.bank ∧ t.mem = s.mem) ∧
    (k = 0x60 → exec (.mtk k a) s = .next (({ s with time := max s.time v.toNat }).onCtx fun c => { c with irrev := true }))

/-- R177, R178: a transfer to an index of the context's part of the store goes there after the bundle, CALLM with the index of the next bundle as its
link, and a handler's RETM anywhere; a transfer to any other index traps with cause 0x05. A handler stands in the locked service store (R368), which
no run leaves untrue. -/
def Sys2Proof.Claims.Transfers : Prop :=
  ∀ (s : State) (d a t : Nat),
    let r := (val s a).toNat % 8192
    (Inside s r → exec (.br a) s = .next (s.onCtx fun c => { c with next := some r })) ∧
    (¬Inside s r → Traps (.br a) s 0x05) ∧
    (Inside s r ∨ Handling s → exec (.retm a) s = .next (s.onCtx fun c => { c with next := some r })) ∧
    ((s.ctx.inHandler = true → 7680 ≤ s.ctx.bank.pc) → ¬Inside s r → ¬Handling s → Traps (.retm a) s 0x05) ∧
    (Inside s t → exec (.bri t) s = .next (s.onCtx fun c => { c with next := some t })) ∧
    (¬Inside s t → Traps (.bri t) s 0x05) ∧
    (Inside s t → exec (.callm d t) s = .next (s.onCtx fun c =>
      { c with fix := insFix ⟨c.pos + 1, int64 d (BitVec.ofNat 64 (c.bank.pc + 1))⟩ c.fix, next := some t })) ∧
    (¬Inside s t → Traps (.callm d t) s 0x05)

/-- R152, R179, R180: LOOP sets LC, EC, RSZ, RRB and p8 to p15; BRLOOP counts, rotates and transfers while the step says to go on, and does
nothing but fall through once LC and EC are 0. -/
def Obligations.LoopHardware : Prop :=
  ∀ (s : State) (a t n st : Nat),
    let b := s.ctx.bank
    let lc := b.kreg 0x20
    let ec := b.kreg 0x21
    let start := fun (m : Nat) => [RegW.k 0x20 (BitVec.ofNat 64 (m - 1)), .k 0x21 (BitVec.ofNat 64 (if m = 0 then 0 else st + 1)), .k 0x23 0, .k 0x22 0,
      .p 8 (decide (m ≠ 0)), .p 9 false, .p 10 false, .p 11 false, .p 12 false, .p 13 false, .p 14 false, .p 15 false]
    let rot := fun (ins : Bool) => [RegW.p 9 (b.pred 8), .p 10 (b.pred 9), .p 11 (b.pred 10), .p 12 (b.pred 11), .p 13 (b.pred 12),
        .p 14 (b.pred 13), .p 15 (b.pred 14), .p 8 ins] ++
      (if b.kreg 0x23 = 0 then [] else [.k 0x22 (BitVec.ofNat 64 ((b.kreg 0x22 + b.kreg 0x23 - 1) % b.kreg 0x23))])
    let jump := fun (ws : List RegW) => exec (.brloop t) s = .next (s.onCtx fun c => { c.later 1 ws with next := some t })
    Results (.loop n st) s 1 (start n) ∧
    Results (.loopReg a st) s 1 (start ((val s a).toNat % 2 ^ 32)) ∧
    (0 < lc → Inside s t → jump (.k 0x20 (BitVec.ofNat 64 (lc - 1)) :: rot true)) ∧
    (lc = 0 → 1 < ec → Inside s t → jump (.k 0x21 (BitVec.ofNat 64 (ec - 1)) :: rot false)) ∧
    (lc = 0 → ec = 1 → Results (.brloop t) s 1 (.k 0x21 0 :: rot false)) ∧
    (lc = 0 → ec = 0 → Results (.brloop t) s 1 []) ∧
    (0 < lc ∨ 1 < ec → ¬Inside s t → Traps (.brloop t) s 0x05)

/-- R181 to R184: DISPATCH, its entry readable memory whose home serves the load at once (log 20), with no acquire outstanding: with V set it transfers to the target
relative to the image that holds the bundle, or to the locked service store; with V clear it goes on; a reserved bit set traps with cause
0x02, as NLOG2 above 8 does, and a target outside with cause 0x05. -/
def Sys2Proof.Claims.DispatchTransfers : Prop :=
  ∀ (s : State) (a sh na smask : Nat) (p : Piece) (ls : List (Nat × Option (Nat × Nat))),
    let x := s.dispatchAccess a sh na smask
    let e := s.dispatchEntry x
    let t := ((if s.ctx.bank.pc < 7680 then s.ctx.work.img else 7680) + e % 8192) % 8192
    let far := s.farPieces s.act.ck [p]
    let r := far.foldl (fun v q => (v.readPiece q).2) (s.walkedAll (s.envOf s.act.ck) .read ls)
    let u := { r with fresh := r.fresh + 1 }.onCtx fun c => { c with stamps := c.stamps ++ far.map fun (q : Piece) => s.clockOf q.loc.domain }
    let i := Instr.dispatch a sh na smask
    (8 < bitsOf (s.ctx.bank.kreg 0x24) 56 4 → Traps i s 0x02) ∧
    (bitsOf (s.ctx.bank.kreg 0x24) 56 4 ≤ 8 → x = .ok [p] false ls → p.key?.isSome = true →
      (∀ q ∈ far, s.reachable (dieOfCore s.act.core) q.loc.domain = true) →
      (s.ctx.var.all fun v => !v.acq) = true →
      (bitsOf e 13 2 ≠ 0 → Traps i s 0x02) ∧
      (bitsOf e 13 2 = 0 → bitOf e 15 = true → Inside s t →
        exec i s = .next (u.onCtx fun c => { c with next := some t })) ∧
      (bitsOf e 13 2 = 0 → bitOf e 15 = true → ¬Inside s t → Traps i s 0x05) ∧
      (bitsOf e 13 2 = 0 → bitOf e 15 = false → exec i s = .next u))

/-- R185, R187: ENDOP outside the locked service store, in a context that does not speculate, commits the gated stores and issues nothing more;
in the locked service store it traps with cause 0x05. TRAP traps with cause 0x13 and its code as FADDR. -/
def Sys2Proof.Claims.EndsAndTraps : Prop :=
  ∀ (s : State) (code : Nat),
    (s.ctx.bank.pc < 7680 → s.ctx.spec = false → Gives .endop s fun t =>
      t.ctx.status = .ending ∧ t.ctx.var = [] ∧ t.ctx.gated = [] ∧ t.ctx.bank = s.ctx.bank ∧ t.traps = s.traps) ∧
    (7680 ≤ s.ctx.bank.pc → Traps .endop s 0x05) ∧
    exec (.trap code) s = .next (takeTrap { cause := 0x13, faddr := code } s)

/-- R186: SVC, once nothing earlier is outstanding: it writes its record to the region's service ring, or from the locked store to the I/O die's,
notes the call, and the next bundle waits for its result; a region without a usable ring traps with cause 0x12. -/
def Sys2Proof.Claims.ServiceCalls : Prop :=
  ∀ (s u : State),
    (s.ctx.bank.pc < 7680 → s.ctx.spec = false → s.svcRing = .bad → Traps .svc s 0x12) ∧
    (s.ctx.spec = false → Released s 4 → s.ctx.bank.pc < 7680 → s.svcRing = .ok u →
      exec .svc s = .next (joinViews (u.callMade s.svcToken))) ∧
    (s.ctx.spec = false → Released s 4 → 7680 ≤ s.ctx.bank.pc → Gives .svc s fun t =>
      t.fwRing = s.fwRing ++ [s.svcRecord] ∧ t.ctx.fwSvc = some s.svcToken ∧ t.mem = s.mem ∧ t.ctx.bank = s.ctx.bank ∧
        t.svcCalls = s.svcCalls ++ [⟨s.svcToken, (val s 1).toNat, s.ctx.work.ctxid, s.ctx.work.rcb, s.act.ck + 1, 0⟩])

/-! ### The V slot -/

namespace Sys2Proof.Claims

open Sys2Proof.Machine

/-- Element k of a vector of a format (R57, R192). -/
def el (fmt : Nat) (v : BitVec 512) (k : Nat) : Nat := v.toNat / 2 ^ (fmtWidth fmt * k) % 2 ^ fmtWidth fmt

/-- Lane l of a vector (R57). -/
def lane (v : BitVec 512) (l : Nat) : Nat := v.toNat / 2 ^ (32 * l) % 2 ^ 32

/-- The V operation completes: it loads the latches of the positions it reads, and all else it does is to put in flight, due n positions later,
the lanes of vd that a mask names, of a vector that has the property stated (R137, R140, R192). -/
def Writes (i : Instr) (s : State) (f : VFields) (readsB : Bool) (n mask : Nat) (P : BitVec 512 → Prop) : Prop :=
  ∃ r, P r ∧ exec i s = .next (s.onCtx fun c => (c.latched f readsB).later n [.v (s.ctx.bank.phys f.vd) mask r])

/-- The operation writes under QP, element by element. -/
def EachElement (i : Instr) (s : State) (f : VFields) (readsB : Bool) (n : Nat) (g : Nat → Nat) : Prop :=
  Writes i s f readsB n (s.ctx.bank.lanes f.qp) fun r => ∀ k, k < 512 / fmtWidth f.fmt → el f.fmt r k = g k % 2 ^ fmtWidth f.fmt

/-- An integer element's value: UINT8 is unsigned, the others are signed (R56, R193). -/
def ival (fmt x : Nat) : Int := if fmt = 6 then x else (BitVec.ofNat (fmtWidth fmt) x).toInt

/-- Saturation to the range of an integer format (R56). -/
def isat (fmt : Nat) (x : Int) : Int :=
  if fmt = 6 then max 0 (min x 255) else max (-2 ^ (fmtWidth fmt - 1)) (min x (2 ^ (fmtWidth fmt - 1) - 1))

/-- The operation writes under QP, and each element of an integer format is the exact value saturated once. -/
def EachSaturated (i : Instr) (s : State) (f : VFields) (readsB : Bool) (n : Nat) (g : Nat → Int) : Prop :=
  Writes i s f readsB n (s.ctx.bank.lanes f.qp) fun r => ∀ k, k < 512 / fmtWidth f.fmt → ival f.fmt (el f.fmt r k) = isat f.fmt (g k)

end Sys2Proof.Claims

/-- R193 to R196, R198: the arithmetic of the V slot element by element, each result formed exactly and rounded once, with its latency. -/
def Sys2Proof.Claims.ElementArithmetic : Prop :=
  ∀ (s : State) (f : VFields),
    let a := fun k => el f.fmt (s.ctx.posA f) k
    let b := fun k => el f.fmt (s.ctx.posB f) k
    let c := fun k => el f.fmt (s.ctx.bank.vreg f.vc) k
    let x := fun n => real f.fmt n
    EachElement (.vadd f) s f true 3 (fun k => roundTo f.fmt f.rnd (Ex.add (x (a k)) (x (b k)))) ∧
    EachElement (.vsub f) s f true 3 (fun k => roundTo f.fmt f.rnd (Ex.sub (x (a k)) (x (b k)))) ∧
    EachElement (.vmul f) s f true 4 (fun k => roundTo f.fmt f.rnd (Ex.mul (x (a k)) (x (b k)))) ∧
    EachElement (.vfma f) s f true 4 (fun k => roundTo f.fmt f.rnd (Ex.add (Ex.mul (x (a k)) (x (b k))) (x (c k)))) ∧
    EachElement (.vmin f) s f true 3 (fun k => patMin f.fmt (a k) (b k)) ∧
    EachElement (.vmax f) s f true 3 (fun k => patMax f.fmt (a k) (b k)) ∧
    EachElement (.vclamp f) s f true 3 (fun k => patMin f.fmt (patMax f.fmt (a k) (b k)) (c k)) ∧
    EachElement (.vabs f) s f false 3 (fun k => roundTo f.fmt 0 (x (a k)).abs) ∧
    EachElement (.vneg f) s f false 3 (fun k => roundTo f.fmt 0 (x (a k)).neg) ∧
    EachElement (.vrcp f) s f false 8 (fun k => vrcp32 f.rnd (a k)) ∧
    EachElement (.vrsq f) s f false 8 (fun k => vrsq32 f.rnd (a k)) ∧
    EachElement (.vexp2 f) s f false 8 (fun k => vexp2f32 f.rnd (a k)) ∧
    EachElement (.vlog2 f) s f false 8 (fun k => vlog2f32 f.rnd (a k)) ∧
    EachElement (.vscale f) s f true 4 (fun k => vscaleElem f.fmt f.rnd (a k) (b k))

/-- R193, R194: in an integer format each result of VADD, VSUB, VMUL, VFMA, VMIN, VMAX, VCLAMP, VABS and VNEG is formed exactly and saturated once to
the range of the format. -/
def Sys2Proof.Claims.IntegerVectorArithmetic : Prop :=
  ∀ (s : State) (f : VFields), 5 ≤ f.fmt → f.fmt ≤ 8 →
    let a := fun k => ival f.fmt (el f.fmt (s.ctx.posA f) k)
    let b := fun k => ival f.fmt (el f.fmt (s.ctx.posB f) k)
    let c := fun k => ival f.fmt (el f.fmt (s.ctx.bank.vreg f.vc) k)
    EachSaturated (.vadd f) s f true 3 (fun k => a k + b k) ∧
    EachSaturated (.vsub f) s f true 3 (fun k => a k - b k) ∧
    EachSaturated (.vmul f) s f true 4 (fun k => a k * b k) ∧
    EachSaturated (.vfma f) s f true 4 (fun k => a k * b k + c k) ∧
    EachSaturated (.vmin f) s f true 3 (fun k => min (a k) (b k)) ∧
    EachSaturated (.vmax f) s f true 3 (fun k => max (a k) (b k)) ∧
    EachSaturated (.vclamp f) s f true 3 (fun k => min (max (a k) (b k)) (c k)) ∧
    EachSaturated (.vabs f) s f false 3 (fun k => (a k).natAbs) ∧
    EachSaturated (.vneg f) s f false 3 (fun k => - a k)

/-- R200 to R202, R204: VSEL takes whole lanes, VAND, VOR and VXOR act on all 512 bits, the shifts act on elements without saturating, and VBCAST, VEXT
and VPERM move patterns unchanged. -/
def Sys2Proof.Claims.VectorMovesAndShifts : Prop :=
  ∀ (s : State) (f : VFields),
    let va := s.ctx.posA f
    let vb := s.ctx.posB f
    let a := fun k => el f.fmt va k
    let b := fun k => el f.fmt vb k
    let m := s.ctx.bank.lanes f.qp
    let n := 512 / fmtWidth f.fmt
    let imm := f.vc % 64
    let shr := fun (x sh : Nat) => if f.fmt = 6 then x / 2 ^ sh else ((BitVec.ofNat (fmtWidth f.fmt) x).sshiftRight sh).toNat
    Writes (.vsel f) s f true 3 m (fun r => ∀ l, l < 16 → lane r l = if bitOf (s.ctx.bank.lanes f.vc) l then lane va l else lane vb l) ∧
    Writes (.vand f) s f true 3 m (fun r => r = va &&& vb) ∧
    Writes (.vor f) s f true 3 m (fun r => r = va ||| vb) ∧
    Writes (.vxor f) s f true 3 m (fun r => r = va ^^^ vb) ∧
    EachElement (.vshl f) s f true 3 (fun k => a k * 2 ^ b k) ∧
    EachElement (.vshlImm f) s f false 3 (fun k => a k * 2 ^ imm) ∧
    (5 ≤ f.fmt → f.fmt ≤ 8 → EachElement (.vshr f) s f true 3 (fun k => shr (a k) (b k)) ∧
      EachElement (.vshrImm f) s f false 3 (fun k => shr (a k) imm)) ∧
    EachElement (.vbcast f) s f false 3 (fun _ => if imm < n then a imm else 0) ∧
    EachElement (.vext f) s f true 3 (fun k => if k + imm < n then a (k + imm) else if k + imm < 2 * n then b (k + imm - n) else 0) ∧
    EachElement (.vperm f) s f true 3 (fun k => if b k < n then a (b k) else 0)

/-- R197, R199, R203, R205, R206: a conversion writes the lanes its PART names, VCMP the bits of two lane predicates under QP, VRED lane 0 whatever QP holds,
VIOTA an exact ramp converted to the format; the lane predicate operations act bit by bit under QP. -/
def Sys2Proof.Claims.VectorConversionsAndLanes : Prop :=
  ∀ (s : State) (f : VFields),
    let bk := s.ctx.bank
    let va := s.ctx.posA f
    let vb := s.ctx.posB f
    let sf := f.vc % 16
    let part := f.vc / 16 % 4
    let ws := fmtWidth sf
    let wd := fmtWidth f.fmt
    let per := 16 * wd / ws
    let per32 := 32 / wd
    let t := fun l => vcondHolds f.fmt (f.vc / 16 % 16) (el f.fmt va (per32 * l + f.vc / 256 % 4)) (el f.fmt vb (per32 * l + f.vc / 256 % 4))
    (sf ≤ 8 → f.fmt ≤ 8 → ws ≤ wd → part * ws < wd → Writes (.vcvt f) s f false 3 (bk.lanes f.qp &&& 0xFFFF) (fun r =>
      ∀ k, k < 512 / wd → el f.fmt r k = cvt (el sf va (part * (512 / wd) + k)) sf f.fmt f.rnd % 2 ^ wd)) ∧
    (sf ≤ 8 → f.fmt ≤ 8 → wd < ws → part * wd < ws → Writes (.vcvt f) s f false 3 (bk.lanes f.qp &&& ((2 ^ per - 1) * 2 ^ (part * per))) (fun r =>
      ∀ k, k < 512 / ws → el f.fmt r (part * (512 / ws) + k) = cvt (el sf va k) sf f.fmt f.rnd % 2 ^ wd)) ∧
    (f.fmt ≤ 8 → f.vc / 256 % 4 < per32 → ∃ x, (∀ l, l < 16 → bitOf x l = t l) ∧ x < 2 ^ 16 ∧
      exec (.vcmp f) s = .next (s.onCtx fun c => (c.latched f true).later 3
        [.q f.vd (bk.lanes f.qp) x, .q (f.vc % 16) (bk.lanes f.qp) (0xFFFF - x)])) ∧
    Writes (.vred f) s f false 6 1 (fun r => r.toNat = vredResult f.fmt (f.vc % 4) f.rnd (bk.lanes f.qp) va % 2 ^ 512) ∧
    (∃ r : BitVec 512, (∀ k, k < 512 / wd →
        el f.fmt r k = narrowTo f.fmt f.rnd (Ex.ofInt (sext f.vc 10 + k * sext f.vb 10)) % 2 ^ wd) ∧
      Results (.viota f) s 3 [.v (bk.phys f.vd) (bk.lanes f.qp) r]) ∧
    Results (.qand f) s 1 [.q f.vd (bk.lanes f.qp) (bk.lanes f.va &&& bk.lanes f.vb)] ∧
    Results (.qor f) s 1 [.q f.vd (bk.lanes f.qp) (bk.lanes f.va ||| bk.lanes f.vb)] ∧
    Results (.qnot f) s 1 [.q f.vd (bk.lanes f.qp) (bk.lanes f.va ^^^ 0xFFFF)]

/-- R140, R141: what a vector position reads. Without a hold bit it reads its register, by its physical number, and the latch then keeps that value and number;
with one it reads the latch, or, when the latch has been dropped, the register whose number the latch kept. -/
def Obligations.HoldLatches : Prop :=
  ∀ (c : Ctx) (f : VFields),
    (f.ha = false → c.posA f = c.bank.vreg f.va ∧ (c.latched f false).latchA = ⟨some (c.bank.vreg f.va), c.bank.phys f.va⟩) ∧
    (f.ha = true → ∀ x, c.latchA.val = some x → c.posA f = x ∧ (c.latched f false).latchA = c.latchA) ∧
    (f.ha = true → c.latchA.val = none →
      c.posA f = c.bank.vphys c.latchA.reg ∧ (c.latched f false).latchA = ⟨some (c.bank.vphys c.latchA.reg), c.latchA.reg⟩) ∧
    (c.latched f false).latchB = c.latchB ∧ c.dropLatches.latchA = ⟨none, c.latchA.reg⟩ ∧ c.dropLatches.latchB = ⟨none, c.latchB.reg⟩ ∧
    (f.hb = false → c.posB f = c.bank.vreg f.vb ∧ (c.latched f true).latchB = ⟨some (c.bank.vreg f.vb), c.bank.phys f.vb⟩) ∧
    (f.hb = true → ∀ x, c.latchB.val = some x → c.posB f = x ∧ (c.latched f true).latchB = c.latchB) ∧
    (f.hb = true → c.latchB.val = none →
      c.posB f = c.bank.vphys c.latchB.reg ∧ (c.latched f true).latchB = ⟨some (c.bank.vphys c.latchB.reg), c.latchB.reg⟩)

/-- R137, R145: what a write leaves in the registers. An s write replaces one register with its tag; a v write only the lanes its mask names; p0 reads
true and q0 all ones whatever is written to them; nothing else changes. -/
def Sys2Proof.Claims.RegisterWrites : Prop :=
  ∀ (b : Bank) (n m k mask val : Nat) (r : SReg) (x : BitVec 512) (t : Bool),
    ((b.write (.s n r)).sreg n = r ∧ (m ≠ n → (b.write (.s n r)).sreg m = b.sreg m)) ∧
    ((∀ l, l < 16 → lane ((b.write (.v n mask x)).vphys n) l = if bitOf mask l then lane x l else lane (b.vphys n) l) ∧
      (m ≠ n → (b.write (.v n mask x)).vphys m = b.vphys m)) ∧
    (n < 16 → (n ≠ 0 → (b.write (.p n t)).pred n = t) ∧ (b.write (.p n t)).pred 0 = true ∧
      (m < 16 → m ≠ n → (b.write (.p n t)).pred m = b.pred m)) ∧
    ((n ≠ 0 → ∀ l, l < 16 → bitOf ((b.write (.q n mask val)).lanes n) l = if bitOf mask l then bitOf val l else bitOf (b.lanes n) l) ∧
      (b.write (.q n mask val)).lanes 0 = 0xFFFF ∧ (m ≠ n → (b.write (.q n mask val)).lanes m = b.lanes m)) ∧
    (b.write (.v n mask x)).s = b.s ∧ (b.write (.s n r)).v = b.v ∧ (b.write (.p n t)).s = b.s ∧ (b.write (.q n mask val)).p = b.p ∧
    (b.write (.k k 0)).s = b.s ∧ (b.write (.s n r)).k = b.k

/-- R143: a result of latency n written at a position is read by the bundles from n positions on, and by no earlier one; of two results for one register
due at the same position, the one issued later is read. -/
def Sys2Proof.Claims.ResultsLandWhenDue : Prop :=
  ∀ (c : Ctx) (n p : Nat) (w v : RegW), c.fix = [] →
    let d := { c.later n [w] with pos := p }
    (c.pos + n ≤ p → d.landed.bank = c.bank.write w ∧ d.landed.fix = []) ∧
    (p < c.pos + n → d.landed.bank = c.bank ∧ d.landed.fix = d.fix) ∧
    (let e := { ({ c.later n [w] with pos := c.pos + n - 1 } : Ctx).later 1 [v] with pos := p }
     0 < n → c.pos + n ≤ p → e.landed.bank = (c.bank.write w).write v)

/-- R150, R151: vn names through RRB while it lies in the rotating region, which no other name reaches. -/
def Sys2Proof.Claims.RotatingNames : Prop :=
  ∀ (b : Bank) (n m : Nat),
    (b.kreg 0x23 = 0 → b.phys n = n) ∧
    (512 ≤ n → n < 512 + b.kreg 0x23 → b.phys n = 512 + (n - 512 + b.kreg 0x22) % b.kreg 0x23) ∧
    (n < 512 ∨ 512 + b.kreg 0x23 ≤ n → b.phys n = n) ∧
    (b.phys n = b.phys m → n = m)

/-! ### The M slot -/

namespace Sys2Proof.Claims

open Sys2Proof.Machine

/-- An s register of the acting context holds a capability that a command may use: tagged, with the permissions asked for and E, of a residency from lo
to hi, at least so many bytes long (R214). -/
def Holds (s : State) (n : Nat) (r w : Bool) (lo hi len : Nat) : Prop :=
  let c := s.ctx.bank.sreg n
  c.tag = true ∧ (r = true → c.permR = true) ∧ (w = true → c.permW = true) ∧ c.permE = true ∧ lo ≤ c.res ∧ c.res ≤ hi ∧ len ≤ c.len

/-- A tile number lies in the window (R146, R148). -/
def InWindow (s : State) (n : Nat) : Prop := n ≤ s.ctx.bank.kreg 0x42 / 16 % 16

/-- The core's tile register that a tile number of the window names (R146). -/
def tileOf (s : State) (n : Nat) : Nat := (s.ctx.bank.kreg 0x42 % 16 + n) % 16

/-- The command's queue has room, and the context does not speculate (R213, R217). -/
def Room (s : State) (q : Nat) : Prop := (s.core.cmds.filter fun e => e.q == q).length < (if q = 0 then 16 else 8) ∧ s.ctx.spec = false

/-- No other context holds the matrix unit, or the rotator (R210). -/
def MatrixFree (s : State) : Prop := s.core.holdM = none ∨ s.core.holdM = some s.act.x
def RotatorFree (s : State) : Prop := s.core.holdR = none ∨ s.core.holdR = some s.act.x

/-- Nothing changes but the acting context's results in flight and latches, and its core's queues and units: every register, every byte of memory and
of every tile register, every other context and core stays as it is. -/
def OwnCoreOnly (s t : State) : Prop :=
  t.mem = s.mem ∧ t.tileMem = s.tileMem ∧ t.ctx.bank = s.ctx.bank ∧ t.ctx.status = s.ctx.status ∧ t.ctx.gated = s.ctx.gated ∧ t.traps = s.traps ∧
    (∀ k, k ≠ s.act.ck → t.ctxAt k = s.ctxAt k) ∧ (∀ n, n ≠ s.act.core → t.coreAt n = s.coreAt n) ∧ t.act = s.act

/-- The operation completes by entering an engine queue behind every command there, with its operands as the bundle reads them (R138, R213); of the
state after it a further property holds. -/
def Queues (i : Instr) (s : State) (q : Nat) (caps : List SReg) (args : List Nat) (P : State → Prop) : Prop :=
  Gives i s fun t => OwnCoreOnly s t ∧ P t ∧ t.core.nextSeq = s.core.nextSeq + 1 ∧ t.core.tiles = s.core.tiles ∧
    ∃ e, t.core.cmds = s.core.cmds ++ [e] ∧ e.op = i ∧ e.q = q ∧ e.seq = s.core.nextSeq ∧ e.x = s.act.x ∧ e.epc = s.ctx.bank.pc ∧
      e.ctxid = s.ctx.work.ctxid ∧ e.caps = caps ∧ e.args = args ∧ e.started = false ∧ e.unit = 0

/-- It takes the matrix unit, or the rotator, and leaves the other; or neither (R210). -/
def TakesMatrix (s t : State) : Prop := t.core.holdM = some s.act.x ∧ t.core.holdR = s.core.holdR
def TakesRotator (s t : State) : Prop := t.core.holdR = some s.act.x ∧ t.core.holdM = s.core.holdM
def TakesNone (s t : State) : Prop := t.core.holdM = s.core.holdM ∧ t.core.holdR = s.core.holdR

/-- A result in flight: its number, destination, bytes known, pieces still to come, and what its arrival is (R121, R126, R143). -/
def result (id : Nat) (d : Dst) (bs : List Byte) (waiting : Nat) (acq dom : Bool) : VarW :=
  { id := id, dst := d, bytes := bs, waiting := waiting, stamps := [], acq := acq, dom := dom, old := false }

/-- The bundle blocks, and that is all (R39). -/
def Blocks (i : Instr) (s : State) (w : Why) : Prop := exec i s = .next (blockCtx w s)

end Sys2Proof.Claims

/-- R210, R213, R214, R219 to R222: the tile and weight operations as they issue, with capability operands that pass the checks of R214, tile operands
inside the window, room in the queue and the unit free. -/
def Obligations.TileAndWeightCommands : Prop :=
  ∀ (s : State) (tn fmt rows src : Nat),
    let c := s.ctx.bank.sreg src
    (InWindow s tn → Room s 3 → Queues (.tcfg tn fmt rows) s 3 [] [tileOf s tn] (TakesNone s)) ∧
    (InWindow s tn → Room s 3 → Queues (.tzero tn) s 3 [] [tileOf s tn] (TakesNone s)) ∧
    (Holds s src true false 0 3 (if fmt = 9 then 1152 else 4096) → Room s 1 → MatrixFree s →
      Queues (.wload src false fmt) s 1 [c] [(s.ctx.bank.tileNo src)] (TakesMatrix s)) ∧
    (InWindow s src → Room s 1 → MatrixFree s → Queues (.wload src true fmt) s 1 [c] [tileOf s src] (TakesMatrix s)) ∧
    (Holds s src true false 0 3 1024 → Room s 1 → MatrixFree s → Queues (.cbload src) s 1 [c] [] (TakesMatrix s)) ∧
    (¬InWindow s tn → Traps (.tcfg tn fmt rows) s 0x05 ∧ Traps (.tzero tn) s 0x05)

/-- R158, R224, R225: MXNEST writes the shadow of a nest level for later bundles, its fields from a register or from the slot; MXGO issues with NS0 to
NS5 as the bundle reads them, its sources in the unit scratch or in tile registers of the window, its destination in the accumulator store. -/
def Obligations.NestAndMxgo : Prop :=
  ∀ (s : State) (lvl a cnt : Nat) (ws : Bool) (astr : BitVec 15) (cstr : BitVec 16) (f : MxgoF),
    let bk := s.ctx.bank
    Results (.mxnest lvl a) s 1 [.k (0x30 + lvl) (((val s a).setWidth 48).setWidth 64)] ∧
    (cnt < 2 ^ 16 → Results (.mxnestImm lvl ws cnt astr.toInt cstr.toInt) s 1
      [.k (0x30 + lvl) ((BitVec.ofNat 16 cnt ++ (BitVec.ofBool ws) ++ astr ++ cstr).setWidth 64)]) ∧
    ((if f.asel then Holds s f.a true false 3 3 64 else InWindow s f.a) →
      (f.mode = 2 → if f.bsel then Holds s f.b true false 3 3 64 else InWindow s f.b) →
      Holds s f.sc true true 4 4 256 → Room s 0 → MatrixFree s →
      Queues (.mxgo f) s 0 [bk.sreg f.a, bk.sreg f.b, bk.sreg f.sc]
        [bk.tileNo f.a, bk.tileNo f.b, bk.kreg 0x30, bk.kreg 0x31, bk.kreg 0x32, bk.kreg 0x33, bk.kreg 0x34, bk.kreg 0x35] (TakesMatrix s))

/-- R213, R214, R228, R229: the accumulator operations as they issue, of the matrix queue but taking no unit; ACCRD's lanes arrive as a
variable-latency result; ACCWR reads its vector through its own hold latch. -/
def Sys2Proof.Claims.AccumulatorCommands : Prop :=
  ∀ (s : State) (sc vd ss fmt va nl off : Nat) (at32 scl ha : Bool),
    let c := s.ctx.bank.sreg sc
    (Holds s sc true false 4 4 (64 * off + 4 * (512 / fmtWidth fmt)) → Room s 0 →
      Queues (.accrd sc vd ss fmt at32 scl off) s 0 [c] [(val s ss).toNat % 2 ^ 32] fun t => TakesNone s t ∧
        t.ctx.var = s.ctx.var ++ [{ result s.ctx.nextVar (.vec (s.ctx.bank.phys vd) 0xFFFF) [] 1 false false with eng := true }]) ∧
    (Holds s sc false true 4 4 (64 * off + 64) → Room s 0 → Queues (.accwr sc va ha off) s 0 [c] [] fun t => TakesNone s t ∧
      (t.core.cmds.getLast?.map EngCmd.vec) = some (if ha then s.ctx.latchM.val.getD (s.ctx.bank.vphys s.ctx.latchM.reg) else s.ctx.bank.vreg va)) ∧
    (Holds s sc false true 4 4 (64 * (off + nl)) → Room s 0 → Queues (.accz sc nl off) s 0 [c] [] (TakesNone s))

/-- R210, R213, R214, R230 to R232: the rotator operations as they issue. -/
def Sys2Proof.Claims.RotatorCommands : Prop :=
  ∀ (s : State) (sa sb sw nr nc str vd row : Nat) (rf gm uw half : Bool),
    let r := fun n => s.ctx.bank.sreg n
    let e := if rf then 8 else 4
    Room s 2 → RotatorFree s →
    (Holds s sa true false 3 3 e → Queues (.rtload sa nr nc rf gm str) s 2 [r sa] [] (TakesRotator s)) ∧
    (Holds s sa true false 3 3 e → Holds s sb false true 3 3 e → (uw = false → Holds s sw true false 3 3 128) →
      Queues (.rtapply sa sb sw nr nc rf gm uw str) s 2 [r sa, r sb, r sw] [] (TakesRotator s)) ∧
    (Queues (.rtread vd row half) s 2 [] [] fun t => TakesRotator s t ∧
      t.ctx.var = s.ctx.var ++ [{ result s.ctx.nextVar (.vec (s.ctx.bank.phys vd) 0xFFFF) [] 1 false false with eng := true }]) ∧
    Queues .rtclr s 2 [] [] (TakesRotator s) ∧
    Queues .rtgain s 2 [] [] (TakesRotator s) ∧
    (Holds s sa false true 0 3 128 → Queues (.rtwords sa) s 2 [r sa] [] (TakesRotator s))

/-- R213, R214, R233 to R236, R248: the permute, compare and move operations as they issue; PRED and TCMP act on a whole number of elements, TMOV on bases
aligned to 64 bytes, once earlier acquires are done. -/
def Obligations.PermuteCompareAndMoveCommands : Prop :=
  ∀ (s : State) (dst src tn sa sb sc sd st si n fmt kind ew alpha str : Nat) (cm : Bool),
    let r := fun k => s.ctx.bank.sreg k
    let w := fmtWidth fmt / 8
    let args := [s.ctx.bank.tileNo src, s.ctx.bank.tileNo dst]
    (∀ ds ss : Bool, (if ss then Holds s src true false 3 3 4096 else InWindow s src) →
      (if ds then Holds s dst false true 3 3 4096 else InWindow s dst) → Room s 3 →
      Queues (.ptrans dst src ds ss ew) s 3 [r src, r dst] args (TakesNone s)) ∧
    (Holds s sa true false 3 3 64 → Holds s si true false 3 3 (2 * (n + 1)) → InWindow s tn → Room s 3 →
      Queues (.pgather tn sa si n) s 3 [r sa, r si] [tileOf s tn] (TakesNone s)) ∧
    (Holds s sd false true 0 3 w → Holds s sa true false 0 3 (r sd).len → (kind ≠ 0 → Holds s sb true false 0 3 (r sd).len) →
      (r sd).len % w = 0 → Room s 4 → Queues (.pred sd sa sb fmt kind alpha) s 4 [r sd, r sa, r sb] [] (TakesNone s)) ∧
    (Holds s sa true false 0 3 w → Holds s sb true false 0 3 (r sa).len → Holds s sc false true 0 3 16 → (r sa).len % w = 0 → Room s 4 →
      Queues (.tcmp sa sb sc st fmt cm) s 4 [r sa, r sb, r sc] [(val s st).toNat] (TakesNone s)) ∧
    (∀ ds ss : Bool, (if ss then Holds s src true false 0 3 (64 * (str * n + 1)) ∧ (r src).base % 64 = 0 else InWindow s src) →
      (if ds then Holds s dst false true 0 3 (64 * (str * n + 1)) ∧ (r dst).base % 64 = 0 else InWindow s dst) → Room s 5 → (s.ctx.var.any VarW.acq) = false →
      Queues (.tmov dst src ds ss n str) s 5 [r src, r dst] args (TakesNone s))

/-- R39, R210, R213, R214: a command with a full queue blocks its bundle, as one does whose unit another context holds, with no other effect; a capability
operand traps with cause 0x03 where it is untagged, 0x05 where a permission or the residency is wrong, 0x04 where it is too short, in that order. -/
def Obligations.EngineCommandsWaitOrTrap : Prop :=
  ∀ (s : State) (sa sc x : Nat),
    let c := s.ctx.bank.sreg sa
    let good := c.permR = true ∧ c.permE = true ∧ c.res ≤ 3
    (Holds s sa true false 0 3 1024 → s.core.holdM = some x → x ≠ s.act.x → Blocks (.cbload sa) s (.held false)) ∧
    (Holds s sa true false 0 3 1024 → MatrixFree s → ¬(s.core.inQueue 1 < 8) → Blocks (.cbload sa) s (.queue 1)) ∧
    (s.core.holdR = some x → x ≠ s.act.x → Blocks .rtclr s (.held true)) ∧
    (RotatorFree s → ¬(s.core.inQueue 2 < 8) → Blocks .rtclr s (.queue 2)) ∧
    (c.tag = false → Traps (.cbload sa) s 0x03) ∧ (c.tag = true → ¬good → Traps (.cbload sa) s 0x05) ∧
    (c.tag = true → good → c.len < 1024 → Traps (.cbload sa) s 0x04) ∧
    ((s.ctx.bank.sreg sc).tag = false → Traps (.accz sc 1 0) s 0x03)

/-! ### The X slot -/

namespace Sys2Proof.Claims

open Sys2Proof.Machine

/-- An operand grants an access: a plain address, or a capability with the permission, in bounds (R238). -/
def Granted (s : State) (sa : Nat) (acc : Acc) (o : Int) (n : Nat) : Prop :=
  let r := s.ctx.bank.sreg sa
  r.tag = false ∨ (r.grants acc = true ∧ 0 ≤ o ∧ o + n ≤ r.len)

/-- No earlier acquire is outstanding (R121); an access to a strongly ordered page finds the context not speculating, no store gated, and its earlier
accesses to such pages performed (R98, R243). -/
def InOrder (s : State) (so : Bool) : Prop :=
  (∀ v ∈ s.ctx.var, v.acq = false) ∧ (so = true → s.ctx.spec = false ∧ s.ctx.gated = [] ∧ s.soPending = false)

/-- A byte of a page-table entry that the access's translation used: the walker may set its A and D bits (R101). -/
def PteByte (ls : List (Nat × Option (Nat × Nat))) (a : Nat) : Prop := ∃ v p e, (v, some (p, e)) ∈ ls ∧ e ≤ a ∧ a < e + 8

/-- A byte that the pieces of an access cover in the memory of the context's own die. -/
def OwnByte (s : State) (ps : List Piece) (a : Nat) : Prop :=
  ∃ p ∈ ps, ∃ key, p.loc = .mem key ∧ homeDie key = dieOfCore s.act.core ∧ key ≤ a ∧ a < key + p.n

/-- Only the acting context changes, and of its registers none; memory but for the page-table entries used, tile registers, and the trap records stay. -/
def OwnContextOnly (s t : State) (ls : List (Nat × Option (Nat × Nat))) : Prop :=
  t.ctx.bank = s.ctx.bank ∧ t.ctx.status = s.ctx.status ∧ t.tileMem = s.tileMem ∧ t.traps = s.traps ∧ (∀ k, k ≠ s.act.ck → t.ctxAt k = s.ctxAt k) ∧
    (s.mem.wf = true → ∀ a, ¬PteByte ls a → t.mem.read a = s.mem.read a)

/-- The result of a load in flight: the bytes known at issue, and as many pieces to come as other domains serve. -/
def loaded (s : State) (d : Dst) (n : Nat) (acq dom : Bool) (ps : List Piece) (so : Bool) (ls : List (Nat × Option (Nat × Nat))) : VarW :=
  let far := s.farPieces s.act.ck ps
  { result s.ctx.nextVar d (s.localBytes s.act.ck n ps) far.length acq dom with
    pages := leafPages ls, so := so, kept := if far = [] then [] else s.keptBytes s.act.ck ps, view := unitBytes ps }

/-- The views of unit scratch are joined for the results in flight (R111). -/
def joined (vs : List VarW) : List VarW := vs.map fun v => { v with view := [] }

/-- A load has issued: its result is in flight with the bytes known, and waits for as many responses as other domains serve pieces; one that acquires joins
the views of unit scratch (R111, R126, R143). -/
def Loads (i : Instr) (s : State) (d : Dst) (n : Nat) (acq dom : Bool) (ps : List Piece) (so : Bool) (ls : List (Nat × Option (Nat × Nat))) : Prop :=
  Gives i s fun t => OwnContextOnly s t ls ∧ t.ctx.gated = s.ctx.gated ∧ t.ctx.irrev = (s.ctx.irrev || so) ∧
    t.ctx.var = (if acq then joined else id) (s.ctx.var ++ [loaded s d n acq dom ps so ls])

/-- A store has issued: it waits in the gated store buffer, which no memory shows yet (R123, R155). -/
def Gates (i : Instr) (s : State) (ps : List Piece) (bs : List Byte) (lines : List Nat)
    (ls : List (Nat × Option (Nat × Nat))) : Prop :=
  Gives i s fun t => OwnContextOnly s t ls ∧ ((∀ v ∈ s.ctx.var, v.view = []) → t.ctx.var = s.ctx.var) ∧ t.acks = s.acks ∧
    t.ctx.gated = s.ctx.gated ++ [⟨ps.map fun p => (p, (bs.drop p.idx).take p.n), lines, false, leafPages ls⟩]

/-- The gated store buffer has room for the lines of one more store, and so has the speculative write buffer of a context that speculates (R155, R156,
R415). -/
def BufferRoom (s : State) (ps : List Piece) (lines : List Nat) : Prop :=
  (s.ctx.spec = true → specLines ps s ≤ 128) ∧ (s.ctx.linesUsed lines ≤ 64 ∨ s.ctx.gated = [])

end Sys2Proof.Claims

/-- R120, R121, R126, R238, R241 to R243: LD and LDA of a granted, translated operand put their result in flight; LDA must be aligned, else it traps with
cause 0x06, and its result acquires. -/
def Sys2Proof.Claims.ScalarLoads : Prop :=
  ∀ (s : State) (sd sa sz scope : Nat) (sx so : Bool) (imm : Int) (ps : List Piece) (ls : List (Nat × Option (Nat × Nat))),
    let n := 2 ^ sz
    let va := s.opVa sa imm
    let d := if sz = 4 then Dst.wide sd else Dst.int sd n sx
    Granted s sa .read imm n →
    (s.access .read va n = .ok ps so ls → InOrder s so → Loads (.ld sd sa sz sx scope imm) s d n false false ps so ls) ∧
    (s.access .read va n = .ok ps so ls → InOrder s so → va % n = 0 →
      Loads (.lda sd sa sz sx scope imm) s d n true (decide (4 ≤ scope)) ps so ls) ∧
    (va % n ≠ 0 → Traps (.lda sd sa sz sx scope imm) s 0x06)

/-- R84, R143, R238, R244 to R247: the vector loads of granted, translated parts: the active lanes of VLD, or the bytes its pattern unpacks; the elements
of VLDS; the lanes of VGATHER, each at its own index. -/
def Sys2Proof.Claims.VectorLoads : Prop :=
  ∀ (s : State) (vd sa qp sb vb sz : Nat) (imm : Int) (so : Bool) (ps : List Piece) (ls : List (Nat × Option (Nat × Nat))),
    let b := s.ctx.bank
    let r := b.sreg sa
    let m := b.lanes qp
    let ready := fun (l : List (Int × Nat × Nat)) => (∀ p ∈ l, Granted s sa .read p.1 p.2.2) ∧ s.partsAccess r .read l = .ok ps so ls ∧ InOrder s so
    let pat := b.bfxPattern
    (ready (lanesParts imm m) → Loads (.vld vd sa qp false imm) s (.vec (b.phys vd) m) 64 false false ps so ls) ∧
    (bfxEN pat = true → bfxOk pat = true → ready [(imm, 0, bfxBytes pat)] →
      Loads (.vld vd sa qp true imm) s (.bfx (b.phys vd) m pat) (bfxBytes pat) false false ps so ls) ∧
    (bfxEN pat = false → Traps (.vld vd sa qp true imm) s 0x02) ∧
    (ready (stridedParts imm (val s sb).toInt sz m) → Loads (.vlds vd sa qp sb sz imm) s (.vec (b.phys vd) m) 64 false false ps so ls) ∧
    (ready (indexedParts imm (b.vreg vb) sz m) → Loads (.vgather vd sa qp vb sz imm) s (.vec (b.phys vd) m) 64 false false ps so ls)

/-- R123, R155, R238, R241, R244, R247: ST, VST and VSCATTER of granted, translated operands to pages that are not strongly ordered wait in the gated store
buffer: no byte of memory but a page-table entry's changes before they commit. R414: a speculating context's ST through a capability with S = 1 is performed
at once, and nothing of it is gated. -/
def Obligations.GatedStores : Prop :=
  ∀ (s : State) (sd sa sz scope vs qp vb key : Nat) (sx bfx sw : Bool) (imm : Int) (ps : List Piece) (ls : List (Nat × Option (Nat × Nat))),
    let b := s.ctx.bank
    let r := b.sreg sa
    let n := 2 ^ sz
    let va := s.opVa sa imm
    let plain := s.ctx.spec = false ∨ r.tag = false ∨ r.permS = false
    let ready := fun (l : List (Int × Nat × Nat)) => (∀ p ∈ l, Granted s sa .write p.1 p.2.2) ∧ s.partsAccess r .write l = .ok ps false ls ∧
      InOrder s false ∧ plain ∧ BufferRoom s ps (partLines r l)
    (Granted s sa .write imm n → s.access .write va n = .ok ps false ls → InOrder s false → plain → BufferRoom s ps (linesOf va n) →
      Gates (.st sd sa sz sx scope imm) s ps (leBytes (b.sreg sd).bits.toNat n) (linesOf va n) ls) ∧
    (ready (lanesParts imm (b.lanes qp)) → Gates (.vst vs sa qp bfx imm) s ps (leBytes (b.vreg vs).toNat 64)
      (partLines r (lanesParts imm (b.lanes qp))) ls) ∧
    (ready (indexedParts imm (b.vreg vb) sz (b.lanes qp)) → Gates (.vscatter vs sa qp vb sz imm) s ps (leBytes (b.vreg vs).toNat 64)
      (partLines r (indexedParts imm (b.vreg vb) sz (b.lanes qp))) ls) ∧
    (s.act.x < 4 → Granted s sa .write imm n → ps = [⟨.mem key, 0, n, sw⟩] → homeDie key = dieOfCore s.act.core → s.access .write va n = .ok ps false ls →
      InOrder s false → ¬plain → s.mem.wf = true → Gives (.st sd sa sz sx scope imm) s fun t => t.ctx.gated = s.ctx.gated ∧ t.ctx.wbuf = s.ctx.wbuf ∧
        t.ctx.bank = s.ctx.bank ∧ t.tileMem = s.tileMem ∧ (∀ a, ¬PteByte ls a → ¬OwnByte s ps a → t.mem.read a = s.mem.read a) ∧
        ((∀ a, key ≤ a → a < key + n → ¬PteByte ls a) → t.mem.readNat key n = (s.ctx.bank.sreg sd).bits.toNat % 2 ^ (8 * n)))

/-- R119, R121, R123, R242, R243: STL, granted, aligned and translated, once what its release waits for has come, performs its own store at once: the bytes
at the address computed, of memory homed on the context's own die, become those of the register, no other byte but a page-table entry's changes,
and nothing stays gated; misaligned, it traps with cause 0x07. -/
def Obligations.StoreRelease : Prop :=
  ∀ (s : State) (sd sa sz scope : Nat) (sx so sw : Bool) (imm : Int) (ps : List Piece) (key : Nat) (ls : List (Nat × Option (Nat × Nat))),
    let n := 2 ^ sz
    let va := s.opVa sa imm
    s.act.x < 4 → Granted s sa .write imm n →
    (va % n = 0 → s.access .write va n = .ok ps so ls → InOrder s so → s.ctx.spec = false → Released s scope →
      Gives (.stl sd sa sz sx scope imm) s fun t =>
        t.ctx.gated = [] ∧ t.ctx.irrev = true ∧ t.ctx.bank = s.ctx.bank ∧ t.tileMem = s.tileMem ∧
        (s.mem.wf = true → ∀ a, ¬PteByte ls a → ¬OwnByte s ps a → t.mem.read a = s.mem.read a) ∧
        (s.mem.wf = true → ps = [⟨.mem key, 0, n, sw⟩] → homeDie key = dieOfCore s.act.core → (∀ a, key ≤ a → a < key + n → ¬PteByte ls a) →
          t.mem.readNat key n = (s.ctx.bank.sreg sd).bits.toNat % 2 ^ (8 * n))) ∧
    (va % n ≠ 0 → Traps (.stl sd sa sz sx scope imm) s 0x07)

/-- R119, R155: when the gated stores of the acting context commit, a context that does not speculate changes only the bytes of its own die's memory that
their pieces cover; the buffer is empty afterwards, and every piece homed elsewhere leaves as a write on a route, unacknowledged. -/
def Sys2Proof.Claims.CommitWritesOnlyItsPieces : Prop :=
  ∀ (s : State), s.act.x < 4 → s.ctx.spec = false → s.mem.wf = true →
    let t := commitGated s
    t.ctx.gated = [] ∧ t.ctx.bank = s.ctx.bank ∧ t.tileMem = s.tileMem ∧ t.cores = s.cores ∧ t.traps = s.traps ∧
    (∀ k, k ≠ s.act.ck → t.ctxAt k = s.ctxAt k) ∧
    (∀ a, (∀ g ∈ s.ctx.gated, ¬OwnByte s (g.pieces.map Prod.fst) a) → t.mem.read a = s.mem.read a) ∧
    (∀ (key n : Nat) (sw so : Bool) (bs : List Byte) (lines : List Nat) (pages : List (Nat × Nat × Bool)), bs.length = n →
      s.ctx.gated = [⟨[(⟨.mem key, 0, n, sw⟩, bs)], lines, so, pages⟩] →
      (homeDie key = dieOfCore s.act.core → t.mem.readBytes key n = bs) ∧
      (homeDie key ≠ dieOfCore s.act.core → t.mem = s.mem ∧
        t.acks = s.acks ++ [{ id := s.nextAck, ck := s.act.ck, uid := s.ctx.work.uid, dom := homeDie key, performed := false, chip := false, pages := pages, so := so }]))

/-- R120: a context reads its own latest gated store to a byte of memory, and otherwise, once the views of unit scratch are joined, the memory's byte; so a
load of own-die memory with no store of the context waiting takes the bytes that memory holds. -/
def Sys2Proof.Claims.OwnStoresAreRead : Prop :=
  ∀ (s : State) (ck key n idx : Nat) (sw : Bool), (s.ctxAt ck).wbuf = [] → (s.ctxAt ck).unjoined = [] →
    (∀ (lines : List Nat) (so : Bool) (pages : List (Nat × Nat × Bool)) (bs : List Byte) (old : List GStore) (i : Nat), bs.length = n → i < n →
      (s.ctxAt ck).gated = old ++ [⟨[(⟨.mem key, idx, n, sw⟩, bs)], lines, so, pages⟩] → s.ctxByte ck (key + i) sw = nth 0 bs i) ∧
    ((s.ctxAt ck).gated = [] → s.ctxByte ck key sw = s.mem.read key ∧
      ((∀ i, i < n → homeDie (key + i) = dieOfCore (ck / 4)) → s.localBytes ck n [⟨.mem key, 0, n, sw⟩] = s.mem.readBytes key n))

/-! ### Steps at a home, fences, rings, barriers, queues, gravity and time -/

namespace Sys2Proof.Claims

open Sys2Proof.Machine

/-- What an atomic, barrier or ring operation needs of its operand: granted, aligned, one piece of memory outside the accumulator stores, homed on the
context's own die; no acquire outstanding, no speculation, no store gated, earlier accesses to strongly ordered pages performed (R98, R243, R261). -/
def AtHome (s : State) (sa : Nat) (imm : Int) (n key : Nat) (sw so : Bool) (ls : List (Nat × Option (Nat × Nat))) : Prop :=
  let va := s.opVa sa imm
  let p : Piece := ⟨.mem key, 0, n, sw⟩
  s.act.x < 4 ∧ Granted s sa .atomic imm n ∧ va % n = 0 ∧ s.access .atomic va n = .ok [p] so ls ∧ p.inAcc = false ∧
    homeDie key = dieOfCore s.act.core ∧ (∀ v ∈ s.ctx.var, v.acq = false) ∧ s.ctx.spec = false ∧ s.ctx.gated = [] ∧ (so = true → s.soPending = false)

/-- The translation needs no page table: the heap or the on-chip window (R91, R109). -/
def Unpaged (ls : List (Nat × Option (Nat × Nat))) : Prop := ∀ l ∈ ls, l.2 = none

/-- Memory has its canonical form, and no quiescence root keeps its GFLAGS among these bytes (R374). -/
def NoRootAt (s : State) (key n : Nat) : Prop := s.mem.wf = true ∧ ∀ r ∈ s.roots, key + n ≤ r + 0x50 ∨ r + 0x58 ≤ key

/-- The value an atomic operation leaves (R261), on words of w bits; operation 9 adds FP32 numbers. -/
def atomicLeaves (op w : Nat) (a b : BitVec w) : BitVec w :=
  match op with
  | 0 => a + b
  | 1 => a &&& b
  | 2 => a ||| b
  | 3 => a ^^^ b
  | 4 => if a.sle b then a else b
  | 5 => if a.sle b then b else a
  | 6 => if a.ule b then a else b
  | 7 => if a.ule b then b else a
  | 8 => b
  | _ => BitVec.ofNat w (roundTo 0 0 (Ex.add (real 0 a.toNat) (real 0 b.toNat)))

/-- A result stands in flight with all its bytes, behind those that stood there; only their notes of unit scratch may have been joined (R111). -/
def Answered (s t : State) (d : Dst) (bs : List Byte) (acq dom : Bool) : Prop :=
  joined t.ctx.var = joined (s.ctx.var ++ [result s.ctx.nextVar d bs 0 acq dom])

end Sys2Proof.Claims

/-- R129, R243, R261: ATOM on memory of the context's own die, with what its order asks for come, returns the old value and leaves the new one; ACAS leaves
its second operand only where the old value is its first; misaligned, either traps with cause 0x07. -/
def Obligations.AtomicsAtHome : Prop :=
  ∀ (s : State) (sd sa sb sc aop ord scope key : Nat) (w8 nret sw so : Bool) (imm : Int) (ls : List (Nat × Option (Nat × Nat))),
    let n := if w8 then 8 else 4
    let w := 8 * n
    let old := BitVec.ofNat w (s.mem.readNat key n)
    let b := BitVec.ofNat w (val s sb).toNat
    let c := BitVec.ofNat w (val s sc).toNat
    let acq := bitOf ord 0
    (AtHome s sa imm n key sw so ls → (bitOf ord 1 = true → Released s scope) →
      (aop ≤ 9 → (aop = 9 → w8 = false) → Gives (.atom sd sa sb aop w8 ord scope nret imm) s fun t =>
        t.ctx.bank = s.ctx.bank ∧ t.tileMem = s.tileMem ∧ t.traps = s.traps ∧
        (Unpaged ls → Answered s t (if nret then .none else .int sd n false) (leBytes old.toNat n) acq (acq && decide (4 ≤ scope))) ∧
        (Unpaged ls → NoRootAt s key n → t.mem = s.mem.writeNat key n (atomicLeaves aop w old b).toNat)) ∧
      (Gives (.acas sd sa sb sc w8 ord scope imm) s fun t =>
        t.ctx.bank = s.ctx.bank ∧ t.tileMem = s.tileMem ∧ t.traps = s.traps ∧
        (Unpaged ls → Answered s t (.int sd n false) (leBytes old.toNat n) acq (acq && decide (4 ≤ scope))) ∧
        (Unpaged ls → NoRootAt s key n → t.mem = if old = b then s.mem.writeNat key n c.toNat else s.mem))) ∧
    (Granted s sa .atomic imm n → s.opVa sa imm % n ≠ 0 →
      Traps (.atom sd sa sb aop w8 ord scope nret imm) s 0x07 ∧ Traps (.acas sd sa sb sc w8 ord scope imm) s 0x07)

/-- R130, R263, R264: a FENCE of any kind passes once no store is gated or unacknowledged, no load outstanding, the stamps returned are dominated, no command
of its mask is left and, for a release past the die, the markers are sent; the acquiring kinds forget the stamps, an acquire at die scope or narrower keeps them. One that waits leaves the state
as it is. EWAIT notes the range, the commands and the packets that later bundles wait for, or traps with cause 0x03. -/
def Sys2Proof.Claims.FencesAndWaits : Prop :=
  ∀ (s : State) (kind scope emask sa : Nat),
    let r := s.ctx.bank.sreg sa
    (kind ≤ 4 → Released s scope → s.unacked s.act.ck = [] → s.stampsSeen = true → s.fenced emask = [] →
      exec (.fence kind scope emask) s = .next (s.onCtx fun c =>
        { c with stamps := (if kind = 0 ∧ 4 ≤ scope ∨ kind = 2 ∨ kind = 4 then [] else c.stamps), unjoined := [] })) ∧
    (kind ≤ 4 → (∀ v ∈ s.ctx.var, v.acq = false) → s.ctx.var ≠ [] → s.ctx.gated = [] → s.unacked s.act.ck = [] → s.fenced emask = [] →
      exec (.fence kind scope emask) s = .next s) ∧
    (r.tag = true → exec (.ewait sa) s = .next (s.onCtx fun c => { c with hold := some (r.base, r.len, s.core.nextSeq, s.nextPacket) })) ∧
    (r.tag = false → Traps (.ewait sa) s 0x03)

/-- R258 to R260: on a well-formed ring of the context's own die RAWAIT and RAPEEK return the offset of the slot k on, when it is in the state the context's
side expects; otherwise RAWAIT blocks and RAPEEK returns all ones; RAREL, with its release done, hands on or frees n slots; a malformed ring, or a RAREL
of a slot not in its state, traps with cause 0x0E, an untagged operand with cause 0x03. -/
def Obligations.RingOperations : Prop :=
  ∀ (s : State) (sd sa k n key : Nat) (sw so : Bool) (ls : List (Nat × Option (Nat × Nat))),
    let r := s.ctx.bank.sreg sa
    let p : Piece := ⟨.mem key, 0, 64, sw⟩
    let ring := s.mem.ring key
    let base := r.tag = true ∧ r.permR = true ∧ r.permW = true ∧ 64 ≤ r.len ∧ s.access .atomic r.base 64 = .ok [p] so ls ∧ p.inAcc = false ∧
      homeDie key = dieOfCore s.act.core ∧ InOrder s so ∧ Unpaged ls
    (base → ring.bad = false → (ring.side k).2 = true →
      (Gives (.rawait sd sa k) s fun t => Answered s t (.int sd 8 false) (leBytes (ring.offset (ring.side k).1) 8) false false ∧ t.mem = s.mem ∧
        t.ctx.bank = s.ctx.bank) ∧
      (Gives (.rapeek sd sa k) s fun t => Answered s t (.int sd 8 false) (leBytes (ring.offset (ring.side k).1) 8) false false ∧ t.mem = s.mem ∧
        t.ctx.bank = s.ctx.bank)) ∧
    (base → ring.bad = false → (ring.side k).2 = false → Blocks (.rawait sd sa k) s (.ring key k) ∧
      (Gives (.rapeek sd sa k) s fun t => Answered s t (.int sd 8 false) (leBytes (2 ^ 64 - 1) 8) false false ∧ t.mem = s.mem)) ∧
    (base → ring.bad = false → (∀ j, j ≤ n → (ring.side j).2 = true) → s.ctx.spec = false → Released s 3 → NoRootAt s key 64 →
      Gives (.rarel sa n) s fun t => t.ctx.bank = s.ctx.bank ∧
        t.mem = s.mem.putRing key (iter (fun _ x => if x.dir then x.filled else x.taken) (n + 1) ring)) ∧
    (base → ring.bad = true → Traps (.rawait sd sa k) s 0x0E ∧ Traps (.rapeek sd sa k) s 0x0E) ∧
    (base → s.ctx.spec = false → Released s 3 → ring.bad = false → (ring.side 0).2 = false → Traps (.rarel sa n) s 0x0E) ∧
    (r.tag = false → Traps (.rawait sd sa k) s 0x03 ∧ Traps (.rapeek sd sa k) s 0x03 ∧ Traps (.rarel sa n) s 0x03)

/-- R265 to R267: BARINIT writes an object that expects so many arrivals, in phase 0. BARARR that does not complete the phase adds its arrivals and returns
the phase; one that completes it clears them, moves the phase on, notes the time, and returns the phase with 16 added. BARWAIT ends at once when the
phase has moved, with pd true; while it has not, it blocks, or ends with pd false once its deadline has passed. -/
def Obligations.BarrierOperations : Prop :=
  ∀ (s : State) (sd pd sa sb sc scope n cnt key : Nat) (rc sw so : Bool) (imm : Int) (ls : List (Nat × Option (Nat × Nat))),
    let o := s.mem.readNat key 16
    let k := if rc then (val s n).toNat else n
    let sound := o / 2 ^ 116 % 2 ^ 12 ≠ 0 ∧ bitOf o 97 = false ∧ bitOf o 96 = false
    let arrived := o / 2 ^ 104 % 2 ^ 12
    let phase := o / 2 ^ 100 % 2 ^ 4
    AtHome s sa imm 16 key sw so ls → Unpaged ls → NoRootAt s key 16 → s.mem.wf = true →
    (Released s scope → cnt < 2 ^ 12 → Gives (.barinit sa scope cnt imm) s fun t => t.ctx.bank = s.ctx.bank ∧ t.mem = s.mem.writeNat key 16 (cnt * 2 ^ 116)) ∧
    (Released s scope → sound → 1 ≤ k → k ≤ 4095 → arrived + k < o / 2 ^ 116 % 2 ^ 12 →
      Gives (.bararr sd sa scope rc n imm) s fun t => t.ctx.bank = s.ctx.bank ∧ Answered s t (.int sd 8 false) (leBytes phase 8) false false ∧
        t.mem.readNat key 16 = o + k * 2 ^ 104 ∧ (∀ a, a < key ∨ key + 16 ≤ a → t.mem.read a = s.mem.read a)) ∧
    (Released s scope → sound → 1 ≤ k → k ≤ 4095 → arrived + k = o / 2 ^ 116 % 2 ^ 12 →
      Gives (.bararr sd sa scope rc n imm) s fun t => t.ctx.bank = s.ctx.bank ∧ Answered s t (.int sd 8 false) (leBytes (phase + 16) 8) false false ∧
        (let q := t.mem.readNat key 16
         q / 2 ^ 104 % 2 ^ 12 = 0 ∧ q / 2 ^ 100 % 2 ^ 4 = (phase + 1) % 16 ∧ q / 2 ^ 64 % 2 ^ 32 = s.time % 2 ^ 32 ∧ q / 2 ^ 48 % 2 ^ 16 = 0 ∧
           q / 2 ^ 116 = o / 2 ^ 116) ∧ (∀ a, a < key ∨ key + 16 ≤ a → t.mem.read a = s.mem.read a)) ∧
    (Released s scope → k = 0 ∨ 4095 < k → Traps (.bararr sd sa scope rc n imm) s 0x0D) ∧
    (∀ dl : Bool, phase ≠ (val s sb).toNat % 16 → exec (.barwait pd sa scope dl sb sc imm) s = .next (s.onCtx fun c =>
      { c.later 1 [.p pd true] with unjoined := [], irrev := c.irrev || so, var := joined c.var })) ∧
    (phase = (val s sb).toNat % 16 → bitOf o 97 = false → bitOf o 96 = false →
      Blocks (.barwait pd sa scope false sb sc imm) s (.barrier key none) ∧
      (s.time < (val s sc).toNat → Blocks (.barwait pd sa scope true sb sc imm) s (.barrier key (some (val s sc).toNat))) ∧
      ((val s sc).toNat ≤ s.time → exec (.barwait pd sa scope true sb sc imm) s =
        .next (s.onCtx fun c => { c.later 1 [.p pd false] with irrev := c.irrev || so })))

/-- R268, R354: ENQ appends its register's 128 bits to a mapped data queue with room, as a release at die scope; DEQ takes the oldest element in its turn;
an empty queue blocks DEQ, a full one ENQ; a slot with no queue, or above 63, traps with cause 0x0E. -/
def Sys2Proof.Claims.QueueOperations : Prop :=
  ∀ (s : State) (slot sa sd qi : Nat) (rq : Bool) (e : QElem) (es : List QElem),
    let no := if rq then (val s slot).toNat else slot
    let q := s.queue qi
    let mine := no ≤ 63 ∧ s.slotQueue (dieOfCore s.act.core) s.ctx.work.ctxid s.ctx.work.rcb no = some qi ∧ q.isTask = false ∧ s.ctx.spec = false ∧
      (∀ v ∈ s.ctx.var, v.acq = false)
    (mine → q.state = 1 → q.elems.length < q.cap → q.elems.length ≤ q.hwm → Released s 3 → Gives (.enq slot rq sa) s fun t =>
      (t.queue qi).elems = q.elems ++ [⟨(s.ctx.bank.sreg sa).bits.toNat, 0, s.clk⟩] ∧ t.mem = s.mem ∧ t.ctx.bank = s.ctx.bank ∧
        (∀ j, j ≠ qi → t.queue j = s.queue j)) ∧
    (mine → q.state = 1 → q.cap ≤ q.elems.length → Blocks (.enq slot rq sa) s .hwq) ∧
    (mine → q.state = 1 → q.elems = e :: es → turnOf q.waiters s.act.ck 0 < q.elems.length → s.ctx.gated = [] → Gives (.deq sd slot rq) s fun t =>
      (t.queue qi).elems = es ∧ Answered s t (.wide sd) (leBytes e.val 16) false false ∧ t.mem = s.mem ∧ t.ctx.bank = s.ctx.bank ∧
        (∀ j, j ≠ qi → t.queue j = s.queue j)) ∧
    (mine → q.elems = [] → Blocks (.deq sd slot rq) s (.deq qi)) ∧
    (63 < no → Traps (.enq slot rq sa) s 0x0E ∧ Traps (.deq sd slot rq) s 0x0E)

/-- R270, R271, R377, R378, R388: in a region without a quiescence root GSPLIT gives 0 and SPAWN's card holds no gravity. In one with a root GSPLIT of k pieces
that does not underflow gives a piece of floor(g / (k + 1)) and keeps the rest, so that no gravity is made or lost; GRET gives to the die's
combiner; WAITQ of no root, or of the holder's own, traps with cause 0x0E; a count above 4,095 and an amount of 2^40 or more trap likewise. -/
def Obligations.GravityOperations : Prop :=
  ∀ (s : State) (sd k sb sa r : Nat) (rk : Bool),
    let n := if rk then (val s k).toNat else k
    let g := s.ctx.hg
    let b := (val s sb).toNat
    let root := s.rootOf s.ctx.work.ctxid s.ctx.work.rcb
    (s.ctx.spec = false → 1 ≤ n → n ≤ 4095 → root = some r → n + 1 ≤ g → Gives (.gsplit sd rk k) s fun t =>
      Answered s t (.int sd 8 false) (leBytes (g / (n + 1)) 8) false false ∧ t.ctx.hg + n * (g / (n + 1)) = g ∧ t.mem = s.mem ∧ t.ctx.bank = s.ctx.bank) ∧
    (s.ctx.spec = false → 1 ≤ n → n ≤ 4095 → root = none → Gives (.gsplit sd rk k) s fun t =>
      Answered s t (.int sd 8 false) (leBytes 0 8) false false ∧ t.ctx.hg = g ∧ t.mem = s.mem) ∧
    (s.ctx.spec = false → n = 0 → Gives (.gsplit sd rk k) s fun t => Answered s t (.int sd 8 false) (leBytes g 8) false false ∧ t.ctx.hg = g) ∧
    (4095 < n → Traps (.gsplit sd rk k) s 0x0E) ∧
    (s.ctx.spec = false → Released s 5 → b < 2 ^ 40 → root = some r → exec (.gret sb) s = .next (joinViews (s.giveBack (dieOfCore s.act.core) r b))) ∧
    (s.ctx.spec = false → Released s 5 → b < 2 ^ 40 → root = none → exec (.gret sb) s = .next (joinViews s)) ∧
    (2 ^ 40 ≤ b → Traps (.gret sb) s 0x0E) ∧
    ((∀ v ∈ s.ctx.var, v.acq = false) → s.waitqRoot sa = some r → s.ctx.probed = true → s.rootQuiet r (s.act.ck + 1) = true →
      dominates (s.clockOf (dieOfCore s.act.core)) (s.clockOf (homeDie r)) = true → exec (.waitq sa) s = .next (joinViews s)) ∧
    ((∀ v ∈ s.ctx.var, v.acq = false) → s.waitqRoot sa = some r → s.ctx.probed = true → s.rootQuiet r (s.act.ck + 1) = false →
      Blocks (.waitq sa) s (.waitq r)) ∧
    ((∀ v ∈ s.ctx.var, v.acq = false) → s.waitqRoot sa = none → Traps (.waitq sa) s 0x0E)

/-- R251, R270, R378: SPAWN appends the address of its card to the mapped task queue, with the plane of the spawning shard; it needs room, a granted, aligned
and translated card, gravity to split where its region has a root, and what a release at die scope waits for. CPYPUT on a queue header of the own
die with a free slot claims that slot and enters the move queue with the packet's 64 bytes and the slot's address. -/
def Sys2Proof.Claims.SpawnAndCopyPut : Prop :=
  ∀ (s : State) (slot sa vs qi key : Nat) (rq sw so : Bool) (imm : Int) (ps qs : List Piece) (ls ms : List (Nat × Option (Nat × Nat))),
    let no := if rq then (val s slot).toNat else slot
    let q := s.queue qi
    let va := s.opVa sa imm
    let head := s.mem.readNat key 8
    let n := 2 ^ (s.mem.readNat (key + 0x18) 1 % 16)
    let place := (s.mem.readNat (key + 0x10) 8 + 64 * (head % n)) % 2 ^ 56
    (no ≤ 63 → s.slotQueue (dieOfCore s.act.core) s.ctx.work.ctxid s.ctx.work.rcb no = some qi → q.isTask = true → q.state = 1 →
      q.elems.length < q.cap → q.elems.length ≤ q.hwm → s.ctx.spec = false → (∀ v ∈ s.ctx.var, v.acq = false) → Released s 3 →
      Granted s sa .atomic imm 32 → va % 32 = 0 → s.access .atomic va 32 = .ok ps false ls →
      (s.rootOf s.ctx.work.ctxid s.ctx.work.rcb = none ∨ 2 ≤ s.ctx.hg) →
      Gives (.spawn slot rq sa imm) s fun t =>
        (t.queue qi).elems = q.elems ++ [⟨va, s.ctx.work.shard % 8, s.clk⟩] ∧ t.ctx.bank = s.ctx.bank ∧ t.traps = s.traps ∧
          (∀ j, j ≠ qi → t.queue j = s.queue j)) ∧
    (AtHome s sa imm 64 key sw so ls → Unpaged ls → Released s 4 → Room s 5 → (head + 2 ^ 64 - s.mem.readNat (key + 8) 8) % 2 ^ 64 < n →
      s.access .write place 64 = .ok qs so ms →
      Gives (.cpyput vs sa imm) s fun t => t.ctx.bank = s.ctx.bank ∧ t.traps = s.traps ∧
        ∃ e, t.core.cmds = s.core.cmds ++ [e] ∧ e.op = .cpyput vs sa imm ∧ e.q = 5 ∧ e.vec = s.ctx.bank.vreg vs ∧ e.args = [va, place] ∧
          e.started = false)

/-- R273: TIME reads the time base; WAITT ends once the time base has reached its deadline, absolute or counted from its first presentation, and blocks
until then. -/
def Sys2Proof.Claims.TimeOperations : Prop :=
  ∀ (s : State) (sd sa : Nat) (rel : Bool),
    let due := s.ctx.deadline.getD (if rel then s.time + (val s sa).toNat else (val s sa).toNat)
    exec (.time sd) s = .next (s.onCtx fun c => c.inFlight (.int sd 8 false) (leBytes s.time 8) 0 false false) ∧
    (due ≤ s.time → exec (.waitt sa rel) s = .next s) ∧
    (s.time < due → Gives (.waitt sa rel) s fun t =>
      t.ctx.status = .blocked (.time due) ∧ t.ctx.deadline = some due ∧ t.ctx.bank = s.ctx.bank ∧ t.mem = s.mem)


/-! ### The bytecode -/

namespace Sys2Proof.Claims

open Sys2Proof.Machine

/-- The record traps with a cause on its GFE, which goes no further, and the trap is all that happens (R283, R314). -/
def GTraps (i : Instr) (s : State) (cause : Nat) : Prop :=
  ∃ t : TrapInfo, t.cause = cause ∧ exec i s = .next (gfeTrapAt s.act.gfe (recordOpcode i) t s)

/-- The record completes at once: it ends any run of a fuse group, and of all the state only its GFE changes. -/
def Goes (i : Instr) (s : State) (f : Gfe → Gfe) : Prop := exec i s = .next (s.onGfe fun g => { f g with fuse := 0, fused := false, fuseLast := none })

/-- A value for a graph register passes through the exchange (R21): presented, it waits while some GFE of the placement set has presented none;
with every other GFE's the same, all write and go on where their records say; with another's different, none writes and every GFE of the set
traps with cause 0x10 and AUX the register. -/
def Exchanges (i : Instr) (s : State) (d : Nat) (x : BitVec 64) (pc : Nat) (frames : List Frame) : Prop :=
  let g := s.gfe
  let others := fun (P : Option (Nat × BitVec 64) → Prop) => ∀ k ∈ g.set, k ≠ s.act.gfe → P (s.gfeAt k).presented
  s.act.gfe ∈ g.set →
    ((∃ k ∈ g.set, k ≠ s.act.gfe ∧ (s.gfeAt k).presented = none) → Goes i s fun g => { g with block := .exch d x pc frames }) ∧
    (others (fun o => o = some (d, x)) → Gives i s fun t => t.mem = s.mem ∧ t.traps = s.traps ∧
      t.gfe = { g with g := AMap.ins d x g.g, pc := pc, frames := frames, block := .none, fuse := 0, fused := false, fuseLast := none } ∧
      (∀ k, k ≠ s.act.gfe → t.gfeAt k = if k ∈ g.set then (s.gfeAt k).written else s.gfeAt k)) ∧
    (others (fun o => o ≠ none) → ¬others (fun o => o = some (d, x)) → Gives i s fun t => t.mem = s.mem ∧
      (∀ k ∈ g.set, (t.gfeAt k).block = .trap ∧ (t.gfeAt k).g = (s.gfeAt k).g) ∧ t.traps.length = s.traps.length + g.set.length ∧
      ∀ r ∈ t.traps.drop s.traps.length, r.cause = 0x10 ∧ r.bytes.drop 56 = leBytes d 8)

/-- A graph offset lies in the code words of the stream's image (R277, R287). -/
def InCode (s : State) (o : Int) : Prop := 32 ≤ o ∧ o < 32 + 4 * (s.gfe.codew : Int)

/-- A scalar operand word's value (R279). -/
def operand (s : State) (v : Sow) : BitVec 64 :=
  let g := fun n => AMap.get (0 : BitVec 64) s.gfe.g n
  match v with
  | .imm i => BitVec.ofInt 64 i
  | .reg n => g n
  | .regPlus n k => g n + BitVec.ofInt 64 k
  | .part sel k =>
    BitVec.ofNat 64 (if sel = 0 then s.gfe.shard else if sel = 1 then s.gfe.rank else s.gfe.shard + s.gfe.width * s.gfe.rank) + BitVec.ofInt 64 k

/-- The results of GOP (R288). -/
def gop (op : Nat) (a b : BitVec 64) : BitVec 64 :=
  match op with
  | 0 => a + b
  | 1 => a - b
  | 2 => a * b
  | 3 => if b = 0 then BitVec.allOnes 64 else a.sdiv b
  | 4 => if b = 0 then a else a.srem b
  | 5 => if a.sle b then a else b
  | 6 => if a.sle b then b else a
  | 7 => if a.ule b then a else b
  | 8 => if a.ule b then b else a
  | 9 => a &&& b
  | 10 => a ||| b
  | 11 => a ^^^ b
  | 12 => a <<< (b.toNat % 64)
  | 13 => a >>> (b.toNat % 64)
  | 14 => a.sshiftRight (b.toNat % 64)
  | 15 => if a.slt b then 1 else 0
  | 16 => if a.ult b then 1 else 0
  | 17 => if a = b then 1 else 0
  | _ => if b = 0 then BitVec.allOnes 64 else BitVec.ofNat 64 ((a.toNat + b.toNat - 1) / b.toNat)

/-- The handle is VALID in the plane of the acting GFE (R283, R292). -/
def Valid (s : State) (h : Nat) : Prop := (s.entry s.gfe.ctxid s.gfe.shard h).isSome = true

/-- An operator record may issue plainly: its stream predicts nothing and has fewer than 64 operators outstanding, its fuse group does not run
fused, and each of its operands is VALID, placed, without sharding attribute and not given up (R24, R33, R115, R283). -/
def Plain (i : Instr) (s : State) : Prop :=
  let g := s.gfe
  g.specs = [] ∧ s.outstanding s.act.gfe < 64 ∧ (s.beginRun i).gfe.fused = false ∧
    ∀ o ∈ s.opdsOf i, Valid s o.hid ∧ (s.gent o.hid).placed = true ∧ (s.gent o.hid).shard = 0 ∧ s.isGone g.ctxid g.shard o.hid = false

/-- The record issues: one operator instance is added behind all others, with the handles that the record names, the operators it waits for by the
handle scoreboard (R23), and the record's graph offset; the GFE goes on at the next record; no register and no byte of memory changes. -/
def Issues (i : Instr) (s : State) : Prop :=
  let g := s.gfe
  Gives i s fun t => t.mem = s.mem ∧ t.traps = s.traps ∧ t.nextOp = s.nextOp + 1 ∧ t.gfe.pc = g.pc + recordBytes i ∧ t.gfe.g = g.g ∧
    t.gfe.frames = g.frames ∧ ∃ o, t.ops = s.ops ++ [o] ∧ o.id = s.nextOp ∧ o.record = i ∧ o.gfe = s.act.gfe ∧ o.stream = g.stream ∧
      o.ctxid = g.ctxid ∧ o.rcb = g.rcb ∧ o.shard = g.shard ∧ o.opc = g.pc ∧ o.handles = (s.opdsOf i).map Opd.handle ∧
      o.deps = s.depsOf g.ctxid g.shard o.handles ∧ o.done = 0 ∧ o.phase = .no

/-- The record gives an identifier a new entry: it completes, the Handle Table entry is written, nothing else of memory changes, the operators stay as
they are where none names the identifier as it stands, and the GFE goes on at the next record (R22, R112). -/
def Redefines (i : Instr) (s : State) (h : Nat) (x : HEnt) : Prop :=
  let g := s.gfe
  Gives i s fun t => t.mem = (s.setEntry g.ctxid g.shard x).mem ∧ t.traps = s.traps ∧ ((∀ o ∈ s.ops, o.namesNow g.ctxid g.shard h = false) → t.ops = s.ops) ∧
    t.gfe.pc = g.pc + recordBytes i ∧ t.gfe.g = g.g ∧ t.gfe.frames = g.frames

/-- The extent of dimension k of a handle's local shard, its dimension count, its format. -/
def ext (s : State) (h k : Nat) : Nat := (s.gent h).ext k
def nd (s : State) (h : Nat) : Nat := (s.gent h).ndim
def fm (s : State) (h : Nat) : Nat := (s.gent h).fmt

/-- Two handles have the same extents in every dimension but one. -/
def SameBut (s : State) (a b : Nat) (but : Nat) : Prop := nd s a = nd s b ∧ ∀ k, k < nd s a → k ≠ but → ext s a k = ext s b k

/-- The second broadcasts against the first (R323). -/
def Broadcasts (s : State) (d b : Nat) : Prop := b = 0 ∨ (fm s b ≤ 8 ∧ nd s b = nd s d ∧ ∀ k, k < nd s d → ext s b k = 1 ∨ ext s b k = ext s d k)

/-- A one-dimensional operand that may be absent. -/
def Vector? (s : State) (b n : Nat) (fmt : Nat → Prop) : Prop := b = 0 ∨ (fmt (fm s b) ∧ nd s b = 1 ∧ ext s b 0 = n)

/-- No operand of a compute record is pinned to the accumulator store (R320). -/
def Unpinned (i : Instr) (s : State) : Prop := ∀ o ∈ s.opdsOf i, (s.gent o.hid).pin ≠ 4

end Sys2Proof.Claims

/-- R21, R284, R286, R288: SETG and GOP present their value for g[d] in the exchange. -/
def Sys2Proof.Claims.ExchangeWrites : Prop :=
  ∀ (s : State) (fuse d op imm : Nat) (v a b : Sow),
    let pc := s.gfe.pc
    Exchanges (.setg fuse d v) s d (operand s v) (pc + 8) s.gfe.frames ∧
    Exchanges (.setgImm64 fuse d imm) s d (BitVec.ofNat 64 imm) (pc + 12) s.gfe.frames ∧
    (op ≤ 18 → Exchanges (.gop fuse d op a b) s d (gop op (operand s a) (operand s b)) (pc + 16) s.gfe.frames)

/-- R289: GOP ldt waits for the earlier writers of its handle, then presents the element it reads, an integer extended by its sign or by zeros, a
floating one converted toward zero; an index at or past the element count traps with cause 0x04, a handle that is not VALID with 0x03. -/
def Sys2Proof.Claims.GraphElementRead : Prop :=
  ∀ (s : State) (fuse d a v : Nat) (b : Sow),
    let g := s.gfe
    let h := s.gent a
    let i := (operand s b).toNat
    let waits := s.writerOf g.ctxid g.shard a
    (Valid s a → waits = false → i < h.count → h.placed = true → s.isGone g.ctxid g.shard a = false → s.readElem g.ctxid g.shard h (coords h.dims i) = .ok v → isFloat h.fmt = false →
      Exchanges (.gopLdt fuse d a b) s d (BitVec.ofInt 64 (real h.fmt v).int) (g.pc + 16) g.frames) ∧
    (Valid s a → waits = false → i < h.count → h.placed = true → s.isGone g.ctxid g.shard a = false → s.readElem g.ctxid g.shard h (coords h.dims i) = .ok v → isFloat h.fmt = true →
      Exchanges (.gopLdt fuse d a b) s d (BitVec.ofInt 64 (Ex.toInt 1 (-(2 ^ 63)) (2 ^ 63 - 1) (real h.fmt v))) (g.pc + 16) g.frames) ∧
    (Valid s a → waits = true → exec (.gopLdt fuse d a b) s = .next s) ∧
    (Valid s a → waits = false → h.count ≤ i → GTraps (.gopLdt fuse d a b) s 0x04) ∧
    (¬Valid s a → GTraps (.gopLdt fuse d a b) s 0x03)

/-- R285, R287, R290, R291: the control records. A target outside the code words traps with cause 0x02, taken or not; a push onto 32 frames with 0x0A; an
ENDLOOP without a loop frame on top, and a RET without a call frame, with 0x02. -/
def Sys2Proof.Claims.ControlFlow : Prop :=
  ∀ (s : State) (fuse c d w body r : Nat) (ws : List Nat) (t m : Int) (a b n : Sow) (fs : List Frame),
    let g := s.gfe
    let o := (g.pc : Int) + 4 * t
    let reps := (operand s n).toInt
    let endloop := s.codeWord g o.toNat = .ok w ∧ w / 2 ^ 22 % 2 ^ 10 = 4
    Goes (.nop fuse ws) s (fun g => { g with pc := g.pc + 4 * (1 + ws.length) }) ∧
    (InCode s o → Goes (.graphBr fuse t) s fun g => { g with pc := o.toNat }) ∧
    (InCode s o → c ≤ 9 → Goes (.brc fuse c a b t) s fun g =>
      { g with pc := if ccode c (operand s a) (operand s b) then o.toNat else g.pc + 20 }) ∧
    (InCode s o → g.frames.length < 32 → Goes (.call fuse t) s fun g => { g with pc := o.toNat, frames := .call (g.pc + 8) :: g.frames }) ∧
    (g.frames = .call r :: fs → Goes (.ret fuse) s fun g => { g with pc := r, frames := fs }) ∧
    (InCode s o → endloop → reps ≤ 0 → Goes (.graphLoop fuse d n t) s fun g => { g with pc := o.toNat + 4 }) ∧
    (InCode s o → endloop → 0 < reps → g.frames.length < 32 →
      Exchanges (.graphLoop fuse d n t) s d 0 (g.pc + 12) (.loop d reps (g.pc + 12) :: g.frames)) ∧
    (g.frames = .loop d m body :: fs →
      let v := AMap.get (0 : BitVec 64) g.g d + 1
      (v.toInt < m → Exchanges (.endloop fuse) s d v body g.frames) ∧ (m ≤ v.toInt → Exchanges (.endloop fuse) s d v (g.pc + 4) fs)) ∧
    (¬InCode s o → GTraps (.graphBr fuse t) s 0x02 ∧ GTraps (.brc fuse c a b t) s 0x02 ∧ GTraps (.call fuse t) s 0x02 ∧
      GTraps (.graphLoop fuse d n t) s 0x02) ∧
    (InCode s o → 32 ≤ g.frames.length → GTraps (.call fuse t) s 0x0A) ∧
    ((∀ r, g.frames.head? ≠ some (.call r)) → GTraps (.ret fuse) s 0x02) ∧
    ((∀ d n b, g.frames.head? ≠ some (.loop d n b)) → GTraps (.endloop fuse) s 0x02)

/-- R25, R285, R291: HALT ends its GFE's issue and discards its frames; on the last GFE of the set to halt, with no operator of the stream left, the
set's GFEs are free. -/
def Sys2Proof.Claims.HaltEndsAStream : Prop :=
  ∀ (s : State) (fuse : Nat),
    let g := s.gfe
    let left := s.ops.any fun o => o.stream == g.stream
    ((∃ k ∈ g.set, k ≠ s.act.gfe ∧ (s.gfeAt k).halted = false) ∨ left = true →
      Goes (.halt fuse) s fun g => { g with halted := true, frames := [], pc := g.pc + 4 }) ∧
    (g.busy = true → left = false → (∀ k ∈ g.set, k = s.act.gfe ∨ (s.gfeAt k).halted = true) → Gives (.halt fuse) s fun t =>
      (∀ k ∈ g.set, t.gfeAt k = {}) ∧ (∀ k, k ∉ g.set → k ≠ s.act.gfe → t.gfeAt k = s.gfeAt k) ∧ t.traps = s.traps ∧ t.ops = s.ops)

/-- R112, R113, R283, R294: TDEF writes the Handle Table entry of an identifier that is not VALID: its local extents, strides, format, layout, PIN and
attribute, VERSION 0, and an unplaced capability with R, W, E and N. An identifier that is null, past the table or VALID traps with 0x03, an
extent outside 1 to 16,777,215 with 0x02. -/
def Obligations.TensorDefinitions : Prop :=
  ∀ (s : State) (fuse h fmt pin lay attr bt : Nat) (dims : List Sow),
    let g := s.gfe
    let ds := dims.map fun v => (operand s v).toNat
    let att := (s.attrOf g attr).get?
    let ls := localDims g att ds
    let st := if lay = 1 then tiledStrides ls else denseStrides ls
    let e : HEnt := ⟨h, true, dims.length, pin, 0, attr, fmt, lay, if lay = 2 then setNth bt st 4 else st, pad6 ls, capBits 0 0 0x1E fmt 15 h⟩
    let i := Instr.tdef fuse h fmt pin lay attr dims bt
    let named := s.fmtOpen fmt = true ∧ h ≠ 0 ∧ h < (s.dev g.ctxid).htcount
    let attrGood := attr = 0 ∨ ∃ a, att = some a ∧ a.dim < dims.length
    (named → ¬Valid s h → (lay = 2 → Valid s (bt % 65536)) → attrGood → (∀ n ∈ ds, 1 ≤ n ∧ n ≤ 16777215) → e.size < 2 ^ 40 →
      Redefines i s h e ∧ Gives i s fun t => t.gfe = { g with pc := g.pc + recordBytes i, fuse := 0, fused := false, fuseLast := none } ∧
        AMap.find? t.extents (hkey g.ctxid g.shard h) = some ds) ∧
    (s.fmtOpen fmt = true → h = 0 ∨ (s.dev g.ctxid).htcount ≤ h ∨ Valid s h → GTraps i s 0x03) ∧
    (named → ¬Valid s h → (lay = 2 → Valid s (bt % 65536)) → attrGood → (∃ n ∈ ds, n = 0 ∨ 16777215 < n) → GTraps i s 0x02)

/-- R22, R117, R283, R295 to R299: the records on defined handles, which wait for no operator. TVIEW and TRESHAPE of a placed source write their
destination's entry; TPLACE keeps a preferred level; TFREE goes on, and of a handle without a region only clears VALID; TSHARD of a handle that is not
placed, or whose region has been given up, changes its attribute and extents, and of a placed handle that needs no lowering its attribute alone. Each
traps with 0x03 where a handle it names is not VALID. -/
def Obligations.TensorRecords : Prop :=
  ∀ (s : State) (fuse d src h level attr : Nat) (box : List (Sow × Sow)) (dims : List Sow),
    let g := s.gfe
    let e := s.gent src
    let val := fun v => (operand s v).toNat
    let b := box.map fun p => (val p.1, val p.2)
    let ds := dims.map val
    let source := Valid s src ∧ e.placed = true ∧ s.isGone g.ctxid g.shard src = false
    let reshaped : HEnt := { e with hid := d, valid := true, version := 0, shard := 0, ndim := ds.length, dim := pad6 ds, str := denseStrides ds }
    let newAtt := (s.attrOf g attr).get?
    let attrGood := attr = 0 ∨ ∃ a, newAtt = some a ∧ a.dim < (s.gent h).ndim
    let gone := s.isGone g.ctxid g.shard h
    let room := s.outstanding s.act.gfe + (s.tshardSteps h attr).length ≤ 64
    let sized := ∀ x, s.rawEntry g.ctxid g.shard src = some x → box.length = x.ndim
    (Valid s d → source → box.length = e.ndim → e.layout = 0 → (∀ k o n, b[k]? = some (o, n) → n ≠ 0 ∧ o + n ≤ e.ext k) →
      Redefines (.tview fuse d src box) s d (viewEntry s g e d b)) ∧
    (Valid s d → source → e.dense = true → (∀ n ∈ ds, 1 ≤ n ∧ n ≤ 16777215) → e.count = ds.foldl (· * ·) 1 →
      Redefines (.treshape fuse d src dims) s d reshaped) ∧
    (Valid s h → exec (.tplace fuse h level) s = .next (({ s with
        prefer := if level = 15 then AMap.era (hkey g.ctxid g.shard h) s.prefer else AMap.ins (hkey g.ctxid g.shard h) level s.prefer }).onGfe fun g =>
      { g with pc := g.pc + 12, fuse := 0, fused := false, fuseLast := none })) ∧
    (Valid s h → Gives (.tfree fuse h 0) s fun t => t.traps = s.traps ∧ t.gfe.pc = g.pc + 8 ∧ t.gfe.g = g.g ∧ t.gfe.frames = g.frames) ∧
    (Valid s h → s.blockOf g.ctxid g.shard h = none → s.releases = [] → g.specs = [] →
      Redefines (.tfree fuse h 0) s h { s.gent h with valid := false }) ∧
    (Valid s h → attrGood → room → (s.gent h).placed = false ∨ gone = true → Redefines (.tshard fuse h attr) s h
      (({ (s.gent h).redim (localDims g newAtt (s.extOf h)) with shard := attr } : HEnt).place 0 0 15)) ∧
    (Valid s h → attrGood → room → (s.gent h).placed = true → gone = false → s.tshardSteps h attr = [] →
      Redefines (.tshard fuse h attr) s h { s.gent h with shard := attr }) ∧
    (¬Valid s h → GTraps (.tplace fuse h level) s 0x03 ∧ GTraps (.tfree fuse h 0) s 0x03 ∧ GTraps (.tshard fuse h attr) s 0x03) ∧
    (¬Valid s d → (sized → GTraps (.tview fuse d src box) s 0x03) ∧ GTraps (.treshape fuse d src dims) s 0x03) ∧
    (Valid s d → ¬Valid s src → (sized → GTraps (.tview fuse d src box) s 0x03) ∧ GTraps (.treshape fuse d src dims) s 0x03)

/-- R22 to R24, R300 to R307: the movement records with operands that agree as each asks. -/
def Sys2Proof.Claims.MovesIssue : Prop :=
  ∀ (s : State) (hd : Hd) (fuse h d a b tbl rnd rlog axis perm : Nat) (last : Bool) (v : Sow),
    let n := (operand s v).toNat
    let go := fun (i : Instr) => Plain i s → Issues i s
    let conv := fun f => f ≤ 10 ∧ f ≠ 9
    go (.tload fuse h v) ∧
    go (.tstore fuse last h v) ∧
    ((fm s a = fm s d ∨ conv (fm s a) ∧ conv (fm s d)) → (s.gent a).dims = (s.gent d).dims → go (.tcopy hd rnd d a)) ∧
    (fm s d = fm s a → (s.gent a).layout = 0 → fm s tbl = 8 → nd s a = 2 → nd s d = 2 → ext s d 0 = ext s a 0 → nd s tbl = 1 →
      cdiv n (2 ^ rlog) ≤ ext s tbl 0 → n ≤ ext s d 1 → go (.tgatherb hd rlog d a tbl v)) ∧
    (axis < nd s d → fm s a = fm s d → fm s b = fm s d → SameBut s a d axis → SameBut s b d axis → ext s d axis = ext s a axis + ext s b axis →
      go (.tconcat hd axis d a b)) ∧
    (fm s a = fm s d → nd s d = nd s a → perm < 8 ^ nd s a → (∀ k, k < nd s a → ∃ j, j < nd s a ∧ perm / 8 ^ j % 8 = k) →
      (∀ k, k < nd s d → ext s d k = ext s a (perm / 8 ^ k % 8)) → go (.ttrans hd d a perm)) ∧
    (¬Valid s d → s.outstanding s.act.gfe + s.lowCount (.tcopy hd rnd d a) < 64 →
      GTraps (.tcopy hd rnd d a) s 0x03)

/-- R22, R306, R317: TAPPEND issues without waiting: where the handle's own region holds the longer shard it grows in place, the entry has the new extents,
one operator is added, which waits for those that name the handle, and each operator issued earlier keeps the entry it was issued with. -/
def Sys2Proof.Claims.AppendGrows : Prop :=
  ∀ (s : State) (hd : Hd) (h x : Nat) (b : Block),
    let g := s.gfe
    let i := Instr.tappend hd h x
    let e := s.gent h
    let l := e.ndim - 1
    let n := ext s x l
    let grown := (e.grown n).place e.base (e.grown n).size e.res
    let fits := fm s x = e.fmt ∧ SameBut s x h l ∧ e.ext l + n ≤ 16777215
    Plain i s → fits → s.blockWith g.ctxid g.shard h = some b → e.base - s.blockVa b + (e.grown n).size ≤ b.size → Gives i s fun t =>
      t.mem = (s.setEntry g.ctxid g.shard grown).mem ∧ t.traps = s.traps ∧ t.blocks = s.blocks ∧ t.gfe.pc = g.pc + recordBytes i ∧
      (∃ o ∈ t.ops, o.record = i ∧ o.id = s.nextOp ∧ o.opc = g.pc ∧ ∀ p ∈ s.ops, p.namesNow g.ctxid g.shard h = true → p.id ∈ o.deps) ∧
      (∀ p ∈ s.ops, p.namesNow g.ctxid g.shard h = true → p.keep h s.nextTemp ∈ t.ops ∧
        AMap.find? t.temps s.nextTemp = (s.rawEntry g.ctxid g.shard h).map fun x => HEnt.bytes { x with hid := s.nextTemp })

/-- R22 to R24, R318 to R324: the products, the elementwise records and the reductions with operands that agree as each asks. -/
def Obligations.ProductAndElementRecords : Prop :=
  ∀ (s : State) (hd : Hd) (d a w t b c g op axis scale eps st0 st1 st2 st3 k : Nat) (acc layer integer : Bool) (m : Nat),
    let go := fun (i : Instr) => Plain i s → Unpinned i s → Issues i s
    let plain := fun h => fm s h ≤ 8
    let bias := fun (int : Bool) => Vector? s b (ext s d 0) fun f => f = 0 ∨ (int = true ∧ f = 8)
    let rest := nd s a = nd s d ∧ 2 ≤ nd s a ∧ ∀ k, 1 ≤ k → k < nd s a → ext s a k = ext s d k
    let weights := nd s w = 2 ∧ ext s w 0 = ext s a 0 ∧ ext s w 1 = ext s d 0
    (plain d → fm s w ≠ 9 → matPair (fm s w) (fm s a) = some (m, integer) → rest → weights → bias integer → go (.matmul hd acc d a w b)) ∧
    (plain d → (matPair 9 (fm s a)).isSome = true → fm s w = 9 → fm s t = 8 → (s.gent t).count = 256 → rest → weights → bias false →
      go (.matmulcb hd acc d a w t b scale)) ∧
    (plain d → plain a → (s.gent a).dims = (s.gent d).dims → Broadcasts s d b → Broadcasts s d c → go (.eltw hd d a b c st0 st1 st2 st3 k)) ∧
    (plain d → plain a → axis < nd s a → SameBut s a d axis → ext s d axis = 1 → go (.reduce hd op d a axis)) ∧
    (plain d → plain a → (s.gent a).dims = (s.gent d).dims → go (.softmax hd d a scale)) ∧
    (plain d → plain a → (s.gent a).dims = (s.gent d).dims → Vector? s g (ext s a 0) (fun f => f ≤ 8) → Vector? s b (ext s a 0) (fun f => f ≤ 8) →
      go (.norm hd layer d a g b eps)) ∧
    (plain d → plain a → (s.gent a).dims ≠ (s.gent d).dims → Plain (.softmax hd d a scale) s → Unpinned (.softmax hd d a scale) s →
      GTraps (.softmax hd d a scale) s 0x04)

/-- R22 to R24, R318, R322, R325 to R327: convolution, attention, embedding, selection and the rotator's records with operands that agree as each asks. -/
def Obligations.StructuredComputeRecords : Prop :=
  ∀ (s : State) (hd : Hd) (d a w b x q kk v heads scale sx sy px py dx dy : Nat) (kv : Sow) (causal gm integer : Bool) (m : Nat),
    let go := fun (i : Instr) => Plain i s → Unpinned i s → Issues i s
    let n := (operand s kv).toNat
    let dims := fun h => (s.gent h).dims
    let out := fun (e pad dil k st : Nat) => Int.fdiv ((e : Int) + 2 * pad - (dil + 1) * ((k : Int) - 1) - 1) (st + 1) + 1
    (fm s d ≤ 8 → fm s w ≠ 9 → matPair (fm s w) (fm s x) = some (m, integer) → nd s x = 4 → nd s d = 4 → ext s x 3 = ext s d 3 → nd s w = 4 →
      ext s w 0 = ext s x 0 → ext s w 3 = ext s d 0 → (ext s d 1 : Int) = out (ext s x 1) px dx (ext s w 1) sx →
      (ext s d 2 : Int) = out (ext s x 2) py dy (ext s w 2) sy → Vector? s b (ext s d 0) (fun f => f = 0 ∨ (integer = true ∧ f = 8)) →
      go (.convOp hd d x w b sx sy px py dx dy)) ∧
    (fm s d ≤ 2 → fm s kk ≠ 9 → (matPair (fm s kk) (fm s q)).isSome = true → (matPair (fm s v) (fm s v)).isSome = true → nd s q = 2 →
      dims d = dims q → nth 0 (s.extOf d) 0 % heads = 0 → nd s kk = 2 → ext s kk 0 = ext s q 0 → dims v = dims kk →
      go (.attn hd causal d q kk v heads scale)) ∧
    (fm s w ≤ 8 → fm s d = fm s w → fm s x = 8 → nd s w = 2 → dims d = ext s w 0 :: dims x → go (.embed hd d w x)) ∧
    (fm s a ≤ 8 → fm s d = fm s a → fm s x = 8 → 1 ≤ n → n ≤ ext s a 0 → SameBut s a d 0 → ext s d 0 = n → SameBut s a x 0 → ext s x 0 = n →
      go (.topk hd d a x kv)) ∧
    (fm s a ≤ 8 → fm s d = 8 → SameBut s a d 0 → ext s d 0 = 1 → go (.argmax hd d a)) ∧
    (fm s d = 0 → fm s a = 0 → nd s a = 2 → 1 ≤ ext s a 0 → ext s a 0 ≤ 32 → dims d = [ext s a 0, ext s a 0] → go (.qr hd gm d a)) ∧
    (fm s d = 0 → fm s a = 0 → fm s b = 0 → nd s a = 2 → 1 ≤ ext s a 0 → ext s a 0 ≤ 31 → dims d = [ext s a 0] → dims b = [1, ext s a 1] →
      go (.lsq hd gm d a b)) ∧
    (fm s d = 0 → fm s x = 0 → fm s w = 8 → dims d = dims x → ext s x 0 ≤ 32 → 2 ≤ nd s x → nd s x ≤ 3 → (dims w = [32] ∨ dims w = [32, ext s x 2]) →
      go (.rotl hd gm d x w))

/-- R282, R329, R330, R332, R343: the collectives and the records of installed operators as they issue; a SEND or RECV whose peer is outside the parts does
nothing on this part; an opcode with nothing installed traps with cause 0x01. -/
def Obligations.CollectiveAndUserRecords : Prop :=
  ∀ (s : State) (hd : Hd) (d x axes dim rop tag ring fuse flags opc : Nat) (v : Sow) (hs : List (Nat × Nat)) (m : Installed),
    let g := s.gfe
    let n := (operand s v).toNat
    let parts := if axes = 0 then g.width else if axes = 1 then g.chips else g.width * g.chips
    let part := if axes = 0 then g.shard else if axes = 1 then g.rank else g.shard + g.width * g.rank
    let blk := (ext s x dim + parts - 1) / parts
    let go := fun (i : Instr) => Plain i s → Issues i s
    let plain := fm s d ≤ 8 ∧ fm s x ≤ 8
    let idle := fun (i : Instr) => Plain i s → parts ≤ n → Gives i s fun t => t.mem = s.mem ∧ t.traps = s.traps ∧ t.ops = s.ops ∧ t.nextOp = s.nextOp ∧
      t.gfe.pc = g.pc + recordBytes i
    let user := Instr.userOperator fuse flags opc hs
    (fm s d = fm s x → dim < nd s x → SameBut s x d dim → go (.allgather hd d x axes dim)) ∧
    (plain → dim < nd s x → SameBut s x d dim → ext s d dim = min blk (ext s x dim - part * blk) → go (.redscat hd d x axes dim rop)) ∧
    (plain → (s.gent d).dims = (s.gent x).dims → go (.allred hd d x axes rop)) ∧
    (fm s d = fm s x → n < parts → go (.bcast hd d x axes v)) ∧
    (n < parts → go (.send hd x axes tag v) ∧ go (.recv hd d ring axes tag v)) ∧
    idle (.send hd x axes tag v) ∧ idle (.recv hd d ring axes tag v) ∧
    (512 ≤ opc → opc < 1024 → s.installedAt g.ctxid opc = some m → hs.length = (m.foot.length + 1) / 2 →
      (m.foot.length % 2 = 1 → (nth (0, 0) hs (m.foot.length / 2)).2 = 0) →
      (∀ o ∈ s.opdsOf user, o.level = 4 → (s.gent o.hid).pin = 4 ∨ (s.gent o.hid).pin = 15) → go user) ∧
    (s.installedAt g.ctxid opc = none → s.outstanding s.act.gfe < 64 → GTraps user s 0x01)

/-- R336, R379, R386: SPAWNB of a placed, aligned card in a region with an open root puts the card on the task queue, with 2^30 of gravity that ISSUED counts;
on a shard that does not perform it, it only goes on; a closed root traps with 0x0F, a region without one with 0x0E. QUIET waits for every earlier operator
of its stream, probes, and goes on once the root is quiet. -/
def Obligations.TaskRecords : Prop :=
  ∀ (s u : State) (fuse card q r : Nat) (each : Bool) (slot rcb : Sow) (k : Card),
    let g := s.gfe
    let h := s.gent card
    let i := Instr.spawnb fuse each card slot
    let no := (operand s slot).toNat
    let here := Valid s card
    let mine := here ∧ (each = true ∨ g.shard = 0) ∧ s.writerOf g.ctxid g.shard card = false ∧ h.placed = true ∧ s.isGone g.ctxid g.shard card = false ∧
      32 ≤ h.size ∧ h.base % 32 = 0 ∧ s.cardAt g.ctxid h.base = .ok k ∧ (k.argh ≠ 0 → s.writerOf g.ctxid g.shard k.argh = false) ∧ no ≤ 63 ∧
      s.gfeQueue no = some q ∧ (s.queue q).isTask = true
    let quiet := Instr.quiet fuse rcb
    let waiting := gfeWaiter s.act.gfe
    (mine → s.rootOf g.ctxid g.rcb = some r → s.closed r = false → (s.queue q).state = 1 → (s.queue q).elems.length < (s.queue q).cap →
      (s.queue q).elems.length ≤ (s.queue q).hwm → (s.writeCard g.ctxid h.base).isOk = true → (s.rootAdd r 0x40 (2 ^ 30)).writeCard g.ctxid h.base = .ok u →
      Gives i s fun t => t.mem = u.mem ∧ (t.queue q).elems = (s.queue q).elems ++ [⟨h.base, g.shard, s.clk⟩] ∧ t.traps = s.traps ∧
        t.gfe.pc = g.pc + recordBytes i ∧ t.gfe.g = g.g) ∧
    (here → each = false → g.shard ≠ 0 → exec i s = .next (s.onGfe fun g => { g with pc := g.pc + recordBytes i, fuse := recordFuse i, fused := false })) ∧
    (mine → s.rootOf g.ctxid g.rcb = none → GTraps i s 0x0E) ∧
    (mine → s.rootOf g.ctxid g.rcb = some r → s.closed r = true → GTraps i s 0x0F) ∧
    (g.block = .none → s.streamQuiet quiet = true → s.quietRoot rcb = some r → exec quiet s =
      .next ({ s with grav := s.grav ++ (upTo 8).map fun d => GravMsg.probe r d waiting,
                      wakes := s.wakes.filter fun w => w ≠ (r, waiting) }.onGfe fun g => { g with block := .quiet r, joint := g.joint + 1 })) ∧
    (g.block = .none → (∃ j ∈ g.set, (s.gfeAt j).joint = g.joint ∧ s.busyOps j = true) → exec quiet s = .next s) ∧
    (g.block = .quiet r → s.rootQuiet r waiting = true → dominates (s.clockOf (s.act.gfe / 4)) (s.clockOf (homeDie r)) = true →
      exec quiet s = .next (s.onGfe fun g => { g with block := .none, pc := g.pc + recordBytes quiet, fuse := recordFuse quiet, fused := false })) ∧
    (g.block = .none → s.streamQuiet quiet = true → s.quietRoot rcb = none → GTraps quiet s 0x0E)

/-- R338, R339 to R341, R344, R345, R408, R421: the speculation and system records. SPECIN that finds a history region makes its handle speculable, SPECOFF turns its
entries off; OPINSTALL on shard 0, all others waiting, installs a good image in every core; OPREMOVE refuses the opcode, then frees its
indices once no instance is left; SYSCALL, its release's markers sent, hands its record over and waits. -/
def Obligations.SystemRecords : Prop :=
  ∀ (s u : State) (fuse h kind depth alpha abs rel opc r h1 h2 f : Nat) (mean idem each : Bool) (addr pb : Sow) (args : List Sow) (m : Installed)
    (bs : List Nat),
    let g := s.gfe
    let k := s.act.gfe
    let specin := Instr.specin fuse h kind depth mean alpha abs rel
    let install := Instr.opinstall fuse idem addr opc pb
    let remove := Instr.opremove fuse opc
    let first := g.shard = 0 ∧ g.set.Nodup ∧ s.othersWait = true
    let image := s.readImage idem ((operand s addr).toNat % 2 ^ 56) opc ((operand s pb).toNat % 2 ^ 32)
    let calls := if each = true then s.streamQuiet (.syscall fuse each args) = true else g.shard = 0 ∧ s.othersWait = true
    let onward := fun (i : Instr) (t : State) => ∀ j ∈ g.set, t.gfeAt j =
      { s.gfeAt j with pc := (s.gfeAt j).pc + recordBytes i, block := .none, fuse := recordFuse i, fused := false }
    (Valid s h → (s.gent h).fmt < 9 → (∀ p ∈ g.specs, p.hid ≠ h) →
      (s.offSpecs k h).historyRegion (issueAsker g k) (s.gent h) = .ok ((r, h1, h2), u) → Gives specin s fun t =>
        t.gfe.pc = g.pc + recordBytes specin ∧ t.mem = u.mem ∧ t.traps = s.traps ∧
        t.gfe.specs.getLast? = some ⟨h, kind, depth + 1, mean, alpha, abs, rel, u.nextOp, h1, h2, 0, r, false, false⟩) ∧
    (Valid s h → 9 ≤ (s.gent h).fmt → GTraps specin s 0x02) ∧
    (Valid s h → Gives (.specoff fuse h) s fun t => (∀ p ∈ t.gfe.specs, p.hid = h → p.off = true) ∧
      t.gfe.pc = g.pc + recordBytes (.specoff fuse h) ∧ t.traps = s.traps ∧ t.ops = s.ops) ∧
    (s.busyOps k = false → first → image = .ok m bs → Gives install s fun t =>
      t.installed = s.installed ++ [m] ∧ t.mem = s.mem ∧ t.traps = s.traps ∧ onward install t ∧
      (∀ n, n < bs.length → AMap.find? t.store (m.first + n) = some (BitVec.ofNat 256 (relocate m.first (nth 0 bs n))))) ∧
    (s.busyOps k = false → g.shard ≠ 0 → exec install s = .next (s.onGfe fun g => { g with block := .shard0 })) ∧
    (first → g.block = .none → s.installedAt g.ctxid opc = some m → Gives remove s fun t =>
      t.gfe.block = .removing m.first ∧ t.gfe.pc = g.pc ∧ t.installedAt g.ctxid opc ≠ some m ∧ t.store = s.store) ∧
    (first → g.block = .removing f → s.instances g.ctxid f = false → Gives remove s fun t =>
      onward remove t ∧ (∀ x ∈ t.installed, ¬(x.ctxid = g.ctxid ∧ x.first = f)) ∧ t.mem = s.mem ∧ t.traps = s.traps) ∧
    (first → g.block = .none → s.installedAt g.ctxid opc = none → GTraps remove s 0x02) ∧
    (s.busyOps k = false → calls → g.released = false → s.windowFull (k / 4) = false →
      exec (.syscall fuse each args) s = .next ((s.sendMarkers (k / 4)).onGfe fun g => { g with released := true })) ∧
    (s.busyOps k = false → calls → g.released = true →
      s.gfeCall (args.map fun v => (operand s v).toNat) = .ok u → Gives (.syscall fuse each args) s fun t =>
        t.mem = u.mem ∧ t.gfe.block = .svc s.svcToken ∧ t.gfe.pc = g.pc ∧ t.traps = s.traps ∧
        t.svcCalls = s.svcCalls ++ [⟨s.svcToken, (AMap.get (0 : BitVec 64) g.g 1).toNat, g.ctxid, g.rcb, 0, k + 1⟩]) ∧
    (s.busyOps k = false → each = false → g.shard ≠ 0 → exec (.syscall fuse each args) s = .next (s.onGfe fun g => { g with block := .shard0 })) ∧
    (s.busyOps k = true → exec (.syscall fuse each args) s = .next s)
/-! ### Shoot-down, walks, hardware queues -/

namespace Sys2Proof.Claims

open Sys2Proof.Machine

/-- A translation that a shoot-down command of a kind covers, by its G bit, device context and page (R105): kind 0 every one, 1 those of the command's
context with G = 0, 2 those of them whose page overlaps the range, 3 those with G = 1 whose page overlaps it, 4 both. -/
def Covers (kind v first : Nat) (glob : Bool) (ctxid va size : Nat) : Prop :=
  let own := glob = false ∧ ctxid = v / 2 ^ 8 % 64
  let pages := if v / 2 ^ 16 % 2 ^ 32 = 0 then 2 ^ 32 else v / 2 ^ 16 % 2 ^ 32
  let near := va < first + 4096 * pages ∧ first < va + size
  match kind with
  | 0 => True
  | 1 => own
  | 2 => own ∧ near
  | 3 => glob = true ∧ near
  | _ => (own ∨ glob = true) ∧ near

/-- A TLB entry that a command covers. -/
def Shot (kind v first : Nat) (e : TlbEnt) : Prop := Covers kind v first (bitOf e.pte 5) e.ctxid e.va e.size

/-- What the TLBs of the dies hold after a command: of the dies meant, the entries it does not match; of the others, all. -/
def Swept (s t : State) (dies : Nat → Prop) (kind v first : Nat) : Prop :=
  (∀ c e, e ∈ (t.coreAt c).tlb ↔ e ∈ (s.coreAt c).tlb ∧ ¬(dies (c / 128) ∧ Shot kind v first e)) ∧
  (∀ c e, e ∈ AMap.get [] t.ctlb c ↔ e ∈ AMap.get [] s.ctlb c ∧ ¬(dies (c / 16) ∧ Shot kind v first e)) ∧
  t.mem = s.mem ∧ t.ctxs = s.ctxs

/-- SDCTL of a die. -/
def sdctlOf (s : State) (die : Nat) : Nat := (AMap.get (0 : BitVec 64) s.sdctl die).toNat

/-- Nothing of a die may still use an entry that a command covers (R106): its stores have been acknowledged, its loads answered, its gated stores
performed (but for those of a halted core, log 64), save accesses through translations that the command does not cover. -/
def Drained (s : State) (die v first : Nat) : Prop :=
  let other := fun (ctxid : Nat) => (v % 8 = 1 ∨ v % 8 = 2) ∧ ctxid ≠ v / 2 ^ 8 % 64
  let clear := fun (ctxid : Nat) (pages : List (Nat × Nat × Bool)) => ∀ p ∈ pages, ¬Covers (v % 8) v first p.2.2 ctxid p.1 p.2.1
  (∀ a ∈ s.acks, a.ck / 512 = die → a.performed = true ∨ ∃ c ∈ s.ctxOfUid a.uid, clear c a.pages) ∧
  (∀ p ∈ s.ctxs, p.1 / 512 = die → (∀ w ∈ p.2.var, w.waiting = 0 ∨ clear p.2.work.ctxid w.pages) ∧
    (p.2.remote ≠ some none ∨ other p.2.work.ctxid) ∧
    ((s.coreAt (p.1 / 4)).halted = true ∨ ∀ g ∈ p.2.gated ++ p.2.wbuf, clear p.2.work.ctxid g.pages))

/-- What SDCTL reads while a command is active: its fields, GO 1, ERR 0, the reserved bits 0. -/
def sdActive (v : Nat) : Nat := v % 8 + v / 2 ^ 8 % 64 * 2 ^ 8 + v / 2 ^ 16 % 2 ^ 32 * 2 ^ 16 + 2 ^ 63

end Sys2Proof.Claims

/-- R105: a write of SDCTL that sets GO, names a kind of 0 to 4 and finds GO 0 removes the entries it matches from every core TLB and cluster TLB of its die,
of no other, leaves GO 1, and keeps its range whatever SDVA becomes; one that finds GO 1 sets ERR and does nothing else. -/
def Sys2Proof.Claims.DieShootDowns : Prop :=
  ∀ (s : State) (die v kind : Nat) (i : Instr),
    (i, kind) ∈ [(.sdctlKindAll die v, 0), (.sdctlKindCtx die v, 1), (.sdctlKindCtxRange die v, 2), (.sdctlKindGlobalRange die v, 3),
      (.sdctlKindUnion die v, 4)] → bitOf v 63 = true → v % 8 = kind →
    let first := (AMap.get (0 : BitVec 64) s.sdva die).toNat / 2 ^ 12 % 2 ^ 44 * 4096
    (bitOf (sdctlOf s die) 63 = false → Gives i s fun t =>
      Swept s t (fun d => d = die) kind v first ∧ sdctlOf t die = sdActive v ∧ AMap.find? t.sdfirst die = some first ∧
        ∀ d, d ≠ die → sdctlOf t d = sdctlOf s d) ∧
    (bitOf (sdctlOf s die) 63 = true → Gives i s fun t =>
      t = { s with sdctl := t.sdctl } ∧ bitOf (sdctlOf t die) 62 = true ∧ (∀ b, b < 64 → b ≠ 62 → bitOf (sdctlOf t die) b = bitOf (sdctlOf s die) b) ∧
        ∀ d, d ≠ die → sdctlOf t d = sdctlOf s d)

/-- R107: a write of PSDCTL does the same on every die in service. R106: an engine clears GO once the accesses through the entries it may have removed have
been performed (log 40); PSDCTL's GO clears once that holds of every die in service. -/
def Sys2Proof.Claims.PackageShootDownsAndAcknowledgements : Prop :=
  ∀ (s : State) (v kind die : Nat) (i : Instr),
    let mine := Drained s die (sdctlOf s die) (AMap.get 0 s.sdfirst die)
    let all := ∀ d ∈ s.dies, Drained s d s.psdctl.toNat (AMap.get 0 s.sdfirst 8)
    let first := s.psdva.toNat / 2 ^ 12 % 2 ^ 44 * 4096
    ((i, kind) ∈ [(.psdctlKindAll v, 0), (.psdctlKindCtx v, 1), (.psdctlKindCtxRange v, 2), (.psdctlKindGlobalRange v, 3), (.psdctlKindUnion v, 4)] →
      bitOf v 63 = true → v % 8 = kind → bitOf s.psdctl.toNat 63 = false → Gives i s fun t =>
        Swept s t (fun d => d ∈ s.dies) kind v first ∧ t.psdctl.toNat = sdActive v ∧ t.sdctl = s.sdctl ∧ AMap.find? t.sdfirst 8 = some first) ∧
    (bitOf (sdctlOf s die) 63 = true → mine → Gives (.shootdownAcknowledge die) s fun t =>
      t = { s with sdctl := t.sdctl } ∧ sdctlOf t die = sdctlOf s die - 2 ^ 63) ∧
    (bitOf (sdctlOf s die) 63 = true → ¬mine → exec (.shootdownAcknowledge die) s = .next s) ∧
    (bitOf s.psdctl.toNat 63 = true → all →
      exec .packageShootdownAcknowledge s = .next { s with psdctl := BitVec.ofNat 64 (s.psdctl.toNat - 2 ^ 63) }) ∧
    (bitOf s.psdctl.toNat 63 = true → ¬all → exec .packageShootdownAcknowledge s = .next s)

/-- R99 to R102: a walk for the access of a context's next bundle to the general range that misses its TLBs, and for a write through an entry whose D is 0, puts
a leaf that permits the access into the core's TLB, with A set in the entry and in memory, and D for a write; one that finds none, or a leaf that does not
permit it, or that waits for a table of another die (log 20), changes nothing; nor does one that no access asks for. -/
def Sys2Proof.Claims.PageTableWalks : Prop :=
  ∀ (s : State) (core x ctxid va p a : Nat) (wr : Bool),
    let hit := s.tlb core ctxid va
    let due := hit = none ∨ (wr = true ∧ ∃ e, hit = some e ∧ bitOf e.pte 7 = false ∧ bitOf e.pte 11 = false)
    let p1 := p + (if bitOf p 6 then 0 else 2 ^ 6) + (if wr = true ∧ bitOf p 7 = false ∧ bitOf p 11 = false then 2 ^ 7 else 0)
    let n := pageSize (p / 2 ^ 52 % 2 ^ 4)
    let permits := leafFault p ⟨ctxid, 0, 0, 0, (s.envOf (4 * core + x)).fw, some core, dieOfCore core⟩ (if wr then .write else .read) = none
    let asks := va < windowVa ∧ x < 4 ∧ s.wantsPage (4 * core + x) ctxid va wr = true ∧ ∀ y, y < x → s.wantsPage (4 * core + y) ctxid va wr = false
    (asks → due → s.walk (dieOfCore core) ctxid va = .leaf p a → permits → Gives (.pageTableWalk core ctxid va wr) s fun t =>
      t.mem = (if p1 = p then s.mem else s.mem.writeNat a 8 (Nat.lor (s.mem.readNat a 8) (p1 - p))) ∧ t.tlb core ctxid va = some ⟨ctxid, va / n * n, n, p1, a⟩ ∧ t.ctxs = s.ctxs ∧
        ∀ c, c ≠ core → t.coreAt c = s.coreAt c) ∧
    (asks → due → s.walk (dieOfCore core) ctxid va = .leaf p a → ¬permits → exec (.pageTableWalk core ctxid va wr) s = .next s) ∧
    (asks → due → s.walk (dieOfCore core) ctxid va ∈ [.fault, .wait] → exec (.pageTableWalk core ctxid va wr) s = .next s) ∧
    (asks → ¬due → exec (.pageTableWalk core ctxid va wr) s = .next s) ∧
    (windowVa ≤ va ∨ (∀ y, y < 4 → s.wantsPage (4 * core + y) ctxid va wr = false) ∧ s.cmdWantsPage core ctxid va wr = false →
      exec (.pageTableWalk core ctxid va wr) s = .next s)

namespace Sys2Proof.Claims

open Sys2Proof.Machine

/-- Of the registers of a queue only STATE has changed, and of its other state what is said beside. -/
def Restated (a b : HwQueue) (state : Nat) : Prop :=
  a.qcfg.toNat = b.qcfg.toNat % 2 ^ 62 + state * 2 ^ 62 ∧ a.qrcb = b.qrcb ∧ a.qsave = b.qsave ∧ a.qsig = b.qsig

/-- A queue event whose effect is on one queue alone. -/
def OnQueue (i : Instr) (s : State) (qi : Nat) (P : HwQueue → Prop) : Prop :=
  Gives i s fun t => P (t.queue qi) ∧ t = { s with queues := t.queues } ∧ ∀ j, j ≠ qi → t.queue j = s.queue j

/-- What a wake does, from the state u that it leaves otherwise (R353, R355): a sleeping queue becomes active, an active one stays so, an unmapped or unmapping one
sets its bit of WAKEPEND. -/
def Wakes (i : Instr) (s u : State) (qi : Nat) : Prop :=
  let q := s.queue qi
  (q.state = 2 → OnQueue i s qi fun r => Restated r q 1 ∧ r.elems = q.elems) ∧
  (q.state = 1 → exec i s = .next u) ∧
  (q.state = 0 ∨ q.state = 3 → exec i s = .next (u.setRcb q.owner.1 q.owner.2 0x58 8 (s.rcbField q.owner.1 q.owner.2 0x58 8 ||| 2 ^ q.slot)))

end Sys2Proof.Claims

/-- R352, R353, R355, R452: a map of an unmapped queue whose fields are in range and whose backing area can be read loads COUNT elements and makes the
queue active, and takes a latched wake; an unmap of an active or sleeping queue makes it unmapping; a sleep makes an active queue sleep; each
is ignored in every other state; one whose area stands behind a route waits (log 20). A wake comes of QWAKE, and of a write that leaves the signal word
nonzero while EN is 1. -/
def Sys2Proof.Claims.QueueMapsUnmapsAndWakes : Prop :=
  ∀ (s : State) (die k v a b w : Nat) (h l : List Byte),
    let qi := 256 * die + k
    let q := s.queue qi
    let e := s.unitEnv q.owner.1
    let va := q.qsave.toNat % 2 ^ 56
    let n := leNat (h.take 4)
    let sound := 4 ≤ q.qcfg.toNat / 2 ^ 49 % 2 ^ 4 ∧ q.lwm ≤ q.hwm ∧ q.hwm ≤ q.cap
    let pend := s.rcbField q.owner.1 q.owner.2 0x58 8
    (q.state = 0 → sound → s.unitRead e va 16 = .ok h → n ≤ q.cap → s.unitRead e (va + 16) (16 * n) = .ok l → Gives (.queueMap die k) s fun t =>
      Restated (t.queue qi) q 1 ∧ (t.queue qi).elems.length = n ∧
      (∀ j, j < n → let w := l.drop (16 * j)
        nth ⟨0, 0, 0⟩ (t.queue qi).elems j =
          if q.isTask = true then ⟨leNat (w.take 8) % 2 ^ 56, leNat ((w.drop 8).take 8) % 8, s.clk⟩ else ⟨leNat (w.take 16), 0, s.clk⟩) ∧
      (∀ j, j ≠ qi → t.queue j = s.queue j) ∧
      t.mem = (if bitOf pend q.slot then (s.setRcb q.owner.1 q.owner.2 0x58 8 (pend - 2 ^ q.slot)).mem else s.mem)) ∧
    (q.state = 0 → sound → (∃ b, s.unitRead e va 16 = .error (0, b)) → exec (.queueMap die k) s = .next { s with waiting := s.waiting ++ [(true, qi)] }) ∧
    (¬(q.state = 0 ∧ sound) → exec (.queueMap die k) s = .next s) ∧
    (q.state = 1 ∨ q.state = 2 → OnQueue (.queueUnmap die k) s qi fun r => Restated r q 3 ∧ r.elems = q.elems) ∧
    (q.state = 0 ∨ q.state = 3 → exec (.queueUnmap die k) s = .next s) ∧
    (q.state = 1 → OnQueue (.queueSleep die k) s qi fun r => Restated r q 2 ∧ r.elems = q.elems) ∧
    (q.state ≠ 1 → exec (.queueSleep die k) s = .next s) ∧
    Wakes (.qwake die k v) s s qi ∧
    (bitOf q.qsig.toNat 63 = true → s.sigPlace q = some a → b < a + 8 → a < b + w → s.mem.readNat a 8 ≠ 0 → ((s.signalled b w).queue qi).due = true) ∧
    (q.due = true → s.unitRead e (q.qsig.toNat % 2 ^ 56) 8 = .ok l → leNat l = v →
      Wakes (.qsigWake die k v) s (s.onQueue qi fun q => { q with due := false }) qi) ∧
    (q.due = false → exec (.qsigWake die k v) s = .next s)

/-- R352, R452: an unmapped queue takes TYPE, SLOT, LOG2CAP, HWM and LWM of a QCFG write, any other only watermarks in range. An unmapping queue writes
COUNT and its elements to its backing area and becomes unmapped; where the area faults, it keeps its contents and a trap record with cause
0x07 and FADDR the first byte that faulted waits for delivery. New watermarks act on the depth at once. -/
def Sys2Proof.Claims.QueueFieldsAndSaves : Prop :=
  ∀ (s u : State) (die k v f va : Nat),
    let qi := 256 * die + k
    let q := s.queue qi
    let area := leBytes q.elems.length 4 ++ leBytes 0 12 ++
      q.elems.flatMap fun e => if q.isTask then leBytes e.val 8 ++ leBytes e.plane 8 else leBytes e.val 16
    let lw := v / 2 ^ 17 % 2 ^ 16
    let hw := v / 2 ^ 33 % 2 ^ 16
    let save := s.unitWrite (s.unitEnv q.owner.1) (q.qsave.toNat % 2 ^ 56) area
    (q.state = 0 → exec (.qcfgUpdate die k v) s = .next (s.onQueue qi fun q => { q with qcfg := BitVec.ofNat 64 (v / 2 ^ 17 % 2 ^ 43 * 2 ^ 17) })) ∧
    (q.state ≠ 0 → lw ≤ hw → hw ≤ q.cap → OnQueue (.qcfgUpdate die k v) s qi fun r =>
      r.lwm = lw ∧ r.hwm = hw ∧
      r = { q with qcfg := r.qcfg, high := (q.high || decide (hw < q.elems.length)) && !decide (q.elems.length < lw) } ∧ ∀ b, b < 17 ∨ 49 ≤ b → bitOf r.qcfg.toNat b = bitOf q.qcfg.toNat b) ∧
    (q.state ≠ 0 → ¬(lw ≤ hw ∧ hw ≤ q.cap) → OnQueue (.qcfgUpdate die k v) s qi fun r => r = q) ∧
    (q.state = 3 → q.faulted = false → save = .ok u → Gives (.unmapSave die k) s fun t =>
      t.mem = u.mem ∧ Restated (t.queue qi) q 0 ∧ (t.queue qi).elems = [] ∧ t.ctxs = u.ctxs ∧ t.traps = u.traps) ∧
    (q.state = 3 → q.faulted = false → save = .error (0, va) → exec (.unmapSave die k) s = .next s) ∧
    (q.state = 3 → q.faulted = false → f ≠ 0 → save = .error (f, va) → Gives (.unmapSave die k) s fun t =>
      t.mem = s.mem ∧ Restated (t.queue qi) q 3 ∧ (t.queue qi).elems = q.elems ∧ (t.queue qi).faulted = true ∧ (t.queue qi).faultAt = va ∧
        ∃ r, t.traps = s.traps ++ [r] ∧ r.cause = 7 ∧ r.res = true ∧ r.ctxid = q.owner.1 ∧ r.rcb = q.owner.2 ∧
          (r.bytes.drop 0x20).take 8 = leBytes (va % 2 ^ 56) 8) ∧
    (q.state ≠ 3 ∨ q.faulted = true → exec (.unmapSave die k) s = .next s)
/-! ### Registers of the I/O die, islands, interrupt sources, routes, inbound traffic, recovery -/

/-- R448, R106: a write of LVL starts a change of an island, during which bit 63 reads 1; the end of the change clears it; island 1,055 ignores writes. The
power limit lowers a core island of the highest level, and reports. A core island at LVL 0 with no work may be gated, which empties its core's
TLB. R426, R437, R439: thermal alerts, watchdogs and port events reach the control cores and change nothing else. A debugger's halt keeps the core from
issuing, and changes nothing else, until it ends. -/
def Sys2Proof.Claims.IslandsAndAlerts : Prop :=
  ∀ (s : State) (i v core : Nat),
    let lvl := fun (j : Nat) => s.island j % 16
    let busy := fun (j : Nat) => bitOf (s.island j) 63
    (i < 1055 → Gives (.islandLevelChange i v) s fun t => t.island i = v % 16 + 2 ^ 63 ∧ (∀ j, j ≠ i → t.island j = s.island j) ∧
      t.mem = s.mem ∧ t.ctxs = s.ctxs ∧ t.cores = s.cores) ∧
    (1055 ≤ i → exec (.islandLevelChange i v) s = .next s) ∧
    (busy i = true → Gives (.islandChangeDone i) s fun t => t.island i = lvl i ∧ (∀ j, j ≠ i → t.island j = s.island j) ∧
      t.mem = s.mem ∧ t.ctxs = s.ctxs ∧ (∀ c, c ≠ i → t.coreAt c = s.coreAt c) ∧ (i < 1024 → lvl i ≠ 0 → (t.coreAt i).gated = false)) ∧
    (i < 1024 → lvl i ≠ 0 → busy i = false → (∀ j, j < 1024 → lvl j ≤ lvl i) → Gives (.powerLimit i) s fun t =>
      t.island i = lvl i - 1 + 2 ^ 63 ∧ (∀ j, j ≠ i → t.island j = s.island j) ∧ t.out = s.out ++ [.wired 0 i] ∧ t.ctxs = s.ctxs ∧ t.mem = s.mem) ∧
    (lvl core = 0 → busy core = false → (∀ x, x < 4 → (s.ctxAt (4 * core + x)).status = .empty) → (s.coreAt core).cmds = [] →
      (s.coreAt core).saved = [] → exec (.coreIslandPowerGating core) s = .next (s.onCoreAt core fun k => { k with gated := true, tlb := [] })) ∧
    (lvl core ≠ 0 → exec (.coreIslandPowerGating core) s = .next s) ∧
    exec (.debuggerHalt core) s = .next (s.onCoreAt core fun k => { k with halted := true }) ∧
    exec (.debuggerHaltEnd core) s = .next (s.onCoreAt core fun k => { k with halted := false }) ∧
    exec (.thermalAlert i) s = .next (s.say (.wired 1 i)) ∧
    exec .watchdog s = .next (s.say (.wired 2 0)) ∧
    exec (.pciePortEvent i) s = .next (s.say (.wired 3 i)) ∧
    exec (.ethernetUalinkPortEvent i) s = .next (s.say (.portEvent i))

/-- R105, R107, R352, R390, R425, R429, R431, R440: what a control core's write of a register leaves there: the fields of the register, its reserved bits
zero; QRCB and QSAVE only while their queue is unmapped; DEVSTAT and CSSTAT keep what they are; an offset that names no register is an access fault; a register that starts
an operation does what that operation's event does. -/
def Sys2Proof.Claims.MmioWrites : Prop :=
  ∀ (s : State) (d k v : Nat), v < 2 ^ 64 → d < 8 → k < 256 →
    let die := 0x1000000 + d * 0x100000
    let qr := die + 0x1000 + 0x40 * k
    let qi := 256 * d + k
    exec (.mmioRegisterWrite 0x08 v) s = .next { s with psdva := BitVec.ofNat 64 (v / 2 ^ 12 % 2 ^ 44 * 2 ^ 12) } ∧
    exec (.mmioRegisterWrite 0x28 v) s = .next (s.setIo 0x28 v) ∧
    exec (.mmioRegisterWrite 0x40 v) s = .next (s.setIo 0x40 (v / 2 ^ 63 * 2 ^ 63 + v % 64)) ∧
    exec (.mmioRegisterWrite 0x48 v) s = .next (s.setIo 0x48 (v % 1024)) ∧
    exec (.mmioRegisterWrite 0x50 v) s = .next (s.setIo 0x50 (v / 2 ^ 6 % 2 ^ 33 * 2 ^ 6)) ∧
    exec (.mmioRegisterWrite (die + 0x08) v) s =
      .next { s with sdva := AMap.ins d (BitVec.ofNat 64 (v / 2 ^ 12 % 2 ^ 44 * 2 ^ 12)) s.sdva } ∧
    exec (.mmioRegisterWrite (die + 0x10) v) s = .next { s with graddr := AMap.ins d (BitVec.ofNat 64 (v % 2 ^ 62)) s.graddr } ∧
    exec (.mmioRegisterWrite (qr + 0x08) v) s =
      .next (if (s.queue qi).state = 0 then s.onQueue qi fun q => { q with qrcb := BitVec.ofNat 64 (v % 2 ^ 62) } else s) ∧
    exec (.mmioRegisterWrite (qr + 0x10) v) s =
      .next (if (s.queue qi).state = 0 then s.onQueue qi fun q => { q with qsave := BitVec.ofNat 64 (v % 2 ^ 56) } else s) ∧
    exec (.mmioRegisterWrite (qr + 0x18) v) s =
      .next (s.onQueue qi fun q => { q with qsig := BitVec.ofNat 64 (v / 2 ^ 63 * 2 ^ 63 + v % 2 ^ 56) }) ∧
    (∀ o, o ∈ [0x38, 0x60] → exec (.mmioRegisterWrite o v) s = .next s) ∧
    (∀ o, o ∈ [0x68, 0x04, 0x3100, 0x1000000 + 0x800000] → exec (.mmioRegisterWrite o v) s = .next (s.say (.inboundFault 0 o 7))) ∧
    exec (.mmioRegisterWrite 0x10 v) s = exec (.rpre v) s ∧
    exec (.mmioRegisterWrite 0x20 v) s = exec (.launch v) s ∧
    exec (.mmioRegisterWrite 0x30 v) s = exec (.svcres v) s ∧
    (v / 2 ^ 62 = 0 → exec (.mmioRegisterWrite 0x18 v) s = exec (.fresRetry v) s) ∧
    (v / 2 ^ 62 = 1 → exec (.mmioRegisterWrite 0x18 v) s = exec (.fresFail v) s) ∧
    (2 ^ 63 ≤ v → v % 8 = 1 → exec (.mmioRegisterWrite 0x00 v) s = exec (.psdctlKindCtx v) s ∧
      exec (.mmioRegisterWrite die v) s = exec (.sdctlKindCtx d v) s) ∧
    exec (.mmioRegisterWrite (die + 0x18) v) s = exec (.grval d v) s ∧
    exec (.mmioRegisterWrite (qr + 0x20) v) s = exec (.qwake d k v) s ∧
    (k < 128 → exec (.mmioRegisterWrite (die + 0x8000 + 8 * k) v) s = exec (.svcreq (128 * d + k) v) s) ∧
    exec (.mmioRegisterWrite (0x1000 + 8 * k) v) s = exec (.islandLevelChange k v) s

namespace Sys2Proof.Claims

open Sys2Proof.Machine

/-- Entry j of a domain's applied clock is at or past a stamp's (R124, R126). -/
def Past (s : State) (dst : Nat) (stamp : Clock) (j : Nat) : Prop := clockGe (Clock.at (s.clockOf dst) j) (Clock.at stamp j) = true

/-- The route from one domain to another without its head. -/
def popped (s : State) (src dst : Nat) : State := { s with routes := AMap.ins (9 * src + dst) (AMap.get [] s.routes (9 * src + dst)).tail s.routes }

end Sys2Proof.Claims

/-- R126: the head of a route is applied only when the destination's clock allows: a marker then sets the sender's entry, a write lands in memory and is
acknowledged, a read answers the context that waits with the bytes and the destination's clock; a head that is not allowed holds its route.
R127: an inbound posted write is a release by domain 8, split by lines, each packet behind the markers on the route to its home; an inbound read and an MSI
wait for the port's earlier posted writes. R442: recovery changes no memory, no gravity and no context, restarts packets, and ends packets and collectives only
with cause 0x11. -/
def Sys2Proof.Claims.RoutesAndInboundTraffic : Prop :=
  ∀ (s : State) (src dst port addr n data key ack ck id lane : Nat) (bytes : List Nat) (bs : List Byte) (m : Msg) (r : List Msg) (sw : Bool),
    let app := Instr.routeTrafficApply src dst
    let c := clockSet (s.clockOf 8) 8 (Clock.at (s.clockOf 8) 8 + 1)
    let packets := lineSplit (bytes.length / 64 + 2) addr 0 bytes.length
    (src < 9 → dst < 9 → AMap.get [] s.routes (9 * src + dst) = m :: r →
      (m.t = .marker → (∀ j, j < 9 → j ≠ src → Past s dst m.stamp j) → exec app s = .next { popped s src dst with
        ac := AMap.ins dst (clockSet (s.clockOf dst) src (Clock.at m.stamp src)) s.ac }) ∧
      (m.t = .write ⟨.mem key, 0, bs.length, sw⟩ bs ack → (∀ j, j < 9 → j ≠ src → Past s dst m.stamp j) → NoRootAt s key bs.length →
        (∀ q ∈ s.queues, bitOf q.2.qsig.toNat 63 = false) →
        exec app s = .next { popped s src dst with
          mem := s.mem.writeBytes key bs
          acks := s.acks.map fun a => if a.id = ack then { a with performed := true } else a }) ∧
      (m.t = .read ⟨.mem key, 0, n, sw⟩ ck id → (∀ j, j < 9 → Past s dst m.stamp j) → exec app s = .next ((popped s src dst).onCtxAt ck fun x =>
        { x with var := x.var.map fun v => if v.id = id then
            { v with
              bytes := (upTo v.bytes.length).map fun j =>
                if j < n ∧ j ∉ v.kept then nth 0 (s.mem.readBytes key n) j else nth 0 v.bytes j
              waiting := v.waiting - 1
              stamps := v.stamps ++ [s.clockOf dst] } else v })) ∧
      ((∃ j, j < 9 ∧ j ≠ src ∧ ¬Past s dst m.stamp j) → exec app s = .next s)) ∧
    (s.windowFull 8 = false → addr + bytes.length ≤ 2 ^ 39 → Gives (.inboundPostedWrite port addr bytes) s fun t =>
      t.mem = s.mem ∧ t.clockOf 8 = c ∧ AMap.get 0 t.posted port = AMap.get 0 s.posted port + packets.length ∧
        ∀ d, d < 8 → AMap.get [] t.routes (72 + d) = AMap.get [] s.routes (72 + d) ++ ⟨c, .marker⟩ ::
          (packets.filter fun p => homeDie p.1 == d).map fun p => ⟨c, .inbound ⟨.mem p.1, p.2.1, p.2.2, false⟩ (((bytes.drop p.2.1).take p.2.2).map (BitVec.ofNat 8)) port false⟩) ∧
    (AMap.get 0 s.posted port = 0 → addr + n ≤ 2 ^ 39 → (∀ a, addr ≤ a → a < addr + n → dominates (s.clockOf (homeDie a)) (s.clockOf 8) = true) →
      exec (.inboundRead port addr n) s = .next (s.say (.inboundData port addr (s.mem.readBytes addr n)))) ∧
    (AMap.get 0 s.posted port = 0 → exec (.inboundMsi port addr data) s = .next (s.say (.msi addr data))) ∧
    (AMap.get 0 s.posted port ≠ 0 → exec (.inboundRead port addr n) s = .next s ∧ exec (.inboundMsi port addr data) s = .next s) ∧
    (Gives (.linkFailureRecovery lane) s fun t =>
      t.mem = s.mem ∧ t.ctxs = s.ctxs ∧ t.grav = s.grav ∧ t.combs = s.combs ∧ t.blocks = s.blocks ∧ t.packets.length = s.packets.length ∧
        (∀ k, k < s.packets.length → ∃ p q, s.packets[k]? = some p ∧ t.packets[k]? = some q ∧
          (q = p ∨ q = p.restart ∨ q = { p with finished := true, status := 0x11 })) ∧
        ∃ l, t.traps = s.traps ++ l ∧ ∀ w ∈ l, w.cause = 0x11)
/-! ### Service calls, handlers and deadlines; the context services -/

namespace Sys2Proof.Claims

open Sys2Proof.Machine

/-- A service request waits on a core for a context: PEND is 1, no handler runs on the core, its D clk counted are below 2^40 (log 41). -/
def Requested (s : State) (core x : Nat) : Prop :=
  let k := s.coreAt core
  x < 4 ∧ bitOf k.svcreq.toNat 63 = true ∧ k.svcreq.toNat / 2 ^ 56 % 4 = x ∧ k.handler = none

/-- The request may enter its context: an empty one, or one that is ready or blocked at a bundle with a Y mark, with no result in flight, neither
on a fault nor on a home's answer, nor stopping at a C mark (R135, R367, R368); a P mark counts once the deadline has made it one (R369). -/
def AtYMark (s : State) (core x : Nat) : Prop :=
  let c := s.ctxAt (4 * core + x)
  c.inHandler = false ∧ (s.coreAt core).gated = false ∧ c.var = [] ∧
    (c.status = .empty ∧ (∀ q ∈ (s.coreAt core).saved, q.x ≠ x) ∨ ((c.status = .ready ∨ ∃ w, c.status = .blocked w ∧ w ≠ .remote ∧ ∀ a b, w ≠ .fault a b) ∧ c.bank.pc < 7680 ∧
      s.stopsAt c.work.ctxid c.work.rcb = false ∧
      ∃ b, AMap.find? s.store c.bank.pc = some b ∧ ((decodeBundle b.toNat).hdr.y = true ∨ (decodeBundle b.toNat).hdr.p = true ∧ c.pAsY = true)))

/-- Work of a region or of one below it (R10, R360). -/
def Below (s : State) (ctxid rcb c r : Nat) : Prop := c = ctxid ∧ ∃ a ∈ s.path ctxid r, a.rcb = rcb

end Sys2Proof.Claims

/-- R367: a post to SVCREQ is kept with its target, kind and argument while none is pending, and enters an empty context at once; a post over a pending one sets
ERR. R368: the handler enters with index 7,680 + 8 KIND, s0 the index of the bundle, s1 KIND, s2 ARG, the other low registers those of the service bank,
and PEND is cleared. R369: after D clk the P mark acts as Y; after 2 D the context traps with cause 0x14. -/
def Sys2Proof.Claims.ServiceRequests : Prop :=
  ∀ (s : State) (core x v : Nat),
    let ck := 4 * core + x
    let k := s.coreAt core
    let c := s.ctxAt ck
    let b := c.settled.bank
    let dl := (AMap.get (0 : BitVec 64) k.k 0x48).toNat
    let post := fun (k : Core) =>
      { k with svcreq := BitVec.ofNat 64 (2 ^ 63 + v / 2 ^ 56 % 4 * 2 ^ 56 + v / 2 ^ 48 % 64 * 2 ^ 48 + v % 2 ^ 48), dcount := 0 }
    (bitOf v 63 = true → bitOf k.svcreq.toNat 63 = false → x = v / 2 ^ 56 % 4 → c.status ≠ .empty →
      exec (.svcreq core v) s = .next (s.onCoreAt core post)) ∧
    (bitOf v 63 = true → bitOf k.svcreq.toNat 63 = false → x = v / 2 ^ 56 % 4 → c.status = .empty →
      exec (.svcreq core v) s = exec (.serviceHandlerEntry core x) (s.onCoreAt core post)) ∧
    (bitOf v 63 = true → bitOf k.svcreq.toNat 63 = true → Gives (.svcreq core v) s fun t =>
      t = { s with cores := t.cores } ∧ bitOf (t.coreAt core).svcreq.toNat 62 = true ∧
        (∀ j, j < 64 → j ≠ 62 → bitOf (t.coreAt core).svcreq.toNat j = bitOf k.svcreq.toNat j)) ∧
    (bitOf v 63 = false → exec (.svcreq core v) s = .next s) ∧
    (Requested s core x → AtYMark s core x → Gives (.serviceHandlerEntry core x) s fun t =>
      let d := (t.ctxAt ck).bank
      let kind := k.svcreq.toNat / 2 ^ 48 % 64
      d.pc = 7680 + 8 * kind ∧ (c.bound = true → d.sreg 0 = ⟨BitVec.ofNat 128 (c.bank.pc % 2 ^ 64), false⟩) ∧
        d.sreg 1 = ⟨BitVec.ofNat 128 kind, false⟩ ∧ d.sreg 2 = ⟨BitVec.ofNat 128 (k.svcreq.toNat % 2 ^ 48), false⟩ ∧
        (∀ n, 3 ≤ n → n < 16 → d.sreg n = AMap.get ⟨0, false⟩ k.svcS n) ∧ (∀ n, 16 ≤ n → d.sreg n = b.sreg n) ∧ d.p = k.svcP ∧
        d.v = b.v ∧ d.q = b.q ∧ d.k = b.k ∧ (t.ctxAt ck).status = .ready ∧ (t.ctxAt ck).inHandler = true ∧
        bitOf (t.coreAt core).svcreq.toNat 63 = false ∧ (t.coreAt core).handler = some (x, b)) ∧
    (¬(bitOf k.svcreq.toNat 63 = true ∧ k.handler = none) → exec (.serviceHandlerEntry core x) s = .next s) ∧
    (Requested s core x → 0 < dl → dl ≤ k.dcount → k.dcount < 2 ^ 40 →
      exec (.serviceDeadlinePMark core x) s = .next (s.onCtxAt ck fun c => { c with pAsY := true })) ∧
    (Requested s core x → 0 < dl → 2 * dl ≤ k.dcount → k.dcount < 2 ^ 40 → c.bound = true → c.inHandler = false → c.status = .ready →
      Gives (.serviceDeadlineTrap core x) s fun t => t.mem = s.mem ∧ (t.ctxAt ck).status = .trapped ∧ (t.ctxAt ck).bank = c.bank ∧
        ∃ r, t.traps = s.traps ++ [r] ∧ r.cause = 0x14 ∧ r.unit = .ctx ck) ∧
    (k.dcount < 2 * dl → exec (.serviceDeadlineTrap core x) s = .next s)

/-- R429: a write of SVCRES gives its value to s1 of the context whose call SVCTOK names, as a result that acquires at package scope, or to a GFE, whose
g1 takes it once the clocks of its dies dominate the writer's (R345), and is a release of domain 8; where no call waits it is ignored. R430: REXIT ends every tile, task, operator and stream of the caller's region and of those below it.
R390: a write of GRVAL returns its amount to the root that GRADDR names, unless it has reserved bits or GRADDR names none. -/
def Sys2Proof.Claims.ServiceResults : Prop :=
  ∀ (s : State) (v core x k token die : Nat) (c : SvcCall) (i : Instr) (r : Region),
    let ck := 4 * core + x
    let tok := (AMap.get (0 : BitVec 64) s.io 0x28).toNat % 2 ^ 32
    let clock := clockSet (s.clockOf 8) 8 (Clock.at (s.clockOf 8) 8 + 1)
    let gr := (AMap.get (0 : BitVec 64) s.graddr die).toNat
    (s.svcCalls.find? (fun d => d.token == tok) = none → exec (.svcres v) s = .next s) ∧
    (s.svcCalls.find? (fun d => d.token == tok) = some c → c.ck = ck + 1 → x < 4 →
      (∀ y, y < 4 → ((s.ctxAt (4 * core + y)).svc = some tok ∨ (s.ctxAt (4 * core + y)).fwSvc = some tok ↔ y = x)) →
      Gives (.svcres v) s fun t => t.mem = s.mem ∧ t.svcCalls = s.svcCalls.filter (fun d => d.token != tok) ∧ t.clockOf 8 = clock ∧
        t.ctxAt ck = { s.ctxAt ck with var := (s.ctxAt ck).var ++ [{ id := 2 ^ 32 + tok, dst := .int 1 8 false, bytes := leBytes v 8, waiting := 0, stamps := [clock], acq := true, dom := true, old := true }] } ∧
        ∀ j, j ≠ ck → t.ctxAt j = s.ctxAt j) ∧
    (s.svcCalls.find? (fun d => d.token == tok) = some c → c.ck = 0 → c.gk = k + 1 → (s.gfeAt k).block = .svc tok → Gives (.svcres v) s fun t =>
      t.mem = s.mem ∧ t.gfeAt k = { s.gfeAt k with block := .result v clock } ∧ t.clockOf 8 = clock) ∧
    ((s.gfeAt k).set = [k] → s.fetchRecord (s.gfeAt k) (s.gfeAt k).pc = .ok i → dominates (s.clockOf (k / 4)) (s.clockOf 8) = true →
      let t := callLands k v (s.clockOf 8) s
      t.mem = s.mem ∧ (t.gfeAt k).g = AMap.ins 1 (BitVec.ofNat 64 v) (s.gfeAt k).g ∧ (t.gfeAt k).pc = (s.gfeAt k).pc + recordBytes i ∧
        (t.gfeAt k).block = .none) ∧
    ((s.gfeAt k).set = [k] → dominates (s.clockOf (k / 4)) (s.clockOf 8) = false → callLands k v (s.clockOf 8) s = s) ∧
    (s.svcCalls.find? (fun d => d.token == token && d.num == 0x50) = some c → Gives (.rexit token) s fun t =>
      (∀ j, (s.ctxAt j).bound = true → Below s c.ctxid c.rcb (s.ctxAt j).work.ctxid (s.ctxAt j).work.rcb → (t.ctxAt j).status = .empty) ∧
      (∀ o ∈ t.ops, ¬Below s c.ctxid c.rcb o.ctxid o.rcb) ∧ (∀ d ∈ t.svcCalls, d.token ≠ token ∧ ¬Below s c.ctxid c.rcb d.ctxid d.rcb)) ∧
    (s.svcCalls.find? (fun d => d.token == token && d.num == 0x50) = none → exec (.rexit token) s = .next s) ∧
    (v < 2 ^ 40 → findRegion (s.dev (gr / 2 ^ 56 % 64)).regions (gr % 2 ^ 56) = some r → bitOf (s.mem.readNat (r.phys + 0x0F) 1) 7 = true →
      exec (.grval die v) s = .next (s.giveBack die r.phys v)) ∧
    (2 ^ 40 ≤ v ∨ findRegion (s.dev (gr / 2 ^ 56 % 64)).regions (gr % 2 ^ 56) = none → exec (.grval die v) s = .next s)

namespace Sys2Proof.Claims

open Sys2Proof.Machine

/-- The device holds a command for a device context: CSCMD reads GO 1 with its OP and CTXID (R431), and the I/O die may read its block (log 20). -/
def Commanded (s : State) (op c : Nat) : Prop :=
  let v := (AMap.get (0 : BitVec 64) s.io 0x58).toNat
  bitOf v 63 = true ∧ v % 256 = op ∧ v / 2 ^ 56 % 64 = c ∧
    s.acquirable 8 (homeDie ((AMap.get (0 : BitVec 64) s.io 0x50).toNat / 2 ^ 6 % 2 ^ 33 * 64)) = true

/-- A field of the command block that CSBLK names. -/
def blk (s : State) (i n : Nat) : Nat :=
  leNat (((s.mem.readBytes ((AMap.get (0 : BitVec 64) s.io 0x50).toNat / 2 ^ 6 % 2 ^ 33 * 64) 256).drop i).take n)

/-- The command has resolved: CSSTAT holds the status and RESULT 0, GO reads 0, and domain 8 has released (R431). -/
def Resolved (s t : State) (status : Nat) : Prop :=
  AMap.get (0 : BitVec 64) t.io 0x60 = BitVec.ofNat 64 status ∧
    (AMap.get (0 : BitVec 64) t.io 0x58).toNat = (AMap.get (0 : BitVec 64) s.io 0x58).toNat % 2 ^ 63 ∧
    t.clockOf 8 = clockSet (s.clockOf 8) 8 (Clock.at (s.clockOf 8) 8 + 1)

/-- The command resolves with a status and no other effect (R431). -/
def Refused (i : Instr) (s : State) (status : Nat) : Prop :=
  Gives i s fun t => Resolved s t status ∧ t.mem = s.mem ∧ t.devs = s.devs ∧ t.copyQueues = s.copyQueues ∧ t.pkgRing = s.pkgRing ∧ t.blocks = s.blocks

/-- The command takes its effect on its device context and resolves with STATUS 0. -/
def Serves (i : Instr) (s : State) (c : Nat) (P : DevCtx → Prop) : Prop :=
  Gives i s fun t => Resolved s t 0 ∧ P (t.dev c) ∧ (∀ d, d ≠ c → t.dev d = s.dev d) ∧ t.ctxs = s.ctxs ∧ t.copyQueues = s.copyQueues

/-- An address of a heap triple (R91). -/
def HeapAddress (v : Nat) : Prop := v % 64 = 0 ∧ v < 2 ^ 56

/-- The context descriptor in range, but for the MSI addresses (R433). -/
def Descriptor (s : State) : Prop :=
  let f := blk s
  f 0 8 % 2048 = 0 ∧ f 0 8 < 2 ^ 39 ∧ f 8 8 % 4096 = 0 ∧ f 8 8 < 2 ^ 56 ∧ 1 ≤ f 0x10 4 ∧ f 0x10 4 ≤ 65536 ∧
    f 0x14 1 ∈ [1, 2, 4, 8] ∧ HeapAddress (f 0x18 8) ∧ HeapAddress (f 0x20 8) ∧ HeapAddress (f 0x28 8) ∧
    (∀ d, d < 8 → f (0x30 + 16 * d) 8 % 2 ^ 21 = 0 ∧ f (0x30 + 16 * d) 8 < 2 ^ 56 ∧ f (0x38 + 16 * d) 8 % 2 ^ 21 = 0) ∧
    f 0xB0 8 % 256 = 0 ∧ f 0xB0 8 < 2 ^ 56

/-- The device context that a descriptor describes, its root region registered at a place. -/
def Described (s : State) (place : Nat) : DevCtx :=
  let f := blk s
  { resident := true, created := true, ptroot := f 0 8, htbase := f 8 8, htcount := f 0x10 4, htplanes := f 0x14 1, heap := [f 0x18 8, f 0x20 8, f 0x28 8],
    pools := (upTo 8).map fun d => (f (0x30 + 16 * d) 8, f (0x38 + 16 * d) 8), rootRcb := f 0xB0 8,
    trapMsi := ⟨f 0xB8 8, f 0xC0 4⟩, svcMsi := ⟨f 0xC8 8, f 0xD0 4⟩, regions := [⟨f 0xB0 8, place, 0, true⟩] }

/-- Whether the addresses for interrupts lie in IMSIC files, which the spec does not place (log 14): done, or STATUS 1. -/
def imsicStatus (a b : Nat) : Nat := if Config.imsic a && Config.imsic b then 0 else 1

end Sys2Proof.Claims

/-- R432 to R434: CTXCREATE of an unused CTXID makes the context that its descriptor describes; CTXHEAP and CTXMSI set theirs; REGCREATE registers a region under
its parent, writing CTXID, STATE 0, WAKEPEND 0 and the fields not given; REGDESTROY forgets one; a command for a context never created resolves with
STATUS 3, and one in use, out of range or not permitted with its own. -/
def Sys2Proof.Claims.ContextCommands : Prop :=
  ∀ (s : State) (c place parent : Nat) (i : Instr) (op : Nat) (r : Region),
    let f := blk s
    let fresh := s.onDev c fun _ => { Described s place with regions := [] }
    let given := f 8 4
    let p := s.mem.readNat place 8
    ((i, op) ∈ [(.ctxsuspend c, 2), (.ctxresume c, 3), (.ctxdestroy c, 4), (.ctxheap c, 5), (.ctxmsi c, 6), (.regcreate c, 8), (.regdestroy c, 9),
        (.cqcreate c, 0xC), (.cqdestroy c, 0xD), (.ringmsi c, 0xE), (.pkgring c, 0xF)] → Commanded s op c → (s.dev c).created = false →
      (s.dev c).suspending = false → (s.dev c).resuming = 0 → (∀ q ∈ s.copyQueues, q.ctxid ≠ c) → Refused i s 3) ∧
    (Commanded s 1 c → (∃ d, d < 64 ∧ (s.dev d).resident = false) → (s.dev c).created = true → Refused (.ctxcreate c) s 3) ∧
    (Commanded s 1 c → (∀ d, d < 64 → (s.dev d).resident = true) → Refused (.ctxcreate c) s 2) ∧
    (Commanded s 1 c → (s.dev c).created = false → (∃ d, d < 64 ∧ (s.dev d).resident = false) → ¬Descriptor s → Refused (.ctxcreate c) s 1) ∧
    (Commanded s 1 c → (s.dev c).created = false → (∃ d, d < 64 ∧ (s.dev d).resident = false) → Descriptor s →
      fresh.rcbPlace c (f 0xB0 8) = .ok place → s.mem.readNat place 8 = 0 → bitOf (s.mem.readNat (place + 0x0F) 1) 7 = false →
      Gives (.ctxcreate c) s fun t => Resolved s t (imsicStatus (f 0xB8 8) (f 0xC8 8)) ∧
        (imsicStatus (f 0xB8 8) (f 0xC8 8) = 0 → t.dev c = Described s place) ∧ (∀ d, d ≠ c → t.dev d = s.dev d)) ∧
    (Commanded s 5 c → (s.dev c).created = true → HeapAddress (f 0 8) → HeapAddress (f 8 8) → HeapAddress (f 0x10 8) →
      Serves (.ctxheap c) s c fun d => d = { s.dev c with heap := [f 0 8, f 8 8, f 0x10 8] }) ∧
    (Commanded s 5 c → (s.dev c).created = true → ¬HeapAddress (f 0 8) → Refused (.ctxheap c) s 1) ∧
    (Commanded s 6 c → (s.dev c).created = true → Gives (.ctxmsi c) s fun t => Resolved s t (imsicStatus (f 0 8) (f 0x10 8)) ∧
      (imsicStatus (f 0 8) (f 0x10 8) = 0 → t.dev c = { s.dev c with trapMsi := ⟨f 0 8, f 8 4⟩, svcMsi := ⟨f 0x10 8, f 0x18 4⟩ })) ∧
    (Commanded s 8 c → (s.dev c).created = true → given < 2 ^ 12 → s.rcbPlace c (f 0 8) = .ok place → p = parent → parent ≠ 0 →
      (findRegion (s.dev c).regions parent).isSome = true → s.rstate c parent ≠ 3 → s.rstate c parent ≠ 4 →
      findRegion (s.dev c).regions (f 0 8) = none → bitOf given 11 = false → s.mem.wf = true →
      Gives (.regcreate c) s fun t => Resolved s t 0 ∧ t.dev c = { s.dev c with regions := (s.dev c).regions ++ [⟨f 0 8, place, parent, false⟩] } ∧
        t.mem.readNat place 8 = parent ∧ t.mem.readNat (place + 0x10) 1 = c % 256 ∧ t.mem.readNat (place + 0x58) 8 = 0 ∧
        t.mem.readNat (place + 0x0F) 1 = (if bitOf given 7 then s.mem.readNat (place + 0x0F) 1 % 4 else 0) ∧
        (bitOf given 5 = false → t.mem.readNat (place + 0x0E) 1 = 0) ∧ (bitOf given 5 = true → t.mem.readNat (place + 0x0E) 1 = s.mem.readNat (place + 0x0E) 1) ∧
        t.mem.readNat (place + 0x40) 8 = 0 ∧ t.mem.readNat (place + 0x48) 8 = 0) ∧
    (Commanded s 8 c → (s.dev c).created = true → given < 2 ^ 12 → s.rcbPlace c (f 0 8) = .error 1 → Refused (.regcreate c) s 1) ∧
    (Commanded s 9 c → (s.dev c).created = true → findRegion (s.dev c).regions (f 0 8) = some r → s.rstate c (f 0 8) ∈ [0, 3, 4] →
      (∀ q ∈ s.queues, q.2.owner ≠ (c, f 0 8)) → (∀ a ∈ (s.dev c).regions, a.root = false → a.parent ≠ f 0 8) →
      Serves (.regdestroy c) s c fun d => d = { s.dev c with regions := (s.dev c).regions.filter fun a => a.rcb != f 0 8 }) ∧
    (Commanded s 9 c → (s.dev c).created = true → findRegion (s.dev c).regions (f 0 8) = none → Refused (.regdestroy c) s 1)

/-- R9, R45, R46, R432: CTXSUSPEND asks for the root region's pre-emption, once the save area holds it (log 108), and resolves only once nothing of the context runs,
when it is no longer resident; CTXRESUME makes it resident, and resolves once its root region, where it was pre-empted, has GFEs again; CTXDESTROY, once no stream runs, frees it and everything that is its own, else resolves with STATUS 3. R435: CQCREATE binds
a sound header to a copy unit and CQDESTROY unbinds it; RINGMSI and PKGRING set theirs, and after PKGRING every held record tries its rings again (R365). -/
def Sys2Proof.Claims.SuspensionAndQueueCommands : Prop :=
  ∀ (s : State) (c key : Nat) (h : List Byte) (q : CopyQueue) (g : Ring),
    let f := blk s
    let d := s.dev c
    let u := f 0x10 2
    let hf := fun (i n : Nat) => leNat ((h.drop i).take n)
    let place := 16 * (u % 8) + u / 8 % 16
    let ring := s.headerKey (s.unitEnv c) (f 0 8) = .ok (some key) ∧ s.mem.ring key = g ∧ g.bad = false
    (Commanded s 2 c → d.created = true → d.resident = true → d.suspending = false → s.saveFits c d.rootRcb = true → s.preempts = [] →
      2 ≤ s.rstate c d.rootRcb → Gives (.ctxsuspend c) s fun t => t = s.onDev c fun d => { d with suspending := true }) ∧
    (Commanded s 2 c → d.created = true → d.resident = true → d.suspending = false → s.rstate c d.rootRcb < 2 → s.preempts = [] →
      (∀ e ∈ s.gfes, e.2.busy = true → e.2.ctxid ≠ c) → s.treeAtRest c d.rootRcb = false →
      exec (.ctxsuspend c) s = .next { s.onDev c fun d => { d with suspending := true } with preempts := [(c, d.rootRcb)] }) ∧
    (Commanded s 2 c → d.created = true → d.resident = false → d.suspending = false → Refused (.ctxsuspend c) s 3) ∧
    (Commanded s 2 c → d.suspending = true → 2 ≤ s.rstate c d.rootRcb → s.treeAtRest c d.rootRcb = true → (∀ b ∈ s.blocks, b.ctxid ≠ c) →
      Serves (.ctxsuspendComplete c) s c fun e => e = { d with resident := false, suspending := false }) ∧
    (Commanded s 2 c → d.created = true → d.resident = true → d.suspending = false → s.saveFits c d.rootRcb = false →
      Gives (.ctxsuspend c) s fun t => t = s.onDev c fun d => { d with suspending := true }) ∧
    (d.suspending = false ∨ (s.rstate c d.rootRcb < 2 ∧ (s.saveFits c d.rootRcb = false ∨ (c, d.rootRcb) ∈ s.preempts)) →
      exec (.ctxsuspendComplete c) s = .next s) ∧
    (Commanded s 2 c → d.suspending = true → s.rstate c d.rootRcb < 2 → s.saveFits c d.rootRcb = true → s.preempts = [] →
      (∀ e ∈ s.gfes, e.2.busy = true → e.2.ctxid ≠ c) → s.treeAtRest c d.rootRcb = false →
      exec (.ctxsuspendComplete c) s = .next { s with preempts := [(c, d.rootRcb)] }) ∧
    (Commanded s 3 c → d.resuming = 0 → d.created = true → d.resident = false → (∃ e, e < 64 ∧ (s.dev e).resident = false) →
      (s.rstate c d.rootRcb ≠ 2 → Serves (.ctxresume c) s c fun e => e = { d with resident := true }) ∧
      (s.rstate c d.rootRcb = 2 → exec (.ctxresume c) s = .next (s.onDev c fun d => { d with resident := true, resuming := 1 }))) ∧
    (Commanded s 3 c → d.resuming = 1 → exec (.ctxresume c) s = .next s) ∧
    (Commanded s 3 c → d.resuming = 2 → Serves (.ctxresume c) s c fun e => e = { d with resuming := 0 }) ∧
    (Commanded s 3 c → d.resuming = 0 → d.created = true → (∃ e, e < 64 ∧ (s.dev e).resident = false) → d.resident = true → Refused (.ctxresume c) s 3) ∧
    (Commanded s 4 c → d.created = true → (∃ e ∈ s.gfes, e.2.busy = true ∧ e.2.ctxid = c) →
      (∀ e ∈ s.copyQueues, e.ctxid ≠ c) → Refused (.ctxdestroy c) s 3) ∧
    (Commanded s 4 c → d.created = true → (∀ e ∈ s.gfes, e.2.busy = true → e.2.ctxid ≠ c) → (∀ e ∈ s.queues, e.2.owner.1 ≠ c) →
      (∀ e ∈ s.copyQueues, e.ctxid ≠ c) → s.packageShot (1 + c * 2 ^ 8) = true → Gives (.ctxdestroy c) s fun t => Resolved s t 0 ∧ t.dev c = {} ∧
        (∀ e ∈ t.blocks, e.ctxid ≠ c) ∧ (∀ e ∈ t.installed, e.ctxid ≠ c) ∧ (∀ e ∈ t.copyQueues, e.ctxid ≠ c) ∧ (∀ e ∈ t.ops, e.ctxid ≠ c)) ∧
    (Commanded s 0xC c → d.created = true → s.unitRead (s.unitEnv c) (f 0 8) 64 = .ok h → f 0 8 % 64 = 0 → hf 0x10 8 % 64 = 0 → hf 0x18 1 ≤ 12 →
      hf 0x20 8 % 4096 = 0 → hf 0x28 8 % 128 = 0 → u < 2 ^ 12 → u / 2 ^ 9 < d.htplanes → (∀ e ∈ s.copyQueues, ¬(e.ctxid = c ∧ e.hdr = f 0 8)) →
      (findRegion d.regions (f 8 8)).isSome = true → (s.copyQueues.filter fun e => e.cluster == place && e.unit == u / 2 ^ 7 % 4).length < 64 →
      u % 8 ∈ s.dies → Gives (.cqcreate c) s fun t => Resolved s t 0 ∧ t.devs = s.devs ∧ t.mem = s.mem ∧
        t.copyQueues = s.copyQueues ++ [⟨s.nextCq, c, f 0 8, place, u / 2 ^ 7 % 4, u / 2 ^ 9, f 8 8, none⟩]) ∧
    (Commanded s 0xC c → d.created = true → s.unitRead (s.unitEnv c) (f 0 8) 64 = .ok h → hf 0x10 8 % 64 ≠ 0 → Refused (.cqcreate c) s 1) ∧
    (Commanded s 0xD c → d.created = true → s.copyQueues.find? (fun e => e.ctxid == c && e.hdr == f 0 8) = some q →
      s.unitRead (s.unitEnv c) (f 0 8) 16 = .ok h → h.take 8 = h.drop 8 → (∀ p ∈ s.packets, p.cq ≠ q.id) →
      Gives (.cqdestroy c) s fun t => Resolved s t 0 ∧ t.devs = s.devs ∧ t.mem = s.mem ∧ t.copyQueues = s.copyQueues.filter fun e => e.id != q.id) ∧
    (Commanded s 0xD c → d.created = true → (∀ e ∈ s.copyQueues, ¬(e.ctxid = c ∧ e.hdr = f 0 8)) → Refused (.cqdestroy c) s 1) ∧
    (Commanded s 0xE c → d.created = true → ring → f 0x14 1 = 1 → Gives (.ringmsi c) s fun t =>
      Resolved s t (imsicStatus (f 8 8) (f 8 8)) ∧ t.mem = s.mem ∧
        (imsicStatus (f 8 8) (f 8 8) = 0 → t.dev c = { d with ringMsis := AMap.ins (f 0 8) ⟨f 8 8, f 0x10 4⟩ d.ringMsis })) ∧
    (Commanded s 0xF c → d.created = true → f 0 8 ≠ 0 → ring → g.dir = false → g.slotsz = 1 → Gives (.pkgring c) s fun t =>
      Resolved s t 0 ∧ t.pkgRing = some (c, f 0 8) ∧ t.devs = s.devs ∧ t.mem = s.mem ∧ ∀ r ∈ t.traps, r.stuck = false) ∧
    (Commanded s 0xF c → d.created = true → f 0 8 = 0 → Gives (.pkgring c) s fun t => Resolved s t 0 ∧ t.pkgRing = none ∧ t.devs = s.devs) ∧
    (Commanded s 0xF c → d.created = true → f 0 8 ≠ 0 → ring → g.dir = true → Refused (.pkgring c) s 1)
/-! ### Launch, pre-emption, checkpoints, eviction -/

namespace Sys2Proof.Claims

open Sys2Proof.Machine

/-- The image header at an address is one (R276): magic, version 1, a sharding table in range and word-aligned, the image 64-byte aligned. -/
def ImageHeader (va : Nat) (h : List Byte) : Prop :=
  let f := fun (i n : Nat) => leNat ((h.drop i).take n)
  f 0 4 = 0x41444E31 ∧ f 0x0E 2 = 1 ∧ f 0x0C 2 ≤ 4095 ∧ f 0x10 4 % 4 = 0 ∧ va % 64 = 0

/-- The launch that a record asks for (R436). -/
def asked (ctxid addr now : Nat) (b : List Byte) : LaunchRec :=
  let f := fun (i n : Nat) => leNat ((b.drop i).take n)
  { addr := addr, ctxid := ctxid, rcb := f 8 8 % 2 ^ 56, img := f 0 8 % 2 ^ 56, width := 2 ^ (f 0x10 4 % 4), chips := f 0x14 4 + 1, rank := f 0x18 4,
    regs := (upTo 64).map fun i => if bitOf (f 0x20 8) i then f (0x28 + 8 * i) 8 else 0, since := now }

/-- A launch that its region, chip count, planes and dies allow (R18, R25, R436). -/
def Allowed (s : State) (l : LaunchRec) : Prop :=
  (findRegion (s.dev l.ctxid).regions l.rcb).isSome = true ∧ s.rstate l.ctxid l.rcb = 0 ∧ l.chips ≤ 1024 ∧ l.rank < l.chips ∧
    l.width ≤ (s.dev l.ctxid).htplanes ∧ l.width ≤ s.dies.length

/-- The first status of a launch that is not allowed; the order of the checks is the model's (log 42). -/
def refusal (s : State) (l : LaunchRec) : Nat :=
  if (findRegion (s.dev l.ctxid).regions l.rcb).isNone then 4
  else if s.rstate l.ctxid l.rcb = 3 then 6
  else if s.rstate l.ctxid l.rcb ≠ 0 then 4
  else if 1024 < l.chips ∨ l.chips ≤ l.rank then 5
  else if (s.dev l.ctxid).htplanes < l.width then 7
  else 3

/-- The region is asked to pre-empt, or one above it (R45). -/
def Asked (s : State) (ctxid rcb : Nat) : Prop := ∃ r ∈ s.path ctxid rcb, (ctxid, r.rcb) ∈ s.preempts

end Sys2Proof.Claims

/-- R18, R25, R276, R284, R436: a launch whose record can be read waits with STATUS 0, or is refused with its status; a waiting one starts once each die of a
placement set, as many as its width, has a free GFE: shard j of a new stream stands on the j-th die, with the record's registers, at the entry of the
image; the region's STATE becomes 1 and STATUS 1. -/
def Sys2Proof.Claims.Launches : Prop :=
  ∀ (s u : State) (v k : Nat) (b h : List Byte) (dies : List Nat) (l : LaunchRec) (r : List LaunchRec),
    let ctxid := v / 2 ^ 56 % 64
    let addr := v % 2 ^ 56 / 64 * 64
    let w := asked ctxid addr s.clk b
    let hf := fun (i n : Nat) => leNat ((h.drop i).take n)
    let status := fun (n : Nat) => s.unitWrite (s.unitEnv ctxid) (addr + 0x1C) (leBytes n 4) = .ok u
    let readable := (s.dev ctxid).resident = true ∧ s.unitRead (s.unitEnv ctxid) addr 0x228 = .ok b
    (readable → Allowed s w → s.unitRead (s.unitEnv ctxid) w.img 32 = .ok h → ImageHeader w.img h → status 0 →
      exec (.launch v) s = .next { u with launches := u.launches ++ [w] }) ∧
    (readable → Allowed s w → s.unitRead (s.unitEnv ctxid) w.img 32 = .ok h → ¬ImageHeader w.img h → status 2 → exec (.launch v) s = .next u) ∧
    (readable → ¬Allowed s w → status (refusal s w) → exec (.launch v) s = .next u) ∧
    ((s.dev ctxid).resident = false → exec (.launch v) s = .next s) ∧
    (s.launches.drop k = l :: r → (findRegion (s.dev l.ctxid).regions l.rcb).isSome = true → s.rstate l.ctxid l.rcb = 0 → dies.length = l.width →
      ¬Asked s l.ctxid l.rcb → (s.dev l.ctxid).resident = true → s.unitRead (s.unitEnv l.ctxid) l.img 32 = .ok h → ImageHeader l.img h →
      dies.Pairwise (· < ·) → (∀ d ∈ dies, d ∈ s.dies ∧ ∃ j, j < 4 ∧ (s.gfeAt (4 * d + j)).busy = false) →
      Gives (.launchStart k dies) s fun t =>
        t.mem = ((s.setRstate l.ctxid l.rcb 1).setStatus l.ctxid l.addr 1).mem ∧ t.launches = dropNth s.launches k ∧ t.nextStream = s.nextStream + 1 ∧
        ∀ j d, dies[j]? = some d → ∃ n, n / 4 = d ∧ (s.gfeAt n).busy = false ∧
          let g := t.gfeAt n
          g.busy = true ∧ g.ctxid = l.ctxid ∧ g.rcb = l.rcb ∧ g.shard = j ∧ g.width = l.width ∧ g.chips = l.chips ∧ g.rank = l.rank ∧ g.img = l.img ∧
            g.codew = hf 4 4 ∧ g.pc = 32 + 4 * hf 8 4 ∧ g.frames = [] ∧ g.halted = false ∧ g.set.length = dies.length ∧
            ∀ i, i < 64 → AMap.get (0 : BitVec 64) g.g i = BitVec.ofNat 64 (nth 0 l.regs i)) ∧
    (s.launches.drop k = l :: r → (findRegion (s.dev l.ctxid).regions l.rcb).isSome = true → s.rstate l.ctxid l.rcb = 0 → dies.length ≠ l.width →
      exec (.launchStart k dies) s = .next s)

/-- R45, R47, R350: an RPRE that names a region of a resident context is accepted, and one that names none, or whose stream the save area cannot hold, sets ERR; a request for a region in STATE 2 or 3 has no
effect; one for a region that runs no stream but has work bound waits for it. The device asks for itself for the lowest stream below a launch that has
waited 2^22 clk. R159: a tile whose region is asked stops at its C mark, with nothing of its own outstanding and no live range to save: its context is free
and it waits with its checkpoint, HG and CB. R46: a region in STATE 2 resumes: its saved streams take GFEs again. -/
def Sys2Proof.Claims.PreemptionAndResumption : Prop :=
  ∀ (s : State) (v ctxid rcb core x op lin : Nat) (ix dies : List Nat) (l : LaunchRec) (g : Gfe) (o : OpInst) (m : Installed) (b : BitVec 256)
    (reg : Region) (gs : List Gfe),
    let cx := v / 2 ^ 56 % 64
    let rv := v % 2 ^ 56
    let ck := 4 * core + x
    let c := s.ctxAt ck
    let hdr := (decodeBundle b.toNat).hdr
    ((s.dev cx).resident = false ∨ findRegion (s.dev cx).regions rv = none ∨ s.saveFits cx rv = false → Gives (.rpre v) s fun t =>
      t = { s with io := t.io } ∧ bitOf (AMap.get (0 : BitVec 64) t.io 0x10).toNat 62 = true) ∧
    ((s.dev cx).resident = true → (findRegion (s.dev cx).regions rv).isSome = true → s.saveFits cx rv = true → 2 ≤ s.rstate cx rv →
      exec (.rpre v) s = .next (s.setIo 0x10 (v % 2 ^ 62))) ∧
    ((s.dev cx).resident = true → (findRegion (s.dev cx).regions rv).isSome = true → s.rstate cx rv < 2 → s.preempts = [] →
      (∀ e ∈ s.gfes, e.2.busy = true → e.2.ctxid ≠ cx) → s.treeAtRest cx rv = false →
      exec (.rpre v) s = .next { s.setIo 0x10 (v % 2 ^ 62) with preempts := [(cx, rv)] }) ∧
    (l ∈ s.launches → l.since + 2 ^ 22 ≤ s.clk → g ∈ s.lowStreams (s.prio l.ctxid l.rcb) → g.ctxid = ctxid → g.rcb = rcb →
      (∀ w ∈ s.lowStreams (s.prio l.ctxid l.rcb), s.prio g.ctxid g.rcb < s.prio w.ctxid w.rcb ∨
        (s.prio g.ctxid g.rcb = s.prio w.ctxid w.rcb ∧ w.launched ≤ g.launched)) → s.saveFits ctxid rcb = true →
      exec (.devicePreemptionRequest ctxid rcb) s = .next (s.takeRequest ctxid rcb)) ∧
    (s.launches = [] → exec (.devicePreemptionRequest ctxid rcb) s = .next s) ∧
    (x < 4 → c.work.job = .tile op lin ix → c.status = .ready → c.spec = false → c.inHandler = false → Asked s c.work.ctxid c.work.rcb →
      AMap.find? s.store c.bank.pc = some b → hdr.c = true → c.bank.pc < 7680 → bitOf c.marks 0 = false → c.var = [] → c.gated = [] →
      s.unacked ck = [] → (∀ e ∈ (s.coreAt core).cmds, e.x = x → 5 < e.q) → s.op? op = some o → o.image.bind (s.image? o.ctxid) = some m →
      (∀ r ∈ m.live, r.1 ≠ hdr.ckid) → Gives (.checkpointStop core x) s fun t => (t.ctxAt ck).status = .empty ∧ (t.ctxAt ck).work.job = .none ∧
        ∃ p ∈ t.ops, p.id = op ∧ p.stopped = o.stopped ++ [⟨lin, ix, some hdr.ckid, c.bank.pc, [], c.hg, c.cb, c.replays, []⟩]) ∧
    (s.preempts = [] → exec (.checkpointStop core x) s = .next s) ∧
    ((s.dev ctxid).resident = true → (s.dev ctxid).suspending = false → (s.dev ctxid).regions = [reg] → reg.rcb = rcb → s.rstate ctxid rcb = 2 →
      s.parked = [] → s.displaced = [] → s.ops = [] → (∀ e ∈ s.gfes, e.2.busy = true → e.2.ctxid ≠ ctxid) →
      exec (.regionResume ctxid rcb dies) s = .next ((s.setRstate ctxid rcb 0).onDev ctxid fun d =>
        { d with resuming := if d.rootRcb = rcb ∧ d.resuming = 1 then 2 else d.resuming })) ∧
    ((s.dev ctxid).resident = true → (s.dev ctxid).suspending = false → (s.dev ctxid).regions = [reg] → reg.rcb = rcb → s.rstate ctxid rcb = 2 →
      s.parked = [(ctxid, rcb, gs)] → s.displaced = [] → s.ops = [] → gs.length = dies.length → dies.Pairwise (· < ·) →
      (∀ d ∈ dies, d ∈ s.dies ∧ ∃ j, j < 4 ∧ (s.gfeAt (4 * d + j)).busy = false) → Gives (.regionResume ctxid rcb dies) s fun t =>
        t.parked = [] ∧ ∀ (j d : Nat) (w : Gfe), dies[j]? = some d → gs[j]? = some w → ∃ n, n / 4 = d ∧ t.gfeAt n = { w with set := (t.gfeAt n).set }) ∧
    (s.rstate ctxid rcb ≠ 2 → exec (.regionResume ctxid rcb dies) s = .next s)

/-- R43, R349: a context that may be evicted, while work of higher priority waits and finds no free context, and that is the victim, leaves its core with its
bank, work and gravity saved; it comes back to a free context when nothing of higher priority waits for its core, and nothing as high has waited longer. R48: a waiting operator gains a step of
priority for each full 2^20 clk, up to 15. -/
def Sys2Proof.Claims.EvictionAndAging : Prop :=
  ∀ (s : State) (core x k op : Nat) (d : Cand) (w : Saved) (r : List Saved) (o : OpInst),
    let ck := 4 * core + x
    let c := s.ctxAt ck
    let settled := s.agingSettled (dieOfCore core) = true
    let evicts := settled ∧ s.evictable ck = true ∧ s.starved core (s.ctxPrio c) = some d ∧ core ∈ s.coresFor (dieOfCore core) d ∧ s.isVictim ck d = true
    (x < 4 → evicts → Gives (.eviction core x) s fun t => (t.ctxAt ck).status = .empty ∧ (t.ctxAt ck).work.job = .none ∧
      ∃ e, (t.coreAt core).saved = (s.coreAt core).saved ++ [e] ∧ e.since = s.clk ∧ (c.fix = [] → e.ctx.bank = c.bank) ∧ e.ctx.work = c.work ∧
        e.ctx.hg = c.hg ∧ e.ctx.cb = c.cb ∧ e.ctx.deadline = c.deadline ∧ e.ctx.svc = c.svc ∧ e.ctx.snap = c.snap) ∧
    (s.evictable ck = false ∨ s.starved core (s.ctxPrio c) = none → exec (.eviction core x) s = .next s) ∧
    ((s.coreAt core).saved.drop k = w :: r → s.coreFree core x = true → s.regionIssues w.ctx = true → settled → (∀ e ∈ s.cands core, e.prio ≤ s.savedPrio w) →
      (∀ e ∈ (s.coreAt core).saved, s.regionIssues e.ctx = true → s.savedPrio e < s.savedPrio w ∨ (s.savedPrio e = s.savedPrio w ∧ w.since ≤ e.since)) → w.ended = none → Gives (.evictedContextResume core k x) s fun t =>
        (t.coreAt core).saved = dropNth (s.coreAt core).saved k ∧ (t.ctxAt ck).bank = w.ctx.bank ∧ (t.ctxAt ck).status = w.ctx.status ∧
        (t.ctxAt ck).work = w.ctx.work ∧ (t.ctxAt ck).hg = w.ctx.hg ∧ (t.ctxAt ck).cb = w.ctx.cb ∧ (t.ctxAt ck).deadline = w.ctx.deadline ∧ t.mem = s.mem) ∧
    ((s.coreAt core).saved.drop k = w :: r → s.coreFree core x = false → exec (.evictedContextResume core k x) s = .next s) ∧
    (s.op? op = some o → s.tileReady o = true → o.aged < (s.clk - o.since) / 2 ^ 20 → s.prio o.ctxid o.rcb + o.aged < 15 →
      exec (.priorityAging op) s = .next (s.onOp op fun p => { p with aged := p.aged + 1 })) ∧
    (s.op? op = some o → (s.clk - o.since) / 2 ^ 20 ≤ o.aged → exec (.priorityAging op) s = .next s)
/-! ### The dispatcher, the issue of a core, completion -/

namespace Sys2Proof.Claims

open Sys2Proof.Machine

/-- An operator's next tile may bind to a context of a core: it is ready, the context free, the core one it may use, and it goes first (R29, R48, R115, R347,
R348). -/
def MayBind (s : State) (o : OpInst) (core x : Nat) : Prop :=
  o.gfe / 4 = dieOfCore core ∧ s.tileReady o = true ∧ s.coreFree core x = true ∧ s.confined o core = true ∧ s.agingSettled (dieOfCore core) = true ∧
    s.isFirst core (s.opCand o) = true

/-- A plain operator, not speculating and at the head of no fuse group, with every handle placed, none
of them by its own tiles, and nothing of it stopped or displaced. -/
def PlainOp (s : State) (o : OpInst) : Prop :=
  o.phase = .no ∧ o.again = [] ∧ o.stopped = [] ∧ s.displaced = [] ∧ (∀ p ∈ s.ops, p.follows ≠ some o.id) ∧
    ∀ h ∈ o.handles, o.under h.wr h.hid = h.hid ∧ ∃ e, s.rawEntry o.ctxid o.shard h.hid = some e ∧ e.placed = true ∧
      s.heldByTile o.group o.ctxid o.shard e = false

/-- An untagged register that holds a number. -/
def plain (v : Nat) : SReg := ⟨BitVec.ofNat 128 (v % 2 ^ 64), false⟩

end Sys2Proof.Claims

/-- R27, R29, R30, R92, R147: a bind of an installed operator's tile puts the walker's next tile on the context: s0 its number, s1 to s6 and TILEIX its indices, s8
on the capabilities of its handles, every other s register zero, the predicates false, PBOUND, OPC and the heap triple set, the pc at the image's entry.
An architected operator's tile runs at once and counts as done (log 12). -/
def Sys2Proof.Claims.TileBinds : Prop :=
  ∀ (s u : State) (op core x : Nat) (o : OpInst) (im : Installed),
    let ix := (walkTile o.order o.counts o.code).1
    let ck := 4 * core + x
    let heap := (s.dev o.ctxid).heap
    let taken := (s.onDie (dieOfCore core)).onOp o.id fun _ => (o.take s.clk).2
    (s.op? op = some o → MayBind s o core x → PlainOp s o → o.image.bind (s.image? o.ctxid) = some im → Gives (.tileBind op core x) s fun t =>
      let c := t.ctxAt ck
      let k := fun (n : Nat) => (AMap.get (0 : BitVec 64) c.bank.k n).toNat
      c.status = .ready ∧ c.bank.pc = im.first + im.entry ∧ c.work.job = .tile o.id o.nextTile ix ∧ c.work.ctxid = o.ctxid ∧ c.work.rcb = o.rcb ∧
      c.work.img = im.first ∧ c.work.nb = im.nb ∧ c.bank.sreg 0 = plain o.nextTile ∧ (∀ l, l < 6 → c.bank.sreg (1 + l) = plain (nth 0 ix l)) ∧
      (c.bank.sreg 7).tag = false ∧ (∀ n, n < o.handles.length → c.bank.sreg (8 + n) = s.mintFor o ix (nth ⟨0, false, false, 0⟩ o.handles n).hid) ∧
      (∀ n, 8 + o.handles.length ≤ n → c.bank.sreg n = ⟨0, false⟩) ∧ c.bank.p = 0 ∧ c.bank.q = [] ∧ c.bank.v = [] ∧
      k 0 = 0 ∧ k 3 = 0 ∧ k 4 = 0 ∧ (∀ l, l < 6 → k (8 + l) = nth 0 ix l % 2 ^ 64) ∧ k 0x10 = nth 0 heap 0 % 2 ^ 64 ∧
      k 0x11 = nth 0 heap 1 % 2 ^ 64 ∧ k 0x12 = nth 0 heap 2 % 2 ^ 64 ∧ k 0x40 = im.pbound % 2 ^ 64 ∧ c.snap = c.bank ∧ c.gated = [] ∧ c.var = [] ∧
      (∃ p ∈ t.ops, p.id = o.id ∧ p.nextTile = o.nextTile + 1) ∧ t.mem = s.mem) ∧
    (s.op? op = some o → MayBind s o core x → PlainOp s o → o.image = none → taken.archTile o core ix = .ok u → u.ops = taken.ops → u.ctxs = s.ctxs →
      Gives (.tileBind op core x) s fun t =>
        t.mem = (u.readShards o).mem ∧ t.ctxs = s.ctxs ∧ ∃ p ∈ t.ops, p.id = o.id ∧ p.nextTile = o.nextTile + 1 ∧ p.done = o.done + 1) ∧
    (s.op? op = some o → ¬MayBind s o core x → exec (.tileBind op core x) s = .next s)

/-- R35, R36, R37, R381, R382: a card that reaches the head of its queue is checked: one out of range is discarded with cause 0x0E, one that cannot be read waits
with cause 0x06. A deal takes max(1, ceil(remaining / 2 W)) records of the card at the head, advances NEXT, removes the card when all are dealt, and binds
the first record: s1 its index, s2 its address, s3 RECSZ. -/
def Sys2Proof.Claims.CardsAndDeals : Prop :=
  ∀ (s u : State) (die k core x f va : Nat) (l : List Byte) (e : QElem) (es : List QElem) (h : HEnt) (d : Card),
    let qi := 256 * die + k
    let q := s.queue qi
    let own := q.owner
    let w := s.onDie die
    let g := fun (i n : Nat) => leNat ((l.drop i).take n)
    let good := g 0 8 < 7680 ∧ g 12 4 ≠ 0 ∧ 16 ≤ g 10 2 ∧ g 10 2 ≤ 4096 ∧ g 10 2 % 16 = 0 ∧ g 20 4 = 0 ∧ g 24 8 < 2 ^ 40
    let due := q.isTask = true ∧ q.elems = e :: es ∧ q.checked = false ∧ q.faulted = false ∧ (q.state = 1 ∨ q.state = 2) ∧
      s.rstate own.1 own.2 ≠ 3 ∧ s.rstate own.1 own.2 ≠ 4 ∧ (∀ r ∈ s.traps, r.unit ≠ .card qi)
    let read := w.unitRead (w.unitEnv own.1) e.val 32
    let w1 := u.readBy own.1 d.va 32
    let width := (s.ctxs.filter fun p => p.2.dealtFrom qi).length + 1
    let left := d.count - d.next
    let chunk := min left (max 1 ((left + 2 * width - 1) / (2 * width)))
    (due → read = .ok l → good → exec (.cardHeadCheck die k) s = .next (w.onQueue qi fun q => { q with checked := true })) ∧
    (due → read = .ok l → ¬good → s.rootOf own.1 own.2 = none → Gives (.cardHeadCheck die k) s fun t => (t.queue qi).elems = es ∧ t.mem = s.mem ∧
      ∃ r, t.traps = s.traps ++ [r] ∧ r.cause = 0x0E ∧ r.ctxid = own.1 ∧ r.rcb = own.2 ∧ r.res = false) ∧
    (due → f ≠ 0 → read = .error (f, va) → Gives (.cardHeadCheck die k) s fun t => (t.queue qi).elems = q.elems ∧ (t.queue qi).faulted = true ∧
      (t.queue qi).faultAt = e.val % 2 ^ 56 ∧ t.mem = s.mem ∧ ∃ r, t.traps = s.traps ++ [r] ∧ r.cause = 0x06 ∧ r.ctxid = own.1 ∧ r.rcb = own.2 ∧ r.res = true ∧
        (r.bytes.drop 0x20).take 8 = leBytes (e.val % 2 ^ 56) 8) ∧
    (q.isTask = false ∨ q.elems = [] ∨ (q.checked = true ∧ s.rstate own.1 own.2 ≠ 3 ∧ s.rstate own.1 own.2 ≠ 4) →
      exec (.cardHeadCheck die k) s = .next w) ∧
    (k < 256 → die = dieOfCore core → s.cardReady qi = true → s.coreFree core x = true → s.agingSettled die = true → s.isFirst core (s.cardCand qi) = true →
      q.elems = e :: es → w.headCard qi = .ok d → d.next < d.count → s.rootOf own.1 own.2 = none →
      w.dealt own.1 d.va (d.next + chunk) d.grav = .ok u → w1.rootOf own.1 own.2 = none →
      w1.entry own.1 e.plane d.argh = some h → Gives (.deal core x k) s fun t =>
        let c := t.ctxAt (4 * core + x)
        t.mem = w1.mem ∧ (t.queue qi).elems = (if chunk = left then es else { e with since := s.clk } :: es) ∧ c.status = .ready ∧ c.bank.pc = d.entry ∧
        c.work.job = .task die k d.va d.next (chunk - 1) d.bits ∧ c.work.ctxid = own.1 ∧ c.work.rcb = own.2 ∧ c.bank.sreg 1 = plain d.next ∧
        c.bank.sreg 2 = plain (h.base + d.next * d.recsz) ∧ c.bank.sreg 3 = plain d.recsz ∧ (c.bank.sreg 8).tag = true ∧ c.bank.sreg 0 = ⟨0, false⟩ ∧
        c.bank.p = 0) ∧
    (s.coreFree core x = false → exec (.deal core x k) s = .next s)

/-- R23, R113, R117: an operator whose tiles have all ended completes: it is outstanding no longer, and VERSION of every handle it writes has advanced; until then
nothing happens. R331: one without tiles acts once its handles are ready, and completes. -/
def Sys2Proof.Claims.OperatorsComplete : Prop :=
  ∀ (s u : State) (op : Nat) (o : OpInst),
    let quiet := (∀ t ∈ s.traps, t.op ≠ op) ∧ (∀ p ∈ s.ctxs, p.2.opId ≠ op)
    let at0 := s.onDie (o.gfe / 4)
    let simple := fun (w : State) => (w.gfeAt o.gfe).specs = [] ∧ (∃ j ∈ (w.gfeAt o.gfe).set, (w.gfeAt j).halted = false) ∧ w.releases = [] ∧ o.temps = [] ∧ o.olds = [] ∧ o.last = false
    (s.op? op = some o → quiet → o.failed = false → o.total ≤ o.done → o.phase = .no → simple s → Gives (.operatorComplete op) s fun t =>
      t.mem = (at0.bumpVersions o).mem ∧ t.ops = s.ops.filter (fun p => p.id != o.id) ∧ t.ctxs = s.ctxs) ∧
    (s.op? op = some o → o.failed = false → o.done < o.total → hasTiles o.record = false → o.stall = none → s.depsDone o = true →
      s.rstate o.ctxid o.rcb = 1 → s.historyDue o = false → at0.performOp o = .done u → simple u → Gives (.operatorComplete op) s fun t =>
      t.mem = (u.bumpVersions o).mem ∧ t.ops = u.ops.filter (fun p => p.id != o.id) ∧ t.ctxs = u.ctxs) ∧
    (s.op? op = some o → o.failed = false → o.done < o.total → hasTiles o.record = true → exec (.operatorComplete op) s = .next at0) ∧
    (s.op? op = none → exec (.operatorComplete op) s = .next (s.onDie 8))

/-- R38, R40, R141: a switch drops the latches of the context left, costs the clk, and picks the next; R39: a blocked context whose bundle need not block is ready
again, and one whose ring header changes looks again; R143: a result whose bytes have come, and whose stamps the die's clock dominates where it acquires,
is written; R121: a performed store is acknowledged; R44: a ready context past PBOUND without a P mark traps with cause 0x0C. R165: an unassigned opcode
traps with cause 0x01; R134: an empty bundle does nothing of its own. -/
def Sys2Proof.Claims.IssueEvents : Prop :=
  ∀ (s : State) (core x k slot key j : Nat) (share : Bool) (v : VarW) (vs : List VarW) (a : Ack) (as : List Ack) (w : Why) (b : Bundle),
    let ck := 4 * core + x
    let c := s.ctxAt ck
    let last := 4 * core + (s.coreAt core).lastX
    let again := (s.acting core x).onCtx Ctx.landed
    let readied := fun (c : Ctx) => { c with status := .ready, w := 0 }
    (s.pick core = some (x, share) → s.coreRuns core = true → (s.coreAt core).slotAt ≤ s.clk → x ≠ (s.coreAt core).lastX →
      (s.coreAt core).turn = none → Gives (.contextSwitch core) s fun t =>
        (t.coreAt core).turn = some (x, share) ∧ (t.coreAt core).slotAt = s.clk + 1 ∧ t.mem = s.mem ∧ (t.ctxAt last).latchA.val = none ∧
        (t.ctxAt last).latchB.val = none ∧ (t.ctxAt last).latchM.val = none ∧ (t.ctxAt last).bank = (s.ctxAt last).bank ∧
        ∀ n, n ≠ last → t.ctxAt n = s.ctxAt n) ∧
    (s.pick core = none → exec (.contextSwitch core) s = .next s) ∧
    (c.status = .blocked w → (∀ f r, w ≠ .fault f r) → w ≠ .remote → (∀ n, w ≠ .svcResult n) → w ≠ .edges → (∀ a dl, w ≠ .barrier a dl) →
      again.presented = .ok b → (∀ why, again.bundleVerdict b ≠ .block why) →
      ((∀ q, w ≠ .deq q) → exec (.blockedBundleResume core x) s = .next (s.onCtxAt ck readied)) ∧
      (w = .deq k → exec (.blockedBundleResume core x) s =
        .next ((s.onQueue k fun h => { h with waiters := h.waiters.filter fun n => n != ck }).onCtxAt ck readied))) ∧
    (c.status = .blocked w → (∀ f r, w ≠ .fault f r) → w ≠ .remote → (∀ n, w ≠ .svcResult n) → again.presented = .ok b →
      (∃ why, again.bundleVerdict b = .block why) → exec (.blockedBundleResume core x) s = .next s) ∧
    (x < 4 → s.ctxs = [(ck, c)] → c.status = .blocked (.ring key j) → exec (.ringHeaderWatch key) s = exec (.blockedBundleResume core x) s ∧
      (again.presented = .ok b → (∀ why, again.bundleVerdict b ≠ .block why) → exec (.ringHeaderWatch key) s = .next (s.onCtxAt ck readied))) ∧
    ((∀ p ∈ s.ctxs, (∀ m i, p.2.status ≠ .blocked (.ring m i)) ∧ p.2.status ≠ .blocked .svcRing) → exec (.ringHeaderWatch key) s = .next s) ∧
    (c.var.drop k = v :: vs → v.waiting = 0 → (v.dom = true → ∀ m ∈ v.stamps, dominates (s.clockOf (dieOfCore core)) m = true) → x < 4 →
      c.svc = none → c.fwSvc = none → Gives (.variableLatencyResult core x k) s fun t =>
        (t.ctxAt ck).bank = c.bank.writes (dstWrites v.dst v.bytes) ∧ (t.ctxAt ck).var = dropNth c.var k ∧ (t.ctxAt ck).stamps = c.stamps ++ v.stamps ∧
        (t.ctxAt ck).status = c.status ∧ t.mem = s.mem ∧ ∀ n, n ≠ ck → t.ctxAt n = s.ctxAt n) ∧
    (c.var.drop k = v :: vs → v.waiting ≠ 0 → exec (.variableLatencyResult core x k) s = .next s) ∧
    (s.acks.drop k = a :: as → a.performed = true → exec (.storeAcknowledged k) s = .next { s with acks := dropNth s.acks k }) ∧
    (s.acks.drop k = a :: as → a.performed = false → exec (.storeAcknowledged k) s = .next s) ∧
    (c.status = .ready → c.bound = true → c.inHandler = false → (AMap.get (0 : BitVec 64) c.bank.k 0x40).toNat ≠ 0 →
      (AMap.get (0 : BitVec 64) c.bank.k 0x40).toNat < c.pcount → s.bundle? c.bank.pc = some b → b.hdr.p = false → Gives (.pboundExceeded core x) s fun t =>
        (t.ctxAt ck).status = .trapped ∧ (t.ctxAt ck).bank = c.bank ∧ t.mem = s.mem ∧ ∃ r, t.traps = s.traps ++ [r] ∧ r.cause = 0x0C ∧ r.unit = .ctx ck) ∧
    (c.pcount ≤ (AMap.get (0 : BitVec 64) c.bank.k 0x40).toNat → exec (.pboundExceeded core x) s = .next s) ∧
    Traps (.illegalOpcode slot) s 0x01 ∧ exec .emptyBundle s = .next s
/-! ### Delivery and resolution of faults, engine commands, copies -/

/-- R157, R359, R365, R366: a record whose ring can take it leaves with its MSI, and CAUSE, EPC, HANDLE and FADDR of the trapped context are those of the record;
then report ends the context as ENDOP does, stop empties every context of the fault domain; a record of a translation fault leaves its unit blocked.
A full ring holds it; one that none of the rings can take is tried again by the retry. -/
def Sys2Proof.Claims.FaultDelivery : Prop :=
  ∀ (s u : State) (k ck : Nat) (r : TrapRec) (rs : List TrapRec) (i : Instr) (stuck : Bool),
    let d := s.dev r.ctxid
    let f := fun (j n : Nat) => leNat ((r.bytes.drop j).take n)
    let told := fun (t : State) (c : Ctx) =>
      let x := t.ctxAt ck
      let kr := fun (j : Nat) => (AMap.get (0 : BitVec 64) x.bank.k j).toNat
      t.out = u.out ++ [.msi d.trapMsi.addr d.trapMsi.data] ∧ kr 0 = f 0 1 % 2 ^ 64 ∧ kr 1 = f 0x12 2 % 2 ^ 13 ∧ kr 3 = f 0x10 2 % 2 ^ 64 ∧ kr 4 = f 0x20 8 % 2 ^ 56 ∧
        x.bank.s = c.bank.s ∧ x.bank.v = c.bank.v ∧ x.bank.p = c.bank.p ∧ x.bank.q = c.bank.q ∧ x.bank.pc = c.bank.pc
    let first := s.traps.drop k = r :: rs ∧ r.held = false ∧ r.stuck = stuck ∧ (∀ p ∈ s.traps.take k, r.sameUnit p = false)
    (i, stuck) ∈ [(.trapRecordDelivery k, false), (.faultRingRetry k, true)] → first →
    (s.ringFor r = .ok u → u.devs = s.devs → r.ck = ck + 1 → r.unit = .ctx ck → (u.ctxAt ck).bound = true →
      (r.res = true → r.after = 0 → Gives i s fun t => told t (u.ctxAt ck) ∧ t.traps = dropNth u.traps k ∧ (t.ctxAt ck).status = (u.ctxAt ck).status ∧
        t.mem = u.mem) ∧
      (r.res = true → r.after = 1 → (∃ va w, (u.ctxAt ck).status = .blocked (.fault va w)) → Gives i s fun t =>
        told t (u.ctxAt ck) ∧ (t.ctxAt ck).status = .ready) ∧
      (r.res = false → r.pol = none → u.policy r.ctxid r.rcb = 2 → (u.ctxAt ck).status = .trapped → Gives i s fun t =>
        told t (u.ctxAt ck) ∧ (t.ctxAt ck).status = .ending ∧ (t.ctxAt ck).gated = [] ∧ (t.ctxAt ck).var = []) ∧
      (r.res = false → r.pol = none → u.policy r.ctxid r.rcb = 0 → Gives i s fun t => ∀ n, (u.ctxAt n).bound = true → (u.ctxAt n).work.ctxid = r.ctxid →
        u.fdom r.ctxid (u.ctxAt n).work.rcb = u.fdom r.ctxid r.rcb → (t.ctxAt n).status = .empty)) ∧
    (s.ringFor r = .full → exec i s = .next s) ∧
    (s.ringFor r = .bad → exec i s = .next { s with traps := setNth { r with stuck := true } s.traps k })

/-- R358: a retry lets each blocked unit of its device context translate again: a context becomes ready, a packet, a card and an unmap go on; a fail ends those of
its page: a packet is finished with the fault's cause as its status, a context is handled by its region's policy. R3: an uncorrectable error traps its reader
with cause 0x11 in the fault domain of the region that owns the data. R281: an unassigned bytecode opcode traps with cause 0x01 and AUX the opcode. -/
def Sys2Proof.Claims.FaultResolutionAndErrors : Prop :=
  ∀ (s : State) (v ck core x va a id cause : Nat) (wr : Bool) (p : Packet),
    let ctxid := v / 2 ^ 56 % 64
    let act := v / 2 ^ 62 % 4
    let c := s.ctxAt ck
    let k := 4 * core + x
    let e := s.ctxAt k
    (act = 0 → c.status = .blocked (.fault va wr) → c.work.ctxid = ctxid → (∀ r ∈ s.traps, ¬(r.unit = .ctx ck ∧ r.res = true)) →
      Gives (.fresRetry v) s fun t => (t.ctxAt ck).status = .ready ∧ (t.ctxAt ck).bank = c.bank ∧ t.mem = s.mem) ∧
    (act = 0 → (∀ r ∈ s.traps, r.res = false) → Gives (.fresRetry v) s fun t => t.mem = s.mem ∧ t.traps = s.traps ∧
      (∀ n, (s.queue n).owner.1 = ctxid → (t.queue n).faulted = false) ∧ t.packets.length = s.packets.length) ∧
    (act ≠ 0 → exec (.fresRetry v) s = .next s) ∧
    (act = 1 → s.blockedUnits ctxid = [(.ctx ck, va)] → va / 2 ^ 12 % 2 ^ 44 = v / 2 ^ 12 % 2 ^ 44 → s.traps = [] → s.policy c.work.ctxid c.work.rcb = 2 →
      Gives (.fresFail v) s fun t => (t.ctxAt ck).status = .ending ∧ (t.ctxAt ck).gated = [] ∧ t.traps = []) ∧
    (act = 1 → s.blockedUnits ctxid = [(.packet id, va)] → va / 2 ^ 12 % 2 ^ 44 = v / 2 ^ 12 % 2 ^ 44 → s.traps = [] → p ∈ s.packets → p.id = id →
      p.fault = some (va, cause) → (∀ q ∈ s.packets, q.id = id → q = p) → Gives (.fresFail v) s fun t => t.mem = s.mem ∧ ∃ q ∈ t.packets, q.id = id ∧ q.fault = none ∧ q.finished = true ∧
        q.status = cause) ∧
    (act = 1 → (∀ u ∈ s.blockedUnits ctxid, u.2 / 2 ^ 12 % 2 ^ 44 ≠ v / 2 ^ 12 % 2 ^ 44) → exec (.fresFail v) s = .next s) ∧
    (act ≠ 1 → exec (.fresFail v) s = .next s) ∧
    (e.bound = true → e.status = .ready → Gives (.uncorrectableMemoryError 0 core x a) s fun t =>
      (t.ctxAt k).status = .trapped ∧ (t.ctxAt k).bank = e.bank ∧ t.mem = s.mem ∧ ∃ r, t.traps = s.traps ++ [r] ∧ r.cause = 0x11 ∧ r.res = false ∧
        r.unit = .ctx k ∧ (r.bytes.drop 0x20).take 8 = leBytes (a % 2 ^ 56) 8 ∧
        ((∀ b ∈ s.blocks, ¬(b.ctxid = e.work.ctxid ∧ s.blockVa b ≤ a ∧ a < s.blockVa b + b.size)) → r.rcb = e.work.rcb) ∧
        (∀ b, s.blocks = [b] → b.ctxid = e.work.ctxid → s.blockVa b ≤ a → a < s.blockVa b + b.size → r.rcb = b.rcb)) ∧
    (e.status = .trapped → exec (.uncorrectableMemoryError 0 core x a) s = .next s) ∧
    (Gives (.bytecodeIllegalOpcode a) s fun t => t.mem = s.mem ∧ t.ops = s.ops ∧ t.gfe = { s.gfe with block := .trap, fuse := 0, fused := false, fuseLast := none } ∧
      ∃ r, t.traps = s.traps ++ [r] ∧ r.cause = 1 ∧ r.bytes.drop 56 = leBytes a 8)

/-- R104, R213, R221, R225: a command whose earlier conflicts are over starts: a WLOAD as the shadow becomes FILLING, an MXGO with NC0 to NC5 at the start of its
nest; its units then run, and with the last its result is delivered and it leaves its queue; a translation fault stops it at its unit; one that faults or is
held runs no unit. A command that a recorded move of a GFE record
holds does not start (R131). R223: at a swap point the FULL shadow becomes the active weights. -/
def Obligations.EngineCommands : Prop :=
  ∀ (s u : State) (core seq : Nat) (e e1 : EngCmd) (res : List Byte) (f : MxgoF) (w : WTile) (cz va : Nat) (wr : Bool),
    let k := s.coreAt core
    let put := fun (g : EngCmd → EngCmd) => s.onCoreAt core fun c => { c with cmds := onCmd seq g c.cmds }
    let found := findCmd k.cmds seq = some e
    let w0 := s.onDie (dieOfCore core)
    let unit := cmdUnit w0 core e
    let may := k.mayStart e = true ∧ w0.moveHolds e = false
    let spent := fun (t : State) => { t with fresh := t.fresh + 1 }
    (found → may → (∀ g, e.op ≠ .mxgo g) → (∀ n a b, e.op ≠ .wload n a b) →
      exec (.engineCommandStart core seq) s = .next (put fun g => { g with started := true })) ∧
    (found → may → (∃ n a b, e.op = .wload n a b) → k.shadow = .empty → Gives (.engineCommandStart core seq) s fun t =>
      (t.coreAt core).shadow = .filling ∧ (t.coreAt core).cmds = onCmd seq (fun g => { g with started := true }) k.cmds ∧ t.ctxs = s.ctxs ∧ t.mem = s.mem) ∧
    (found → may → e.mine (s.ctxAt (4 * core + e.x)) = true → e.op = .mxgo f → f.rsm = false → e.args.length = 8 → f.nlm1 ≤ 5 → (∀ j, j < 6 → 0 < nestCnt (nth 0 e.args (2 + j))) →
      Gives (.engineCommandStart core seq) s fun t => t.mem = s.mem ∧ (∃ g, findCmd (t.coreAt core).cmds seq = some g ∧ g.started = true ∧ g.op = e.op) ∧
        ∀ j, j < 6 → AMap.get (0 : BitVec 64) (t.ctxAt (4 * core + e.x)).bank.k (0x28 + j) = BitVec.ofNat 64 (nth 0 e.args (2 + j) % 2 ^ 48)) ∧
    (found → ¬may → exec (.engineCommandStart core seq) s = .next s) ∧
    (found → e.started = true → e.fault = none → e.q ≤ 5 → unit = .done res u →
      exec (.engineCommandComplete core seq 1) s = .next (spent (u.finishCmd core e res))) ∧
    (found → e.started = true → e.fault = none → e.q ≤ 5 → unit = .more e1 u → e1.seq = seq →
      exec (.engineCommandComplete core seq 1) s = .next (spent (u.onCoreAt core fun c => { c with cmds := onCmd seq (fun _ => e1) c.cmds }))) ∧
    (found → e.started = true → e.fault = none → e.q ≤ 5 → unit = .fault cz va wr → cz ≠ 8 → Gives (.engineCommandComplete core seq 1) s fun t =>
      t.mem = s.mem ∧ t.traps.length = s.traps.length + 1 ∧ ∃ g, findCmd (t.coreAt core).cmds seq = some g ∧ g.fault = some (va, wr)) ∧
    (found → e.started = false ∨ e.fault ≠ none → exec (.engineCommandComplete core seq 1) s = .next s) ∧
    (k.swapper = some e → k.shadow = .full w → Gives (.swap core) s fun t =>
      (t.coreAt core).active = some w ∧ (t.coreAt core).shadow = .empty ∧ t.ctxs = s.ctxs ∧ t.mem = s.mem ∧
        (t.coreAt core).cmds = onCmd e.seq (fun g => { g with swapped := true }) k.cmds) ∧
    (k.swapper = none → exec (.swap core) s = .next s)

namespace Sys2Proof.Claims

open Sys2Proof.Machine

/-- A packet as its copy unit takes it from a slot: in progress, nothing of it moved, with the CPYPUT that published it where one is recorded
(R131, R254), and whether another chip did (R377). -/
def taken (id cq slot : Nat) (bs : List Byte) (by' : Option (Nat × EngCmd)) (chip : Bool) : Packet :=
  { id := id, cq := cq, slot := slot, bytes := bs, started := true, done := 0, status := 0, finished := false, moved := 0, fault := none
    by_ := by'.elim 0 fun b => 4 * b.1 + b.2.x + 1
    epc := by'.elim 0 fun b => b.2.epc
    work := by'.elim {} fun b => b.2.work
    seq := by'.elim 0 fun b => b.2.seq
    chip := by'.isNone && chip }

end Sys2Proof.Claims

/-- R250, R254, R256: the copy unit of a queue takes the packet at RIDX when its V is 1: V is cleared, RIDX advances, and the packet is in progress; one whose V is
0 is not taken; a refused one is finished with the refusal's cause and a trap record; a reducing copy's commit record is cleared. A header or entry that
faults stops it, still unchecked. -/
def Sys2Proof.Claims.PacketsTaken : Prop :=
  ∀ (s s1 s2 u : State) (cq kind : Nat) (i : Instr) (q : CopyQueue) (h bs : List Byte) (r : Nat × Nat × Nat) (f : Nat × Nat),
    let w := s.onDie (q.cluster / 16)
    let e := w.unitEnv q.ctxid
    let hf := fun (j n : Nat) => leNat ((h.drop j).take n)
    let ridx := hf 8 8
    let slot := ridx % 2 ^ (hf 0x18 1 % 16)
    let va := hf 0x10 8 + 64 * slot
    let v := leNat bs
    let line := ((w.xlatAccess e .read va 64).pieces.head?.bind Piece.key?).map (· / 64)
    let p := taken s2.nextPacket cq slot bs (findProducer q.ctxid q.hdr va s2.packets s2.cores) (line.any w.chipLines.contains)
    let s3 := { s2 with packets := s2.packets ++ [p], nextPacket := s2.nextPacket + 1, chipLines := s2.chipLines.filter fun l => line != some l }.readBy q.ctxid va 64
    let there := s.queueOf cq = some q ∧ q.stall = none ∧ w.unitRead e q.hdr 64 = .ok h ∧ w.unitAcquire e va 64 = .ok bs
    let writes := w.unitWrite e va (leBytes (v - 2 ^ 31) 4) = .ok s1 ∧ s1.unitWrite e (q.hdr + 8) (leBytes ((ridx + 1) % 2 ^ 64) 8) = .ok s2
    let stops := (s3.pkUnreadable q v).map (·, 0) |>.or ((pkRings v).findSome? fun h => (s3.pkHeader q h).map (·, h))
    let reached := stops = none
    (i, kind) ∈ [(.copy cq, 0), (.reducingCopy cq, 1), (.subscribe cq, 2), (.drain cq, 3)] →
      (there → bitOf v 31 = false → exec i s = .next w) ∧
      (there → bitOf v 31 = true → pkKind v = kind → kind ≠ 1 → writes → reached → s3.pkRefuse q v p.chip = none →
        exec i s = .next (s3.onPacket p.id fun o => { o with checked := true })) ∧
      (there → bitOf v 31 = true → pkKind v = 1 → kind = 1 → writes → reached → s3.pkRefuse q v p.chip = none →
        s3.unitWrite (s3.unitEnv q.ctxid) (s3.queueWord q 0x28 + 128 * slot) (List.replicate 128 0) = .ok u →
        exec i s = .next (u.onPacket p.id fun o => { o with checked := true })) ∧
      (there → bitOf v 31 = true → pkKind v = kind → writes → reached → s3.pkRefuse q v p.chip = some r → Gives i s fun t => t.mem = s3.mem ∧
        t.packets = s3.packets.map (fun o => if o.id = p.id then { o with status := r.1, finished := true } else o) ∧
        ∃ x, t.traps = s3.traps ++ [x] ∧ x.cause = r.1 ∧ x.unit = .packet p.id ∧ x.res = false ∧ (x.bytes.drop 0x10).take 2 = leBytes r.2.1 2 ∧ (x.bytes.drop 0x20).take 8 = leBytes (r.2.2 % 2 ^ 56) 8) ∧
      (there → bitOf v 31 = true → pkKind v = kind → writes → (∃ hid, stops = some (f, hid)) → f.1 ≠ 9 → Gives i s fun t =>
        t.mem = s3.mem ∧ t.packets = s3.packets.map (fun o => if o.id = p.id then { o with fault := some (f.2, f.1) } else o) ∧
        ∃ x, t.traps = s3.traps ++ [x] ∧ x.cause = f.1 ∧ x.unit = .packet p.id ∧ x.res = true)

/-- R253, R257: a subscription moves the next tile, beat by beat, into the next free slot of its ring and fills it, a drain moves the next filled slot out and frees
it, at the stack of the tensor's memory; without a slot they wait; a copy moves its rows, a beat of 64 bytes at a time. R254: a packet whose bytes have moved and
been performed leaves; until they are it stays. -/
def Sys2Proof.Claims.PacketsMoveAndComplete : Prop :=
  ∀ (s u : State) (pk n key j die k : Nat) (q : CopyQueue) (p o : Packet) (hs hd h : HEnt) (z : Bool),
    let w := s.onDie (q.cluster / 16)
    let running := w.pkUnreadable q p.num = none ∧ s.packet? pk = some p ∧ s.queueOf p.cq = some q ∧ p.fault = none ∧ p.checked = true
    let ents := s.pkEnt q (pkSrc p.num) = some hs ∧ s.pkEnt q (pkDst p.num) = some hd
    let side := (w.xlatAccess (w.unitEnv q.ctxid) .read h.base 1).pieces = [⟨.mem key, j, n, z⟩] ∧ homeDie key = die
    let wd := s.onDie die
    let e := wd.unitEnv q.ctxid
    let ring := s.mem.ring k
    let due := fun (kind : Nat) => w.mayMove p = true ∧ wd.mayMove p = true ∧ pkKind p.num = kind ∧ p.moved < pkTiles p.num
    (running → ents → h = hs → side → due 2 → wd.headerKey e hd.base = .ok (some k) → ring.bad = false →
      (ring.canPut 0 = true → wd.moveTile q p hs false (hd.base + ring.offset (ring.putSlot 0)) = (true, u) →
        exec (.subscribeTileFill pk) s =
          .next ((({ u with mem := u.mem.putRing k ring.filled }).ringMsi q.ctxid hd.base).pkNext p.id (pkTiles p.num))) ∧
      (ring.canPut 0 = true → wd.moveTile q p hs false (hd.base + ring.offset (ring.putSlot 0)) = (false, u) → exec (.subscribeTileFill pk) s = .next u) ∧
      (ring.canPut 0 = false → exec (.subscribeTileFill pk) s = .next wd)) ∧
    (running → ents → h = hd → side → due 3 → wd.headerKey e hs.base = .ok (some k) → ring.bad = false →
      (ring.canTake 0 = true → wd.moveTile q p hd true (hs.base + ring.offset (ring.takeSlot 0)) = (true, u) →
        exec (.drainSlotWrite pk) s =
          .next ((({ u with mem := u.mem.putRing k ring.taken }).ringMsi q.ctxid hs.base).pkNext p.id (pkTiles p.num))) ∧
      (ring.canTake 0 = true → wd.moveTile q p hd true (hs.base + ring.offset (ring.takeSlot 0)) = (false, u) → exec (.drainSlotWrite pk) s = .next u) ∧
      (ring.canTake 0 = false → exec (.drainSlotWrite pk) s = .next wd)) ∧
    (running → movePacket q p w = u → u.packet? pk = some o → o.finished = true → o.fault = none → (∀ x ∈ u.traps, x.unit ≠ .packet pk) → o.id = pk →
      (u.unacked (1000000 + pk) ≠ [] → exec (.copyPacketComplete pk) s = .next u) ∧
      (u.unacked (1000000 + pk) = [] → pkRing o.num = 0 → o.by_ = 0 → u.rootOf q.ctxid q.rcb = none → Gives (.copyPacketComplete pk) s fun t =>
        t.packets = u.packets.filter (fun x => x.id != pk) ∧ t.ctxs = u.ctxs ∧ t.mem = u.mem)) ∧
    (running → p.finished = true → movePacket q p w = w) ∧
    (running → w.mayMove p = true → pkKind p.num = 0 → pkRows p.num = 1 → pkExt p.num 0 ≤ 64 → 0 < pkExt p.num 0 → p.moved = 0 → p.sub = 0 →
      w.copyBeat q p 0 0 = .ok u n → u.packets = s.packets → p.id = pk →
      ∃ t, movePacket q p w = t ∧ t.mem = u.mem ∧ t.packet? pk = some { p with done := p.done + n, moved := 1, finished := true })

/-! ### Gravity and speculation -/

/-- R378, R383 to R385: a borrow that reaches its home is refused where CLOSED is 1 and changes no counter; else ISSUED and the die's RESERVE grow by 2^30,
of which 2^20 go to the waiting holder in the same step. A slot idle for 1,241 ticks,
one a probe meets and one of a closed root is freed, ACC + RESERVE sent to the home; R374: the last die to answer a close notice sets DRAINED. R375: a flush that
arrives is added to RETURNED. -/
def Obligations.GravityMessages : Prop :=
  ∀ (s : State) (die k r w a ck : Nat) (x : Ctx) (l1 l2 : List GravMsg) (c : Comb) (cs : List Comb),
    let borrows := fun (m : GravMsg) => match m with
      | .borrow _ d _ => d == die
      | _ => false
    let probes := fun (m : GravMsg) => match m with
      | .probe _ d _ => d == die
      | _ => false
    let closes := fun (m : GravMsg) => match m with
      | .close _ d => d == die
      | _ => false
    let flushes := fun (m : GravMsg) => match m with
      | .flush _ _ => true
      | _ => false
    let sent := if c.acc + c.reserve = 0 then [] else [GravMsg.flush r (c.acc + c.reserve)]
    let slot := findSlot (s.slots die) r
    let waiting := List.find? (fun (p : Nat × Ctx) => p.2.work.uid == w && p.2.grav == 1) s.ctxs
    (s.grav = l1 ++ .borrow r die w :: l2 → (l1.filter borrows).length = k →
      (s.closed r = true → Gives (.borrowRefill die k) s fun t => t.mem = s.mem ∧ t.combs = s.combs ∧ t.grav = l1 ++ l2 ∧
        (waiting = some (ck, x) → (t.ctxAt ck).grav = 2 ∧ (t.ctxAt ck).hg = (s.ctxAt ck).hg) ∧ (waiting = none → t.ctxs = s.ctxs)) ∧
      (s.closed r = false → Gives (.borrowRefill die k) s fun t => t.mem = s.mem.writeNat (r + 0x40) 8 ((s.issued r + 2 ^ 30) % 2 ^ 64) ∧
        (waiting = some (ck, x) → t.reserve die r = s.reserve die r + 2 ^ 30 - 2 ^ 20 ∧ (t.ctxAt ck).grav = 0 ∧
          (t.ctxAt ck).hg = (s.ctxAt ck).hg + 2 ^ 20) ∧
        (waiting = none → t.reserve die r = s.reserve die r + 2 ^ 30 ∧ t.ctxs = s.ctxs))) ∧
    ((s.slots die).drop k = c :: cs → c.root = r → slot = some c →
      (c.used + 1241 ≤ s.time → Gives (.combinerIdleFlush die k) s fun t => t.mem = s.mem ∧ findSlot (t.slots die) r = none ∧ t.grav = s.grav ++ sent) ∧
      (s.time < c.used + 1241 → exec (.combinerIdleFlush die k) s = .next s)) ∧
    (s.grav = l1 ++ .probe r die w :: l2 → (l1.filter probes).length = k →
      (slot = some c → Gives (.flushProbe die k) s fun t => t.mem = s.mem ∧ findSlot (t.slots die) r = none ∧ t.grav = l1 ++ l2 ++ sent) ∧
      (slot = none → exec (.flushProbe die k) s = .next ({ s with grav := l1 ++ l2 }.testQuiet r))) ∧
    (s.grav = l1 ++ .close r die :: l2 → (l1.filter closes).length = k → slot = some c →
      (AMap.get 0 s.closing r = 1 → s.closed r = true → Gives (.closeNotice die k) s fun t =>
        t.mem = s.mem.writeNat (r + 0x50) 8 (Nat.lor (s.gflags r) 4) ∧ findSlot (t.slots die) r = none ∧ t.grav = l1 ++ l2 ++ sent) ∧
      (2 ≤ AMap.get 0 s.closing r → Gives (.closeNotice die k) s fun t =>
        t.mem = s.mem ∧ findSlot (t.slots die) r = none ∧ t.grav = l1 ++ l2 ++ sent ∧ AMap.get 0 t.closing r = AMap.get 0 s.closing r - 1)) ∧
    (s.grav = l1 ++ .flush r a :: l2 → (l1.filter flushes).length = k → Gives (.gravityFlushArrival k) s fun t =>
      t.mem = s.mem.writeNat (r + 0x48) 8 ((s.returned r + a) % 2 ^ 64) ∧ t.combs = s.combs ∧ t.grav = l1 ++ l2 ∧ t.ctxs = s.ctxs) ∧
    ((s.grav.filter borrows).length ≤ k → exec (.borrowRefill die k) s = .next s) ∧
    ((s.grav.filter flushes).length ≤ k → exec (.gravityFlushArrival k) s = .next s)

/-- R409: once the compares have read the handle, H1 goes to H2, its local shard to H1, and the count grows to at most 2. R413: a waiting operator with an upstream
one speculates behind it. R418: an operator that passes is committed, and its contexts speculate no more; R416: their held traps proceed. R419: one that fails is
squashed: its held traps and buffered stores are discarded, and its tile restarts at its entry on its context, with its HG and CB. -/
def Sys2Proof.Claims.SpeculationEvents : Prop :=
  ∀ (s u : State) (die gfe hid op ck lin first : Nat) (ix : List Nat) (p : SpecHandle) (o c : OpInst) (x : Ctx) (l : List (Nat × Nat)) (im : Installed),
    let n := 4 * die + gfe
    let g := s.gfeAt n
    let at0 := s.onDie die
    let copied := (at0.copyEntry g.ctxid g.shard p.h1 p.h2).bind fun t => t.copyEntry g.ctxid g.shard hid p.h1
    let due := g.specs.find? fun q => q.hid == hid && q.due
    let wd := s.onDie (o.gfe / 4)
    let held := fun (r : TrapRec) => r.held && r.op == op
    let free := o.phase = .no ∧ o.behind = none ∧ o.nextTile = 0 ∧ o.done = 0 ∧ o.follows = none ∧ o.low = none ∧ hasTiles o.record = true
    let alone := s.behindOf op = [] ∧ o.shadows = [] ∧ ∀ k, (s.ctxAt k).wbuf = []
    let fails := s.ops = [o] ∧ o.phase = .judging ∧ o.behind = none ∧ false ∈ o.verdicts ∧ s.commandsDone op = true ∧ s.preempts = []
    (due = some p → at0.comparesDone n p.region = true → copied = .ok u → u.gfes = s.gfes →
      Gives (.historyUpdate die gfe hid) s fun t => t.mem = u.mem ∧
        ∃ q ∈ (t.gfeAt n).specs, q = { p with count := min 2 (p.count + 1), due := false }) ∧
    ((due = some p ∧ at0.comparesDone n p.region = false) ∨ due = none → exec (.historyUpdate die gfe hid) s = .next at0) ∧
    (s.op? op = some o → free → s.specCount (o.gfe / 4) < 8 → wd.upstream o = some c →
      wd.takeShadows (issueAsker (s.gfeAt o.gfe) o.gfe) o.shard o.ctxid o.outs = .ok (l, u) → u.ops = s.ops →
      Gives (.downstreamSpeculation op) s fun t => ∃ q, t.op? op = some q ∧ q.phase = .running ∧ q.behind = some c.id ∧ q.nextTile = 0 ∧
        (∀ e ∈ l, e ∈ q.shadows) ∧ ∀ h ∈ o.handles, h.rd = true → h.hid ∈ c.outs → ∀ e, c.shadowOf h.hid = some e → (h.hid, e) ∈ q.shadows) ∧
    (s.op? op = some o → 8 ≤ s.specCount (o.gfe / 4) ∨ o.phase ≠ .no ∨ wd.upstream o = none → exec (.downstreamSpeculation op) s = .next wd) ∧
    (s.op? op = some o → s.passes o = true → alone → Gives (.specCommit op) s fun t =>
      (∃ q, t.op? op = some q ∧ q.phase = .no ∧ q.shadows = [] ∧ q.verdicts = []) ∧ (∀ r ∈ t.traps, ¬(r.held = true ∧ r.op = op)) ∧
        t.traps.length = s.traps.length ∧ ∀ k, (s.ctxAt k).opId = op → (t.ctxAt k).spec = false ∧ (t.ctxAt k).down = false ∧
          (t.ctxAt k).bank = (s.ctxAt k).bank ∧ ((s.ctxAt k).status = .blocked .spec → (t.ctxAt k).status = .ready)) ∧
    (s.op? op = some o → wd.passes o = false → exec (.specCommit op) s = .next wd) ∧
    (s.op? op = some o → fails → s.ctxs.filter (fun q => q.2.opId == op) = [(ck, x)] → s.ctxAt ck = x → x.status = .blocked .spec →
      x.work.job = .tile op lin ix → o.image = some first → s.image? o.ctxid first = some im → Gives (.specSquash op) s fun t =>
        (o.shadows = [] → s.releases = [] → (s.gfeAt o.gfe).specs = [] → t.mem = s.mem) ∧ t.traps = s.traps.filter (fun r => !(held r)) ∧ (∃ q, t.op? op = some q ∧ q.phase = .no ∧ q.shadows = [] ∧ q.verdicts = []) ∧
        (t.ctxAt ck).status = .ready ∧ (t.ctxAt ck).spec = false ∧ (t.ctxAt ck).gated = [] ∧ (t.ctxAt ck).wbuf = [] ∧
        (t.ctxAt ck).bank.pc = im.first + im.entry ∧ (t.ctxAt ck).hg = x.hg ∧ (t.ctxAt ck).cb = x.cb ∧ (t.ctxAt ck).work.job = .tile op lin ix) ∧
    (s.op? op = some o → o.phase = .no → exec (.specSquash op) s = .next wd)

/-! ### Starts, attestation and election -/

/-- R443: an image runs when the digests of its keys are the fused ones, each signature over its digest verifies and its version is at least the fused one; an image runs only once its verifier does.
R445: a cold start begins with memory empty and keeps the time base; the control cores run with images 0 and 1, and service then begins with the dies that are
ready, R446: in reduced service; a warm start keeps memory and the saved dies; one that does not reach
the firmware has failed, and after two in a row the next start is cold. R446: a die joins; with all eight and no stream running reduced service ends.
What is kept at a start is the model's choice where the rules are silent (logs 13, 19, 53). -/
def Sys2Proof.Claims.StartsAndService : Prop :=
  ∀ (s : State) (dies : List Nat) (i0 i1 i2 i3 : BootImage) (rest : List BootImage) (die j : Nat),
    let imgs := i0 :: i1 :: i2 :: i3 :: rest
    let digest := fun (i : BootImage) => sha384 (i.bytes.map (BitVec.ofNat 8))
    let key := fun (l : List Nat) => l.map (BitVec.ofNat 8)
    let good := fun (i : BootImage) => sha384 (key i.mlKey) = Config.fusedMlDsaKey ∧ sha384 (key i.ecKey) = Config.fusedEcdsaKey ∧
      Config.mlDsaVerifies (digest i) (key i.mlKey) (key i.mlSig) = true ∧ Config.ecdsaVerifies (digest i) (key i.ecKey) (key i.ecSig) = true ∧
      Config.fusedVersion ≤ i.version
    let reg0 := fun (t : State) => AMap.find? t.root.meas 0 = some (sha384 (List.replicate 48 0 ++ digest i0))
    let failed := s.root.failures + (if s.root.warming then 1 else 0)
    let ready := (upTo 8).filter fun d => dies.contains d
    let fresh := fun (t : State) => t.time = s.time ∧ t.clk = s.clk ∧ t.ctxs = [] ∧ t.gfes = [] ∧ t.ops = [] ∧ t.devs = [] ∧ t.powered = true ∧ t.acks = [] ∧
      t.installed = [] ∧ t.queues = [] ∧ t.tileMem = []
    let chain := fun (t : State) (l : List Nat) =>
      (good i0 → reg0 t) ∧ (¬good i0 → t.root.meas = []) ∧
      (good i0 → good i1 → t.root.up = true ∧ t.dies = l ∧ t.reduced = !l.isEmpty ∧ t.root.failures = 0 ∧
        (good i2 → j < 512 → 32 * j + 32 ≤ i2.bytes.length →
          AMap.find? t.store (7680 + j) = some (BitVec.ofNat 256 (leNat (((i2.bytes.map (BitVec.ofNat 8)).drop (32 * j)).take 32)))) ∧
        (¬good i2 → t.store = [])) ∧
      (¬(good i0 ∧ good i1) → t.root.up = false ∧ t.dies = [] ∧ t.store = [])
    (Gives (.coldStart dies imgs) s fun t => fresh t ∧ t.mem = [] ∧ t.root.epoch = s.root.epoch + 1 ∧ chain t ready) ∧
    (failed < 2 → Gives (.warmStart imgs) s fun t => fresh t ∧ t.mem = s.mem ∧ t.root.epoch = s.root.epoch ∧ chain t s.root.kept ∧
      (¬(good i0 ∧ good i1) → t.root.failures = failed ∧ t.root.warming = true)) ∧
    (2 ≤ failed → Gives (.warmStart imgs) s fun t => fresh t ∧ t.mem = [] ∧ t.root.epoch = s.root.epoch + 1 ∧ chain t []) ∧
    (s.root.up = true → die < 8 → die ∉ s.dies → Gives (.dieJoinService die) s fun t => (∀ d, d ∈ t.dies ↔ d < 8 ∧ (d = die ∨ d ∈ s.dies)) ∧
      t.mem = s.mem ∧ t.ctxs = s.ctxs ∧ (s.dies = [] → t.reduced = true) ∧ (s.dies ≠ [] → t.reduced = s.reduced)) ∧
    (s.root.up = false ∨ 8 ≤ die ∨ die ∈ s.dies → exec (.dieJoinService die) s = .next s) ∧
    (s.reduced = true → s.dies.length = 8 → (∀ p ∈ s.gfes, p.2.busy = false) → exec .reducedServiceEnd s = .next { s with reduced := false }) ∧
    ((∃ p ∈ s.gfes, p.2.busy = true) ∨ s.dies.length ≠ 8 → exec .reducedServiceEnd s = .next s) ∧
    (Gives .powerLoss s fun t => t.powered = false ∧ t.root.failures = failed ∧ t.root.warming = false ∧ t.mem = [] ∧ t.ctxs = [] ∧ t.cores = [] ∧ t.time = s.time ∧ t.root.up = false ∧ t.root.meas = [] ∧
      t.root.epoch = s.root.epoch)

/-- R444: the responder answers each request; the 16 measurement registers are returned as measurement blocks, signed. What it answers before the version, the
capabilities and the algorithms are settled is free. R447: a chip counts the claims of 100 ms after the first one it sees, and the highest epoch, then the lowest
identifier leads; a chip that loses while it loads takes the leader's images through the same chain; the leader sends a heartbeat every 250 ms; after 2 s without one another chip advances its epoch and claims again. -/
def Sys2Proof.Claims.AttestationAndElection : Prop :=
  ∀ (s : State) (slot off len nonce idx v chip epoch t0 l : Nat),
    let r := s.root
    let me := s.ioReg 0x48 % 1024
    let bytes := fun (l : List Nat) => l.flatMap fun v => leBytes v 8
    let answers := fun (i : Instr) (q : Nat) (b : List Byte) => Gives i s fun t => t.out = s.out ++ [.spdm q b] ∧ t.root.transcript = r.transcript ++ [q] ∧
      t.root.meas = r.meas ∧ t.mem = s.mem ∧ t.ctxs = s.ctxs
    let block := fun (k : Nat) => [BitVec.ofNat 8 (k + 1), 1] ++ leBytes 51 2 ++ [Config.measurementType k] ++ leBytes 48 2 ++
      AMap.get (List.replicate 48 (0 : Byte)) r.meas k
    let won := fun (l : List (Nat × Nat)) (lead : Nat) => ∃ e, (e, lead) ∈ l ∧ ∀ c ∈ l, c.1 < e ∨ (c.1 = e ∧ lead ≤ c.2)
    let open' := r.windowAt = some t0 ∧ s.time < t0 + 100 * 10 ^ 6
    let past := r.windowAt = some t0 ∧ t0 + 100 * 10 ^ 6 ≤ s.time
    let quote := fun (b : List Byte) => b ++ Config.signature (bytes (r.transcript ++ [0xE0, idx, nonce]) ++ b)
    let early := fun (i : Instr) => Gives i s fun t => (∃ q b, t.out = s.out ++ [.spdm q b]) ∧ t.root.meas = r.meas ∧ t.mem = s.mem ∧ t.ctxs = s.ctxs
    let settled := r.spdmVersion = true ∧ r.spdmCaps = true ∧ r.spdmAlgs = true
    (Gives .getVersion s fun t => t.root.spdmVersion = true ∧ t.root.spdmCaps = false ∧ t.root.spdmAlgs = false ∧ t.root.transcript = [0x84] ∧
      (∃ b, t.out = s.out ++ [.spdm 0x84 b]) ∧ t.root.meas = r.meas ∧ t.mem = s.mem) ∧
    (Gives (.getCapabilities v) s fun t => t.root.spdmCaps = r.spdmVersion ∧ (∃ b, t.out = s.out ++ [.spdm 0xE1 b]) ∧ t.root.meas = r.meas ∧ t.mem = s.mem) ∧
    (Gives (.negotiateAlgorithms v) s fun t => t.root.spdmAlgs = (r.spdmVersion && r.spdmCaps) ∧ (∃ b, t.out = s.out ++ [.spdm 0xE3 b]) ∧
      t.root.meas = r.meas ∧ t.mem = s.mem) ∧
    (settled → answers .getDigests 0x81 ((upTo 8).flatMap fun k => sha384 (Config.certificate k)) ∧
      answers (.getCertificate slot off len) 0x82 (((Config.certificate slot).drop off).take len) ∧
      answers (.challenge slot nonce) 0x83
        (sha384 (Config.certificate slot) ++ Config.signature (bytes (r.transcript ++ [0x83, slot, nonce]))) ∧
      (idx = 0 → answers (.getMeasurements idx nonce) 0xE0 (quote [16])) ∧
      (1 ≤ idx → idx ≤ 16 → answers (.getMeasurements idx nonce) 0xE0 (quote (block (idx - 1)))) ∧
      (idx = 255 → answers (.getMeasurements idx nonce) 0xE0 (quote ((upTo 16).flatMap block)))) ∧
    (¬settled → early .getDigests ∧ early (.getCertificate slot off len) ∧ early (.challenge slot nonce) ∧ early (.getMeasurements idx nonce)) ∧
    (r.windowAt = none → Gives (.claim chip epoch) s fun t => t.root.windowAt = some s.time ∧ (epoch, chip) ∈ t.root.claims ∧ (r.epoch, me) ∈ t.root.claims) ∧
    (open' → Gives (.claim chip epoch) s fun t => t.root.windowAt = some t0 ∧ t.root.claims = r.claims ++ [(epoch, chip)] ∧ t.root.leader = r.leader) ∧
    (past → r.claims ≠ [] → Gives (.claim chip epoch) s fun t => t.root.windowAt = some s.time ∧ t.root.claims = [(r.epoch, me), (epoch, chip)] ∧
      ∃ lead, t.root.leader = some lead ∧ won r.claims lead) ∧
    (past → r.claims ≠ [] → Gives .claimWindowExpiry s fun t => t.root.windowAt = none ∧ t.root.claims = [] ∧ t.root.loading = false ∧
      ∃ lead, t.root.leader = some lead ∧ won r.claims lead ∧ (lead = me ∨ r.loading = false → t.root.meas = r.meas ∧ t.store = s.store) ∧
        (lead ≠ me → r.loading = true → t = { (s.load (Config.leaderImages lead r.epoch)) with root := t.root } ∧
          t.root.meas = (s.load (Config.leaderImages lead r.epoch)).root.meas ∧ t.root.up = (s.load (Config.leaderImages lead r.epoch)).root.up)) ∧
    (open' → exec .claimWindowExpiry s = .next s) ∧
    (r.leader = some me → r.lastBeat + 250 * 10 ^ 6 ≤ s.time → Gives .heartbeat s fun t => t.out = s.out ++ [.heartbeat r.epoch] ∧ t.root.lastBeat = s.time) ∧
    (r.leader = some me → s.time < r.lastBeat + 250 * 10 ^ 6 → exec .heartbeat s = .next s) ∧
    (r.leader = some l → l ≠ me → Gives .heartbeat s fun t => t.out = s.out ∧ t.root.lastBeat = s.time) ∧
    (r.up = true → r.leader ≠ some me → r.windowAt = none → r.lastBeat + 2 * 10 ^ 9 ≤ s.time → Gives .heartbeatTimeout s fun t =>
      t.root.epoch = r.epoch + 1 ∧ t.out = s.out ++ [.claim (r.epoch + 1) me] ∧ t.root.windowAt = some s.time ∧ t.root.leader = none) ∧
    (s.time < r.lastBeat + 2 * 10 ^ 9 → exec .heartbeatTimeout s = .next s)

/-! ### The machine as a whole -/

namespace Sys2Proof.Claims

open Sys2Proof.Machine

/-- An operation of the S slot that only computes, moves and tests registers or transfers: all but DISPATCH, ENDOP and SVC. -/
def RegisterOnly (i : Instr) : Prop := i.tier = 0 ∧ i ≠ .endop ∧ i ≠ .svc ∧ ∀ a sh na smask, i ≠ .dispatch a sh na smask

/-- Operations answer one after another. -/
def Run : List Instr → State → State → Prop
  | [], s, t => t = s
  | i :: r, s, t => ∃ u, exec i s = .next u ∧ Run r u t

end Sys2Proof.Claims

/-- R138, R141, R157, R314: a precise trap is taken before its bundle has any effect: the registers, the gated stores and every byte of memory stay; the context stops,
its latches dropped, and a record with its cause, who it is, EPC, FADDR, the time and AUX waits for delivery. A translation fault rolls the context back: gated
stores and results of the region go, the snapshot is restored but for the trap registers, the context waits at the region's first bundle. -/
def Obligations.TrapsAndRollbacks : Prop :=
  ∀ (s : State) (ti : TrapInfo) (cause va : Nat),
    let ck := s.act.ck
    let c := s.ctx
    let told := fun (r : TrapRec) (n a w : Nat) => leNat ((r.bytes.drop n).take w) = a % 2 ^ (8 * w)
    let others := fun (t : State) => t.mem = s.mem ∧ t.tileMem = s.tileMem ∧ t.ops = s.ops ∧ ∀ k, k ≠ ck → t.ctxAt k = s.ctxAt k
    let recorded := fun (t : State) (cz fa aux : Nat) (res : Bool) => ∃ r, t.traps = s.traps ++ [r] ∧ r.cause = cz ∧ r.ctxid = c.work.ctxid ∧ r.rcb = c.work.rcb ∧
      r.unit = .ctx ck ∧ r.res = res ∧ r.held = c.spec ∧ r.bytes.length = 64 ∧ told r 0x00 cz 1 ∧ told r 0x0C c.work.opc 4 ∧ told r 0x12 c.bank.pc 2 ∧
      told r 0x20 (fa % 2 ^ 56) 8 ∧ told r 0x28 c.work.rcb 8 ∧ told r 0x30 s.time 8 ∧ told r 0x38 aux 8
    (let t := takeTrap ti s
     others t ∧ recorded t ti.cause ti.faddr ti.aux false ∧ t.ctx.status = .trapped ∧ t.ctx.bank = c.bank ∧ t.ctx.gated = c.gated ∧
      t.ctx.latchA.val = none ∧ t.ctx.latchB.val = none ∧ t.ctx.latchM.val = none) ∧
    (cause ≠ 8 →
      let t := takeFault cause va s
      others t ∧ recorded t cause va 0 true ∧ (∃ w, t.ctx.status = .blocked (.fault va w)) ∧ t.ctx.gated = [] ∧ t.ctx.fix = [] ∧ (∀ v ∈ t.ctx.var, v.old = true) ∧
      t.ctx.latchA.val = none ∧ t.ctx.bank.s = c.snap.s ∧ t.ctx.bank.v = c.snap.v ∧ t.ctx.bank.p = c.snap.p ∧ t.ctx.bank.q = c.snap.q ∧
      t.ctx.bank.pc = c.snap.pc ∧ (∀ i, i ≤ 4 ∨ 8 ≤ i ∧ i ≤ 13 → t.ctx.bank.kreg i = c.bank.kreg i) ∧
      (∀ i, 16 ≤ i → t.ctx.bank.kreg i = c.snap.kreg i))

/-- R138, R188: what the register operations leave unchanged, whatever they come to (the result in flight, a trap, a wait): every byte of memory and of the tile
registers, every register of the context's own bank until results land, every other context, and everything outside the core; the time base too, but for an MTK of TIMEBASE. The V and M slots alike. -/
def Obligations.RegisterOperationsFrame : Prop :=
  ∀ (i : Instr) (s t : State), RegisterOnly i ∨ i.tier = 1 ∨ i.tier = 2 → exec i s = .next t →
    t.mem = s.mem ∧ t.tileMem = s.tileMem ∧ t.ctx.bank = s.ctx.bank ∧ t.ctx.gated = s.ctx.gated ∧ t.ctx.work = s.ctx.work ∧
    t.ctx.hg = s.ctx.hg ∧ t.ctx.cb = s.ctx.cb ∧ (∀ k, k ≠ s.act.ck → t.ctxAt k = s.ctxAt k) ∧ (∀ n, n ≠ s.act.core → t.coreAt n = s.coreAt n) ∧
    t.store = s.store ∧ t.gfes = s.gfes ∧ t.ops = s.ops ∧ t.devs = s.devs ∧ t.queues = s.queues ∧ t.blocks = s.blocks ∧ t.packets = s.packets ∧
    t.grav = s.grav ∧ t.routes = s.routes ∧ t.out = s.out ∧ t.clk = s.clk ∧ ((∀ a, i ≠ .mtk 0x60 a) → t.time = s.time)

/-- A step takes the next actor of the schedule (the model's choice, log 1). A GFE whose record may issue executes the record that its fetch decodes; a context whose
turn it is, whose marks let it go on and whose checks pass, takes the effects of its bundle's open operations in one issue and then advances (R38, R138), but
traps before them where the flow would leave its part of the store (R153); an event is
executed; with the schedule empty, time passes. A step that would record a fault of cause 0 has not happened yet (log 20). -/
def Obligations.StepRunsTheDecodedInstruction : Prop :=
  ∀ (s u v : State) (r : List Actor) (k core x n : Nat) (share : Bool) (i : Instr) (b : Bundle),
    let at' := { s with schedule := r }
    let atc := at'.onDie (dieOfCore core)
    let atg := (at'.onDie (k / 4)).actingGfe k
    let ops := fun (w : State) => openOps w.ctx.bank b.slots
    let answer := fun (t : State) => step s = .next (if ∃ q ∈ t.traps, q.cause = 0 then at' else t)
    let ready := s.powered = true ∧ s.schedule = .ctx core x :: r ∧ (atc.ctxAt (4 * core + x)).status = .ready ∧ atc.coreRuns core = true ∧
      (atc.coreAt core).slotAt ≤ atc.clk ∧ atc.pick core = some (x, share) ∧ atc.regionIssues (atc.ctxAt (4 * core + x)) = true ∧
      atc.mustSwitch core (x, share) = false ∧ (atc.acting core x).ctx.waitsFor = none ∧
      (∀ v ∈ (atc.coreAt core).saved, atc.regionIssues v.ctx = true)
    let w := noteDeadline b (noteShown b (answerRecalled (dropHold (u.onCtx Ctx.landed))))
    let presents := (atc.acting core x).bundle? (atc.acting core x).ctx.bank.pc = some b ∧ (atc.acting core x).decodeTrap b = none ∧
      marks b (atc.acting core x) = .goOn u ∧ (deadlineTrap core x w).ctx.status ≠ .trapped ∧ w.bundleVerdict b = .ok
    let w1 := if b.hdr.j then joinViews w else w
    (s.powered = true → s.schedule = .gfe k :: r → atg.gfeReady k = true → atg.gfeHeld k = false → atg.outranked k = false →
      atg.fetchRecord (atg.gfeAt k) (atg.gfeAt k).pc = .ok i → exec i atg = .next v → answer (atg.gfeMoved k v)) ∧
    (s.powered = true → s.schedule = .event i :: r → exec i (at'.onDie 8) = .next v → answer v) ∧
    (ready → presents → Run (issueOrder (ops w)) w1 v → (v.ctx.status = .ready → v.ctx.flowsOut = false) → answer (finish b (ops w) share v)) ∧
    (ready → presents → Run (issueOrder (ops w)) w1 v → v.ctx.status = .ready → v.ctx.flowsOut = true → answer (takeTrap ⟨1, 0, 0, 0⟩ w)) ∧
    (ready → presents → ops w = [(n, i)] → exec i w1 = .next v → Run (issueOrder (ops w)) w1 v) ∧
    (∀ p, p ∈ issueOrder (ops w) ↔ ∃ m, m < 4 ∧ (m, p) ∈ ops w) ∧
    (s.powered = true → s.schedule = [] → (∀ q ∈ s.traps, q.cause ≠ 0) → ∃ t, step s = .next t ∧ t.clk = s.clk + 1 ∧ t.time = s.time + 1)

/-- With power every step answers a next state: no operation, record or event of the table ends a run. Without power (R445) nothing but a start acts; that any other
step then faults is the model's choice (log 1). -/
def Obligations.EveryStepAnswers : Prop :=
  ∀ (s : State),
    (s.powered = true → ∃ t, step s = .next t) ∧
    (isStart s.nextActor.1 = true → ∃ t, step s = .next t) ∧
    (s.powered = false → isStart s.nextActor.1 = false → step s = .fault .unpowered)

/-- Words of the spec's own examples decode to the instructions they stand for: LI and LIH (R169), VCVT (R191), MXGO (R212), LDA (R240), and the records of the
listing of the bytecode notes: SETG, LOOP, GOP, ENDLOOP, TDEF (R294), HALT, TAPPEND, ATTN. -/
def Obligations.SpecWordsDecode : Prop :=
  decodeS 0x002156789ABCDEF = .op ⟨0, .li 5 0x16789ABCDEF⟩ ∧
  decodeS 0x0031400000048D1 = .op ⟨0, .lih 5 0x48D1⟩ ∧
  decodeV 0x12180A029000200D = .op ⟨1, .vcvt ⟨2, 40, 41, 0, 0x20, false, false, 3, 1⟩⟩ ∧
  decodeM 0x01810090046800 = .op ⟨0, .mxgo ⟨1, 0, 9, 0, false, true, false, 3, 2, false, false, 0⟩⟩ ∧
  decodeX 0x003149680000010 = .op ⟨0, .lda 5 9 3 false 4 16⟩ ∧
  decodeRecord 0x00420005 [3] = .ok (.setg 0 5 (.imm 3)) ∧
  decodeRecord 0x00C30002 [2, 7] = .ok (.graphLoop 0 2 (.imm 2) 7) ∧
  decodeRecord 0x00840005 [0, 0x40000005, 1] = .ok (.gop 0 5 0 (.reg 5) (.imm 1)) ∧
  decodeRecord 0x01010000 [] = .ok (.endloop 0) ∧
  decodeRecord 0x04050000 [0x10310011, 0, 8, 0x40000005] = .ok (.tdef 0 17 1 3 0 0 [.imm 8, .reg 5] 0) ∧
  decodeRecord 0x02410000 [] = .ok (.halt 0) ∧
  decodeRecord 0x08C20080 [0x00120011] = .ok (.tappend ⟨0, true, 0⟩ 0x11 0x12) ∧
  decodeRecord 0x11C50000 [0x00130014, 0x00110011, 4, 0x3F800000] = .ok (.attn ⟨0, false, 0⟩ false 0x14 0x13 0x11 0x11 4 0x3F800000)

/-- A bundle of four well-formed operations under any guards, with any marks, stall count and checkpoint, decodes to them, no field of one reaching another's bits
(R132 to R136); and a well-formed record's words decode to it (R277 to R281). Decode of encode is the identity on every operand the encodings admit. -/
def Obligations.BundlesAndRecordsRoundTrip : Prop :=
  (∀ (a b c d : Instr) (ga gb gc gd stall ckid : Nat) (r p y cm j : Bool), a.tier = 0 → b.tier = 1 → c.tier = 2 → d.tier = 3 →
    a.wf = true → b.wf = true → c.wf = true → d.wf = true → ga < 16 → gb < 16 → gc < 16 → gd < 16 → stall < 16 → ckid < 64 → (cm = false → ckid = 0) →
    let head := r.toNat * 2 ^ 15 + p.toNat * 2 ^ 14 + y.toNat * 2 ^ 13 + cm.toNat * 2 ^ 12 + j.toNat * 2 ^ 11 + stall * 2 ^ 6 + ckid
    decodeBundle (head * 2 ^ 240 + encodeSlot ga a * 2 ^ 180 + encodeSlot gb b * 2 ^ 116 + encodeSlot gc c * 2 ^ 60 + encodeSlot gd d) =
      ⟨⟨r, p, y, cm, j, stall, ckid⟩, false, [.op ⟨ga, a⟩, .op ⟨gb, b⟩, .op ⟨gc, c⟩, .op ⟨gd, d⟩]⟩) ∧
  (∀ i : Instr, i.tier = 4 → i.wf = true → ∃ w ws, encode i = w :: ws ∧ w < 2 ^ 32 ∧ (∀ x ∈ ws, x < 2 ^ 32) ∧ decodeRecord w ws = .ok i)

/-- Every step keeps both memories in their canonical form, and neither clock ever goes back (R427: TIMEBASE never decreases). -/
def Obligations.StepsKeepMemoriesAndClocks : Prop :=
  ∀ (s t : State), s.Canonical → step s = .next t → t.Canonical ∧ s.NotBefore t

/-- Power-on: no byte of memory is listed and both memories are canonical; every context is empty, holds no gravity and its latches are dropped, naming v0 (R157); no
unit is held, no GFE runs, no queue or route holds anything, every core's and device's table is empty, and every measurement register is zero (R443). The registers
read 0, which is the model's value where the rules give none (logs 4, 9, 14, 19). -/
def Obligations.PowerOnState : Prop :=
  State.reset.Canonical ∧ State.reset.mem = [] ∧ State.reset.tileMem = [] ∧ State.reset.powered = true ∧
  (∀ ck, (State.reset.ctxAt ck).status = .empty ∧ (State.reset.ctxAt ck).hg = 0 ∧ (State.reset.ctxAt ck).cb = 0 ∧
    (State.reset.ctxAt ck).latchA = ⟨none, 0⟩ ∧ (State.reset.ctxAt ck).latchB = ⟨none, 0⟩ ∧ (State.reset.ctxAt ck).latchM = ⟨none, 0⟩ ∧
    (∀ n, (State.reset.ctxAt ck).bank.sreg n = ⟨0, false⟩ ∧ (State.reset.ctxAt ck).bank.kreg n = 0)) ∧
  (∀ n, (State.reset.coreAt n).holdM = none ∧ (State.reset.coreAt n).holdR = none ∧ (State.reset.coreAt n).cmds = [] ∧ (State.reset.coreAt n).tlb = []) ∧
  (∀ k, (State.reset.gfeAt k).busy = false) ∧ State.reset.traps = [] ∧ State.reset.routes = [] ∧ State.reset.packets = [] ∧
  (∀ c, (State.reset.dev c).created = false) ∧ (∀ q, (State.reset.queue q).elems = []) ∧
  (∀ k, State.reset.root.measure k = List.replicate 48 0) ∧ State.reset.time = 0

/-- R12: an inheritable field that is no budget takes its value from the nearest region of the path whose override bit for it is set. R27: in Morton order the walker's
next tile is the first code, upward, at which no level index reaches its count, and bit j of the level-L index is bit j * n + L of the code. -/
def Obligations.InheritedFieldsAndMortonOrder : Prop :=
  (∀ (s : State) (ctxid rcb bit off n : Nat) (near far : List Region) (r : Region), s.path ctxid rcb = near ++ r :: far →
    (∀ q ∈ near, s.ovr q bit = false) → s.ovr r bit = true → s.effective ctxid rcb bit off n = s.mem.readNat (r.phys + off) n) ∧
  (∀ (counts : List Nat) (code c : Nat),
    let n := counts.length
    let index := fun (c l : Nat) => ((List.range 16).map fun j => c / 2 ^ (j * n + l) % 2 * 2 ^ j).sum
    let inside := fun (c : Nat) => ∀ l, l < n → index c l < nth 0 counts l
    code ≤ c → c - code < 2 ^ (16 * n) → inside c → (∀ m, code ≤ m → m < c → ¬inside m) →
    (walkTile 2 counts code).2 = c + 1 ∧ (walkTile 2 counts code).1.length = n ∧ ∀ l, l < n → nth 0 (walkTile 2 counts code).1 l = index c l)

/-! ### Statements over several parts -/

/-- Every integer operation of the S slot completes with the result and latency of its rule. -/
def Obligations.IntegerResults : Prop := IntegerOps ∧ ProductsAndQuotients

/-- MFK and MTK read and write the k-registers under their access rules. -/
def Obligations.KRegisterMoves : Prop := KRegisterReads ∧ KRegisterWrites

/-- BR, BRI, CALLM, RETM and DISPATCH transfer inside the image, or trap. -/
def Obligations.ControlTransfers : Prop := Transfers ∧ DispatchTransfers

/-- ENDOP, TRAP and SVC end work, trap and call the control cores. -/
def Obligations.EndsTrapsAndServiceCalls : Prop := EndsAndTraps ∧ ServiceCalls

/-- The arithmetic of the V slot element by element, rounded or saturated once. -/
def Obligations.VectorArithmetic : Prop := ElementArithmetic ∧ IntegerVectorArithmetic

/-- Selects, logic, shifts, lane moves, conversions, compares and reductions of the V slot. -/
def Obligations.VectorMovesAndConversions : Prop := VectorMovesAndShifts ∧ VectorConversionsAndLanes

/-- What a register write leaves, which register a rotating name reaches, and when a result of fixed latency lands. -/
def Obligations.RegisterNamesWritesAndLandings : Prop := RegisterWrites ∧ RotatingNames ∧ ResultsLandWhenDue

/-- The accumulator and the rotator operations as they issue. -/
def Obligations.AccumulatorAndRotatorCommands : Prop := AccumulatorCommands ∧ RotatorCommands

/-- LD, LDA and the vector loads put their results in flight, or fault and trap. -/
def Obligations.Loads : Prop := ScalarLoads ∧ VectorLoads

/-- A commit changes only the bytes its stores name; a context reads its own gated stores. -/
def Obligations.GatedStoresCommitAndForward : Prop := CommitWritesOnlyItsPieces ∧ OwnStoresAreRead

/-- FENCE, EWAIT, TIME and WAITT pass, wait and read the time base. -/
def Obligations.FencesTimeAndWaits : Prop := FencesAndWaits ∧ TimeOperations

/-- ENQ, DEQ, SPAWN and CPYPUT on their queues. -/
def Obligations.QueuesSpawnAndCopyPut : Prop := QueueOperations ∧ SpawnAndCopyPut

/-- SETG, GOP and GOP ldt write graph registers through the exchange. -/
def Obligations.GraphRegisterWrites : Prop := ExchangeWrites ∧ GraphElementRead

/-- LOOP, ENDLOOP, BR, BRC, CALL, RET, NOP and HALT on the frame stack. -/
def Obligations.ControlRecords : Prop := ControlFlow ∧ HaltEndsAStream

/-- The movement records issue with their handles and edges; TAPPEND grows its handle. -/
def Obligations.MovementRecords : Prop := MovesIssue ∧ AppendGrows

/-- Shoot-down commands of a die and of the package, and their acknowledgement (log 40). -/
def Obligations.ShootDowns : Prop := DieShootDowns ∧ PackageShootDownsAndAcknowledgements

/-- Maps, unmaps, sleeps, wakes, field writes and saves of hardware queues. -/
def Obligations.HardwareQueueCommands : Prop := QueueMapsUnmapsAndWakes ∧ QueueFieldsAndSaves

/-- Page-table walks; traffic applied when the clock allows; inbound traffic. -/
def Obligations.WalksAndRoutes : Prop := PageTableWalks ∧ RoutesAndInboundTraffic

/-- Island changes, alerts, and what a write of an MMIO register leaves. -/
def Obligations.IslandsAndRegisters : Prop := IslandsAndAlerts ∧ MmioWrites

/-- Service requests, handlers, deadlines, and results of service calls (log 41). -/
def Obligations.ServiceRequestsAndResults : Prop := ServiceRequests ∧ ServiceResults

/-- The context services: create, heap, MSI, regions, suspend, resume, destroy, copy queues and rings. -/
def Obligations.ContextServices : Prop := ContextCommands ∧ SuspensionAndQueueCommands

/-- Launches wait, start or are refused (log 42); regions pre-empt, stop at C marks and resume. -/
def Obligations.LaunchesAndPreemption : Prop := Launches ∧ PreemptionAndResumption

/-- Tile binds, card checks and deals (log 12). -/
def Obligations.TilesAndCards : Prop := TileBinds ∧ CardsAndDeals

/-- Operators complete; contexts are evicted and resumed; switches, resumes and landings. -/
def Obligations.CompletionEvictionAndIssue : Prop := OperatorsComplete ∧ EvictionAndAging ∧ IssueEvents

/-- Trap records are delivered and policies act; FRES retries or fails; memory errors trap. -/
def Obligations.FaultDeliveryAndResolution : Prop := FaultDelivery ∧ FaultResolutionAndErrors

/-- Copy packets are taken, refused, moved, and completed. -/
def Obligations.CopyPackets : Prop := PacketsTaken ∧ PacketsMoveAndComplete

/-- Speculation is committed or squashed; starts, attestation and leader election. -/
def Obligations.SpeculationAndStarts : Prop := SpeculationEvents ∧ StartsAndService ∧ AttestationAndElection
end

