-- ==== Sys2Proof/Laws/Encoding.lean ====
section
/-! SUPPORT. Packing and splitting bit fields, sign extension of a truncated number, and what decoding an encoded slot comes to. -/

namespace Sys2Proof.Laws

/-- Field values that fit their widths, one for each. -/
def fits : List Nat → List Nat → Bool
  | [], [] => true
  | n :: ns, x :: xs => decide (x < 2 ^ n) && fits ns xs
  | _, _ => false

theorem split_pack : ∀ ws xs : List Nat, fits ws xs = true → splitBits (packBits ws xs) ws = xs
  | [], [], _ => rfl
  | [], _ :: _, h => by simp [fits] at h
  | _ :: _, [], h => by simp [fits] at h
  | n :: ns, x :: xs, h => by
    simp only [fits, Bool.and_eq_true, decide_eq_true_eq] at h
    have hp : 0 < 2 ^ n := Nat.pow_pos (by decide)
    simp [splitBits, packBits, Nat.add_mul_mod_self_left, Nat.mod_eq_of_lt h.1, Nat.add_mul_div_left _ _ hp, Nat.div_eq_of_lt h.1,
      split_pack ns xs h.2]

theorem pack_lt : ∀ ws xs : List Nat, fits ws xs = true → packBits ws xs < 2 ^ ws.sum
  | [], [], _ => by simp [packBits]
  | [], _ :: _, h => by simp [fits] at h
  | _ :: _, [], h => by simp [fits] at h
  | n :: ns, x :: xs, h => by
    simp only [fits, Bool.and_eq_true, decide_eq_true_eq] at h
    have h1 := pack_lt ns xs h.2
    simp only [packBits, List.sum_cons, Nat.pow_add]
    have hp : 0 < 2 ^ n := Nat.pow_pos (by decide)
    calc x + 2 ^ n * packBits ns xs < 2 ^ n + 2 ^ n * packBits ns xs := by omega
      _ = 2 ^ n * (packBits ns xs + 1) := by ring
      _ ≤ 2 ^ n * 2 ^ ns.sum := Nat.mul_le_mul_left _ h1

theorem trunc_lt (w : Nat) (i : Int) : trunc w i < 2 ^ w := by
  have hp : (0 : Int) < ((2 ^ w : Nat) : Int) := by positivity
  have h1 := Int.emod_nonneg i hp.ne'
  have h2 := Int.emod_lt_of_pos i hp
  unfold trunc
  omega

/-- A number that fits a signed field reads back from its low bits. -/
theorem sext_trunc (w : Nat) (i : Int) (hw : 0 < w) (h : inS w i = true) : sext (trunc w i) w = i := by
  simp only [inS, Bool.and_eq_true, decide_eq_true_eq] at h
  have e : (2 : Nat) ^ w = 2 * 2 ^ (w - 1) := by
    obtain ⟨k, rfl⟩ : ∃ k, w = k + 1 := ⟨w - 1, by omega⟩
    rw [Nat.add_sub_cancel, Nat.pow_succ, Nat.mul_comm]
  have ht := trunc_lt w i
  have hv : ((trunc w i : Nat) : Int) = i % ((2 ^ w : Nat) : Int) := by
    unfold trunc
    exact Int.toNat_of_nonneg (Int.emod_nonneg _ (by positivity))
  have hq : 0 < (2 : Nat) ^ (w - 1) := by positivity
  unfold sext
  simp only [Nat.mod_eq_of_lt ht]
  rw [e] at *
  generalize (2 : Nat) ^ (w - 1) = q at *
  rcases lt_or_ge i 0 with hi | hi
  · have h1 : i % ((2 * q : Nat) : Int) = i + (2 * q : Nat) := by
      rw [← Int.add_emod_right]; exact Int.emod_eq_of_lt (by omega) (by omega)
    split <;> omega
  · have h1 : i % ((2 * q : Nat) : Int) = i := Int.emod_eq_of_lt (by omega) (by omega)
    split <;> omega

theorem toNat_beq (b : Bool) : (b.toNat == 1) = b := by cases b <;> rfl

theorem toNat_le1 (b : Bool) : b.toNat ≤ 1 := by cases b <;> decide

/-- The opcode, what stands above it, and the operand field of a slot word (R135). -/
theorem slotWord_parts (x op lo above mid on gn : Nat) (hx : x < 2 ^ lo) (ho : op < 2 ^ on) (hg : above < 2 ^ gn) (hm : lo + on = mid) :
    bitsOf (slotWord x op lo above mid) lo on = op ∧ bitsOf (slotWord x op lo above mid) mid gn = above
      ∧ slotWord x op lo above mid % 2 ^ lo = x ∧ slotWord x op lo above mid < 2 ^ (mid + gn) := by
  subst hm
  have hp : 0 < 2 ^ lo := by positivity
  have hq : 0 < 2 ^ on := by positivity
  have e : slotWord x op lo above (lo + on) = x + 2 ^ lo * (op + 2 ^ on * above) := by unfold slotWord; rw [Nat.pow_add]; ring
  rw [e]
  have d1 : (x + 2 ^ lo * (op + 2 ^ on * above)) / 2 ^ lo = op + 2 ^ on * above := by
    rw [Nat.add_mul_div_left _ _ hp, Nat.div_eq_of_lt hx, Nat.zero_add]
  refine ⟨?_, ?_, ?_, ?_⟩
  · unfold bitsOf
    rw [d1, Nat.add_mul_mod_self_left, Nat.mod_eq_of_lt ho]
  · unfold bitsOf
    rw [Nat.pow_add, ← Nat.div_div_eq_div_mul, d1, Nat.add_mul_div_left _ _ hq, Nat.div_eq_of_lt ho, Nat.zero_add, Nat.mod_eq_of_lt hg]
  · rw [Nat.add_mul_mod_self_left, Nat.mod_eq_of_lt hx]
  · rw [Nat.add_assoc, Nat.pow_add, Nat.pow_add]
    have h1 : op + 2 ^ on * above + 1 ≤ 2 ^ on * 2 ^ gn := by
      calc op + 2 ^ on * above + 1 ≤ 2 ^ on * (above + 1) := by rw [Nat.mul_add]; omega
        _ ≤ 2 ^ on * 2 ^ gn := Nat.mul_le_mul_left _ hg
    calc x + 2 ^ lo * (op + 2 ^ on * above) < 2 ^ lo * (op + 2 ^ on * above + 1) := by rw [Nat.mul_add _ _ 1]; omega
      _ ≤ 2 ^ lo * (2 ^ on * 2 ^ gn) := Nat.mul_le_mul_left _ h1

/-- Decoding a slot whose word is not zero, whose opcode is assigned and names a well-formed operation. -/
theorem decodeSlot_op {w opc g : Nat} {i : Instr} (hw : w ≠ 0) (ho : opc ≠ 0) (hi : slotWf i = true) :
    decodeSlot w opc g true (some i) = .op ⟨g, i⟩ := by simp [decodeSlot, hw, ho, hi]

theorem ne_zero_of_bitsOf {w lo n x : Nat} (h : bitsOf w lo n = x) (hx : x ≠ 0) : w ≠ 0 := by
  rintro rfl
  exact hx (by rw [← h]; simp [bitsOf])

/-- Bits of a slot word: S, V, M, X (R132). -/
def slotBits (t : Nat) : Nat := if t = 1 then 64 else if t = 2 then 56 else 60

/-- Encoding a slot operation with a guard gives a word of its slot's width that decodes to it. -/
def SlotTrip (i : Instr) : Prop :=
  ∀ g, g < 16 → encodeSlot g i < 2 ^ slotBits i.tier ∧ decodeSlotNo i.tier (encodeSlot g i) = .op ⟨g, i⟩

theorem slotTripS {i : Instr} {op : Nat} {ws xs : List Nat} (ht : i.tier = 0) (hp : slotFields i = (op, xs)) (hl : layoutS op = some ws)
    (hs : ws.sum = 48) (ho : op ≠ 0) (ho2 : op < 2 ^ 8) (hi : slotWf i = true) (hf : fits ws xs = true) (hb : buildS op xs = some i) :
    SlotTrip i := by
  intro g hg
  have hx := pack_lt ws xs hf
  rw [hs] at hx
  have he : encodeSlot g i = slotWord (packBits ws xs) op 48 g 56 := by simp only [encodeSlot, ht, hp, hl, Option.getD_some]
  have hsb : slotBits i.tier = 56 + 4 := by rw [ht]; rfl
  rw [hsb, ht, he]
  obtain ⟨h1, h2, h3, h4⟩ := slotWord_parts (packBits ws xs) op 48 g 56 8 4 hx ho2 hg rfl
  refine ⟨h4, ?_⟩
  have hw := ne_zero_of_bitsOf h1 ho
  generalize slotWord (packBits ws xs) op 48 g 56 = w at *
  simp only [decodeSlotNo, decodeS, h1, h2, h3, hl, Option.isSome_some, Option.bind_some, split_pack ws xs hf, hb]
  exact decodeSlot_op hw ho hi

theorem slotTripM {i : Instr} {op : Nat} {ws xs : List Nat} (ht : i.tier = 2) (hp : slotFields i = (op, xs)) (hl : layoutM op = some ws)
    (hs : ws.sum = 46) (ho : op ≠ 0) (ho2 : op < 2 ^ 6) (hi : slotWf i = true) (hf : fits ws xs = true) (hb : buildM op xs = some i) :
    SlotTrip i := by
  intro g hg
  have hx := pack_lt ws xs hf
  rw [hs] at hx
  have he : encodeSlot g i = slotWord (packBits ws xs) op 46 g 52 := by simp only [encodeSlot, ht, hp, hl, Option.getD_some]
  have hsb : slotBits i.tier = 52 + 4 := by rw [ht]; rfl
  rw [hsb, ht, he]
  obtain ⟨h1, h2, h3, h4⟩ := slotWord_parts (packBits ws xs) op 46 g 52 6 4 hx ho2 hg rfl
  refine ⟨h4, ?_⟩
  have hw := ne_zero_of_bitsOf h1 ho
  generalize slotWord (packBits ws xs) op 46 g 52 = w at *
  simp only [decodeSlotNo, decodeM, h1, h2, h3, hl, Option.isSome_some, Option.bind_some, split_pack ws xs hf, hb]
  exact decodeSlot_op hw ho hi

theorem slotTripX {i : Instr} {op : Nat} {ws xs : List Nat} (ht : i.tier = 3) (hp : slotFields i = (op, xs)) (hl : layoutX op = some ws)
    (hs : ws.sum = 48) (ho : op ≠ 0) (ho2 : op < 2 ^ 8) (hi : slotWf i = true) (hf : fits ws xs = true) (hb : buildX op xs = some i) :
    SlotTrip i := by
  intro g hg
  have hx := pack_lt ws xs hf
  rw [hs] at hx
  have he : encodeSlot g i = slotWord (packBits ws xs) op 48 g 56 := by simp only [encodeSlot, ht, hp, hl, Option.getD_some]
  have hsb : slotBits i.tier = 56 + 4 := by rw [ht]; rfl
  rw [hsb, ht, he]
  obtain ⟨h1, h2, h3, h4⟩ := slotWord_parts (packBits ws xs) op 48 g 56 8 4 hx ho2 hg rfl
  refine ⟨h4, ?_⟩
  have hw := ne_zero_of_bitsOf h1 ho
  generalize slotWord (packBits ws xs) op 48 g 56 = w at *
  simp only [decodeSlotNo, decodeX, h1, h2, h3, hl, Option.isSome_some, Option.bind_some, split_pack ws xs hf, hb]
  exact decodeSlot_op hw ho hi

theorem slotTripV {i : Instr} {op : Nat} {f : VFields} (ht : i.tier = 1) (hp : slotFields i = (op, vFieldList f)) (hv : vQp i = f.qp)
    (ho : op ≠ 0) (ho2 : op < 2 ^ 8) (hi : slotWf i = true) (hf : f.bounds = true) (hb : buildV op f = some i) : SlotTrip i := by
  intro g hg
  simp only [VFields.bounds, Bool.and_eq_true, decide_eq_true_eq] at hf
  obtain ⟨⟨⟨⟨⟨⟨⟨⟨b1, b2⟩, b3⟩, b4⟩, b5⟩, b6⟩, b7⟩, -⟩, -⟩ := hf
  have hfit : fits layoutVLow (vFieldList f) = true := by
    simp [fits, layoutVLow, vFieldList, b2, b3, b4, b5, b6, b7, toNat_le1]
  have hx : packBits layoutVLow (vFieldList f) < 2 ^ 48 := pack_lt _ _ hfit
  have he : encodeSlot g i = slotWord (packBits layoutVLow (vFieldList f)) op 48 (f.qp + 16 * g) 56 := by
    simp only [encodeSlot, ht, hp, hv]
  have hsb : slotBits i.tier = 56 + 8 := by rw [ht]; rfl
  rw [hsb, ht, he]
  obtain ⟨h1, h2, h3, h4⟩ := slotWord_parts (packBits layoutVLow (vFieldList f)) op 48 (f.qp + 16 * g) 56 8 8 hx ho2 (by omega) rfl
  refine ⟨h4, ?_⟩
  have hw := ne_zero_of_bitsOf h1 ho
  generalize slotWord (packBits layoutVLow (vFieldList f)) op 48 (f.qp + 16 * g) 56 = w at *
  have q1 : bitsOf w 56 4 = f.qp := by
    have e : bitsOf w 56 4 = bitsOf w 56 8 % 16 := by unfold bitsOf; omega
    rw [e, h2]; omega
  have q2 : bitsOf w 60 4 = g := by
    have e : bitsOf w 60 4 = bitsOf w 56 8 / 16 := by unfold bitsOf; omega
    rw [e, h2]; omega
  simp only [decodeSlotNo, decodeV, h1, h3, q1, q2, split_pack _ _ hfit]
  simp only [vFieldList, toNat_beq, Option.bind_some, hb, Option.isSome_some]
  exact decodeSlot_op hw ho hi

theorem trunc_lt11 (i : Int) : trunc 11 i < 2048 := trunc_lt 11 i
theorem trunc_lt16 (i : Int) : trunc 16 i < 65536 := trunc_lt 16 i
theorem trunc_lt24 (i : Int) : trunc 24 i < 16777216 := trunc_lt 24 i
theorem trunc_lt26 (i : Int) : trunc 26 i < 67108864 := trunc_lt 26 i
theorem trunc_lt28 (i : Int) : trunc 28 i < 268435456 := trunc_lt 28 i
theorem trunc_lt30 (i : Int) : trunc 30 i < 1073741824 := trunc_lt 30 i
theorem trunc_lt32 (i : Int) : trunc 32 i < 4294967296 := trunc_lt 32 i
theorem trunc_lt42 (i : Int) : trunc 42 i < 4398046511104 := trunc_lt 42 i

/-! ### Records -/

/-- Encoding a record gives words of 32 bits that decode to it. -/
def RecordTrip (i : Instr) : Prop := ∃ w ws, encodeRecord i = w :: ws ∧ (∀ x ∈ w :: ws, w32 x = true) ∧ decodeRecord w ws = .ok i

theorem firstBad_all : ∀ l : List (Bool × Nat), l.all Prod.fst = true → firstBad l = none
  | [], _ => rfl
  | (b, k) :: r, h => by
    simp only [List.all_cons, Bool.and_eq_true] at h
    simp [firstBad, firstBad_all r h.2, h.1]

theorem recWord0_parts (opc fuse flags len : Nat) (ho : opc < 1024) (hf : fuse < 256) (hg : flags < 256) (hl : len < 64) :
    bitsOf (recWord0 opc fuse flags len) 22 10 = opc ∧ bitsOf (recWord0 opc fuse flags len) 16 6 = len
      ∧ bitsOf (recWord0 opc fuse flags len) 8 8 = fuse ∧ bitsOf (recWord0 opc fuse flags len) 0 8 = flags
      ∧ recWord0 opc fuse flags len < 4294967296 := by
  have e : recWord0 opc fuse flags len = opc * 4194304 + len * 65536 + fuse * 256 + flags := rfl
  have b1 : ∀ w, bitsOf w 22 10 = w / 4194304 % 1024 := fun w => rfl
  have b2 : ∀ w, bitsOf w 16 6 = w / 65536 % 64 := fun w => rfl
  have b3 : ∀ w, bitsOf w 8 8 = w / 256 % 256 := fun w => rfl
  have b4 : ∀ w, bitsOf w 0 8 = w / 1 % 256 := fun w => rfl
  rw [b1, b2, b3, b4, e]
  refine ⟨?_, ?_, ?_, ?_, ?_⟩ <;> omega

theorem decodeRecord_parts {i : Instr} {w opc fuse flags : Nat} {ws : List Nat} (h1 : bitsOf w 22 10 = opc)
    (h2 : bitsOf w 16 6 = ws.length + 1) (h3 : bitsOf w 8 8 = fuse) (h4 : bitsOf w 0 8 = flags) (hi : recWf i = true)
    (hp : (parseRec opc fuse flags ws).map (fun p => (p.1.all Prod.fst, p.2)) = some (true, i))
    (hn : recLenOk opc (ws.length + 1) (fun k => (ws.drop (k - 1)).headD 0) = true) : decodeRecord w ws = .ok i := by
  unfold decodeRecord
  simp only [h1, h2, h3, h4, Nat.add_sub_cancel, List.take_length]
  cases hq : parseRec opc fuse flags ws with
  | none => simp [hq] at hp
  | some p =>
    simp only [hq, Option.map_some, Option.some.injEq, Prod.mk.injEq] at hp
    obtain ⟨hp1, hp2⟩ := hp
    have hi2 := hi
    simp only [recWf, Bool.and_eq_true] at hi2
    have hb : firstBad (p.1 ++ recLimits p.2) = none := firstBad_all _ (by rw [List.all_append, hp1, hp2, hi2.1.2]; rfl)
    have hm : misplaced p.2 = none := by rw [hp2]; simpa using hi2.2
    simp only [hn, hb, hm, Bool.not_true, Bool.false_eq_true, if_false]
    rw [hp2, if_pos hi]

theorem recordTrip {i : Instr} {opc fuse flags : Nat} {ws : List Nat} (he : encodeRecord i = mkRec opc fuse flags ws) (ho : opc < 1024)
    (hf : fuse < 256) (hg : flags < 256) (hl : ws.length ≤ 62) (hw : ws.all w32 = true) (hi : recWf i = true)
    (hp : (parseRec opc fuse flags ws).map (fun p => (p.1.all Prod.fst, p.2)) = some (true, i))
    (hn : recLenOk opc (ws.length + 1) (fun k => (ws.drop (k - 1)).headD 0) = true) : RecordTrip i := by
  obtain ⟨h1, h2, h3, h4, h5⟩ := recWord0_parts opc fuse flags (ws.length + 1) ho hf hg (by omega)
  have he2 : encodeRecord i = recWord0 opc fuse flags (ws.length + 1) :: ws := he
  generalize recWord0 opc fuse flags (ws.length + 1) = w at *
  refine ⟨w, ws, he2, ?_, decodeRecord_parts h1 h2 h3 h4 hi hp hn⟩
  intro x hx
  rcases List.mem_cons.1 hx with rfl | hx
  · simpa [w32] using h5
  · exact List.all_eq_true.1 hw x hx

theorem decodeSow_encodeSow (s : Sow) (h : s.wf = true) : decodeSow (encodeSow s) = some s := by
  cases s with
  | imm i =>
    have ht := trunc_lt30 i
    have hs := sext_trunc 30 i (by decide) h
    have h0 : bitsOf (trunc 30 i) 30 2 = 0 := by unfold bitsOf; omega
    simp [decodeSow, encodeSow, h0, hs]
  | reg n =>
    simp only [Sow.wf, decide_eq_true_eq] at h
    have h0 : bitsOf (2 ^ 30 + n) 30 2 = 1 := by unfold bitsOf; omega
    have h1 : bitsOf (2 ^ 30 + n) 6 24 = 0 := by unfold bitsOf; omega
    have h2 : bitsOf (2 ^ 30 + n) 0 6 = n := by unfold bitsOf; omega
    simp only [decodeSow, encodeSow, h0, h1, h2, if_true]
  | regPlus n k =>
    simp only [Sow.wf, Bool.and_eq_true, decide_eq_true_eq] at h
    have ht := trunc_lt24 k
    have hs := sext_trunc 24 k (by decide) h.2
    have h0 : bitsOf (2 ^ 31 + n + 64 * trunc 24 k) 30 2 = 2 := by unfold bitsOf; omega
    have h1 : bitsOf (2 ^ 31 + n + 64 * trunc 24 k) 6 24 = trunc 24 k := by unfold bitsOf; omega
    have h2 : bitsOf (2 ^ 31 + n + 64 * trunc 24 k) 0 6 = n := by unfold bitsOf; omega
    simp only [decodeSow, encodeSow, h0, h1, h2, hs]
  | part sel k =>
    simp only [Sow.wf, Bool.and_eq_true, decide_eq_true_eq] at h
    have ht := trunc_lt28 k
    have hs := sext_trunc 28 k (by decide) h.2
    have h0 : bitsOf (3 * 2 ^ 30 + sel * 2 ^ 28 + trunc 28 k) 30 2 = 3 := by unfold bitsOf; omega
    have h1 : bitsOf (3 * 2 ^ 30 + sel * 2 ^ 28 + trunc 28 k) 28 2 = sel := by unfold bitsOf; omega
    have h2 : sext (3 * 2 ^ 30 + sel * 2 ^ 28 + trunc 28 k) 28 = sext (trunc 28 k) 28 := by
      unfold sext
      have : (3 * 2 ^ 30 + sel * 2 ^ 28 + trunc 28 k) % 2 ^ 28 = trunc 28 k % 2 ^ 28 := by omega
      rw [this]
    have h3 : sel ≠ 3 := by omega
    simp only [decodeSow, encodeSow, h0, h1, h2, hs, h3, if_false]

theorem encodeSow_lt (s : Sow) (h : s.wf = true) : encodeSow s < 4294967296 := by
  cases s with
  | imm i => have := trunc_lt30 i; simp only [encodeSow]; omega
  | reg n => simp only [Sow.wf, decide_eq_true_eq] at h; simp only [encodeSow]; omega
  | regPlus n k =>
    simp only [Sow.wf, Bool.and_eq_true, decide_eq_true_eq] at h
    have := trunc_lt24 k; simp only [encodeSow]; omega
  | part sel k =>
    simp only [Sow.wf, Bool.and_eq_true, decide_eq_true_eq] at h
    have := trunc_lt28 k; simp only [encodeSow]; omega

theorem sowAt_encode (s : Sow) (k : Nat) (h : s.wf = true) : sowAt (encodeSow s) k = ((true, k), s) := by
  simp [sowAt, decodeSow_encodeSow s h]

theorem sowsAt_encode : ∀ (l : List Sow) (k : Nat), l.all Sow.wf = true →
    (sowsAt k (l.map encodeSow)).1.all Prod.fst = true ∧ (sowsAt k (l.map encodeSow)).2 = l
  | [], _, _ => ⟨rfl, rfl⟩
  | s :: l, k, h => by
    simp only [List.all_cons, Bool.and_eq_true] at h
    have := sowsAt_encode l (k + 1) h.2
    simp [sowsAt, sowAt_encode s k h.1, this]

theorem sows_w32 (l : List Sow) (h : l.all Sow.wf = true) : (l.map encodeSow).all w32 = true := by
  simp only [List.all_eq_true, List.mem_map, w32, decide_eq_true_eq] at *
  rintro x ⟨s, hs, rfl⟩
  exact encodeSow_lt s (h s hs)

theorem lo16_hw (a b : Nat) (h : a < 65536) : lo16 (hw a b) = a := by unfold lo16 hw; omega
theorem hi16_hw (a b : Nat) (h : a < 65536) : hi16 (hw a b) = b := by unfold hi16 hw; omega
theorem lo16_lt (a : Nat) (h : a < 65536) : lo16 a = a := by unfold lo16; omega
theorem hi16_lt (a : Nat) (h : a < 65536) : hi16 a = 0 := by unfold hi16; omega
theorem hw_lt (a b : Nat) (h : a < 65536) (h2 : b < 65536) : hw a b < 4294967296 := by unfold hw; omega

theorem pairWords_encode : ∀ (l : List (Sow × Sow)) (k : Nat), (l.all fun p => p.1.wf && p.2.wf) = true →
    (sowPairsAt k (encodeRecord.pairWords l)).1.all Prod.fst = true ∧ (sowPairsAt k (encodeRecord.pairWords l)).2 = l
      ∧ (encodeRecord.pairWords l).all w32 = true ∧ (encodeRecord.pairWords l).length = 2 * l.length
  | [], _, _ => ⟨rfl, rfl, rfl, rfl⟩
  | (a, b) :: l, k, h => by
    simp only [List.all_cons, Bool.and_eq_true] at h
    obtain ⟨h1, h2, h3, h4⟩ := pairWords_encode l (k + 2) h.2
    have ha := encodeSow_lt a h.1.1
    have hb := encodeSow_lt b h.1.2
    simp [sowPairsAt, encodeRecord.pairWords, sowAt_encode, h.1, h1, h2, h3, h4, w32, ha, hb]
    omega

/-- FLAGS of a header and what it reads back as (R278, R318). -/
theorem hdOf_flags (h : Hd) (x : Nat) (hw : h.walk < 4) (hx : x < 16) : hdOf h.fuse (h.flags x) = h ∧ h.flags x < 256
    ∧ bitOf (h.flags x) 6 = false ∧ h.flags x % 16 = x := by
  obtain ⟨fuse, last, walk⟩ := h
  simp only [hdOf, Hd.flags, bitOf, bitsOf, Hd.mk.injEq, true_and] at *
  cases last <;> simp <;> omega

theorem hdOf0_flags (h : Hd) (x : Nat) (hw : h.walk = 0) (hx : x < 128) : hdOf0 h.fuse (h.flags x) = h ∧ h.flags x < 256
    ∧ h.flags x % 128 = x := by
  obtain ⟨fuse, last, walk⟩ := h
  simp only [hdOf0, Hd.flags, bitOf, Hd.mk.injEq, true_and] at *
  subst hw
  cases last <;> simp <;> omega

theorem bitOf_flags0 (h : Hd) (b : Bool) : bitOf (h.flags b.toNat) 0 = b := by
  obtain ⟨fuse, last, walk⟩ := h
  cases last <;> cases b <;> simp [Hd.flags, bitOf] <;> omega

end Sys2Proof.Laws
end

