-- ==== Sys2Proof/Laws/Memory.lean ====
section
/-! SUPPORT. Sparse maps and memory: reading after writing, and that every memory operation keeps the canonical form. -/

namespace Sys2Proof.Laws

open Sys2Proof.Machine

/-! ### Canonical maps -/

section
variable {α : Type} [DecidableEq α] {d : α}

theorem wfFrom_mono {lo lo' : Nat} (h : lo' ≤ lo) : ∀ m : AMap α, AMap.wfFrom d lo m = true → AMap.wfFrom d lo' m = true
  | [], _ => rfl
  | (k, v) :: m, hm => by
    simp only [AMap.wfFrom, Bool.and_eq_true, decide_eq_true_eq] at *
    exact ⟨⟨by omega, hm.1.2⟩, hm.2⟩

theorem wfFrom_ins {a : Nat} {x : α} (hx : x ≠ d) : ∀ (m : AMap α) (lo : Nat), lo ≤ a → AMap.wfFrom d lo m = true →
    AMap.wfFrom d lo (AMap.ins a x m) = true
  | [], lo, ha, _ => by simp [AMap.ins, AMap.wfFrom, ha, hx]
  | (k, v) :: m, lo, ha, hm => by
    simp only [AMap.wfFrom, Bool.and_eq_true, decide_eq_true_eq] at hm
    unfold AMap.ins
    split
    · simp only [AMap.wfFrom, Bool.and_eq_true, decide_eq_true_eq]
      exact ⟨⟨ha, hx⟩, ⟨by omega, hm.1.2⟩, hm.2⟩
    · split
      · subst_vars
        simp only [AMap.wfFrom, Bool.and_eq_true, decide_eq_true_eq]
        exact ⟨⟨ha, hx⟩, hm.2⟩
      · simp only [AMap.wfFrom, Bool.and_eq_true, decide_eq_true_eq]
        exact ⟨hm.1, wfFrom_ins hx m (k + 1) (by omega) hm.2⟩

theorem wfFrom_era {a : Nat} : ∀ (m : AMap α) (lo : Nat), AMap.wfFrom d lo m = true → AMap.wfFrom d lo (AMap.era a m) = true
  | [], _, _ => rfl
  | (k, v) :: m, lo, hm => by
    have h := hm
    simp only [AMap.wfFrom, Bool.and_eq_true, decide_eq_true_eq] at h
    unfold AMap.era
    split
    · exact hm
    · split
      · exact wfFrom_mono (by omega) m h.2
      · simp only [AMap.wfFrom, Bool.and_eq_true, decide_eq_true_eq]
        exact ⟨h.1, wfFrom_era m _ h.2⟩

theorem wf_put {a : Nat} {x : α} {m : AMap α} (h : AMap.wf d m = true) : AMap.wf d (AMap.put d a x m) = true := by
  unfold AMap.put
  split
  · exact wfFrom_era m 0 h
  · exact wfFrom_ins (by assumption) m 0 (Nat.zero_le _) h

theorem wfFrom_filter {p : Nat × α → Bool} : ∀ (m : AMap α) (lo : Nat), AMap.wfFrom d lo m = true → AMap.wfFrom d lo (m.filter p) = true
  | [], _, _ => rfl
  | (k, v) :: m, lo, hm => by
    simp only [AMap.wfFrom, Bool.and_eq_true, decide_eq_true_eq] at hm
    rw [List.filter_cons]
    split
    · simp only [AMap.wfFrom, Bool.and_eq_true, decide_eq_true_eq]
      exact ⟨hm.1, wfFrom_filter m _ hm.2⟩
    · exact wfFrom_mono (by omega) _ (wfFrom_filter m _ hm.2)

end

/-! ### Reading after writing -/

section
variable {α : Type}

theorem find_ins_self (a : Nat) (x : α) : ∀ m : AMap α, AMap.find? (AMap.ins a x m) a = some x
  | [] => by simp [AMap.ins, AMap.find?]
  | (k, v) :: m => by
    unfold AMap.ins
    split
    · simp [AMap.find?]
    · split
      · simp [AMap.find?]
      · next h1 h2 =>
        simp only [AMap.find?, h2, if_false, h1]
        exact find_ins_self a x m

theorem find_ins_ne {a b : Nat} (x : α) (h : b ≠ a) : ∀ m : AMap α, AMap.find? (AMap.ins a x m) b = AMap.find? m b
  | [] => by
    unfold AMap.ins AMap.find?
    rw [if_neg (fun e => h e.symm)]
    split <;> rfl
  | (k, v) :: m => by
    unfold AMap.ins
    split
    · next h1 =>
      rw [AMap.find?, if_neg (fun e => h e.symm)]
      split
      · next h2 => rw [AMap.find?, if_neg (by omega), if_pos (by omega)]
      · rfl
    · split
      · next h1 h2 =>
        subst h2
        simp only [AMap.find?, if_neg (Ne.symm h)]
      · next h1 h2 =>
        simp only [AMap.find?]
        rw [find_ins_ne x h m]

theorem get_ins_self (d : α) (a : Nat) (x : α) (m : AMap α) : AMap.get d (AMap.ins a x m) a = x := by
  simp [AMap.get, find_ins_self]

theorem get_ins_ne (d : α) {a b : Nat} (x : α) (h : b ≠ a) (m : AMap α) : AMap.get d (AMap.ins a x m) b = AMap.get d m b := by
  simp [AMap.get, find_ins_ne x h]

end

section
variable {α : Type} [DecidableEq α] {d : α}

theorem find_below {a : Nat} : ∀ (m : AMap α) (lo : Nat), a < lo → AMap.wfFrom d lo m = true → AMap.find? m a = none
  | [], _, _, _ => rfl
  | (k, v) :: m, lo, ha, hm => by
    simp only [AMap.wfFrom, Bool.and_eq_true, decide_eq_true_eq] at hm
    rw [AMap.find?, if_neg (by omega), if_pos (by omega)]

theorem find_era_self {a : Nat} : ∀ (m : AMap α) (lo : Nat), AMap.wfFrom d lo m = true → AMap.find? (AMap.era a m) a = none
  | [], _, _ => rfl
  | (k, v) :: m, lo, hm => by
    simp only [AMap.wfFrom, Bool.and_eq_true, decide_eq_true_eq] at hm
    unfold AMap.era
    split
    · rw [AMap.find?, if_neg (by omega), if_pos (by assumption)]
    · split
      · exact find_below m (k + 1) (by omega) hm.2
      · rw [AMap.find?, if_neg (by assumption), if_neg (by assumption)]
        exact find_era_self m _ hm.2

theorem find_era_ne {a b : Nat} (h : b ≠ a) : ∀ (m : AMap α) (lo : Nat), AMap.wfFrom d lo m = true →
    AMap.find? (AMap.era a m) b = AMap.find? m b
  | [], _, _ => rfl
  | (k, v) :: m, lo, hm => by
    simp only [AMap.wfFrom, Bool.and_eq_true, decide_eq_true_eq] at hm
    unfold AMap.era
    split
    · rfl
    · split
      · rw [AMap.find?, if_neg (by omega)]
        split
        · exact find_below m (k + 1) (by omega) hm.2
        · rfl
      · simp only [AMap.find?]
        rw [find_era_ne h m _ hm.2]

theorem get_put_self {a : Nat} {x : α} {m : AMap α} (h : AMap.wf d m = true) : AMap.get d (AMap.put d a x m) a = x := by
  unfold AMap.put AMap.get
  split
  · rw [find_era_self m 0 h]
    simp [*]
  · rw [find_ins_self]
    rfl

theorem get_put_ne {a b : Nat} {x : α} {m : AMap α} (hab : b ≠ a) (h : AMap.wf d m = true) :
    AMap.get d (AMap.put d a x m) b = AMap.get d m b := by
  unfold AMap.put AMap.get
  split
  · rw [find_era_ne hab m 0 h]
  · rw [find_ins_ne x hab]

end

/-! ### Memory -/

theorem wf_write {a : Nat} {x : Byte} {m : Memory} (h : m.wf = true) : (Memory.write a x m).wf = true := wf_put h

theorem wf_writeCells : ∀ (cs : List (Nat × Byte)) (m : Memory), m.wf = true → (m.writeCells cs).wf = true
  | [], _, h => h
  | (a, x) :: cs, _, h => wf_writeCells cs _ (wf_write h)

theorem wf_writeBytes {a : Nat} {bs : List Byte} {m : Memory} (h : m.wf = true) : (m.writeBytes a bs).wf = true := wf_writeCells _ _ h

theorem wf_writeNat {a n v : Nat} {m : Memory} (h : m.wf = true) : (m.writeNat a n v).wf = true := wf_writeBytes h

theorem wf_clear {lo n : Nat} {m : Memory} (h : m.wf = true) : (m.clear lo n).wf = true := wfFrom_filter m 0 h

theorem wf_putRing {key : Nat} {r : Ring} {m : Memory} (h : m.wf = true) : (m.putRing key r).wf = true :=
  wf_writeNat (wf_writeNat (wf_writeNat h))

theorem wf_fillRcb {k given : Nat} {m : Memory} (h : m.wf = true) : (m.fillRcb k given).wf = true := by
  refine wf_writeNat (wf_writeNat ?_)
  generalize rcbFields = l
  induction l generalizing m with
  | nil => exact h
  | cons f l ih =>
    rw [List.foldl_cons]
    refine ih ?_
    split
    · exact h
    · exact wf_writeNat h

theorem read_write_self {a : Nat} {x : Byte} {m : Memory} (h : m.wf = true) : (Memory.write a x m).read a = x := get_put_self h

theorem read_write_ne {a b : Nat} {x : Byte} {m : Memory} (hab : b ≠ a) (h : m.wf = true) : (Memory.write a x m).read b = m.read b :=
  get_put_ne hab h

/-- A byte outside the bytes written reads as before. -/
theorem read_writeBytes_out {b : Nat} : ∀ (bs : List Byte) (a : Nat) (m : Memory), m.wf = true → (b < a ∨ a + bs.length ≤ b) →
    (m.writeBytes a bs).read b = m.read b
  | [], _, _, _, _ => rfl
  | x :: bs, a, m, h, hb => by
    simp only [List.length_cons] at hb
    show ((Memory.write a x m).writeBytes (a + 1) bs).read b = m.read b
    rw [read_writeBytes_out bs (a + 1) _ (wf_write h) (by omega), read_write_ne (by omega) h]

/-- Byte i of the bytes written reads as written. -/
theorem read_writeBytes_in {i : Nat} : ∀ (bs : List Byte) (a : Nat) (m : Memory), m.wf = true → (hi : i < bs.length) →
    (m.writeBytes a bs).read (a + i) = bs[i]
  | [], _, _, _, hi => absurd hi (Nat.not_lt_zero _)
  | x :: bs, a, m, h, hi => by
    show ((Memory.write a x m).writeBytes (a + 1) bs).read (a + i) = _
    cases i with
    | zero => rw [read_writeBytes_out bs (a + 1) _ (wf_write h) (by omega)]; exact read_write_self h
    | succ j =>
      have := read_writeBytes_in (i := j) bs (a + 1) _ (wf_write (a := a) (x := x) h) (by simpa using hi)
      rw [show a + (j + 1) = a + 1 + j by omega, this]
      rfl

theorem readBytes_writeBytes : ∀ (bs : List Byte) (a : Nat) (m : Memory), m.wf = true →
    (m.writeBytes a bs).readBytes a bs.length = bs := by
  intro bs a m h
  have key : ∀ n j, j + n = bs.length → (m.writeBytes a bs).readBytes (a + j) n = bs.drop j := by
    intro n
    induction n with
    | zero => intro j hj; rw [List.drop_eq_nil_of_le (by omega)]; rfl
    | succ n ih =>
      intro j hj
      have hj2 : j < bs.length := by omega
      rw [List.drop_eq_getElem_cons hj2, Memory.readBytes, read_writeBytes_in bs a m h hj2, Nat.add_assoc, ih (j + 1) (by omega)]
  simpa using key bs.length 0 (by omega)

theorem leBytes_length : ∀ n v : Nat, (leBytes v n).length = n
  | 0, _ => rfl
  | n + 1, v => by simp [leBytes, leBytes_length n]

theorem leNat_leBytes : ∀ n v : Nat, leNat (leBytes v n) = v % 2 ^ (8 * n)
  | 0, v => by simp [leBytes, leNat, Nat.mod_one]
  | n + 1, v => by
    rw [leBytes, leNat, leNat_leBytes n, show 8 * (n + 1) = 8 + 8 * n by ring, Nat.pow_add, Nat.mod_mul]
    simp [BitVec.toNat_ofNat]

/-- A number written reads back, modulo its width (R6). -/
theorem readNat_writeNat {a n v : Nat} {m : Memory} (h : m.wf = true) : (m.writeNat a n v).readNat a n = v % 2 ^ (8 * n) := by
  have := readBytes_writeBytes (leBytes v n) a m h
  rw [leBytes_length] at this
  unfold Memory.readNat Memory.writeNat
  rw [this, leNat_leBytes]

/-- A byte outside the number written reads as before. -/
theorem read_writeNat_out {a n v b : Nat} {m : Memory} (h : m.wf = true) (hb : b < a ∨ a + n ≤ b) :
    (m.writeNat a n v).read b = m.read b := read_writeBytes_out _ a m h (by rwa [leBytes_length])

theorem reset_mem_wf : State.reset.mem.wf = true := rfl

end Sys2Proof.Laws
end

