-- ==== Sys2Proof/Laws/PerInstr.lean ====
section
/-! SUPPORT. Per instruction: encoding it and decoding the words gives it back, whatever its operands, when they are well formed.
The device's own steps have no encoding. -/

set_option linter.all false
set_option Elab.async false

namespace Sys2Proof.Laws

/-- The words an instruction encodes to have their slot's or record's widths and decode to it. -/
def RoundTrip.Statement (i : Instr) : Prop :=
  i.wf = true → (i.tier < 4 → SlotTrip i) ∧ (i.tier = 4 → RecordTrip i)

theorem RoundTrip.ofSlot {i : Instr} (ht : i.tier < 4) (h : slotWf i = true → SlotTrip i) : RoundTrip.Statement i := by
  intro hw
  rw [Instr.wf, if_pos ht] at hw
  exact ⟨fun _ => h hw, fun h4 => absurd ht (by omega)⟩

theorem RoundTrip.ofRecord {i : Instr} (ht : i.tier = 4) (h : recWf i = true → RecordTrip i) : RoundTrip.Statement i := by
  intro hw
  rw [Instr.wf, if_neg (by omega), if_pos ht] at hw
  exact ⟨fun h4 => absurd h4 (by omega), fun _ => h hw⟩

theorem RoundTrip.ofEvent {i : Instr} (ht : i.tier = 5) : RoundTrip.Statement i :=
  fun _ => ⟨fun h => absurd h (by omega), fun h => absurd h (by omega)⟩

theorem hids_read : ∀ hs : List (Nat × Nat), (hs.all fun p => hid16 p.1 && hid16 p.2) = true →
    (hs.map fun p => hw p.1 p.2).map (fun x => (lo16 x, hi16 x)) = hs ∧ (hs.map fun p => hw p.1 p.2).all w32 = true
  | [], _ => ⟨rfl, rfl⟩
  | (a, b) :: hs, h => by
    simp only [List.all_cons, Bool.and_eq_true, hid16, decide_eq_true_eq] at h
    have := hids_read hs h.2
    simp only [List.map_cons, List.all_cons, this, lo16_hw a b h.1.1, hi16_hw a b h.1.1, w32, hw_lt a b h.1.1 h.1.2]
    simp


theorem RoundTrip.mov (d : Nat) (a : Nat) : RoundTrip.Statement (.mov d a) := RoundTrip.ofSlot (show (0 : Nat) < 4 by decide) fun hok => by
  have h := hok
  simp only [slotWf, Bool.and_eq_true, decide_eq_true_eq] at h
  exact slotTripS (op := 0x01) rfl rfl rfl rfl (by decide) (by decide) hok (by simp [fits, h]) (by simp [buildS])

theorem RoundTrip.li (d : Nat) (imm : Int) : RoundTrip.Statement (.li d imm) := RoundTrip.ofSlot (show (0 : Nat) < 4 by decide) fun hok => by
  have h := hok
  simp only [slotWf, Bool.and_eq_true, decide_eq_true_eq] at h
  exact slotTripS (op := 0x02) rfl rfl rfl rfl (by decide) (by decide) hok (by simp [fits, h, trunc_lt42]) (by simp [buildS, h, sext_trunc])

theorem RoundTrip.lih (d : Nat) (imm : Nat) : RoundTrip.Statement (.lih d imm) := RoundTrip.ofSlot (show (0 : Nat) < 4 by decide) fun hok => by
  have h := hok
  simp only [slotWf, Bool.and_eq_true, decide_eq_true_eq] at h
  exact slotTripS (op := 0x03) rfl rfl rfl rfl (by decide) (by decide) hok (by simp [fits, h]) (by simp [buildS])

theorem RoundTrip.add (d : Nat) (a : Nat) (b : Nat) : RoundTrip.Statement (.add d a b) := RoundTrip.ofSlot (show (0 : Nat) < 4 by decide) fun hok => by
  have h := hok
  simp only [slotWf, Bool.and_eq_true, decide_eq_true_eq] at h
  exact slotTripS (op := 0x04) rfl rfl rfl rfl (by decide) (by decide) hok (by simp [fits, h]) (by simp [buildS])

theorem RoundTrip.addi (d : Nat) (a : Nat) (imm : Int) : RoundTrip.Statement (.addi d a imm) := RoundTrip.ofSlot (show (0 : Nat) < 4 by decide) fun hok => by
  have h := hok
  simp only [slotWf, Bool.and_eq_true, decide_eq_true_eq] at h
  exact slotTripS (op := 0x05) rfl rfl rfl rfl (by decide) (by decide) hok (by simp [fits, h, trunc_lt30]) (by simp [buildS, h, sext_trunc])

theorem RoundTrip.sub (d : Nat) (a : Nat) (b : Nat) : RoundTrip.Statement (.sub d a b) := RoundTrip.ofSlot (show (0 : Nat) < 4 by decide) fun hok => by
  have h := hok
  simp only [slotWf, Bool.and_eq_true, decide_eq_true_eq] at h
  exact slotTripS (op := 0x06) rfl rfl rfl rfl (by decide) (by decide) hok (by simp [fits, h]) (by simp [buildS])

theorem RoundTrip.mul (d : Nat) (a : Nat) (b : Nat) : RoundTrip.Statement (.mul d a b) := RoundTrip.ofSlot (show (0 : Nat) < 4 by decide) fun hok => by
  have h := hok
  simp only [slotWf, Bool.and_eq_true, decide_eq_true_eq] at h
  exact slotTripS (op := 0x07) rfl rfl rfl rfl (by decide) (by decide) hok (by simp [fits, h]) (by simp [buildS])

theorem RoundTrip.mulh (d : Nat) (a : Nat) (b : Nat) (mode : Nat) : RoundTrip.Statement (.mulh d a b mode) := RoundTrip.ofSlot (show (0 : Nat) < 4 by decide) fun hok => by
  have h := hok
  simp only [slotWf, Bool.and_eq_true, decide_eq_true_eq] at h
  exact slotTripS (op := 0x08) rfl rfl rfl rfl (by decide) (by decide) hok (by simp [fits, h]) (by simp [buildS])

theorem RoundTrip.div (d : Nat) (a : Nat) (b : Nat) (mode : Nat) : RoundTrip.Statement (.div d a b mode) := RoundTrip.ofSlot (show (0 : Nat) < 4 by decide) fun hok => by
  have h := hok
  simp only [slotWf, Bool.and_eq_true, decide_eq_true_eq] at h
  exact slotTripS (op := 0x09) rfl rfl rfl rfl (by decide) (by decide) hok (by simp [fits, h]) (by simp [buildS])

theorem RoundTrip.rem (d : Nat) (a : Nat) (b : Nat) (mode : Nat) : RoundTrip.Statement (.rem d a b mode) := RoundTrip.ofSlot (show (0 : Nat) < 4 by decide) fun hok => by
  have h := hok
  simp only [slotWf, Bool.and_eq_true, decide_eq_true_eq] at h
  exact slotTripS (op := 0x0A) rfl rfl rfl rfl (by decide) (by decide) hok (by simp [fits, h]) (by simp [buildS])

theorem RoundTrip.and (d : Nat) (a : Nat) (b : Nat) : RoundTrip.Statement (.and d a b) := RoundTrip.ofSlot (show (0 : Nat) < 4 by decide) fun hok => by
  have h := hok
  simp only [slotWf, Bool.and_eq_true, decide_eq_true_eq] at h
  exact slotTripS (op := 0x0B) rfl rfl rfl rfl (by decide) (by decide) hok (by simp [fits, h]) (by simp [buildS])

theorem RoundTrip.or (d : Nat) (a : Nat) (b : Nat) : RoundTrip.Statement (.or d a b) := RoundTrip.ofSlot (show (0 : Nat) < 4 by decide) fun hok => by
  have h := hok
  simp only [slotWf, Bool.and_eq_true, decide_eq_true_eq] at h
  exact slotTripS (op := 0x0C) rfl rfl rfl rfl (by decide) (by decide) hok (by simp [fits, h]) (by simp [buildS])

theorem RoundTrip.xor (d : Nat) (a : Nat) (b : Nat) : RoundTrip.Statement (.xor d a b) := RoundTrip.ofSlot (show (0 : Nat) < 4 by decide) fun hok => by
  have h := hok
  simp only [slotWf, Bool.and_eq_true, decide_eq_true_eq] at h
  exact slotTripS (op := 0x0D) rfl rfl rfl rfl (by decide) (by decide) hok (by simp [fits, h]) (by simp [buildS])

theorem RoundTrip.shl (d : Nat) (a : Nat) (b : Nat) : RoundTrip.Statement (.shl d a b) := RoundTrip.ofSlot (show (0 : Nat) < 4 by decide) fun hok => by
  have h := hok
  simp only [slotWf, Bool.and_eq_true, decide_eq_true_eq] at h
  exact slotTripS (op := 0x0E) rfl rfl rfl rfl (by decide) (by decide) hok (by simp [fits, h]) (by simp [buildS])

theorem RoundTrip.shlImm (d : Nat) (a : Nat) (n : Nat) : RoundTrip.Statement (.shlImm d a n) := RoundTrip.ofSlot (show (0 : Nat) < 4 by decide) fun hok => by
  have h := hok
  simp only [slotWf, Bool.and_eq_true, decide_eq_true_eq] at h
  exact slotTripS (op := 0x0E) rfl rfl rfl rfl (by decide) (by decide) hok (by simp [fits, h]) (by simp [buildS])

theorem RoundTrip.shr (d : Nat) (a : Nat) (b : Nat) : RoundTrip.Statement (.shr d a b) := RoundTrip.ofSlot (show (0 : Nat) < 4 by decide) fun hok => by
  have h := hok
  simp only [slotWf, Bool.and_eq_true, decide_eq_true_eq] at h
  exact slotTripS (op := 0x0F) rfl rfl rfl rfl (by decide) (by decide) hok (by simp [fits, h]) (by simp [buildS])

theorem RoundTrip.shrImm (d : Nat) (a : Nat) (n : Nat) : RoundTrip.Statement (.shrImm d a n) := RoundTrip.ofSlot (show (0 : Nat) < 4 by decide) fun hok => by
  have h := hok
  simp only [slotWf, Bool.and_eq_true, decide_eq_true_eq] at h
  exact slotTripS (op := 0x0F) rfl rfl rfl rfl (by decide) (by decide) hok (by simp [fits, h]) (by simp [buildS])

theorem RoundTrip.sra (d : Nat) (a : Nat) (b : Nat) : RoundTrip.Statement (.sra d a b) := RoundTrip.ofSlot (show (0 : Nat) < 4 by decide) fun hok => by
  have h := hok
  simp only [slotWf, Bool.and_eq_true, decide_eq_true_eq] at h
  exact slotTripS (op := 0x10) rfl rfl rfl rfl (by decide) (by decide) hok (by simp [fits, h]) (by simp [buildS])

theorem RoundTrip.sraImm (d : Nat) (a : Nat) (n : Nat) : RoundTrip.Statement (.sraImm d a n) := RoundTrip.ofSlot (show (0 : Nat) < 4 by decide) fun hok => by
  have h := hok
  simp only [slotWf, Bool.and_eq_true, decide_eq_true_eq] at h
  exact slotTripS (op := 0x10) rfl rfl rfl rfl (by decide) (by decide) hok (by simp [fits, h]) (by simp [buildS])

theorem RoundTrip.min (d : Nat) (a : Nat) (b : Nat) (mode : Nat) : RoundTrip.Statement (.min d a b mode) := RoundTrip.ofSlot (show (0 : Nat) < 4 by decide) fun hok => by
  have h := hok
  simp only [slotWf, Bool.and_eq_true, decide_eq_true_eq] at h
  exact slotTripS (op := 0x11) rfl rfl rfl rfl (by decide) (by decide) hok (by simp [fits, h]) (by simp [buildS])

theorem RoundTrip.max (d : Nat) (a : Nat) (b : Nat) (mode : Nat) : RoundTrip.Statement (.max d a b mode) := RoundTrip.ofSlot (show (0 : Nat) < 4 by decide) fun hok => by
  have h := hok
  simp only [slotWf, Bool.and_eq_true, decide_eq_true_eq] at h
  exact slotTripS (op := 0x12) rfl rfl rfl rfl (by decide) (by decide) hok (by simp [fits, h]) (by simp [buildS])

theorem RoundTrip.sel (d : Nat) (n : Nat) (a : Nat) (b : Nat) : RoundTrip.Statement (.sel d n a b) := RoundTrip.ofSlot (show (0 : Nat) < 4 by decide) fun hok => by
  have h := hok
  simp only [slotWf, Bool.and_eq_true, decide_eq_true_eq] at h
  exact slotTripS (op := 0x13) rfl rfl rfl rfl (by decide) (by decide) hok (by simp [fits, h]) (by simp [buildS])

theorem RoundTrip.cmp (pd : Nat) (pc : Nat) (a : Nat) (b : Nat) (cond : Nat) : RoundTrip.Statement (.cmp pd pc a b cond) := RoundTrip.ofSlot (show (0 : Nat) < 4 by decide) fun hok => by
  have h := hok
  simp only [slotWf, Bool.and_eq_true, decide_eq_true_eq] at h
  exact slotTripS (op := 0x20) rfl rfl rfl rfl (by decide) (by decide) hok (by simp [fits, h]) (by simp [buildS])

theorem RoundTrip.cmpi (pd : Nat) (pc : Nat) (a : Nat) (imm : Int) (cond : Nat) : RoundTrip.Statement (.cmpi pd pc a imm cond) := RoundTrip.ofSlot (show (0 : Nat) < 4 by decide) fun hok => by
  have h := hok
  simp only [slotWf, Bool.and_eq_true, decide_eq_true_eq] at h
  exact slotTripS (op := 0x21) rfl rfl rfl rfl (by decide) (by decide) hok (by simp [fits, h, trunc_lt26]) (by simp [buildS, h, sext_trunc])

theorem RoundTrip.pand (pd : Nat) (pa : Nat) (pb : Nat) (neg : Nat) : RoundTrip.Statement (.pand pd pa pb neg) := RoundTrip.ofSlot (show (0 : Nat) < 4 by decide) fun hok => by
  have h := hok
  simp only [slotWf, Bool.and_eq_true, decide_eq_true_eq] at h
  exact slotTripS (op := 0x22) rfl rfl rfl rfl (by decide) (by decide) hok (by simp [fits, h]) (by simp [buildS])

theorem RoundTrip.por (pd : Nat) (pa : Nat) (pb : Nat) (neg : Nat) : RoundTrip.Statement (.por pd pa pb neg) := RoundTrip.ofSlot (show (0 : Nat) < 4 by decide) fun hok => by
  have h := hok
  simp only [slotWf, Bool.and_eq_true, decide_eq_true_eq] at h
  exact slotTripS (op := 0x23) rfl rfl rfl rfl (by decide) (by decide) hok (by simp [fits, h]) (by simp [buildS])

theorem RoundTrip.pxor (pd : Nat) (pa : Nat) (pb : Nat) (neg : Nat) : RoundTrip.Statement (.pxor pd pa pb neg) := RoundTrip.ofSlot (show (0 : Nat) < 4 by decide) fun hok => by
  have h := hok
  simp only [slotWf, Bool.and_eq_true, decide_eq_true_eq] at h
  exact slotTripS (op := 0x24) rfl rfl rfl rfl (by decide) (by decide) hok (by simp [fits, h]) (by simp [buildS])

theorem RoundTrip.cnarrow (c : Nat) (a : Nat) (b : Nat) : RoundTrip.Statement (.cnarrow c a b) := RoundTrip.ofSlot (show (0 : Nat) < 4 by decide) fun hok => by
  have h := hok
  simp only [slotWf, Bool.and_eq_true, decide_eq_true_eq] at h
  exact slotTripS (op := 0x30) rfl rfl rfl rfl (by decide) (by decide) hok (by simp [fits, h]) (by simp [buildS])

theorem RoundTrip.cperm (c : Nat) (keep : Nat) : RoundTrip.Statement (.cperm c keep) := RoundTrip.ofSlot (show (0 : Nat) < 4 by decide) fun hok => by
  have h := hok
  simp only [slotWf, Bool.and_eq_true, decide_eq_true_eq] at h
  exact slotTripS (op := 0x31) rfl rfl rfl rfl (by decide) (by decide) hok (by simp [fits, h]) (by simp [buildS])

theorem RoundTrip.cget (d : Nat) (a : Nat) (field : Nat) : RoundTrip.Statement (.cget d a field) := RoundTrip.ofSlot (show (0 : Nat) < 4 by decide) fun hok => by
  have h := hok
  simp only [slotWf, Bool.and_eq_true, decide_eq_true_eq] at h
  exact slotTripS (op := 0x32) rfl rfl rfl rfl (by decide) (by decide) hok (by simp [fits, h]) (by simp [buildS])

theorem RoundTrip.ctest (pd : Nat) (pc : Nat) (a : Nat) (mask : Nat) : RoundTrip.Statement (.ctest pd pc a mask) := RoundTrip.ofSlot (show (0 : Nat) < 4 by decide) fun hok => by
  have h := hok
  simp only [slotWf, Bool.and_eq_true, decide_eq_true_eq] at h
  exact slotTripS (op := 0x33) rfl rfl rfl rfl (by decide) (by decide) hok (by simp [fits, h]) (by simp [buildS])

theorem RoundTrip.mfk (d : Nat) (k : Nat) : RoundTrip.Statement (.mfk d k) := RoundTrip.ofSlot (show (0 : Nat) < 4 by decide) fun hok => by
  have h := hok
  simp only [slotWf, Bool.and_eq_true, decide_eq_true_eq] at h
  exact slotTripS (op := 0x40) rfl rfl rfl rfl (by decide) (by decide) hok (by simp [fits, h]) (by simp [buildS])

theorem RoundTrip.mtk (k : Nat) (a : Nat) : RoundTrip.Statement (.mtk k a) := RoundTrip.ofSlot (show (0 : Nat) < 4 by decide) fun hok => by
  have h := hok
  simp only [slotWf, Bool.and_eq_true, decide_eq_true_eq] at h
  exact slotTripS (op := 0x41) rfl rfl rfl rfl (by decide) (by decide) hok (by simp [fits, h]) (by simp [buildS])

theorem RoundTrip.br (a : Nat) : RoundTrip.Statement (.br a) := RoundTrip.ofSlot (show (0 : Nat) < 4 by decide) fun hok => by
  have h := hok
  simp only [slotWf, Bool.and_eq_true, decide_eq_true_eq] at h
  exact slotTripS (op := 0x50) rfl rfl rfl rfl (by decide) (by decide) hok (by simp [fits, h]) (by simp [buildS])

theorem RoundTrip.bri (t : Nat) : RoundTrip.Statement (.bri t) := RoundTrip.ofSlot (show (0 : Nat) < 4 by decide) fun hok => by
  have h := hok
  simp only [slotWf, Bool.and_eq_true, decide_eq_true_eq] at h
  exact slotTripS (op := 0x51) rfl rfl rfl rfl (by decide) (by decide) hok (by simp [fits, h]) (by simp [buildS])

theorem RoundTrip.callm (d : Nat) (t : Nat) : RoundTrip.Statement (.callm d t) := RoundTrip.ofSlot (show (0 : Nat) < 4 by decide) fun hok => by
  have h := hok
  simp only [slotWf, Bool.and_eq_true, decide_eq_true_eq] at h
  exact slotTripS (op := 0x52) rfl rfl rfl rfl (by decide) (by decide) hok (by simp [fits, h]) (by simp [buildS])

theorem RoundTrip.retm (a : Nat) : RoundTrip.Statement (.retm a) := RoundTrip.ofSlot (show (0 : Nat) < 4 by decide) fun hok => by
  have h := hok
  simp only [slotWf, Bool.and_eq_true, decide_eq_true_eq] at h
  exact slotTripS (op := 0x53) rfl rfl rfl rfl (by decide) (by decide) hok (by simp [fits, h]) (by simp [buildS])

theorem RoundTrip.loop (count : Nat) (stM1 : Nat) : RoundTrip.Statement (.loop count stM1) := RoundTrip.ofSlot (show (0 : Nat) < 4 by decide) fun hok => by
  have h := hok
  simp only [slotWf, Bool.and_eq_true, decide_eq_true_eq] at h
  exact slotTripS (op := 0x54) rfl rfl rfl rfl (by decide) (by decide) hok (by simp [fits, h]) (by simp [buildS])

theorem RoundTrip.loopReg (a : Nat) (stM1 : Nat) : RoundTrip.Statement (.loopReg a stM1) := RoundTrip.ofSlot (show (0 : Nat) < 4 by decide) fun hok => by
  have h := hok
  simp only [slotWf, Bool.and_eq_true, decide_eq_true_eq] at h
  exact slotTripS (op := 0x54) rfl rfl rfl rfl (by decide) (by decide) hok (by simp [fits, h]) (by simp [buildS])

theorem RoundTrip.brloop (t : Nat) : RoundTrip.Statement (.brloop t) := RoundTrip.ofSlot (show (0 : Nat) < 4 by decide) fun hok => by
  have h := hok
  simp only [slotWf, Bool.and_eq_true, decide_eq_true_eq] at h
  exact slotTripS (op := 0x55) rfl rfl rfl rfl (by decide) (by decide) hok (by simp [fits, h]) (by simp [buildS])

theorem RoundTrip.dispatch (a : Nat) (sh : Nat) (na : Nat) (smask : Nat) : RoundTrip.Statement (.dispatch a sh na smask) := RoundTrip.ofSlot (show (0 : Nat) < 4 by decide) fun hok => by
  have h := hok
  simp only [slotWf, Bool.and_eq_true, decide_eq_true_eq] at h
  exact slotTripS (op := 0x56) rfl rfl rfl rfl (by decide) (by decide) hok (by simp [fits, h]) (by simp [buildS])

theorem RoundTrip.endop : RoundTrip.Statement (.endop) := RoundTrip.ofSlot (show (0 : Nat) < 4 by decide) fun hok => by
  exact slotTripS (op := 0x57) rfl rfl rfl rfl (by decide) (by decide) hok rfl rfl

theorem RoundTrip.svc : RoundTrip.Statement (.svc) := RoundTrip.ofSlot (show (0 : Nat) < 4 by decide) fun hok => by
  exact slotTripS (op := 0x58) rfl rfl rfl rfl (by decide) (by decide) hok rfl rfl

theorem RoundTrip.trap (code : Nat) : RoundTrip.Statement (.trap code) := RoundTrip.ofSlot (show (0 : Nat) < 4 by decide) fun hok => by
  have h := hok
  simp only [slotWf, Bool.and_eq_true, decide_eq_true_eq] at h
  exact slotTripS (op := 0x59) rfl rfl rfl rfl (by decide) (by decide) hok (by simp [fits, h]) (by simp [buildS])

theorem RoundTrip.vadd (f : VFields) : RoundTrip.Statement (.vadd f) := RoundTrip.ofSlot (show (1 : Nat) < 4 by decide) fun hok =>
  slotTripV (op := 0x01) rfl rfl rfl (by decide) (by decide) hok (by
      simp only [slotWf, Bool.and_eq_true] at hok
      exact hok.1) rfl

theorem RoundTrip.vsub (f : VFields) : RoundTrip.Statement (.vsub f) := RoundTrip.ofSlot (show (1 : Nat) < 4 by decide) fun hok =>
  slotTripV (op := 0x02) rfl rfl rfl (by decide) (by decide) hok (by
      simp only [slotWf, Bool.and_eq_true] at hok
      exact hok.1) rfl

theorem RoundTrip.vmul (f : VFields) : RoundTrip.Statement (.vmul f) := RoundTrip.ofSlot (show (1 : Nat) < 4 by decide) fun hok =>
  slotTripV (op := 0x03) rfl rfl rfl (by decide) (by decide) hok (by
      simp only [slotWf, Bool.and_eq_true] at hok
      exact hok.1) rfl

theorem RoundTrip.vfma (f : VFields) : RoundTrip.Statement (.vfma f) := RoundTrip.ofSlot (show (1 : Nat) < 4 by decide) fun hok =>
  slotTripV (op := 0x04) rfl rfl rfl (by decide) (by decide) hok (by
      simp only [slotWf, Bool.and_eq_true] at hok
      exact hok.1) rfl

theorem RoundTrip.vmin (f : VFields) : RoundTrip.Statement (.vmin f) := RoundTrip.ofSlot (show (1 : Nat) < 4 by decide) fun hok =>
  slotTripV (op := 0x05) rfl rfl rfl (by decide) (by decide) hok (by
      simp only [slotWf, Bool.and_eq_true] at hok
      exact hok.1) rfl

theorem RoundTrip.vmax (f : VFields) : RoundTrip.Statement (.vmax f) := RoundTrip.ofSlot (show (1 : Nat) < 4 by decide) fun hok =>
  slotTripV (op := 0x06) rfl rfl rfl (by decide) (by decide) hok (by
      simp only [slotWf, Bool.and_eq_true] at hok
      exact hok.1) rfl

theorem RoundTrip.vclamp (f : VFields) : RoundTrip.Statement (.vclamp f) := RoundTrip.ofSlot (show (1 : Nat) < 4 by decide) fun hok =>
  slotTripV (op := 0x07) rfl rfl rfl (by decide) (by decide) hok (by
      simp only [slotWf, Bool.and_eq_true] at hok
      exact hok.1) rfl

theorem RoundTrip.vabs (f : VFields) : RoundTrip.Statement (.vabs f) := RoundTrip.ofSlot (show (1 : Nat) < 4 by decide) fun hok =>
  slotTripV (op := 0x08) rfl rfl rfl (by decide) (by decide) hok (by
      simp only [slotWf, Bool.and_eq_true] at hok
      exact hok.1) rfl

theorem RoundTrip.vneg (f : VFields) : RoundTrip.Statement (.vneg f) := RoundTrip.ofSlot (show (1 : Nat) < 4 by decide) fun hok =>
  slotTripV (op := 0x09) rfl rfl rfl (by decide) (by decide) hok (by
      simp only [slotWf, Bool.and_eq_true] at hok
      exact hok.1) rfl

theorem RoundTrip.vrcp (f : VFields) : RoundTrip.Statement (.vrcp f) := RoundTrip.ofSlot (show (1 : Nat) < 4 by decide) fun hok =>
  slotTripV (op := 0x10) rfl rfl rfl (by decide) (by decide) hok (by
      simp only [slotWf, Bool.and_eq_true] at hok
      exact hok.1) rfl

theorem RoundTrip.vrsq (f : VFields) : RoundTrip.Statement (.vrsq f) := RoundTrip.ofSlot (show (1 : Nat) < 4 by decide) fun hok =>
  slotTripV (op := 0x11) rfl rfl rfl (by decide) (by decide) hok (by
      simp only [slotWf, Bool.and_eq_true] at hok
      exact hok.1) rfl

theorem RoundTrip.vexp2 (f : VFields) : RoundTrip.Statement (.vexp2 f) := RoundTrip.ofSlot (show (1 : Nat) < 4 by decide) fun hok =>
  slotTripV (op := 0x12) rfl rfl rfl (by decide) (by decide) hok (by
      simp only [slotWf, Bool.and_eq_true] at hok
      exact hok.1) rfl

theorem RoundTrip.vlog2 (f : VFields) : RoundTrip.Statement (.vlog2 f) := RoundTrip.ofSlot (show (1 : Nat) < 4 by decide) fun hok =>
  slotTripV (op := 0x13) rfl rfl rfl (by decide) (by decide) hok (by
      simp only [slotWf, Bool.and_eq_true] at hok
      exact hok.1) rfl

theorem RoundTrip.vcvt (f : VFields) : RoundTrip.Statement (.vcvt f) := RoundTrip.ofSlot (show (1 : Nat) < 4 by decide) fun hok =>
  slotTripV (op := 0x18) rfl rfl rfl (by decide) (by decide) hok (by
      simp only [slotWf, Bool.and_eq_true] at hok
      exact hok.1) rfl

theorem RoundTrip.vscale (f : VFields) : RoundTrip.Statement (.vscale f) := RoundTrip.ofSlot (show (1 : Nat) < 4 by decide) fun hok =>
  slotTripV (op := 0x19) rfl rfl rfl (by decide) (by decide) hok (by
      simp only [slotWf, Bool.and_eq_true] at hok
      exact hok.1) rfl

theorem RoundTrip.vcmp (f : VFields) : RoundTrip.Statement (.vcmp f) := RoundTrip.ofSlot (show (1 : Nat) < 4 by decide) fun hok =>
  slotTripV (op := 0x20) rfl rfl rfl (by decide) (by decide) hok (by
      simp only [slotWf, Bool.and_eq_true] at hok
      exact hok.1) rfl

theorem RoundTrip.vsel (f : VFields) : RoundTrip.Statement (.vsel f) := RoundTrip.ofSlot (show (1 : Nat) < 4 by decide) fun hok =>
  slotTripV (op := 0x21) rfl rfl rfl (by decide) (by decide) hok (by
      simp only [slotWf, Bool.and_eq_true] at hok
      exact hok.1) rfl

theorem RoundTrip.vand (f : VFields) : RoundTrip.Statement (.vand f) := RoundTrip.ofSlot (show (1 : Nat) < 4 by decide) fun hok =>
  slotTripV (op := 0x28) rfl rfl rfl (by decide) (by decide) hok (by
      simp only [slotWf, Bool.and_eq_true] at hok
      exact hok.1) rfl

theorem RoundTrip.vor (f : VFields) : RoundTrip.Statement (.vor f) := RoundTrip.ofSlot (show (1 : Nat) < 4 by decide) fun hok =>
  slotTripV (op := 0x29) rfl rfl rfl (by decide) (by decide) hok (by
      simp only [slotWf, Bool.and_eq_true] at hok
      exact hok.1) rfl

theorem RoundTrip.vxor (f : VFields) : RoundTrip.Statement (.vxor f) := RoundTrip.ofSlot (show (1 : Nat) < 4 by decide) fun hok =>
  slotTripV (op := 0x2A) rfl rfl rfl (by decide) (by decide) hok (by
      simp only [slotWf, Bool.and_eq_true] at hok
      exact hok.1) rfl

theorem RoundTrip.vshl (f : VFields) : RoundTrip.Statement (.vshl f) := RoundTrip.ofSlot (show (1 : Nat) < 4 by decide) fun hok =>
  slotTripV (op := 0x2B) rfl rfl rfl (by decide) (by decide) hok (by
      simp only [slotWf, Bool.and_eq_true] at hok
      exact hok.1) (by
      simp [slotWf] at hok
      simp [buildV]; omega)

theorem RoundTrip.vshlImm (f : VFields) : RoundTrip.Statement (.vshlImm f) := RoundTrip.ofSlot (show (1 : Nat) < 4 by decide) fun hok =>
  slotTripV (op := 0x2B) rfl rfl rfl (by decide) (by decide) hok (by
      simp only [slotWf, Bool.and_eq_true] at hok
      exact hok.1) (by
      simp [slotWf] at hok
      simp [buildV]; omega)

theorem RoundTrip.vshr (f : VFields) : RoundTrip.Statement (.vshr f) := RoundTrip.ofSlot (show (1 : Nat) < 4 by decide) fun hok =>
  slotTripV (op := 0x2C) rfl rfl rfl (by decide) (by decide) hok (by
      simp only [slotWf, Bool.and_eq_true] at hok
      exact hok.1) (by
      simp [slotWf] at hok
      simp [buildV]; omega)

theorem RoundTrip.vshrImm (f : VFields) : RoundTrip.Statement (.vshrImm f) := RoundTrip.ofSlot (show (1 : Nat) < 4 by decide) fun hok =>
  slotTripV (op := 0x2C) rfl rfl rfl (by decide) (by decide) hok (by
      simp only [slotWf, Bool.and_eq_true] at hok
      exact hok.1) (by
      simp [slotWf] at hok
      simp [buildV]; omega)

theorem RoundTrip.vred (f : VFields) : RoundTrip.Statement (.vred f) := RoundTrip.ofSlot (show (1 : Nat) < 4 by decide) fun hok =>
  slotTripV (op := 0x30) rfl rfl rfl (by decide) (by decide) hok (by
      simp only [slotWf, Bool.and_eq_true] at hok
      exact hok.1) rfl

theorem RoundTrip.vbcast (f : VFields) : RoundTrip.Statement (.vbcast f) := RoundTrip.ofSlot (show (1 : Nat) < 4 by decide) fun hok =>
  slotTripV (op := 0x31) rfl rfl rfl (by decide) (by decide) hok (by
      simp only [slotWf, Bool.and_eq_true] at hok
      exact hok.1) rfl

theorem RoundTrip.vext (f : VFields) : RoundTrip.Statement (.vext f) := RoundTrip.ofSlot (show (1 : Nat) < 4 by decide) fun hok =>
  slotTripV (op := 0x32) rfl rfl rfl (by decide) (by decide) hok (by
      simp only [slotWf, Bool.and_eq_true] at hok
      exact hok.1) rfl

theorem RoundTrip.vperm (f : VFields) : RoundTrip.Statement (.vperm f) := RoundTrip.ofSlot (show (1 : Nat) < 4 by decide) fun hok =>
  slotTripV (op := 0x33) rfl rfl rfl (by decide) (by decide) hok (by
      simp only [slotWf, Bool.and_eq_true] at hok
      exact hok.1) rfl

theorem RoundTrip.viota (f : VFields) : RoundTrip.Statement (.viota f) := RoundTrip.ofSlot (show (1 : Nat) < 4 by decide) fun hok =>
  slotTripV (op := 0x34) rfl rfl rfl (by decide) (by decide) hok (by
      simp only [slotWf, Bool.and_eq_true] at hok
      exact hok.1) rfl

theorem RoundTrip.qand (f : VFields) : RoundTrip.Statement (.qand f) := RoundTrip.ofSlot (show (1 : Nat) < 4 by decide) fun hok =>
  slotTripV (op := 0x38) rfl rfl rfl (by decide) (by decide) hok (by
      simp only [slotWf, Bool.and_eq_true] at hok
      exact hok.1) rfl

theorem RoundTrip.qor (f : VFields) : RoundTrip.Statement (.qor f) := RoundTrip.ofSlot (show (1 : Nat) < 4 by decide) fun hok =>
  slotTripV (op := 0x39) rfl rfl rfl (by decide) (by decide) hok (by
      simp only [slotWf, Bool.and_eq_true] at hok
      exact hok.1) rfl

theorem RoundTrip.qnot (f : VFields) : RoundTrip.Statement (.qnot f) := RoundTrip.ofSlot (show (1 : Nat) < 4 by decide) fun hok =>
  slotTripV (op := 0x3A) rfl rfl rfl (by decide) (by decide) hok (by
      simp only [slotWf, Bool.and_eq_true] at hok
      exact hok.1) rfl

theorem RoundTrip.tcfg (tn : Nat) (fmt : Nat) (rowsM1 : Nat) : RoundTrip.Statement (.tcfg tn fmt rowsM1) := RoundTrip.ofSlot (show (2 : Nat) < 4 by decide) fun hok => by
  have h := hok
  simp only [slotWf, Bool.and_eq_true, decide_eq_true_eq] at h
  exact slotTripM (op := 0x01) rfl rfl rfl rfl (by decide) (by decide) hok (by simp [fits, h]) (by simp [buildM])

theorem RoundTrip.tzero (tn : Nat) : RoundTrip.Statement (.tzero tn) := RoundTrip.ofSlot (show (2 : Nat) < 4 by decide) fun hok => by
  have h := hok
  simp only [slotWf, Bool.and_eq_true, decide_eq_true_eq] at h
  exact slotTripM (op := 0x02) rfl rfl rfl rfl (by decide) (by decide) hok (by simp [fits, h]) (by simp [buildM])

theorem RoundTrip.wload (src : Nat) (ts : Bool) (fmt : Nat) : RoundTrip.Statement (.wload src ts fmt) := RoundTrip.ofSlot (show (2 : Nat) < 4 by decide) fun hok => by
  have h := hok
  simp only [slotWf, Bool.and_eq_true, decide_eq_true_eq] at h
  exact slotTripM (op := 0x03) rfl rfl rfl rfl (by decide) (by decide) hok (by simp [fits, h, toNat_le1]) (by simp [buildM, toNat_beq])

theorem RoundTrip.cbload (sa : Nat) : RoundTrip.Statement (.cbload sa) := RoundTrip.ofSlot (show (2 : Nat) < 4 by decide) fun hok => by
  have h := hok
  simp only [slotWf, Bool.and_eq_true, decide_eq_true_eq] at h
  exact slotTripM (op := 0x04) rfl rfl rfl rfl (by decide) (by decide) hok (by simp [fits, h]) (by simp [buildM])

theorem RoundTrip.mxnest (lvl : Nat) (sa : Nat) : RoundTrip.Statement (.mxnest lvl sa) := RoundTrip.ofSlot (show (2 : Nat) < 4 by decide) fun hok => by
  have h := hok
  simp only [slotWf, Bool.and_eq_true, decide_eq_true_eq] at h
  exact slotTripM (op := 0x05) rfl rfl rfl rfl (by decide) (by decide) hok (by simp [fits, h]; omega) (by simp [buildM]; omega)

theorem RoundTrip.mxnestImm (lvl : Nat) (ws : Bool) (cnt : Nat) (astr : Int) (cstr : Int) : RoundTrip.Statement (.mxnestImm lvl ws cnt astr cstr) := RoundTrip.ofSlot (show (2 : Nat) < 4 by decide) fun hok => by
  have h := hok
  simp only [slotWf, Bool.and_eq_true, decide_eq_true_eq] at h
  exact slotTripM (op := 0x05) rfl rfl rfl rfl (by decide) (by decide) hok (by simp [fits, h, trunc_lt11, toNat_le1]; omega) (by simp [buildM, h, sext_trunc, toNat_beq]; omega)

theorem RoundTrip.mxgo (f : MxgoF) : RoundTrip.Statement (.mxgo f) := RoundTrip.ofSlot (show (2 : Nat) < 4 by decide) fun hok => by
  have h := hok
  simp only [slotWf, MxgoF.wf, Bool.and_eq_true, decide_eq_true_eq] at h
  have hk : f.kr < 64 := by
    have := h.1.1.1.2
    split at this <;> omega
  have ha : f.afmt < 16 := by
    have := h.1.1.1.1.1.2
    simp at this
    omega
  exact slotTripM (op := 0x06) rfl rfl rfl rfl (by decide) (by decide) hok (by simp [fits, h, hk, ha, toNat_le1]; omega) (by simp [buildM, toNat_beq])

theorem RoundTrip.accrd (sc : Nat) (vd : Nat) (ss : Nat) (fmt : Nat) (at32 : Bool) (scl : Bool) (off : Nat) : RoundTrip.Statement (.accrd sc vd ss fmt at32 scl off) := RoundTrip.ofSlot (show (2 : Nat) < 4 by decide) fun hok => by
  have h := hok
  simp only [slotWf, Bool.and_eq_true, decide_eq_true_eq] at h
  exact slotTripM (op := 0x07) rfl rfl rfl rfl (by decide) (by decide) hok (by simp [fits, h, toNat_le1]) (by simp [buildM, toNat_beq])

theorem RoundTrip.accwr (sc : Nat) (va : Nat) (ha : Bool) (off : Nat) : RoundTrip.Statement (.accwr sc va ha off) := RoundTrip.ofSlot (show (2 : Nat) < 4 by decide) fun hok => by
  have h := hok
  simp only [slotWf, Bool.and_eq_true, decide_eq_true_eq] at h
  exact slotTripM (op := 0x08) rfl rfl rfl rfl (by decide) (by decide) hok (by simp [fits, h, toNat_le1]) (by simp [buildM, toNat_beq])

theorem RoundTrip.accz (sc : Nat) (nl : Nat) (off : Nat) : RoundTrip.Statement (.accz sc nl off) := RoundTrip.ofSlot (show (2 : Nat) < 4 by decide) fun hok => by
  have h := hok
  simp only [slotWf, Bool.and_eq_true, decide_eq_true_eq] at h
  exact slotTripM (op := 0x09) rfl rfl rfl rfl (by decide) (by decide) hok (by simp [fits, h]) (by simp [buildM])

theorem RoundTrip.rtload (sa : Nat) (nrM1 : Nat) (ncM1 : Nat) (rf : Bool) (gm : Bool) (str : Nat) : RoundTrip.Statement (.rtload sa nrM1 ncM1 rf gm str) := RoundTrip.ofSlot (show (2 : Nat) < 4 by decide) fun hok => by
  have h := hok
  simp only [slotWf, Bool.and_eq_true, decide_eq_true_eq] at h
  exact slotTripM (op := 0x10) rfl rfl rfl rfl (by decide) (by decide) hok (by simp [fits, h, toNat_le1]) (by simp [buildM, toNat_beq])

theorem RoundTrip.rtapply (sa : Nat) (sb : Nat) (sw : Nat) (nrM1 : Nat) (ncM1 : Nat) (rf : Bool) (gm : Bool) (uw : Bool) (str : Nat) : RoundTrip.Statement (.rtapply sa sb sw nrM1 ncM1 rf gm uw str) := RoundTrip.ofSlot (show (2 : Nat) < 4 by decide) fun hok => by
  have h := hok
  simp only [slotWf, Bool.and_eq_true, decide_eq_true_eq] at h
  exact slotTripM (op := 0x11) rfl rfl rfl rfl (by decide) (by decide) hok (by simp [fits, h, toNat_le1]) (by simp [buildM, toNat_beq])

theorem RoundTrip.rtread (vd : Nat) (row : Nat) (half : Bool) : RoundTrip.Statement (.rtread vd row half) := RoundTrip.ofSlot (show (2 : Nat) < 4 by decide) fun hok => by
  have h := hok
  simp only [slotWf, Bool.and_eq_true, decide_eq_true_eq] at h
  exact slotTripM (op := 0x12) rfl rfl rfl rfl (by decide) (by decide) hok (by simp [fits, h, toNat_le1]) (by simp [buildM, toNat_beq])

theorem RoundTrip.rtclr : RoundTrip.Statement (.rtclr) := RoundTrip.ofSlot (show (2 : Nat) < 4 by decide) fun hok => by
  exact slotTripM (op := 0x13) rfl rfl rfl rfl (by decide) (by decide) hok rfl rfl

theorem RoundTrip.rtgain : RoundTrip.Statement (.rtgain) := RoundTrip.ofSlot (show (2 : Nat) < 4 by decide) fun hok => by
  exact slotTripM (op := 0x14) rfl rfl rfl rfl (by decide) (by decide) hok rfl rfl

theorem RoundTrip.rtwords (sa : Nat) : RoundTrip.Statement (.rtwords sa) := RoundTrip.ofSlot (show (2 : Nat) < 4 by decide) fun hok => by
  have h := hok
  simp only [slotWf, Bool.and_eq_true, decide_eq_true_eq] at h
  exact slotTripM (op := 0x15) rfl rfl rfl rfl (by decide) (by decide) hok (by simp [fits, h]) (by simp [buildM])

theorem RoundTrip.ptrans (dst : Nat) (src : Nat) (ds : Bool) (ss : Bool) (ew : Nat) : RoundTrip.Statement (.ptrans dst src ds ss ew) := RoundTrip.ofSlot (show (2 : Nat) < 4 by decide) fun hok => by
  have h := hok
  simp only [slotWf, Bool.and_eq_true, decide_eq_true_eq] at h
  exact slotTripM (op := 0x18) rfl rfl rfl rfl (by decide) (by decide) hok (by simp [fits, h, toNat_le1]) (by simp [buildM, toNat_beq])

theorem RoundTrip.pgather (tn : Nat) (sa : Nat) (si : Nat) (nM1 : Nat) : RoundTrip.Statement (.pgather tn sa si nM1) := RoundTrip.ofSlot (show (2 : Nat) < 4 by decide) fun hok => by
  have h := hok
  simp only [slotWf, Bool.and_eq_true, decide_eq_true_eq] at h
  exact slotTripM (op := 0x19) rfl rfl rfl rfl (by decide) (by decide) hok (by simp [fits, h]) (by simp [buildM])

theorem RoundTrip.pred (sd : Nat) (sa : Nat) (sb : Nat) (fmt : Nat) (kind : Nat) (alpha : Nat) : RoundTrip.Statement (.pred sd sa sb fmt kind alpha) := RoundTrip.ofSlot (show (2 : Nat) < 4 by decide) fun hok => by
  have h := hok
  simp only [slotWf, Bool.and_eq_true, decide_eq_true_eq] at h
  exact slotTripM (op := 0x1C) rfl rfl rfl rfl (by decide) (by decide) hok (by simp [fits, h]) (by simp [buildM])

theorem RoundTrip.tcmp (sa : Nat) (sb : Nat) (sc : Nat) (st : Nat) (fmt : Nat) (cm : Bool) : RoundTrip.Statement (.tcmp sa sb sc st fmt cm) := RoundTrip.ofSlot (show (2 : Nat) < 4 by decide) fun hok => by
  have h := hok
  simp only [slotWf, Bool.and_eq_true, decide_eq_true_eq] at h
  exact slotTripM (op := 0x1D) rfl rfl rfl rfl (by decide) (by decide) hok (by simp [fits, h, toNat_le1]) (by simp [buildM, toNat_beq])

theorem RoundTrip.ld (sd : Nat) (sa : Nat) (sz : Nat) (sx : Bool) (scope : Nat) (imm : Int) : RoundTrip.Statement (.ld sd sa sz sx scope imm) := RoundTrip.ofSlot (show (3 : Nat) < 4 by decide) fun hok => by
  have h := hok
  simp only [slotWf, Bool.and_eq_true, decide_eq_true_eq] at h
  exact slotTripX (op := 0x01) rfl rfl rfl rfl (by decide) (by decide) hok (by simp [fits, h, trunc_lt24, toNat_le1]) (by simp [buildX, h, sext_trunc, toNat_beq])

theorem RoundTrip.st (sd : Nat) (sa : Nat) (sz : Nat) (sx : Bool) (scope : Nat) (imm : Int) : RoundTrip.Statement (.st sd sa sz sx scope imm) := RoundTrip.ofSlot (show (3 : Nat) < 4 by decide) fun hok => by
  have h := hok
  simp only [slotWf, Bool.and_eq_true, decide_eq_true_eq] at h
  exact slotTripX (op := 0x02) rfl rfl rfl rfl (by decide) (by decide) hok (by simp [fits, h, trunc_lt24, toNat_le1]) (by simp [buildX, h, sext_trunc, toNat_beq])

theorem RoundTrip.lda (sd : Nat) (sa : Nat) (sz : Nat) (sx : Bool) (scope : Nat) (imm : Int) : RoundTrip.Statement (.lda sd sa sz sx scope imm) := RoundTrip.ofSlot (show (3 : Nat) < 4 by decide) fun hok => by
  have h := hok
  simp only [slotWf, Bool.and_eq_true, decide_eq_true_eq] at h
  exact slotTripX (op := 0x03) rfl rfl rfl rfl (by decide) (by decide) hok (by simp [fits, h, trunc_lt24, toNat_le1]) (by simp [buildX, h, sext_trunc, toNat_beq])

theorem RoundTrip.stl (sd : Nat) (sa : Nat) (sz : Nat) (sx : Bool) (scope : Nat) (imm : Int) : RoundTrip.Statement (.stl sd sa sz sx scope imm) := RoundTrip.ofSlot (show (3 : Nat) < 4 by decide) fun hok => by
  have h := hok
  simp only [slotWf, Bool.and_eq_true, decide_eq_true_eq] at h
  exact slotTripX (op := 0x04) rfl rfl rfl rfl (by decide) (by decide) hok (by simp [fits, h, trunc_lt24, toNat_le1]) (by simp [buildX, h, sext_trunc, toNat_beq])

theorem RoundTrip.vld (vd : Nat) (sa : Nat) (qp : Nat) (bfx : Bool) (imm : Int) : RoundTrip.Statement (.vld vd sa qp bfx imm) := RoundTrip.ofSlot (show (3 : Nat) < 4 by decide) fun hok => by
  have h := hok
  simp only [slotWf, Bool.and_eq_true, decide_eq_true_eq] at h
  exact slotTripX (op := 0x08) rfl rfl rfl rfl (by decide) (by decide) hok (by simp [fits, h, trunc_lt24, toNat_le1]) (by simp [buildX, h, sext_trunc, toNat_beq])

theorem RoundTrip.vst (vs : Nat) (sa : Nat) (qp : Nat) (bfx : Bool) (imm : Int) : RoundTrip.Statement (.vst vs sa qp bfx imm) := RoundTrip.ofSlot (show (3 : Nat) < 4 by decide) fun hok => by
  have h := hok
  simp only [slotWf, Bool.and_eq_true, decide_eq_true_eq] at h
  exact slotTripX (op := 0x09) rfl rfl rfl rfl (by decide) (by decide) hok (by simp [fits, h, trunc_lt24, toNat_le1]) (by simp [buildX, h, sext_trunc, toNat_beq])

theorem RoundTrip.vlds (vd : Nat) (sa : Nat) (qp : Nat) (sb : Nat) (esz : Nat) (imm : Int) : RoundTrip.Statement (.vlds vd sa qp sb esz imm) := RoundTrip.ofSlot (show (3 : Nat) < 4 by decide) fun hok => by
  have h := hok
  simp only [slotWf, Bool.and_eq_true, decide_eq_true_eq] at h
  exact slotTripX (op := 0x0A) rfl rfl rfl rfl (by decide) (by decide) hok (by simp [fits, h, trunc_lt16]) (by simp [buildX, h, sext_trunc])

theorem RoundTrip.vgather (vd : Nat) (sa : Nat) (qp : Nat) (vb : Nat) (scl : Nat) (imm : Int) : RoundTrip.Statement (.vgather vd sa qp vb scl imm) := RoundTrip.ofSlot (show (3 : Nat) < 4 by decide) fun hok => by
  have h := hok
  simp only [slotWf, Bool.and_eq_true, decide_eq_true_eq] at h
  exact slotTripX (op := 0x0B) rfl rfl rfl rfl (by decide) (by decide) hok (by simp [fits, h, trunc_lt16]) (by simp [buildX, h, sext_trunc])

theorem RoundTrip.vscatter (vs : Nat) (sa : Nat) (qp : Nat) (vb : Nat) (scl : Nat) (imm : Int) : RoundTrip.Statement (.vscatter vs sa qp vb scl imm) := RoundTrip.ofSlot (show (3 : Nat) < 4 by decide) fun hok => by
  have h := hok
  simp only [slotWf, Bool.and_eq_true, decide_eq_true_eq] at h
  exact slotTripX (op := 0x0C) rfl rfl rfl rfl (by decide) (by decide) hok (by simp [fits, h, trunc_lt16]) (by simp [buildX, h, sext_trunc])

theorem RoundTrip.tmov (dst : Nat) (src : Nat) (ds : Bool) (ss : Bool) (nrM1 : Nat) (str : Nat) : RoundTrip.Statement (.tmov dst src ds ss nrM1 str) := RoundTrip.ofSlot (show (3 : Nat) < 4 by decide) fun hok => by
  have h := hok
  simp only [slotWf, Bool.and_eq_true, decide_eq_true_eq] at h
  exact slotTripX (op := 0x10) rfl rfl rfl rfl (by decide) (by decide) hok (by simp [fits, h, toNat_le1]) (by simp [buildX, toNat_beq])

theorem RoundTrip.cpyput (vs : Nat) (sa : Nat) (imm : Int) : RoundTrip.Statement (.cpyput vs sa imm) := RoundTrip.ofSlot (show (3 : Nat) < 4 by decide) fun hok => by
  have h := hok
  simp only [slotWf, Bool.and_eq_true, decide_eq_true_eq] at h
  exact slotTripX (op := 0x11) rfl rfl rfl rfl (by decide) (by decide) hok (by simp [fits, h, trunc_lt24]) (by simp [buildX, h, sext_trunc])

theorem RoundTrip.rawait (sd : Nat) (sa : Nat) (k : Nat) : RoundTrip.Statement (.rawait sd sa k) := RoundTrip.ofSlot (show (3 : Nat) < 4 by decide) fun hok => by
  have h := hok
  simp only [slotWf, Bool.and_eq_true, decide_eq_true_eq] at h
  exact slotTripX (op := 0x14) rfl rfl rfl rfl (by decide) (by decide) hok (by simp [fits, h]) (by simp [buildX])

theorem RoundTrip.rarel (sa : Nat) (nM1 : Nat) : RoundTrip.Statement (.rarel sa nM1) := RoundTrip.ofSlot (show (3 : Nat) < 4 by decide) fun hok => by
  have h := hok
  simp only [slotWf, Bool.and_eq_true, decide_eq_true_eq] at h
  exact slotTripX (op := 0x15) rfl rfl rfl rfl (by decide) (by decide) hok (by simp [fits, h]) (by simp [buildX])

theorem RoundTrip.rapeek (sd : Nat) (sa : Nat) (k : Nat) : RoundTrip.Statement (.rapeek sd sa k) := RoundTrip.ofSlot (show (3 : Nat) < 4 by decide) fun hok => by
  have h := hok
  simp only [slotWf, Bool.and_eq_true, decide_eq_true_eq] at h
  exact slotTripX (op := 0x16) rfl rfl rfl rfl (by decide) (by decide) hok (by simp [fits, h]) (by simp [buildX])

theorem RoundTrip.atom (sd : Nat) (sa : Nat) (sb : Nat) (aop : Nat) (w8 : Bool) (ord : Nat) (scope : Nat) (nret : Bool) (imm : Int) : RoundTrip.Statement (.atom sd sa sb aop w8 ord scope nret imm) := RoundTrip.ofSlot (show (3 : Nat) < 4 by decide) fun hok => by
  have h := hok
  simp only [slotWf, Bool.and_eq_true, decide_eq_true_eq] at h
  exact slotTripX (op := 0x18) rfl rfl rfl rfl (by decide) (by decide) hok (by simp [fits, h, trunc_lt16, toNat_le1]) (by simp [buildX, h, sext_trunc, toNat_beq])

theorem RoundTrip.acas (sd : Nat) (sa : Nat) (sb : Nat) (sc : Nat) (w8 : Bool) (ord : Nat) (scope : Nat) (imm : Int) : RoundTrip.Statement (.acas sd sa sb sc w8 ord scope imm) := RoundTrip.ofSlot (show (3 : Nat) < 4 by decide) fun hok => by
  have h := hok
  simp only [slotWf, Bool.and_eq_true, decide_eq_true_eq] at h
  exact slotTripX (op := 0x19) rfl rfl rfl rfl (by decide) (by decide) hok (by simp [fits, h, trunc_lt16, toNat_le1]) (by simp [buildX, h, sext_trunc, toNat_beq])

theorem RoundTrip.fence (kind : Nat) (scope : Nat) (emask : Nat) : RoundTrip.Statement (.fence kind scope emask) := RoundTrip.ofSlot (show (3 : Nat) < 4 by decide) fun hok => by
  have h := hok
  simp only [slotWf, Bool.and_eq_true, decide_eq_true_eq] at h
  exact slotTripX (op := 0x1C) rfl rfl rfl rfl (by decide) (by decide) hok (by simp [fits, h]) (by simp [buildX])

theorem RoundTrip.ewait (sa : Nat) : RoundTrip.Statement (.ewait sa) := RoundTrip.ofSlot (show (3 : Nat) < 4 by decide) fun hok => by
  have h := hok
  simp only [slotWf, Bool.and_eq_true, decide_eq_true_eq] at h
  exact slotTripX (op := 0x1D) rfl rfl rfl rfl (by decide) (by decide) hok (by simp [fits, h]) (by simp [buildX])

theorem RoundTrip.barinit (sa : Nat) (scope : Nat) (cnt : Nat) (imm : Int) : RoundTrip.Statement (.barinit sa scope cnt imm) := RoundTrip.ofSlot (show (3 : Nat) < 4 by decide) fun hok => by
  have h := hok
  simp only [slotWf, Bool.and_eq_true, decide_eq_true_eq] at h
  exact slotTripX (op := 0x20) rfl rfl rfl rfl (by decide) (by decide) hok (by simp [fits, h, trunc_lt16]) (by simp [buildX, h, sext_trunc])

theorem RoundTrip.bararr (sd : Nat) (sa : Nat) (scope : Nat) (rc : Bool) (n : Nat) (imm : Int) : RoundTrip.Statement (.bararr sd sa scope rc n imm) := RoundTrip.ofSlot (show (3 : Nat) < 4 by decide) fun hok => by
  have h := hok
  simp only [slotWf, Bool.and_eq_true, decide_eq_true_eq] at h
  cases rc
  · simp at h
    exact slotTripX (op := 0x21) rfl rfl rfl rfl (by decide) (by decide) hok (by simp [fits, h, trunc_lt16] <;> omega) (by simp [buildX, h, sext_trunc] <;> omega)
  · simp at h
    exact slotTripX (op := 0x21) rfl rfl rfl rfl (by decide) (by decide) hok (by simp [fits, h, trunc_lt16] <;> omega) (by simp [buildX, h, sext_trunc] <;> omega)

theorem RoundTrip.barwait (pd : Nat) (sa : Nat) (scope : Nat) (dl : Bool) (sb : Nat) (sc : Nat) (imm : Int) : RoundTrip.Statement (.barwait pd sa scope dl sb sc imm) := RoundTrip.ofSlot (show (3 : Nat) < 4 by decide) fun hok => by
  have h := hok
  simp only [slotWf, Bool.and_eq_true, decide_eq_true_eq] at h
  exact slotTripX (op := 0x22) rfl rfl rfl rfl (by decide) (by decide) hok (by simp [fits, h, trunc_lt16, toNat_le1]) (by simp [buildX, h, sext_trunc, toNat_beq])

theorem RoundTrip.enq (slot : Nat) (rq : Bool) (sa : Nat) : RoundTrip.Statement (.enq slot rq sa) := RoundTrip.ofSlot (show (3 : Nat) < 4 by decide) fun hok => by
  have h := hok
  simp only [slotWf, Bool.and_eq_true, decide_eq_true_eq] at h
  exact slotTripX (op := 0x24) rfl rfl rfl rfl (by decide) (by decide) hok (by simp [fits, h, toNat_le1]) (by simp [buildX, toNat_beq])

theorem RoundTrip.deq (sd : Nat) (slot : Nat) (rq : Bool) : RoundTrip.Statement (.deq sd slot rq) := RoundTrip.ofSlot (show (3 : Nat) < 4 by decide) fun hok => by
  have h := hok
  simp only [slotWf, Bool.and_eq_true, decide_eq_true_eq] at h
  exact slotTripX (op := 0x25) rfl rfl rfl rfl (by decide) (by decide) hok (by simp [fits, h, toNat_le1]) (by simp [buildX, toNat_beq])

theorem RoundTrip.spawn (slot : Nat) (rq : Bool) (sa : Nat) (imm : Int) : RoundTrip.Statement (.spawn slot rq sa imm) := RoundTrip.ofSlot (show (3 : Nat) < 4 by decide) fun hok => by
  have h := hok
  simp only [slotWf, Bool.and_eq_true, decide_eq_true_eq] at h
  exact slotTripX (op := 0x28) rfl rfl rfl rfl (by decide) (by decide) hok (by simp [fits, h, trunc_lt24, toNat_le1]) (by simp [buildX, h, sext_trunc, toNat_beq])

theorem RoundTrip.gsplit (sd : Nat) (rk : Bool) (k : Nat) : RoundTrip.Statement (.gsplit sd rk k) := RoundTrip.ofSlot (show (3 : Nat) < 4 by decide) fun hok => by
  have h := hok
  simp only [slotWf, Bool.and_eq_true, decide_eq_true_eq] at h
  cases rk
  · simp at h
    exact slotTripX (op := 0x29) rfl rfl rfl rfl (by decide) (by decide) hok (by simp [fits, h] <;> omega) (by simp [buildX, h, sext_trunc] <;> omega)
  · simp at h
    exact slotTripX (op := 0x29) rfl rfl rfl rfl (by decide) (by decide) hok (by simp [fits, h] <;> omega) (by simp [buildX, h, sext_trunc] <;> omega)

theorem RoundTrip.gret (sb : Nat) : RoundTrip.Statement (.gret sb) := RoundTrip.ofSlot (show (3 : Nat) < 4 by decide) fun hok => by
  have h := hok
  simp only [slotWf, Bool.and_eq_true, decide_eq_true_eq] at h
  exact slotTripX (op := 0x2A) rfl rfl rfl rfl (by decide) (by decide) hok (by simp [fits, h]) (by simp [buildX])

theorem RoundTrip.waitq (sa : Nat) : RoundTrip.Statement (.waitq sa) := RoundTrip.ofSlot (show (3 : Nat) < 4 by decide) fun hok => by
  have h := hok
  simp only [slotWf, Bool.and_eq_true, decide_eq_true_eq] at h
  exact slotTripX (op := 0x2B) rfl rfl rfl rfl (by decide) (by decide) hok (by simp [fits, h]) (by simp [buildX])

theorem RoundTrip.time (sd : Nat) : RoundTrip.Statement (.time sd) := RoundTrip.ofSlot (show (3 : Nat) < 4 by decide) fun hok => by
  have h := hok
  simp only [slotWf, Bool.and_eq_true, decide_eq_true_eq] at h
  exact slotTripX (op := 0x30) rfl rfl rfl rfl (by decide) (by decide) hok (by simp [fits, h]) (by simp [buildX])

theorem RoundTrip.waitt (sa : Nat) (rel : Bool) : RoundTrip.Statement (.waitt sa rel) := RoundTrip.ofSlot (show (3 : Nat) < 4 by decide) fun hok => by
  have h := hok
  simp only [slotWf, Bool.and_eq_true, decide_eq_true_eq] at h
  exact slotTripX (op := 0x31) rfl rfl rfl rfl (by decide) (by decide) hok (by simp [fits, h, toNat_le1]) (by simp [buildX, toNat_beq])

theorem RoundTrip.nop (fuse : Nat) (ws : List Nat) : RoundTrip.Statement (.nop fuse ws) := RoundTrip.ofRecord rfl fun hok => by
  have hb := hok
  simp only [recWf, recBounds, fuseOk, Bool.and_eq_true, decide_eq_true_eq] at hb
  obtain ⟨⟨hb, -⟩, -⟩ := hb
  exact recordTrip (opc := 0x000) (fuse := fuse) (flags := 0) (ws := ws) rfl (by decide) (by omega) (by decide) hb.1.2 hb.2 hok
    (by simp [parseRec, parseControl]) (by simp [recLenOk])

theorem RoundTrip.setg (fuse : Nat) (d : Nat) (v : Sow) : RoundTrip.Statement (.setg fuse d v) := RoundTrip.ofRecord rfl fun hok => by
  have hb := hok
  simp only [recWf, recBounds, hid16, Sys2Proof.w32, fuseOk, tgt, Hd.wf, Hd.wf0, Bool.and_eq_true, decide_eq_true_eq, beq_iff_eq, List.all_cons, List.all_nil] at hb
  obtain ⟨⟨hb, -⟩, -⟩ := hb
  exact recordTrip (opc := 0x001) (fuse := fuse) (flags := d) (ws := [encodeSow v]) rfl (by decide) (by omega) (by omega) (by simp)
    (by simp [w32, hb, encodeSow_lt, sowAt_encode, lo16_lt, hi16_lt] <;> omega) hok (by simp [parseRec, parseControl, hb, encodeSow_lt, sowAt_encode, lo16_lt, hi16_lt] <;> (try simp [bitsOf, bitOf]) <;> omega) (by simp [recLenOk])

theorem RoundTrip.setgImm64 (fuse : Nat) (d : Nat) (imm : Nat) : RoundTrip.Statement (.setgImm64 fuse d imm) := RoundTrip.ofRecord rfl fun hok => by
  have hb := hok
  simp only [recWf, recBounds, hid16, Sys2Proof.w32, fuseOk, tgt, Hd.wf, Hd.wf0, Bool.and_eq_true, decide_eq_true_eq, beq_iff_eq, List.all_cons, List.all_nil] at hb
  obtain ⟨⟨hb, -⟩, -⟩ := hb
  exact recordTrip (opc := 0x001) (fuse := fuse) (flags := d) (ws := [imm % 4294967296, imm / 4294967296]) rfl (by decide) (by omega) (by omega) (by simp)
    (by simp [w32, hb, lo16_lt, hi16_lt] <;> omega) hok (by simp [parseRec, parseControl, hb, lo16_lt, hi16_lt] <;> (try simp [bitsOf, bitOf]) <;> omega) (by simp [recLenOk])

theorem RoundTrip.gop (fuse : Nat) (d : Nat) (op : Nat) (a : Sow) (b : Sow) : RoundTrip.Statement (.gop fuse d op a b) := RoundTrip.ofRecord rfl fun hok => by
  have hb := hok
  simp only [recWf, recBounds, hid16, Sys2Proof.w32, fuseOk, tgt, Hd.wf, Hd.wf0, Bool.and_eq_true, decide_eq_true_eq, beq_iff_eq, List.all_cons, List.all_nil] at hb
  obtain ⟨⟨hb, -⟩, -⟩ := hb
  have h32 : op ≠ 32 := by omega
  exact recordTrip (opc := 0x002) (fuse := fuse) (flags := d) (ws := [op, encodeSow a, encodeSow b]) rfl (by decide) (by omega) (by omega) (by simp)
    (by simp [w32, hb, encodeSow_lt, sowAt_encode, lo16_lt, hi16_lt, h32, Nat.mod_eq_of_lt] <;> omega) hok (by simp [parseRec, parseControl, hb, encodeSow_lt, sowAt_encode, lo16_lt, hi16_lt, h32, Nat.mod_eq_of_lt] <;> (try simp [bitsOf, bitOf]) <;> omega) (by simp [recLenOk])

theorem RoundTrip.gopLdt (fuse : Nat) (d : Nat) (a : Nat) (b : Sow) : RoundTrip.Statement (.gopLdt fuse d a b) := RoundTrip.ofRecord rfl fun hok => by
  have hb := hok
  simp only [recWf, recBounds, hid16, Sys2Proof.w32, fuseOk, tgt, Hd.wf, Hd.wf0, Bool.and_eq_true, decide_eq_true_eq, beq_iff_eq, List.all_cons, List.all_nil] at hb
  obtain ⟨⟨hb, -⟩, -⟩ := hb
  exact recordTrip (opc := 0x002) (fuse := fuse) (flags := d) (ws := [32, a, encodeSow b]) rfl (by decide) (by omega) (by omega) (by simp)
    (by simp [w32, hb, encodeSow_lt, sowAt_encode, lo16_lt, hi16_lt] <;> omega) hok (by simp [parseRec, parseControl, hb, encodeSow_lt, sowAt_encode, lo16_lt, hi16_lt] <;> (try simp [bitsOf, bitOf]) <;> omega) (by simp [recLenOk])

theorem RoundTrip.graphLoop (fuse : Nat) (d : Nat) (n : Sow) (t : Int) : RoundTrip.Statement (.graphLoop fuse d n t) := RoundTrip.ofRecord rfl fun hok => by
  have hb := hok
  simp only [recWf, recBounds, hid16, Sys2Proof.w32, fuseOk, tgt, Hd.wf, Hd.wf0, Bool.and_eq_true, decide_eq_true_eq, beq_iff_eq, List.all_cons, List.all_nil] at hb
  obtain ⟨⟨hb, -⟩, -⟩ := hb
  exact recordTrip (opc := 0x003) (fuse := fuse) (flags := d) (ws := [encodeSow n, trunc 32 t]) rfl (by decide) (by omega) (by omega) (by simp)
    (by simp [w32, hb, encodeSow_lt, sowAt_encode, lo16_lt, hi16_lt, trunc_lt32, sext_trunc] <;> omega) hok (by simp [parseRec, parseControl, hb, encodeSow_lt, sowAt_encode, lo16_lt, hi16_lt, trunc_lt32, sext_trunc] <;> (try simp [bitsOf, bitOf]) <;> omega) (by simp [recLenOk])

theorem RoundTrip.endloop (fuse : Nat) : RoundTrip.Statement (.endloop fuse) := RoundTrip.ofRecord rfl fun hok => by
  have hb := hok
  simp only [recWf, recBounds, hid16, Sys2Proof.w32, fuseOk, tgt, Hd.wf, Hd.wf0, Bool.and_eq_true, decide_eq_true_eq, beq_iff_eq, List.all_cons, List.all_nil] at hb
  obtain ⟨⟨hb, -⟩, -⟩ := hb
  exact recordTrip (opc := 0x004) (fuse := fuse) (flags := 0) (ws := []) rfl (by decide) (by omega) (by decide) (by simp)
    (by simp [w32, hb] <;> omega) hok (by simp [parseRec, parseControl, hb] <;> (try simp [bitsOf, bitOf]) <;> omega) (by simp [recLenOk])

theorem RoundTrip.graphBr (fuse : Nat) (t : Int) : RoundTrip.Statement (.graphBr fuse t) := RoundTrip.ofRecord rfl fun hok => by
  have hb := hok
  simp only [recWf, recBounds, hid16, Sys2Proof.w32, fuseOk, tgt, Hd.wf, Hd.wf0, Bool.and_eq_true, decide_eq_true_eq, beq_iff_eq, List.all_cons, List.all_nil] at hb
  obtain ⟨⟨hb, -⟩, -⟩ := hb
  exact recordTrip (opc := 0x005) (fuse := fuse) (flags := 0) (ws := [trunc 32 t]) rfl (by decide) (by omega) (by decide) (by simp)
    (by simp [w32, hb, lo16_lt, hi16_lt, trunc_lt32, sext_trunc] <;> omega) hok (by simp [parseRec, parseControl, hb, lo16_lt, hi16_lt, trunc_lt32, sext_trunc] <;> (try simp [bitsOf, bitOf]) <;> omega) (by simp [recLenOk])

theorem RoundTrip.brc (fuse : Nat) (cond : Nat) (a : Sow) (b : Sow) (t : Int) : RoundTrip.Statement (.brc fuse cond a b t) := RoundTrip.ofRecord rfl fun hok => by
  have hb := hok
  simp only [recWf, recBounds, hid16, Sys2Proof.w32, fuseOk, tgt, Hd.wf, Hd.wf0, Bool.and_eq_true, decide_eq_true_eq, beq_iff_eq, List.all_cons, List.all_nil] at hb
  obtain ⟨⟨hb, -⟩, -⟩ := hb
  exact recordTrip (opc := 0x006) (fuse := fuse) (flags := 0) (ws := [cond, encodeSow a, encodeSow b, trunc 32 t]) rfl (by decide) (by omega) (by decide) (by simp)
    (by simp [w32, hb, encodeSow_lt, sowAt_encode, lo16_lt, hi16_lt, trunc_lt32, sext_trunc] <;> omega) hok (by simp [parseRec, parseControl, hb, encodeSow_lt, sowAt_encode, lo16_lt, hi16_lt, trunc_lt32, sext_trunc] <;> (try simp [bitsOf, bitOf]) <;> omega) (by simp [recLenOk])

theorem RoundTrip.call (fuse : Nat) (t : Int) : RoundTrip.Statement (.call fuse t) := RoundTrip.ofRecord rfl fun hok => by
  have hb := hok
  simp only [recWf, recBounds, hid16, Sys2Proof.w32, fuseOk, tgt, Hd.wf, Hd.wf0, Bool.and_eq_true, decide_eq_true_eq, beq_iff_eq, List.all_cons, List.all_nil] at hb
  obtain ⟨⟨hb, -⟩, -⟩ := hb
  exact recordTrip (opc := 0x007) (fuse := fuse) (flags := 0) (ws := [trunc 32 t]) rfl (by decide) (by omega) (by decide) (by simp)
    (by simp [w32, hb, lo16_lt, hi16_lt, trunc_lt32, sext_trunc] <;> omega) hok (by simp [parseRec, parseControl, hb, lo16_lt, hi16_lt, trunc_lt32, sext_trunc] <;> (try simp [bitsOf, bitOf]) <;> omega) (by simp [recLenOk])

theorem RoundTrip.ret (fuse : Nat) : RoundTrip.Statement (.ret fuse) := RoundTrip.ofRecord rfl fun hok => by
  have hb := hok
  simp only [recWf, recBounds, hid16, Sys2Proof.w32, fuseOk, tgt, Hd.wf, Hd.wf0, Bool.and_eq_true, decide_eq_true_eq, beq_iff_eq, List.all_cons, List.all_nil] at hb
  obtain ⟨⟨hb, -⟩, -⟩ := hb
  exact recordTrip (opc := 0x008) (fuse := fuse) (flags := 0) (ws := []) rfl (by decide) (by omega) (by decide) (by simp)
    (by simp [w32, hb] <;> omega) hok (by simp [parseRec, parseControl, hb] <;> (try simp [bitsOf, bitOf]) <;> omega) (by simp [recLenOk])

theorem RoundTrip.halt (fuse : Nat) : RoundTrip.Statement (.halt fuse) := RoundTrip.ofRecord rfl fun hok => by
  have hb := hok
  simp only [recWf, recBounds, hid16, Sys2Proof.w32, fuseOk, tgt, Hd.wf, Hd.wf0, Bool.and_eq_true, decide_eq_true_eq, beq_iff_eq, List.all_cons, List.all_nil] at hb
  obtain ⟨⟨hb, -⟩, -⟩ := hb
  exact recordTrip (opc := 0x009) (fuse := fuse) (flags := 0) (ws := []) rfl (by decide) (by omega) (by decide) (by simp)
    (by simp [w32, hb] <;> omega) hok (by simp [parseRec, parseControl, hb] <;> (try simp [bitsOf, bitOf]) <;> omega) (by simp [recLenOk])

theorem RoundTrip.tdef (fuse h fmt pin lay attr : Nat) (dims : List Sow) (bt : Nat) : RoundTrip.Statement (.tdef fuse h fmt pin lay attr dims bt) := RoundTrip.ofRecord rfl fun hok => by
  have hb := hok
  simp only [recWf, recBounds, recLimits, hid16, fuseOk, List.all_cons, List.all_nil, Bool.and_eq_true, decide_eq_true_eq,
    Bool.or_eq_true, bne_iff_ne, beq_iff_eq] at hb
  obtain ⟨⟨⟨⟨⟨⟨⟨⟨⟨⟨⟨h1, h2⟩, h3⟩, h4⟩, h5⟩, h6⟩, h7⟩, h8⟩, h9⟩, h10⟩, ⟨⟨⟨h11, -⟩, -⟩, ⟨h12, h13⟩, h14, -⟩⟩, -⟩ := hb
  have hs := sowsAt_encode dims 3 h8
  have hl : (dims.map encodeSow).length = dims.length := List.length_map ..
  obtain ⟨n, hn⟩ : ∃ n, n = dims.length - 1 := ⟨_, rfl⟩
  have hn1 : dims.length = n + 1 := by omega
  have he : encodeRecord (.tdef fuse h fmt pin lay attr dims bt) = mkRec 0x010 fuse 0
      ((h + fmt * 2 ^ 16 + pin * 2 ^ 20 + lay * 2 ^ 24 + n * 2 ^ 28) :: attr :: dims.map encodeSow ++ (if lay = 2 then [bt] else [])) := by
    rw [hn, encodeRecord]
  have hx : ∃ x, x = h + fmt * 2 ^ 16 + pin * 2 ^ 20 + lay * 2 ^ 24 + n * 2 ^ 28 ∧ bitsOf x 28 3 = n ∧ bitsOf x 24 4 = lay ∧ bitOf x 31 = false
      ∧ lo16 x = h ∧ bitsOf x 16 4 = fmt ∧ bitsOf x 20 4 = pin ∧ x < 4294967296 := by
    refine ⟨_, rfl, ?_, ?_, ?_, ?_, ?_, ?_, ?_⟩ <;> simp only [bitsOf, bitOf, lo16, Nat.reducePow, beq_eq_false_iff_ne] <;> omega
  obtain ⟨x, hx, e1, e2, e3, e4, e5, e6, e7⟩ := hx
  rw [← hx] at he
  clear hx
  have e8 := sows_w32 dims h8
  generalize hds : dims.map encodeSow = ds at *
  by_cases hlay : lay = 2
  · subst hlay
    rw [if_pos rfl] at he
    refine recordTrip (opc := 0x010) (fuse := fuse) (flags := 0) he (by decide) h1 (by decide) (by simp; omega) ?_ hok ?_ ?_
    · simp only [List.cons_append, List.all_cons, List.all_append, e8, w32, e7]
      simp; omega
    · have ht : (ds ++ [bt]).take (n + 1) = ds := by
        rw [← hn1, ← hl, List.take_left]
      have hd : ((x :: attr :: (ds ++ [bt])).drop (3 + (n + 1) - 1)).headD 0 = bt := by
        have : 3 + (n + 1) - 1 = ds.length + 2 := by omega
        rw [this]
        simp
      simp only [List.cons_append, parseRec, parseTensor, Nat.reduceLT, if_false, if_true, Nat.reduceSub, List.drop_succ_cons, List.drop_zero,
        List.headD_cons, e1, e2, e3, e4, e5, e6, ht, hd]
      simp only [Option.map_some, Nat.mod_eq_of_lt h9, Nat.mod_eq_of_lt h6, hs.1, hs.2, h9, h6, decide_true, List.all_cons, List.all_append,
        List.all_nil, Bool.and_true, Bool.not_false, beq_self_eq_true]
    · simp only [List.cons_append, recLenOk, List.drop_succ_cons, List.drop_zero, Nat.sub_self, List.headD_cons, e1, e2,
        beq_self_eq_true, if_true, List.length_cons, List.length_append, List.length_nil, hl, hn1, Bool.and_eq_true, decide_eq_true_eq,
        beq_iff_eq]
      omega
  · rw [if_neg hlay, List.append_nil] at he
    have hbt : bt = 0 := by omega
    refine recordTrip (opc := 0x010) (fuse := fuse) (flags := 0) he (by decide) h1 (by decide) (by simp; omega) ?_ hok ?_ ?_
    · simp only [List.all_cons, e8, w32, e7]
      simp; omega
    · have ht : ds.take (n + 1) = ds := by rw [← hn1, ← hl, List.take_length]
      have hl8 : lay % 8 = lay := by omega
      have hz : (0 : Nat) < 2 ^ 25 := by positivity
      simp only [parseRec, parseTensor, Nat.reduceLT, if_false, if_true, Nat.reduceSub, List.drop_succ_cons, List.drop_zero,
        List.headD_cons, e1, e2, e3, e4, e5, e6, ht, hlay, Option.map_some, hl8, Nat.zero_mod, hz, Nat.mod_eq_of_lt h6, hs.1, hs.2, h5, h6,
        decide_true, List.all_cons, List.all_append, List.all_nil, Bool.and_true, Bool.not_false, beq_self_eq_true, hbt]
    · have hlb : (lay == 2) = false := by simpa using hlay
      simp only [recLenOk, List.drop_succ_cons, List.drop_zero, Nat.sub_self, List.headD_cons, e1, e2, hlb, Bool.false_eq_true,
        if_false, List.length_cons, hl, hn1, Bool.and_eq_true, decide_eq_true_eq, beq_iff_eq]
      omega

theorem RoundTrip.tfree (fuse : Nat) (a : Nat) (b : Nat) : RoundTrip.Statement (.tfree fuse a b) := RoundTrip.ofRecord rfl fun hok => by
  have hb := hok
  simp only [recWf, recBounds, hid16, Sys2Proof.w32, fuseOk, tgt, Hd.wf, Hd.wf0, Bool.and_eq_true, decide_eq_true_eq, beq_iff_eq, List.all_cons, List.all_nil] at hb
  obtain ⟨⟨hb, -⟩, -⟩ := hb
  exact recordTrip (opc := 0x011) (fuse := fuse) (flags := 0) (ws := [hw a b]) rfl (by decide) (by omega) (by decide) (by simp)
    (by simp [w32, hb, hw_lt, lo16_hw, hi16_hw] <;> omega) hok (by simp [parseRec, parseTensor, hb, hw_lt, lo16_hw, hi16_hw] <;> (try simp [bitsOf, bitOf]) <;> omega) (by simp [recLenOk])

theorem RoundTrip.tview (fuse d s : Nat) (box : List (Sow × Sow)) : RoundTrip.Statement (.tview fuse d s box) := RoundTrip.ofRecord rfl fun hok => by
  have hb := hok
  simp only [recWf, recBounds, hid16, fuseOk, Bool.and_eq_true, decide_eq_true_eq] at hb
  obtain ⟨⟨⟨⟨⟨⟨⟨h1, h2⟩, h3⟩, h4⟩, h5⟩, h6⟩, -⟩, -⟩ := hb
  have hp := pairWords_encode box 2 (by simpa using h6)
  exact recordTrip (opc := 0x012) (fuse := fuse) (flags := 0) (ws := hw d s :: encodeRecord.pairWords box) rfl (by decide) h1
    (by decide) (by simp [hp]; omega) (by simp only [List.all_cons, hp.2.2.1, w32]; simp [hw_lt, h2, h3]) hok
    (by simp [parseRec, parseTensor, hp, lo16_hw, hi16_hw, h2] <;> simpa using hp.1) (by simp [recLenOk, hp] <;> omega)

theorem RoundTrip.treshape (fuse d s : Nat) (dims : List Sow) : RoundTrip.Statement (.treshape fuse d s dims) := RoundTrip.ofRecord rfl fun hok => by
  have hb := hok
  simp only [recWf, recBounds, recLimits, hid16, fuseOk, List.all_cons, List.all_nil, Bool.and_eq_true, decide_eq_true_eq] at hb
  obtain ⟨⟨⟨⟨⟨⟨h1, h2⟩, h3⟩, h4⟩, h5⟩, ⟨h6, h7⟩, -⟩, -⟩ := hb
  have hs := sowsAt_encode dims 3 h5
  have e8 := sows_w32 dims h5
  exact recordTrip (opc := 0x013) (fuse := fuse) (flags := 0) (ws := hw d s :: (dims.length - 1) :: dims.map encodeSow) rfl (by decide) h1
    (by decide) (by simp; omega) (by simp only [List.all_cons, e8, w32]; simp [hw_lt, h2, h3]; omega) hok
    (by simp [parseRec, parseTensor, hs, lo16_hw, hi16_hw, h2]
        omega)
    (by simp only [recLenOk, bitsOf]; simp; omega)

theorem RoundTrip.tshard (fuse : Nat) (h : Nat) (attr : Nat) : RoundTrip.Statement (.tshard fuse h attr) := RoundTrip.ofRecord rfl fun hok => by
  have hb := hok
  simp only [recWf, recBounds, hid16, Sys2Proof.w32, fuseOk, tgt, Hd.wf, Hd.wf0, Bool.and_eq_true, decide_eq_true_eq, beq_iff_eq, List.all_cons, List.all_nil] at hb
  obtain ⟨⟨hb, -⟩, -⟩ := hb
  exact recordTrip (opc := 0x014) (fuse := fuse) (flags := 0) (ws := [h, attr]) rfl (by decide) (by omega) (by decide) (by simp)
    (by simp [w32, hb, lo16_lt, hi16_lt] <;> omega) hok (by simp [parseRec, parseTensor, hb, lo16_lt, hi16_lt] <;> (try simp [bitsOf, bitOf]) <;> omega) (by simp [recLenOk])

theorem RoundTrip.tplace (fuse : Nat) (h : Nat) (level : Nat) : RoundTrip.Statement (.tplace fuse h level) := RoundTrip.ofRecord rfl fun hok => by
  have hb := hok
  simp only [recWf, recBounds, hid16, Sys2Proof.w32, fuseOk, tgt, Hd.wf, Hd.wf0, Bool.and_eq_true, decide_eq_true_eq, beq_iff_eq, List.all_cons, List.all_nil] at hb
  obtain ⟨⟨hb, -⟩, -⟩ := hb
  exact recordTrip (opc := 0x015) (fuse := fuse) (flags := 0) (ws := [h, level]) rfl (by decide) (by omega) (by decide) (by simp)
    (by simp [w32, hb, lo16_lt, hi16_lt] <;> omega) hok (by simp [parseRec, parseTensor, hb, lo16_lt, hi16_lt] <;> (try simp [bitsOf, bitOf]) <;> omega) (by simp [recLenOk])

theorem RoundTrip.tload (fuse : Nat) (h : Nat) (addr : Sow) : RoundTrip.Statement (.tload fuse h addr) := RoundTrip.ofRecord rfl fun hok => by
  have hb := hok
  simp only [recWf, recBounds, hid16, Sys2Proof.w32, fuseOk, tgt, Hd.wf, Hd.wf0, Bool.and_eq_true, decide_eq_true_eq, beq_iff_eq, List.all_cons, List.all_nil] at hb
  obtain ⟨⟨hb, -⟩, -⟩ := hb
  exact recordTrip (opc := 0x016) (fuse := fuse) (flags := 0) (ws := [h, encodeSow addr]) rfl (by decide) (by omega) (by decide) (by simp)
    (by simp [w32, hb, encodeSow_lt, sowAt_encode, lo16_lt, hi16_lt] <;> omega) hok (by simp [parseRec, parseTensor, hb, encodeSow_lt, sowAt_encode, lo16_lt, hi16_lt] <;> (try simp [bitsOf, bitOf]) <;> omega) (by simp [recLenOk])

theorem RoundTrip.tstore (fuse : Nat) (last : Bool) (h : Nat) (addr : Sow) : RoundTrip.Statement (.tstore fuse last h addr) := RoundTrip.ofRecord rfl fun hok => by
  cases last
  · have hb := hok
    simp only [recWf, recBounds, hid16, Sys2Proof.w32, fuseOk, tgt, Hd.wf, Hd.wf0, Bool.and_eq_true, decide_eq_true_eq, beq_iff_eq, List.all_cons, List.all_nil] at hb
    obtain ⟨⟨hb, -⟩, -⟩ := hb
    exact recordTrip (opc := 0x017) (fuse := fuse) (flags := (false.toNat * 128)) (ws := [h, encodeSow addr]) rfl (by decide) (by omega) (by decide) (by simp)
      (by simp [w32, hb, encodeSow_lt, sowAt_encode, lo16_lt, hi16_lt] <;> omega) hok (by simp [parseRec, parseTensor, hb, encodeSow_lt, sowAt_encode, lo16_lt, hi16_lt] <;> (try simp [bitsOf, bitOf]) <;> omega) (by simp [recLenOk])
  · have hb := hok
    simp only [recWf, recBounds, hid16, Sys2Proof.w32, fuseOk, tgt, Hd.wf, Hd.wf0, Bool.and_eq_true, decide_eq_true_eq, beq_iff_eq, List.all_cons, List.all_nil] at hb
    obtain ⟨⟨hb, -⟩, -⟩ := hb
    exact recordTrip (opc := 0x017) (fuse := fuse) (flags := (true.toNat * 128)) (ws := [h, encodeSow addr]) rfl (by decide) (by omega) (by decide) (by simp)
      (by simp [w32, hb, encodeSow_lt, sowAt_encode, lo16_lt, hi16_lt] <;> omega) hok (by simp [parseRec, parseTensor, hb, encodeSow_lt, sowAt_encode, lo16_lt, hi16_lt] <;> (try simp [bitsOf, bitOf]) <;> omega) (by simp [recLenOk])

theorem RoundTrip.tcopy (h : Hd) (rnd : Nat) (d : Nat) (s : Nat) : RoundTrip.Statement (.tcopy h rnd d s) := RoundTrip.ofRecord rfl fun hok => by
  have hb := hok
  simp only [recWf, recBounds, hid16, Sys2Proof.w32, fuseOk, tgt, Hd.wf, Hd.wf0, Bool.and_eq_true, decide_eq_true_eq, beq_iff_eq, List.all_cons, List.all_nil] at hb
  obtain ⟨⟨hb, -⟩, -⟩ := hb
  have hh := hdOf0_flags h (rnd) (by omega) (by omega)
  exact recordTrip (opc := 0x020) (fuse := h.fuse) (flags := (h.flags rnd)) (ws := [hw d s]) rfl (by decide) (by omega) hh.2.1 (by simp)
    (by simp [w32, hb, hh, hw_lt, lo16_hw, hi16_hw] <;> omega) hok (by simp [parseRec, parseMove, hb, hh, hw_lt, lo16_hw, hi16_hw] <;> (try simp [bitsOf, bitOf]) <;> omega) (by simp [recLenOk])

theorem RoundTrip.tgatherb (h : Hd) (rlog : Nat) (d : Nat) (pool : Nat) (tbl : Nat) (n : Sow) : RoundTrip.Statement (.tgatherb h rlog d pool tbl n) := RoundTrip.ofRecord rfl fun hok => by
  have hb := hok
  simp only [recWf, recBounds, hid16, Sys2Proof.w32, fuseOk, tgt, Hd.wf, Hd.wf0, Bool.and_eq_true, decide_eq_true_eq, beq_iff_eq, List.all_cons, List.all_nil] at hb
  obtain ⟨⟨hb, -⟩, -⟩ := hb
  have hh := hdOf0_flags h (rlog) (by omega) (by omega)
  exact recordTrip (opc := 0x021) (fuse := h.fuse) (flags := (h.flags rlog)) (ws := [hw d pool, tbl, encodeSow n]) rfl (by decide) (by omega) hh.2.1 (by simp)
    (by simp [w32, hb, hh, encodeSow_lt, sowAt_encode, hw_lt, lo16_hw, hi16_hw, lo16_lt, hi16_lt] <;> omega) hok (by simp [parseRec, parseMove, hb, hh, encodeSow_lt, sowAt_encode, hw_lt, lo16_hw, hi16_hw, lo16_lt, hi16_lt] <;> (try simp [bitsOf, bitOf]) <;> omega) (by simp [recLenOk])

theorem RoundTrip.tconcat (h : Hd) (axis : Nat) (d : Nat) (a : Nat) (b : Nat) : RoundTrip.Statement (.tconcat h axis d a b) := RoundTrip.ofRecord rfl fun hok => by
  have hb := hok
  simp only [recWf, recBounds, hid16, Sys2Proof.w32, fuseOk, tgt, Hd.wf, Hd.wf0, Bool.and_eq_true, decide_eq_true_eq, beq_iff_eq, List.all_cons, List.all_nil] at hb
  obtain ⟨⟨hb, -⟩, -⟩ := hb
  have hh := hdOf0_flags h (axis) (by omega) (by omega)
  exact recordTrip (opc := 0x022) (fuse := h.fuse) (flags := (h.flags axis)) (ws := [hw d a, b]) rfl (by decide) (by omega) hh.2.1 (by simp)
    (by simp [w32, hb, hh, hw_lt, lo16_hw, hi16_hw, lo16_lt, hi16_lt] <;> omega) hok (by simp [parseRec, parseMove, hb, hh, hw_lt, lo16_hw, hi16_hw, lo16_lt, hi16_lt] <;> (try simp [bitsOf, bitOf]) <;> omega) (by simp [recLenOk])

theorem RoundTrip.tappend (h : Hd) (d : Nat) (x : Nat) : RoundTrip.Statement (.tappend h d x) := RoundTrip.ofRecord rfl fun hok => by
  have hb := hok
  simp only [recWf, recBounds, hid16, Sys2Proof.w32, fuseOk, tgt, Hd.wf, Hd.wf0, Bool.and_eq_true, decide_eq_true_eq, beq_iff_eq, List.all_cons, List.all_nil] at hb
  obtain ⟨⟨hb, -⟩, -⟩ := hb
  have hh := hdOf0_flags h (0) (by omega) (by omega)
  exact recordTrip (opc := 0x023) (fuse := h.fuse) (flags := (h.flags 0)) (ws := [hw d x]) rfl (by decide) (by omega) hh.2.1 (by simp)
    (by simp [w32, hb, hh, hw_lt, lo16_hw, hi16_hw] <;> omega) hok (by simp [parseRec, parseMove, hb, hh, hw_lt, lo16_hw, hi16_hw] <;> (try simp [bitsOf, bitOf]) <;> omega) (by simp [recLenOk])

theorem RoundTrip.ttrans (h : Hd) (d : Nat) (s : Nat) (perm : Nat) : RoundTrip.Statement (.ttrans h d s perm) := RoundTrip.ofRecord rfl fun hok => by
  have hb := hok
  simp only [recWf, recBounds, hid16, Sys2Proof.w32, fuseOk, tgt, Hd.wf, Hd.wf0, Bool.and_eq_true, decide_eq_true_eq, beq_iff_eq, List.all_cons, List.all_nil] at hb
  obtain ⟨⟨hb, -⟩, -⟩ := hb
  have hh := hdOf0_flags h (0) (by omega) (by omega)
  exact recordTrip (opc := 0x024) (fuse := h.fuse) (flags := (h.flags 0)) (ws := [hw d s, perm]) rfl (by decide) (by omega) hh.2.1 (by simp)
    (by simp [w32, hb, hh, hw_lt, lo16_hw, hi16_hw, lo16_lt, hi16_lt] <;> omega) hok (by simp [parseRec, parseMove, hb, hh, hw_lt, lo16_hw, hi16_hw, lo16_lt, hi16_lt] <;> (try simp [bitsOf, bitOf]) <;> omega) (by simp [recLenOk])

theorem RoundTrip.matmul (h : Hd) (acc : Bool) (d : Nat) (a : Nat) (w : Nat) (bias : Nat) : RoundTrip.Statement (.matmul h acc d a w bias) := RoundTrip.ofRecord rfl fun hok => by
  have hb := hok
  simp only [recWf, recBounds, hid16, Sys2Proof.w32, fuseOk, tgt, Hd.wf, Hd.wf0, Bool.and_eq_true, decide_eq_true_eq, beq_iff_eq, List.all_cons, List.all_nil] at hb
  obtain ⟨⟨hb, -⟩, -⟩ := hb
  have hh := hdOf_flags h (acc.toNat) (by omega) (by have := toNat_le1 acc; omega)
  exact recordTrip (opc := 0x040) (fuse := h.fuse) (flags := (h.flags acc.toNat)) (ws := [hw d a, hw w bias]) rfl (by decide) (by omega) hh.2.1 (by simp)
    (by simp [w32, hb, hh, bitOf_flags0, toNat_le1, hw_lt, lo16_hw, hi16_hw, lo16_lt, hi16_lt] <;> omega) hok (by simp [parseRec, parseCompute, hb, hh, bitOf_flags0, toNat_le1, hw_lt, lo16_hw, hi16_hw, lo16_lt, hi16_lt] <;> (try simp [bitsOf, bitOf]) <;> omega) (by simp [recLenOk])

theorem RoundTrip.matmulcb (h : Hd) (acc : Bool) (d : Nat) (a : Nat) (w : Nat) (cbt : Nat) (bias : Nat) (scale : Nat) : RoundTrip.Statement (.matmulcb h acc d a w cbt bias scale) := RoundTrip.ofRecord rfl fun hok => by
  have hb := hok
  simp only [recWf, recBounds, hid16, Sys2Proof.w32, fuseOk, tgt, Hd.wf, Hd.wf0, Bool.and_eq_true, decide_eq_true_eq, beq_iff_eq, List.all_cons, List.all_nil] at hb
  obtain ⟨⟨hb, -⟩, -⟩ := hb
  have hh := hdOf_flags h (acc.toNat) (by omega) (by have := toNat_le1 acc; omega)
  exact recordTrip (opc := 0x041) (fuse := h.fuse) (flags := (h.flags acc.toNat)) (ws := [hw d a, hw w cbt, bias, scale]) rfl (by decide) (by omega) hh.2.1 (by simp)
    (by simp [w32, hb, hh, bitOf_flags0, toNat_le1, hw_lt, lo16_hw, hi16_hw, lo16_lt, hi16_lt] <;> omega) hok (by simp [parseRec, parseCompute, hb, hh, bitOf_flags0, toNat_le1, hw_lt, lo16_hw, hi16_hw, lo16_lt, hi16_lt] <;> (try simp [bitsOf, bitOf]) <;> omega) (by simp [recLenOk])

theorem RoundTrip.convOp (h : Hd) (d : Nat) (x : Nat) (w : Nat) (bias : Nat) (sx : Nat) (sy : Nat) (px : Nat) (py : Nat) (dx : Nat) (dy : Nat) : RoundTrip.Statement (.convOp h d x w bias sx sy px py dx dy) := RoundTrip.ofRecord rfl fun hok => by
  have hb := hok
  simp only [recWf, recBounds, hid16, Sys2Proof.w32, fuseOk, tgt, Hd.wf, Hd.wf0, Bool.and_eq_true, decide_eq_true_eq, beq_iff_eq, List.all_cons, List.all_nil] at hb
  obtain ⟨⟨hb, -⟩, -⟩ := hb
  have hh := hdOf_flags h (0) (by omega) (by omega)
  exact recordTrip (opc := 0x042) (fuse := h.fuse) (flags := (h.flags 0)) (ws := [hw d x, hw w bias, sx + 16 * sy + 256 * px + 4096 * py + 65536 * dx + 1048576 * dy]) rfl (by decide) (by omega) hh.2.1 (by simp)
    (by simp [w32, hb, hh, hw_lt, lo16_hw, hi16_hw, lo16_lt, hi16_lt] <;> omega) hok (by simp [parseRec, parseCompute, hb, hh, hw_lt, lo16_hw, hi16_hw, lo16_lt, hi16_lt] <;> (try simp [bitsOf, bitOf]) <;> omega) (by simp [recLenOk])

theorem RoundTrip.eltw (h : Hd) (d : Nat) (a : Nat) (b : Nat) (c : Nat) (st0 : Nat) (st1 : Nat) (st2 : Nat) (st3 : Nat) (k : Nat) : RoundTrip.Statement (.eltw h d a b c st0 st1 st2 st3 k) := RoundTrip.ofRecord rfl fun hok => by
  have hb := hok
  simp only [recWf, recBounds, hid16, Sys2Proof.w32, fuseOk, tgt, Hd.wf, Hd.wf0, Bool.and_eq_true, decide_eq_true_eq, beq_iff_eq, List.all_cons, List.all_nil] at hb
  obtain ⟨⟨hb, -⟩, -⟩ := hb
  have hh := hdOf_flags h (0) (by omega) (by omega)
  exact recordTrip (opc := 0x043) (fuse := h.fuse) (flags := (h.flags 0)) (ws := [hw d a, hw b c, st0 + 256 * st1 + 65536 * st2 + 16777216 * st3, k]) rfl (by decide) (by omega) hh.2.1 (by simp)
    (by simp [w32, hb, hh, hw_lt, lo16_hw, hi16_hw, lo16_lt, hi16_lt] <;> omega) hok (by simp [parseRec, parseCompute, hb, hh, hw_lt, lo16_hw, hi16_hw, lo16_lt, hi16_lt] <;> (try simp [bitsOf, bitOf]) <;> omega) (by simp [recLenOk])

theorem RoundTrip.reduce (h : Hd) (op : Nat) (d : Nat) (a : Nat) (axis : Nat) : RoundTrip.Statement (.reduce h op d a axis) := RoundTrip.ofRecord rfl fun hok => by
  have hb := hok
  simp only [recWf, recBounds, hid16, Sys2Proof.w32, fuseOk, tgt, Hd.wf, Hd.wf0, Bool.and_eq_true, decide_eq_true_eq, beq_iff_eq, List.all_cons, List.all_nil] at hb
  obtain ⟨⟨hb, -⟩, -⟩ := hb
  have hh := hdOf_flags h (op) (by omega) (by omega)
  exact recordTrip (opc := 0x044) (fuse := h.fuse) (flags := (h.flags op)) (ws := [hw d a, axis]) rfl (by decide) (by omega) hh.2.1 (by simp)
    (by simp [w32, hb, hh, hw_lt, lo16_hw, hi16_hw, lo16_lt, hi16_lt] <;> omega) hok (by simp [parseRec, parseCompute, hb, hh, hw_lt, lo16_hw, hi16_hw, lo16_lt, hi16_lt] <;> (try simp [bitsOf, bitOf]) <;> omega) (by simp [recLenOk])

theorem RoundTrip.softmax (h : Hd) (d : Nat) (a : Nat) (scale : Nat) : RoundTrip.Statement (.softmax h d a scale) := RoundTrip.ofRecord rfl fun hok => by
  have hb := hok
  simp only [recWf, recBounds, hid16, Sys2Proof.w32, fuseOk, tgt, Hd.wf, Hd.wf0, Bool.and_eq_true, decide_eq_true_eq, beq_iff_eq, List.all_cons, List.all_nil] at hb
  obtain ⟨⟨hb, -⟩, -⟩ := hb
  have hh := hdOf_flags h (0) (by omega) (by omega)
  exact recordTrip (opc := 0x045) (fuse := h.fuse) (flags := (h.flags 0)) (ws := [hw d a, scale]) rfl (by decide) (by omega) hh.2.1 (by simp)
    (by simp [w32, hb, hh, hw_lt, lo16_hw, hi16_hw, lo16_lt, hi16_lt] <;> omega) hok (by simp [parseRec, parseCompute, hb, hh, hw_lt, lo16_hw, hi16_hw, lo16_lt, hi16_lt] <;> (try simp [bitsOf, bitOf]) <;> omega) (by simp [recLenOk])

theorem RoundTrip.norm (h : Hd) (layer : Bool) (d : Nat) (a : Nat) (g : Nat) (b : Nat) (eps : Nat) : RoundTrip.Statement (.norm h layer d a g b eps) := RoundTrip.ofRecord rfl fun hok => by
  have hb := hok
  simp only [recWf, recBounds, hid16, Sys2Proof.w32, fuseOk, tgt, Hd.wf, Hd.wf0, Bool.and_eq_true, decide_eq_true_eq, beq_iff_eq, List.all_cons, List.all_nil] at hb
  obtain ⟨⟨hb, -⟩, -⟩ := hb
  have hh := hdOf_flags h (layer.toNat) (by omega) (by have := toNat_le1 layer; omega)
  exact recordTrip (opc := 0x046) (fuse := h.fuse) (flags := (h.flags layer.toNat)) (ws := [hw d a, hw g b, eps]) rfl (by decide) (by omega) hh.2.1 (by simp)
    (by simp [w32, hb, hh, bitOf_flags0, toNat_le1, hw_lt, lo16_hw, hi16_hw, lo16_lt, hi16_lt] <;> omega) hok (by simp [parseRec, parseCompute, hb, hh, bitOf_flags0, toNat_le1, hw_lt, lo16_hw, hi16_hw, lo16_lt, hi16_lt] <;> (try simp [bitsOf, bitOf]) <;> omega) (by simp [recLenOk])

theorem RoundTrip.attn (h : Hd) (causal : Bool) (d : Nat) (q : Nat) (k : Nat) (v : Nat) (heads : Nat) (scale : Nat) : RoundTrip.Statement (.attn h causal d q k v heads scale) := RoundTrip.ofRecord rfl fun hok => by
  have hb := hok
  simp only [recWf, recBounds, hid16, Sys2Proof.w32, fuseOk, tgt, Hd.wf, Hd.wf0, Bool.and_eq_true, decide_eq_true_eq, beq_iff_eq, List.all_cons, List.all_nil] at hb
  obtain ⟨⟨hb, -⟩, -⟩ := hb
  have hh := hdOf_flags h (causal.toNat) (by omega) (by have := toNat_le1 causal; omega)
  exact recordTrip (opc := 0x047) (fuse := h.fuse) (flags := (h.flags causal.toNat)) (ws := [hw d q, hw k v, heads, scale]) rfl (by decide) (by omega) hh.2.1 (by simp)
    (by simp [w32, hb, hh, bitOf_flags0, toNat_le1, hw_lt, lo16_hw, hi16_hw, lo16_lt, hi16_lt] <;> omega) hok (by simp [parseRec, parseCompute, hb, hh, bitOf_flags0, toNat_le1, hw_lt, lo16_hw, hi16_hw, lo16_lt, hi16_lt] <;> (try simp [bitsOf, bitOf]) <;> omega) (by simp [recLenOk])

theorem RoundTrip.embed (h : Hd) (d : Nat) (t : Nat) (i : Nat) : RoundTrip.Statement (.embed h d t i) := RoundTrip.ofRecord rfl fun hok => by
  have hb := hok
  simp only [recWf, recBounds, hid16, Sys2Proof.w32, fuseOk, tgt, Hd.wf, Hd.wf0, Bool.and_eq_true, decide_eq_true_eq, beq_iff_eq, List.all_cons, List.all_nil] at hb
  obtain ⟨⟨hb, -⟩, -⟩ := hb
  have hh := hdOf_flags h (0) (by omega) (by omega)
  exact recordTrip (opc := 0x048) (fuse := h.fuse) (flags := (h.flags 0)) (ws := [hw d t, i]) rfl (by decide) (by omega) hh.2.1 (by simp)
    (by simp [w32, hb, hh, hw_lt, lo16_hw, hi16_hw, lo16_lt, hi16_lt] <;> omega) hok (by simp [parseRec, parseCompute, hb, hh, hw_lt, lo16_hw, hi16_hw, lo16_lt, hi16_lt] <;> (try simp [bitsOf, bitOf]) <;> omega) (by simp [recLenOk])

theorem RoundTrip.topk (h : Hd) (d : Nat) (a : Nat) (x : Nat) (k : Sow) : RoundTrip.Statement (.topk h d a x k) := RoundTrip.ofRecord rfl fun hok => by
  have hb := hok
  simp only [recWf, recBounds, hid16, Sys2Proof.w32, fuseOk, tgt, Hd.wf, Hd.wf0, Bool.and_eq_true, decide_eq_true_eq, beq_iff_eq, List.all_cons, List.all_nil] at hb
  obtain ⟨⟨hb, -⟩, -⟩ := hb
  have hh := hdOf_flags h (0) (by omega) (by omega)
  exact recordTrip (opc := 0x049) (fuse := h.fuse) (flags := (h.flags 0)) (ws := [hw d a, x, encodeSow k]) rfl (by decide) (by omega) hh.2.1 (by simp)
    (by simp [w32, hb, hh, encodeSow_lt, sowAt_encode, hw_lt, lo16_hw, hi16_hw, lo16_lt, hi16_lt] <;> omega) hok (by simp [parseRec, parseCompute, hb, hh, encodeSow_lt, sowAt_encode, hw_lt, lo16_hw, hi16_hw, lo16_lt, hi16_lt] <;> (try simp [bitsOf, bitOf]) <;> omega) (by simp [recLenOk])

theorem RoundTrip.argmax (h : Hd) (d : Nat) (a : Nat) : RoundTrip.Statement (.argmax h d a) := RoundTrip.ofRecord rfl fun hok => by
  have hb := hok
  simp only [recWf, recBounds, hid16, Sys2Proof.w32, fuseOk, tgt, Hd.wf, Hd.wf0, Bool.and_eq_true, decide_eq_true_eq, beq_iff_eq, List.all_cons, List.all_nil] at hb
  obtain ⟨⟨hb, -⟩, -⟩ := hb
  have hh := hdOf_flags h (0) (by omega) (by omega)
  exact recordTrip (opc := 0x04A) (fuse := h.fuse) (flags := (h.flags 0)) (ws := [hw d a]) rfl (by decide) (by omega) hh.2.1 (by simp)
    (by simp [w32, hb, hh, hw_lt, lo16_hw, hi16_hw] <;> omega) hok (by simp [parseRec, parseCompute, hb, hh, hw_lt, lo16_hw, hi16_hw] <;> (try simp [bitsOf, bitOf]) <;> omega) (by simp [recLenOk])

theorem RoundTrip.qr (h : Hd) (gm : Bool) (r : Nat) (a : Nat) : RoundTrip.Statement (.qr h gm r a) := RoundTrip.ofRecord rfl fun hok => by
  have hb := hok
  simp only [recWf, recBounds, hid16, Sys2Proof.w32, fuseOk, tgt, Hd.wf, Hd.wf0, Bool.and_eq_true, decide_eq_true_eq, beq_iff_eq, List.all_cons, List.all_nil] at hb
  obtain ⟨⟨hb, -⟩, -⟩ := hb
  have hh := hdOf_flags h (gm.toNat) (by omega) (by have := toNat_le1 gm; omega)
  exact recordTrip (opc := 0x050) (fuse := h.fuse) (flags := (h.flags gm.toNat)) (ws := [hw r a]) rfl (by decide) (by omega) hh.2.1 (by simp)
    (by simp [w32, hb, hh, bitOf_flags0, toNat_le1, hw_lt, lo16_hw, hi16_hw] <;> omega) hok (by simp [parseRec, parseCompute, hb, hh, bitOf_flags0, toNat_le1, hw_lt, lo16_hw, hi16_hw] <;> (try simp [bitsOf, bitOf]) <;> omega) (by simp [recLenOk])

theorem RoundTrip.lsq (h : Hd) (gm : Bool) (x : Nat) (a : Nat) (b : Nat) : RoundTrip.Statement (.lsq h gm x a b) := RoundTrip.ofRecord rfl fun hok => by
  have hb := hok
  simp only [recWf, recBounds, hid16, Sys2Proof.w32, fuseOk, tgt, Hd.wf, Hd.wf0, Bool.and_eq_true, decide_eq_true_eq, beq_iff_eq, List.all_cons, List.all_nil] at hb
  obtain ⟨⟨hb, -⟩, -⟩ := hb
  have hh := hdOf_flags h (gm.toNat) (by omega) (by have := toNat_le1 gm; omega)
  exact recordTrip (opc := 0x051) (fuse := h.fuse) (flags := (h.flags gm.toNat)) (ws := [hw x a, b]) rfl (by decide) (by omega) hh.2.1 (by simp)
    (by simp [w32, hb, hh, bitOf_flags0, toNat_le1, hw_lt, lo16_hw, hi16_hw, lo16_lt, hi16_lt] <;> omega) hok (by simp [parseRec, parseCompute, hb, hh, bitOf_flags0, toNat_le1, hw_lt, lo16_hw, hi16_hw, lo16_lt, hi16_lt] <;> (try simp [bitsOf, bitOf]) <;> omega) (by simp [recLenOk])

theorem RoundTrip.rotl (h : Hd) (gm : Bool) (d : Nat) (x : Nat) (w : Nat) : RoundTrip.Statement (.rotl h gm d x w) := RoundTrip.ofRecord rfl fun hok => by
  have hb := hok
  simp only [recWf, recBounds, hid16, Sys2Proof.w32, fuseOk, tgt, Hd.wf, Hd.wf0, Bool.and_eq_true, decide_eq_true_eq, beq_iff_eq, List.all_cons, List.all_nil] at hb
  obtain ⟨⟨hb, -⟩, -⟩ := hb
  have hh := hdOf_flags h (gm.toNat) (by omega) (by have := toNat_le1 gm; omega)
  exact recordTrip (opc := 0x052) (fuse := h.fuse) (flags := (h.flags gm.toNat)) (ws := [hw d x, w]) rfl (by decide) (by omega) hh.2.1 (by simp)
    (by simp [w32, hb, hh, bitOf_flags0, toNat_le1, hw_lt, lo16_hw, hi16_hw, lo16_lt, hi16_lt] <;> omega) hok (by simp [parseRec, parseCompute, hb, hh, bitOf_flags0, toNat_le1, hw_lt, lo16_hw, hi16_hw, lo16_lt, hi16_lt] <;> (try simp [bitsOf, bitOf]) <;> omega) (by simp [recLenOk])

theorem RoundTrip.allgather (h : Hd) (d : Nat) (s : Nat) (axes : Nat) (dim : Nat) : RoundTrip.Statement (.allgather h d s axes dim) := RoundTrip.ofRecord rfl fun hok => by
  have hb := hok
  simp only [recWf, recBounds, hid16, Sys2Proof.w32, fuseOk, tgt, Hd.wf, Hd.wf0, Bool.and_eq_true, decide_eq_true_eq, beq_iff_eq, List.all_cons, List.all_nil] at hb
  obtain ⟨⟨hb, -⟩, -⟩ := hb
  have hh := hdOf0_flags h (0) (by omega) (by omega)
  exact recordTrip (opc := 0x060) (fuse := h.fuse) (flags := (h.flags 0)) (ws := [hw d s, axes * 64 + dim * 8]) rfl (by decide) (by omega) hh.2.1 (by simp)
    (by simp [w32, hb, hh, hw_lt, lo16_hw, hi16_hw, lo16_lt, hi16_lt] <;> omega) hok (by simp [parseRec, parseColl, hb, hh, hw_lt, lo16_hw, hi16_hw, lo16_lt, hi16_lt] <;> (try simp [bitsOf, bitOf]) <;> omega) (by simp [recLenOk])

theorem RoundTrip.redscat (h : Hd) (d : Nat) (s : Nat) (axes : Nat) (dim : Nat) (rop : Nat) : RoundTrip.Statement (.redscat h d s axes dim rop) := RoundTrip.ofRecord rfl fun hok => by
  have hb := hok
  simp only [recWf, recBounds, hid16, Sys2Proof.w32, fuseOk, tgt, Hd.wf, Hd.wf0, Bool.and_eq_true, decide_eq_true_eq, beq_iff_eq, List.all_cons, List.all_nil] at hb
  obtain ⟨⟨hb, -⟩, -⟩ := hb
  have hh := hdOf0_flags h (0) (by omega) (by omega)
  exact recordTrip (opc := 0x061) (fuse := h.fuse) (flags := (h.flags 0)) (ws := [hw d s, rop * 256 + axes * 64 + dim * 8]) rfl (by decide) (by omega) hh.2.1 (by simp)
    (by simp [w32, hb, hh, hw_lt, lo16_hw, hi16_hw, lo16_lt, hi16_lt] <;> omega) hok (by simp [parseRec, parseColl, hb, hh, hw_lt, lo16_hw, hi16_hw, lo16_lt, hi16_lt] <;> (try simp [bitsOf, bitOf]) <;> omega) (by simp [recLenOk])

theorem RoundTrip.allred (h : Hd) (d : Nat) (s : Nat) (axes : Nat) (rop : Nat) : RoundTrip.Statement (.allred h d s axes rop) := RoundTrip.ofRecord rfl fun hok => by
  have hb := hok
  simp only [recWf, recBounds, hid16, Sys2Proof.w32, fuseOk, tgt, Hd.wf, Hd.wf0, Bool.and_eq_true, decide_eq_true_eq, beq_iff_eq, List.all_cons, List.all_nil] at hb
  obtain ⟨⟨hb, -⟩, -⟩ := hb
  have hh := hdOf0_flags h (0) (by omega) (by omega)
  exact recordTrip (opc := 0x062) (fuse := h.fuse) (flags := (h.flags 0)) (ws := [hw d s, rop * 256 + axes * 64]) rfl (by decide) (by omega) hh.2.1 (by simp)
    (by simp [w32, hb, hh, hw_lt, lo16_hw, hi16_hw, lo16_lt, hi16_lt] <;> omega) hok (by simp [parseRec, parseColl, hb, hh, hw_lt, lo16_hw, hi16_hw, lo16_lt, hi16_lt] <;> (try simp [bitsOf, bitOf]) <;> omega) (by simp [recLenOk])

theorem RoundTrip.bcast (h : Hd) (d : Nat) (s : Nat) (axes : Nat) (root : Sow) : RoundTrip.Statement (.bcast h d s axes root) := RoundTrip.ofRecord rfl fun hok => by
  have hb := hok
  simp only [recWf, recBounds, hid16, Sys2Proof.w32, fuseOk, tgt, Hd.wf, Hd.wf0, Bool.and_eq_true, decide_eq_true_eq, beq_iff_eq, List.all_cons, List.all_nil] at hb
  obtain ⟨⟨hb, -⟩, -⟩ := hb
  have hh := hdOf0_flags h (0) (by omega) (by omega)
  exact recordTrip (opc := 0x063) (fuse := h.fuse) (flags := (h.flags 0)) (ws := [hw d s, axes * 64, encodeSow root]) rfl (by decide) (by omega) hh.2.1 (by simp)
    (by simp [w32, hb, hh, encodeSow_lt, sowAt_encode, hw_lt, lo16_hw, hi16_hw, lo16_lt, hi16_lt] <;> omega) hok (by simp [parseRec, parseColl, hb, hh, encodeSow_lt, sowAt_encode, hw_lt, lo16_hw, hi16_hw, lo16_lt, hi16_lt] <;> (try simp [bitsOf, bitOf]) <;> omega) (by simp [recLenOk])

theorem RoundTrip.send (h : Hd) (s : Nat) (axes : Nat) (tag : Nat) (peer : Sow) : RoundTrip.Statement (.send h s axes tag peer) := RoundTrip.ofRecord rfl fun hok => by
  have hb := hok
  simp only [recWf, recBounds, hid16, Sys2Proof.w32, fuseOk, tgt, Hd.wf, Hd.wf0, Bool.and_eq_true, decide_eq_true_eq, beq_iff_eq, List.all_cons, List.all_nil] at hb
  obtain ⟨⟨hb, -⟩, -⟩ := hb
  have hh := hdOf0_flags h (0) (by omega) (by omega)
  exact recordTrip (opc := 0x064) (fuse := h.fuse) (flags := (h.flags 0)) (ws := [s, tag * 65536 + axes * 64, encodeSow peer]) rfl (by decide) (by omega) hh.2.1 (by simp)
    (by simp [w32, hb, hh, encodeSow_lt, sowAt_encode, lo16_lt, hi16_lt] <;> omega) hok (by simp [parseRec, parseColl, hb, hh, encodeSow_lt, sowAt_encode, lo16_lt, hi16_lt] <;> (try simp [bitsOf, bitOf]) <;> omega) (by simp [recLenOk])

theorem RoundTrip.recv (h : Hd) (d : Nat) (ring : Nat) (axes : Nat) (tag : Nat) (peer : Sow) : RoundTrip.Statement (.recv h d ring axes tag peer) := RoundTrip.ofRecord rfl fun hok => by
  have hb := hok
  simp only [recWf, recBounds, hid16, Sys2Proof.w32, fuseOk, tgt, Hd.wf, Hd.wf0, Bool.and_eq_true, decide_eq_true_eq, beq_iff_eq, List.all_cons, List.all_nil] at hb
  obtain ⟨⟨hb, -⟩, -⟩ := hb
  have hh := hdOf0_flags h (0) (by omega) (by omega)
  exact recordTrip (opc := 0x065) (fuse := h.fuse) (flags := (h.flags 0)) (ws := [hw d ring, tag * 65536 + axes * 64, encodeSow peer]) rfl (by decide) (by omega) hh.2.1 (by simp)
    (by simp [w32, hb, hh, encodeSow_lt, sowAt_encode, hw_lt, lo16_hw, hi16_hw, lo16_lt, hi16_lt] <;> omega) hok (by simp [parseRec, parseColl, hb, hh, encodeSow_lt, sowAt_encode, hw_lt, lo16_hw, hi16_hw, lo16_lt, hi16_lt] <;> (try simp [bitsOf, bitOf]) <;> omega) (by simp [recLenOk])

theorem RoundTrip.spawnb (fuse : Nat) (each : Bool) (card : Nat) (slot : Sow) : RoundTrip.Statement (.spawnb fuse each card slot) := RoundTrip.ofRecord rfl fun hok => by
  cases each
  · have hb := hok
    simp only [recWf, recBounds, hid16, Sys2Proof.w32, fuseOk, tgt, Hd.wf, Hd.wf0, Bool.and_eq_true, decide_eq_true_eq, beq_iff_eq, List.all_cons, List.all_nil] at hb
    obtain ⟨⟨hb, -⟩, -⟩ := hb
    exact recordTrip (opc := 0x070) (fuse := fuse) (flags := false.toNat) (ws := [card, encodeSow slot]) rfl (by decide) (by omega) (by decide) (by simp)
      (by simp [w32, hb, encodeSow_lt, sowAt_encode, lo16_lt, hi16_lt] <;> omega) hok (by simp [parseRec, parseSystem, hb, encodeSow_lt, sowAt_encode, lo16_lt, hi16_lt] <;> (try simp [bitsOf, bitOf]) <;> omega) (by simp [recLenOk])
  · have hb := hok
    simp only [recWf, recBounds, hid16, Sys2Proof.w32, fuseOk, tgt, Hd.wf, Hd.wf0, Bool.and_eq_true, decide_eq_true_eq, beq_iff_eq, List.all_cons, List.all_nil] at hb
    obtain ⟨⟨hb, -⟩, -⟩ := hb
    exact recordTrip (opc := 0x070) (fuse := fuse) (flags := true.toNat) (ws := [card, encodeSow slot]) rfl (by decide) (by omega) (by decide) (by simp)
      (by simp [w32, hb, encodeSow_lt, sowAt_encode, lo16_lt, hi16_lt] <;> omega) hok (by simp [parseRec, parseSystem, hb, encodeSow_lt, sowAt_encode, lo16_lt, hi16_lt] <;> (try simp [bitsOf, bitOf]) <;> omega) (by simp [recLenOk])

theorem RoundTrip.quiet (fuse : Nat) (rcb : Sow) : RoundTrip.Statement (.quiet fuse rcb) := RoundTrip.ofRecord rfl fun hok => by
  have hb := hok
  simp only [recWf, recBounds, hid16, Sys2Proof.w32, fuseOk, tgt, Hd.wf, Hd.wf0, Bool.and_eq_true, decide_eq_true_eq, beq_iff_eq, List.all_cons, List.all_nil] at hb
  obtain ⟨⟨hb, -⟩, -⟩ := hb
  exact recordTrip (opc := 0x071) (fuse := fuse) (flags := 0) (ws := [encodeSow rcb]) rfl (by decide) (by omega) (by decide) (by simp)
    (by simp [w32, hb, encodeSow_lt, sowAt_encode, lo16_lt, hi16_lt] <;> omega) hok (by simp [parseRec, parseSystem, hb, encodeSow_lt, sowAt_encode, lo16_lt, hi16_lt] <;> (try simp [bitsOf, bitOf]) <;> omega) (by simp [recLenOk])

theorem RoundTrip.specin (fuse : Nat) (h : Nat) (kind : Nat) (depthM1 : Nat) (mean : Bool) (alpha : Nat) (ab : Nat) (re : Nat) : RoundTrip.Statement (.specin fuse h kind depthM1 mean alpha ab re) := RoundTrip.ofRecord rfl fun hok => by
  cases mean
  · have hb := hok
    simp only [recWf, recBounds, hid16, Sys2Proof.w32, fuseOk, tgt, Hd.wf, Hd.wf0, Bool.and_eq_true, decide_eq_true_eq, beq_iff_eq, List.all_cons, List.all_nil] at hb
    obtain ⟨⟨hb, -⟩, -⟩ := hb
    exact recordTrip (opc := 0x078) (fuse := fuse) (flags := 0) (ws := [h, kind + 4 * depthM1 + 8 * false.toNat + 65536 * alpha, hw ab re]) rfl (by decide) (by omega) (by decide) (by simp)
      (by simp [w32, hb, hw_lt, lo16_hw, hi16_hw, lo16_lt, hi16_lt] <;> omega) hok (by simp [parseRec, parseSystem, hb, hw_lt, lo16_hw, hi16_hw, lo16_lt, hi16_lt] <;> (try simp [bitsOf, bitOf, hi16]) <;> omega) (by simp [recLenOk])
  · have hb := hok
    simp only [recWf, recBounds, hid16, Sys2Proof.w32, fuseOk, tgt, Hd.wf, Hd.wf0, Bool.and_eq_true, decide_eq_true_eq, beq_iff_eq, List.all_cons, List.all_nil] at hb
    obtain ⟨⟨hb, -⟩, -⟩ := hb
    exact recordTrip (opc := 0x078) (fuse := fuse) (flags := 0) (ws := [h, kind + 4 * depthM1 + 8 * true.toNat + 65536 * alpha, hw ab re]) rfl (by decide) (by omega) (by decide) (by simp)
      (by simp [w32, hb, hw_lt, lo16_hw, hi16_hw, lo16_lt, hi16_lt] <;> omega) hok (by simp [parseRec, parseSystem, hb, hw_lt, lo16_hw, hi16_hw, lo16_lt, hi16_lt] <;> (try simp [bitsOf, bitOf, hi16]) <;> omega) (by simp [recLenOk])

theorem RoundTrip.specoff (fuse : Nat) (h : Nat) : RoundTrip.Statement (.specoff fuse h) := RoundTrip.ofRecord rfl fun hok => by
  have hb := hok
  simp only [recWf, recBounds, hid16, Sys2Proof.w32, fuseOk, tgt, Hd.wf, Hd.wf0, Bool.and_eq_true, decide_eq_true_eq, beq_iff_eq, List.all_cons, List.all_nil] at hb
  obtain ⟨⟨hb, -⟩, -⟩ := hb
  exact recordTrip (opc := 0x079) (fuse := fuse) (flags := 0) (ws := [h]) rfl (by decide) (by omega) (by decide) (by simp)
    (by simp [w32, hb, lo16_lt, hi16_lt] <;> omega) hok (by simp [parseRec, parseSystem, hb, lo16_lt, hi16_lt] <;> (try simp [bitsOf, bitOf]) <;> omega) (by simp [recLenOk])

theorem RoundTrip.opinstall (fuse : Nat) (idem : Bool) (addr : Sow) (opc : Nat) (pbound : Sow) : RoundTrip.Statement (.opinstall fuse idem addr opc pbound) := RoundTrip.ofRecord rfl fun hok => by
  cases idem
  · have hb := hok
    simp only [recWf, recBounds, hid16, Sys2Proof.w32, fuseOk, tgt, Hd.wf, Hd.wf0, Bool.and_eq_true, decide_eq_true_eq, beq_iff_eq, List.all_cons, List.all_nil] at hb
    obtain ⟨⟨hb, -⟩, -⟩ := hb
    exact recordTrip (opc := 0x080) (fuse := fuse) (flags := false.toNat) (ws := [encodeSow addr, opc, encodeSow pbound]) rfl (by decide) (by omega) (by decide) (by simp)
      (by simp [w32, hb, encodeSow_lt, sowAt_encode, lo16_lt, hi16_lt] <;> omega) hok (by simp [parseRec, parseSystem, hb, encodeSow_lt, sowAt_encode, lo16_lt, hi16_lt] <;> (try simp [bitsOf, bitOf]) <;> omega) (by simp [recLenOk])
  · have hb := hok
    simp only [recWf, recBounds, hid16, Sys2Proof.w32, fuseOk, tgt, Hd.wf, Hd.wf0, Bool.and_eq_true, decide_eq_true_eq, beq_iff_eq, List.all_cons, List.all_nil] at hb
    obtain ⟨⟨hb, -⟩, -⟩ := hb
    exact recordTrip (opc := 0x080) (fuse := fuse) (flags := true.toNat) (ws := [encodeSow addr, opc, encodeSow pbound]) rfl (by decide) (by omega) (by decide) (by simp)
      (by simp [w32, hb, encodeSow_lt, sowAt_encode, lo16_lt, hi16_lt] <;> omega) hok (by simp [parseRec, parseSystem, hb, encodeSow_lt, sowAt_encode, lo16_lt, hi16_lt] <;> (try simp [bitsOf, bitOf]) <;> omega) (by simp [recLenOk])

theorem RoundTrip.opremove (fuse : Nat) (opc : Nat) : RoundTrip.Statement (.opremove fuse opc) := RoundTrip.ofRecord rfl fun hok => by
  have hb := hok
  simp only [recWf, recBounds, hid16, Sys2Proof.w32, fuseOk, tgt, Hd.wf, Hd.wf0, Bool.and_eq_true, decide_eq_true_eq, beq_iff_eq, List.all_cons, List.all_nil] at hb
  obtain ⟨⟨hb, -⟩, -⟩ := hb
  exact recordTrip (opc := 0x081) (fuse := fuse) (flags := 0) (ws := [opc]) rfl (by decide) (by omega) (by decide) (by simp)
    (by simp [w32, hb, lo16_lt, hi16_lt] <;> omega) hok (by simp [parseRec, parseSystem, hb, lo16_lt, hi16_lt] <;> (try simp [bitsOf, bitOf]) <;> omega) (by simp [recLenOk])

theorem RoundTrip.syscall (fuse : Nat) (each : Bool) (args : List Sow) : RoundTrip.Statement (.syscall fuse each args) := RoundTrip.ofRecord rfl fun hok => by
  have hb := hok
  simp only [recWf, recBounds, fuseOk, Bool.and_eq_true, decide_eq_true_eq] at hb
  obtain ⟨⟨⟨⟨h1, h2⟩, h3⟩, -⟩, -⟩ := hb
  have hs := sowsAt_encode args 1 h3
  have h4 := toNat_le1 each
  have h5 : bitOf each.toNat 0 = each := by cases each <;> rfl
  exact recordTrip (opc := 0x082) (fuse := fuse) (flags := each.toNat) (ws := args.map encodeSow) rfl (by decide) h1
    (by omega) (by simp; omega) (sows_w32 args h3) hok
    (by simp [parseRec, parseSystem, hs, h5]
        omega)
    (by simp [recLenOk]; omega)

theorem RoundTrip.userOperator (fuse flags opc : Nat) (hs : List (Nat × Nat)) : RoundTrip.Statement (.userOperator fuse flags opc hs) := RoundTrip.ofRecord rfl fun hok => by
  have hb := hok
  simp only [recWf, recBounds, fuseOk, Bool.and_eq_true, decide_eq_true_eq] at hb
  obtain ⟨⟨⟨⟨⟨⟨⟨h1, h2⟩, h3⟩, h4⟩, h5⟩, h6⟩, -⟩, -⟩ := hb
  obtain ⟨k1, k2⟩ := hids_read hs h6
  generalize hws : (hs.map fun p => hw p.1 p.2) = ws at k1 k2
  have hl : ws.length = hs.length := by rw [← hws]; simp
  refine recordTrip (opc := opc) (fuse := fuse) (flags := flags) (ws := ws) (by rw [← hws]; rfl) h4 h1 h2
    (by omega) k2 hok ?_ ?_
  · have n1 : ¬ opc < 0x010 := by omega
    have n2 : ¬ opc < 0x020 := by omega
    have n3 : ¬ opc < 0x040 := by omega
    have n4 : ¬ opc < 0x060 := by omega
    have n5 : ¬ opc < 0x070 := by omega
    have hp : parseSystem opc fuse flags ws = some ([], .userOperator fuse flags opc hs) := by
      unfold parseSystem
      split <;> first | omega | skip
      rw [if_pos h3, k1]
    simp only [parseRec, n1, n2, n3, n4, n5, if_false, hp]
    rfl
  · unfold recLenOk
    split <;> first | omega | skip
    simp

theorem RoundTrip.tileBind (op : Nat) (core : Nat) (x : Nat) : RoundTrip.Statement (.tileBind op core x) := RoundTrip.ofEvent rfl

theorem RoundTrip.deal (core : Nat) (x : Nat) (q : Nat) : RoundTrip.Statement (.deal core x q) := RoundTrip.ofEvent rfl

theorem RoundTrip.cardHeadCheck (die : Nat) (q : Nat) : RoundTrip.Statement (.cardHeadCheck die q) := RoundTrip.ofEvent rfl

theorem RoundTrip.operatorComplete (op : Nat) : RoundTrip.Statement (.operatorComplete op) := RoundTrip.ofEvent rfl

theorem RoundTrip.launch (v : Nat) : RoundTrip.Statement (.launch v) := RoundTrip.ofEvent rfl

theorem RoundTrip.launchStart (k : Nat) (dies : List Nat) : RoundTrip.Statement (.launchStart k dies) := RoundTrip.ofEvent rfl

theorem RoundTrip.contextSwitch (core : Nat) : RoundTrip.Statement (.contextSwitch core) := RoundTrip.ofEvent rfl

theorem RoundTrip.blockedBundleResume (core : Nat) (x : Nat) : RoundTrip.Statement (.blockedBundleResume core x) := RoundTrip.ofEvent rfl

theorem RoundTrip.pboundExceeded (core : Nat) (x : Nat) : RoundTrip.Statement (.pboundExceeded core x) := RoundTrip.ofEvent rfl

theorem RoundTrip.eviction (core : Nat) (x : Nat) : RoundTrip.Statement (.eviction core x) := RoundTrip.ofEvent rfl

theorem RoundTrip.evictedContextResume (core : Nat) (k : Nat) (x : Nat) : RoundTrip.Statement (.evictedContextResume core k x) := RoundTrip.ofEvent rfl

theorem RoundTrip.priorityAging (op : Nat) : RoundTrip.Statement (.priorityAging op) := RoundTrip.ofEvent rfl

theorem RoundTrip.checkpointStop (core : Nat) (x : Nat) : RoundTrip.Statement (.checkpointStop core x) := RoundTrip.ofEvent rfl

theorem RoundTrip.regionResume (ctxid : Nat) (rcb : Nat) (dies : List Nat) : RoundTrip.Statement (.regionResume ctxid rcb dies) := RoundTrip.ofEvent rfl

theorem RoundTrip.devicePreemptionRequest (ctxid : Nat) (rcb : Nat) : RoundTrip.Statement (.devicePreemptionRequest ctxid rcb) := RoundTrip.ofEvent rfl

theorem RoundTrip.pageTableWalk (core : Nat) (ctxid : Nat) (va : Nat) (wr : Bool) : RoundTrip.Statement (.pageTableWalk core ctxid va wr) := RoundTrip.ofEvent rfl

theorem RoundTrip.engineCommandStart (core : Nat) (seq : Nat) : RoundTrip.Statement (.engineCommandStart core seq) := RoundTrip.ofEvent rfl

theorem RoundTrip.engineCommandComplete (core : Nat) (seq : Nat) (units : Nat) : RoundTrip.Statement (.engineCommandComplete core seq units) := RoundTrip.ofEvent rfl

theorem RoundTrip.swap (core : Nat) : RoundTrip.Statement (.swap core) := RoundTrip.ofEvent rfl

theorem RoundTrip.sdctlKindAll (die : Nat) (v : Nat) : RoundTrip.Statement (.sdctlKindAll die v) := RoundTrip.ofEvent rfl

theorem RoundTrip.sdctlKindCtx (die : Nat) (v : Nat) : RoundTrip.Statement (.sdctlKindCtx die v) := RoundTrip.ofEvent rfl

theorem RoundTrip.sdctlKindCtxRange (die : Nat) (v : Nat) : RoundTrip.Statement (.sdctlKindCtxRange die v) := RoundTrip.ofEvent rfl

theorem RoundTrip.sdctlKindGlobalRange (die : Nat) (v : Nat) : RoundTrip.Statement (.sdctlKindGlobalRange die v) := RoundTrip.ofEvent rfl

theorem RoundTrip.sdctlKindUnion (die : Nat) (v : Nat) : RoundTrip.Statement (.sdctlKindUnion die v) := RoundTrip.ofEvent rfl

theorem RoundTrip.shootdownAcknowledge (die : Nat) : RoundTrip.Statement (.shootdownAcknowledge die) := RoundTrip.ofEvent rfl

theorem RoundTrip.psdctlKindAll (v : Nat) : RoundTrip.Statement (.psdctlKindAll v) := RoundTrip.ofEvent rfl

theorem RoundTrip.psdctlKindCtx (v : Nat) : RoundTrip.Statement (.psdctlKindCtx v) := RoundTrip.ofEvent rfl

theorem RoundTrip.psdctlKindCtxRange (v : Nat) : RoundTrip.Statement (.psdctlKindCtxRange v) := RoundTrip.ofEvent rfl

theorem RoundTrip.psdctlKindGlobalRange (v : Nat) : RoundTrip.Statement (.psdctlKindGlobalRange v) := RoundTrip.ofEvent rfl

theorem RoundTrip.psdctlKindUnion (v : Nat) : RoundTrip.Statement (.psdctlKindUnion v) := RoundTrip.ofEvent rfl

theorem RoundTrip.packageShootdownAcknowledge : RoundTrip.Statement (.packageShootdownAcknowledge) := RoundTrip.ofEvent rfl

theorem RoundTrip.rpre (v : Nat) : RoundTrip.Statement (.rpre v) := RoundTrip.ofEvent rfl

theorem RoundTrip.fresRetry (v : Nat) : RoundTrip.Statement (.fresRetry v) := RoundTrip.ofEvent rfl

theorem RoundTrip.fresFail (v : Nat) : RoundTrip.Statement (.fresFail v) := RoundTrip.ofEvent rfl

theorem RoundTrip.trapRecordDelivery (k : Nat) : RoundTrip.Statement (.trapRecordDelivery k) := RoundTrip.ofEvent rfl

theorem RoundTrip.faultRingRetry (k : Nat) : RoundTrip.Statement (.faultRingRetry k) := RoundTrip.ofEvent rfl

theorem RoundTrip.uncorrectableMemoryError (unit : Nat) (n : Nat) (m : Nat) (addr : Nat) : RoundTrip.Statement (.uncorrectableMemoryError unit n m addr) := RoundTrip.ofEvent rfl

theorem RoundTrip.queueMap (die : Nat) (q : Nat) : RoundTrip.Statement (.queueMap die q) := RoundTrip.ofEvent rfl

theorem RoundTrip.queueUnmap (die : Nat) (q : Nat) : RoundTrip.Statement (.queueUnmap die q) := RoundTrip.ofEvent rfl

theorem RoundTrip.queueSleep (die : Nat) (q : Nat) : RoundTrip.Statement (.queueSleep die q) := RoundTrip.ofEvent rfl

theorem RoundTrip.qcfgUpdate (die : Nat) (q : Nat) (v : Nat) : RoundTrip.Statement (.qcfgUpdate die q v) := RoundTrip.ofEvent rfl

theorem RoundTrip.unmapSave (die : Nat) (q : Nat) : RoundTrip.Statement (.unmapSave die q) := RoundTrip.ofEvent rfl

theorem RoundTrip.qwake (die : Nat) (q : Nat) (v : Nat) : RoundTrip.Statement (.qwake die q v) := RoundTrip.ofEvent rfl

theorem RoundTrip.qsigWake (die : Nat) (q : Nat) (v : Nat) : RoundTrip.Statement (.qsigWake die q v) := RoundTrip.ofEvent rfl

theorem RoundTrip.svcreq (core : Nat) (v : Nat) : RoundTrip.Statement (.svcreq core v) := RoundTrip.ofEvent rfl

theorem RoundTrip.serviceHandlerEntry (core : Nat) (x : Nat) : RoundTrip.Statement (.serviceHandlerEntry core x) := RoundTrip.ofEvent rfl

theorem RoundTrip.serviceDeadlinePMark (core : Nat) (x : Nat) : RoundTrip.Statement (.serviceDeadlinePMark core x) := RoundTrip.ofEvent rfl

theorem RoundTrip.serviceDeadlineTrap (core : Nat) (x : Nat) : RoundTrip.Statement (.serviceDeadlineTrap core x) := RoundTrip.ofEvent rfl

theorem RoundTrip.svcres (v : Nat) : RoundTrip.Statement (.svcres v) := RoundTrip.ofEvent rfl

theorem RoundTrip.grval (die : Nat) (v : Nat) : RoundTrip.Statement (.grval die v) := RoundTrip.ofEvent rfl

theorem RoundTrip.ctxcreate (c : Nat) : RoundTrip.Statement (.ctxcreate c) := RoundTrip.ofEvent rfl

theorem RoundTrip.ctxsuspend (c : Nat) : RoundTrip.Statement (.ctxsuspend c) := RoundTrip.ofEvent rfl

theorem RoundTrip.ctxsuspendComplete (c : Nat) : RoundTrip.Statement (.ctxsuspendComplete c) := RoundTrip.ofEvent rfl

theorem RoundTrip.ctxresume (c : Nat) : RoundTrip.Statement (.ctxresume c) := RoundTrip.ofEvent rfl

theorem RoundTrip.ctxdestroy (c : Nat) : RoundTrip.Statement (.ctxdestroy c) := RoundTrip.ofEvent rfl

theorem RoundTrip.ctxheap (c : Nat) : RoundTrip.Statement (.ctxheap c) := RoundTrip.ofEvent rfl

theorem RoundTrip.ctxmsi (c : Nat) : RoundTrip.Statement (.ctxmsi c) := RoundTrip.ofEvent rfl

theorem RoundTrip.regcreate (c : Nat) : RoundTrip.Statement (.regcreate c) := RoundTrip.ofEvent rfl

theorem RoundTrip.regdestroy (c : Nat) : RoundTrip.Statement (.regdestroy c) := RoundTrip.ofEvent rfl

theorem RoundTrip.cqcreate (c : Nat) : RoundTrip.Statement (.cqcreate c) := RoundTrip.ofEvent rfl

theorem RoundTrip.cqdestroy (c : Nat) : RoundTrip.Statement (.cqdestroy c) := RoundTrip.ofEvent rfl

theorem RoundTrip.ringmsi (c : Nat) : RoundTrip.Statement (.ringmsi c) := RoundTrip.ofEvent rfl

theorem RoundTrip.pkgring (c : Nat) : RoundTrip.Statement (.pkgring c) := RoundTrip.ofEvent rfl

theorem RoundTrip.islandLevelChange (i : Nat) (v : Nat) : RoundTrip.Statement (.islandLevelChange i v) := RoundTrip.ofEvent rfl

theorem RoundTrip.islandChangeDone (i : Nat) : RoundTrip.Statement (.islandChangeDone i) := RoundTrip.ofEvent rfl

theorem RoundTrip.mmioRegisterWrite (off : Nat) (v : Nat) : RoundTrip.Statement (.mmioRegisterWrite off v) := RoundTrip.ofEvent rfl

theorem RoundTrip.copy (cq : Nat) : RoundTrip.Statement (.copy cq) := RoundTrip.ofEvent rfl

theorem RoundTrip.reducingCopy (cq : Nat) : RoundTrip.Statement (.reducingCopy cq) := RoundTrip.ofEvent rfl

theorem RoundTrip.subscribe (cq : Nat) : RoundTrip.Statement (.subscribe cq) := RoundTrip.ofEvent rfl

theorem RoundTrip.subscribeTileFill (pk : Nat) : RoundTrip.Statement (.subscribeTileFill pk) := RoundTrip.ofEvent rfl

theorem RoundTrip.drain (cq : Nat) : RoundTrip.Statement (.drain cq) := RoundTrip.ofEvent rfl

theorem RoundTrip.drainSlotWrite (pk : Nat) : RoundTrip.Statement (.drainSlotWrite pk) := RoundTrip.ofEvent rfl

theorem RoundTrip.copyPacketComplete (pk : Nat) : RoundTrip.Statement (.copyPacketComplete pk) := RoundTrip.ofEvent rfl

theorem RoundTrip.ringHeaderWatch (addr : Nat) : RoundTrip.Statement (.ringHeaderWatch addr) := RoundTrip.ofEvent rfl

theorem RoundTrip.routeTrafficApply (src : Nat) (dst : Nat) : RoundTrip.Statement (.routeTrafficApply src dst) := RoundTrip.ofEvent rfl

theorem RoundTrip.inboundPostedWrite (port : Nat) (addr : Nat) (bytes : List Nat) : RoundTrip.Statement (.inboundPostedWrite port addr bytes) := RoundTrip.ofEvent rfl

theorem RoundTrip.inboundRead (port : Nat) (addr : Nat) (n : Nat) : RoundTrip.Statement (.inboundRead port addr n) := RoundTrip.ofEvent rfl

theorem RoundTrip.inboundMsi (port : Nat) (addr : Nat) (data : Nat) : RoundTrip.Statement (.inboundMsi port addr data) := RoundTrip.ofEvent rfl

theorem RoundTrip.borrowRefill (die : Nat) (k : Nat) : RoundTrip.Statement (.borrowRefill die k) := RoundTrip.ofEvent rfl

theorem RoundTrip.combinerIdleFlush (die : Nat) (k : Nat) : RoundTrip.Statement (.combinerIdleFlush die k) := RoundTrip.ofEvent rfl

theorem RoundTrip.flushProbe (die : Nat) (k : Nat) : RoundTrip.Statement (.flushProbe die k) := RoundTrip.ofEvent rfl

theorem RoundTrip.closeNotice (die : Nat) (k : Nat) : RoundTrip.Statement (.closeNotice die k) := RoundTrip.ofEvent rfl

theorem RoundTrip.gravityFlushArrival (k : Nat) : RoundTrip.Statement (.gravityFlushArrival k) := RoundTrip.ofEvent rfl

theorem RoundTrip.historyUpdate (die : Nat) (gfe : Nat) (hid : Nat) : RoundTrip.Statement (.historyUpdate die gfe hid) := RoundTrip.ofEvent rfl

theorem RoundTrip.downstreamSpeculation (op : Nat) : RoundTrip.Statement (.downstreamSpeculation op) := RoundTrip.ofEvent rfl

theorem RoundTrip.specCommit (op : Nat) : RoundTrip.Statement (.specCommit op) := RoundTrip.ofEvent rfl

theorem RoundTrip.specSquash (op : Nat) : RoundTrip.Statement (.specSquash op) := RoundTrip.ofEvent rfl

theorem RoundTrip.linkFailureRecovery (lane : Nat) : RoundTrip.Statement (.linkFailureRecovery lane) := RoundTrip.ofEvent rfl

theorem RoundTrip.coldStart (dies : List Nat) (imgs : List BootImage) : RoundTrip.Statement (.coldStart dies imgs) := RoundTrip.ofEvent rfl

theorem RoundTrip.warmStart (imgs : List BootImage) : RoundTrip.Statement (.warmStart imgs) := RoundTrip.ofEvent rfl

theorem RoundTrip.dieJoinService (die : Nat) : RoundTrip.Statement (.dieJoinService die) := RoundTrip.ofEvent rfl

theorem RoundTrip.reducedServiceEnd : RoundTrip.Statement (.reducedServiceEnd) := RoundTrip.ofEvent rfl

theorem RoundTrip.getVersion : RoundTrip.Statement (.getVersion) := RoundTrip.ofEvent rfl

theorem RoundTrip.getCapabilities (v : Nat) : RoundTrip.Statement (.getCapabilities v) := RoundTrip.ofEvent rfl

theorem RoundTrip.negotiateAlgorithms (v : Nat) : RoundTrip.Statement (.negotiateAlgorithms v) := RoundTrip.ofEvent rfl

theorem RoundTrip.getDigests : RoundTrip.Statement (.getDigests) := RoundTrip.ofEvent rfl

theorem RoundTrip.getCertificate (slot : Nat) (off : Nat) (len : Nat) : RoundTrip.Statement (.getCertificate slot off len) := RoundTrip.ofEvent rfl

theorem RoundTrip.challenge (slot : Nat) (nonce : Nat) : RoundTrip.Statement (.challenge slot nonce) := RoundTrip.ofEvent rfl

theorem RoundTrip.getMeasurements (idx : Nat) (nonce : Nat) : RoundTrip.Statement (.getMeasurements idx nonce) := RoundTrip.ofEvent rfl

theorem RoundTrip.claim (chip : Nat) (epoch : Nat) : RoundTrip.Statement (.claim chip epoch) := RoundTrip.ofEvent rfl

theorem RoundTrip.claimWindowExpiry : RoundTrip.Statement (.claimWindowExpiry) := RoundTrip.ofEvent rfl

theorem RoundTrip.heartbeat : RoundTrip.Statement (.heartbeat) := RoundTrip.ofEvent rfl

theorem RoundTrip.heartbeatTimeout : RoundTrip.Statement (.heartbeatTimeout) := RoundTrip.ofEvent rfl

theorem RoundTrip.powerLimit (i : Nat) : RoundTrip.Statement (.powerLimit i) := RoundTrip.ofEvent rfl

theorem RoundTrip.illegalOpcode (slot : Nat) : RoundTrip.Statement (.illegalOpcode slot) := RoundTrip.ofEvent rfl

theorem RoundTrip.bytecodeIllegalOpcode (opc : Nat) : RoundTrip.Statement (.bytecodeIllegalOpcode opc) := RoundTrip.ofEvent rfl

theorem RoundTrip.emptyBundle : RoundTrip.Statement (.emptyBundle) := RoundTrip.ofEvent rfl

theorem RoundTrip.variableLatencyResult (core : Nat) (x : Nat) (k : Nat) : RoundTrip.Statement (.variableLatencyResult core x k) := RoundTrip.ofEvent rfl

theorem RoundTrip.storeAcknowledged (k : Nat) : RoundTrip.Statement (.storeAcknowledged k) := RoundTrip.ofEvent rfl

theorem RoundTrip.powerLoss : RoundTrip.Statement (.powerLoss) := RoundTrip.ofEvent rfl

theorem RoundTrip.coreIslandPowerGating (core : Nat) : RoundTrip.Statement (.coreIslandPowerGating core) := RoundTrip.ofEvent rfl

theorem RoundTrip.debuggerHalt (core : Nat) : RoundTrip.Statement (.debuggerHalt core) := RoundTrip.ofEvent rfl

theorem RoundTrip.debuggerHaltEnd (core : Nat) : RoundTrip.Statement (.debuggerHaltEnd core) := RoundTrip.ofEvent rfl

theorem RoundTrip.thermalAlert (i : Nat) : RoundTrip.Statement (.thermalAlert i) := RoundTrip.ofEvent rfl

theorem RoundTrip.watchdog : RoundTrip.Statement (.watchdog) := RoundTrip.ofEvent rfl

theorem RoundTrip.pciePortEvent (port : Nat) : RoundTrip.Statement (.pciePortEvent port) := RoundTrip.ofEvent rfl

theorem RoundTrip.ethernetUalinkPortEvent (port : Nat) : RoundTrip.Statement (.ethernetUalinkPortEvent port) := RoundTrip.ofEvent rfl

theorem RoundTrip.rexit (token : Nat) : RoundTrip.Statement (.rexit token) := RoundTrip.ofEvent rfl

end Sys2Proof.Laws
end

