-- ==== Sys2Proof/Laws/State.lean ====
section
/-! SUPPORT. The named updates of the state, field by field: what each leaves as it was, and what its own accessor reads after it. -/

set_option linter.all false
set_option Elab.async false

namespace Sys2Proof.Laws

open Sys2Proof.Machine

/-! ### setCtxAt -/

@[simp] theorem setCtxAt_schedule (s : State) (ck : Nat) (c : Ctx) : (s.setCtxAt ck c).schedule = s.schedule := rfl
@[simp] theorem setCtxAt_act (s : State) (ck : Nat) (c : Ctx) : (s.setCtxAt ck c).act = s.act := rfl
@[simp] theorem setCtxAt_fresh (s : State) (ck : Nat) (c : Ctx) : (s.setCtxAt ck c).fresh = s.fresh := rfl
@[simp] theorem setCtxAt_clk (s : State) (ck : Nat) (c : Ctx) : (s.setCtxAt ck c).clk = s.clk := rfl
@[simp] theorem setCtxAt_time (s : State) (ck : Nat) (c : Ctx) : (s.setCtxAt ck c).time = s.time := rfl
@[simp] theorem setCtxAt_powered (s : State) (ck : Nat) (c : Ctx) : (s.setCtxAt ck c).powered = s.powered := rfl
@[simp] theorem setCtxAt_mem (s : State) (ck : Nat) (c : Ctx) : (s.setCtxAt ck c).mem = s.mem := rfl
@[simp] theorem setCtxAt_tileMem (s : State) (ck : Nat) (c : Ctx) : (s.setCtxAt ck c).tileMem = s.tileMem := rfl
@[simp] theorem setCtxAt_cores (s : State) (ck : Nat) (c : Ctx) : (s.setCtxAt ck c).cores = s.cores := rfl
@[simp] theorem setCtxAt_ctlb (s : State) (ck : Nat) (c : Ctx) : (s.setCtxAt ck c).ctlb = s.ctlb := rfl
@[simp] theorem setCtxAt_store (s : State) (ck : Nat) (c : Ctx) : (s.setCtxAt ck c).store = s.store := rfl
@[simp] theorem setCtxAt_gfes (s : State) (ck : Nat) (c : Ctx) : (s.setCtxAt ck c).gfes = s.gfes := rfl
@[simp] theorem setCtxAt_ops (s : State) (ck : Nat) (c : Ctx) : (s.setCtxAt ck c).ops = s.ops := rfl
@[simp] theorem setCtxAt_nextOp (s : State) (ck : Nat) (c : Ctx) : (s.setCtxAt ck c).nextOp = s.nextOp := rfl
@[simp] theorem setCtxAt_nextUid (s : State) (ck : Nat) (c : Ctx) : (s.setCtxAt ck c).nextUid = s.nextUid := rfl
@[simp] theorem setCtxAt_nextStream (s : State) (ck : Nat) (c : Ctx) : (s.setCtxAt ck c).nextStream = s.nextStream := rfl
@[simp] theorem setCtxAt_devs (s : State) (ck : Nat) (c : Ctx) : (s.setCtxAt ck c).devs = s.devs := rfl
@[simp] theorem setCtxAt_installed (s : State) (ck : Nat) (c : Ctx) : (s.setCtxAt ck c).installed = s.installed := rfl
@[simp] theorem setCtxAt_blocks (s : State) (ck : Nat) (c : Ctx) : (s.setCtxAt ck c).blocks = s.blocks := rfl
@[simp] theorem setCtxAt_nextBlock (s : State) (ck : Nat) (c : Ctx) : (s.setCtxAt ck c).nextBlock = s.nextBlock := rfl
@[simp] theorem setCtxAt_temps (s : State) (ck : Nat) (c : Ctx) : (s.setCtxAt ck c).temps = s.temps := rfl
@[simp] theorem setCtxAt_nextTemp (s : State) (ck : Nat) (c : Ctx) : (s.setCtxAt ck c).nextTemp = s.nextTemp := rfl
@[simp] theorem setCtxAt_extents (s : State) (ck : Nat) (c : Ctx) : (s.setCtxAt ck c).extents = s.extents := rfl
@[simp] theorem setCtxAt_prefer (s : State) (ck : Nat) (c : Ctx) : (s.setCtxAt ck c).prefer = s.prefer := rfl
@[simp] theorem setCtxAt_gone (s : State) (ck : Nat) (c : Ctx) : (s.setCtxAt ck c).gone = s.gone := rfl
@[simp] theorem setCtxAt_releases (s : State) (ck : Nat) (c : Ctx) : (s.setCtxAt ck c).releases = s.releases := rfl
@[simp] theorem setCtxAt_granules (s : State) (ck : Nat) (c : Ctx) : (s.setCtxAt ck c).granules = s.granules := rfl
@[simp] theorem setCtxAt_sdctl (s : State) (ck : Nat) (c : Ctx) : (s.setCtxAt ck c).sdctl = s.sdctl := rfl
@[simp] theorem setCtxAt_sdva (s : State) (ck : Nat) (c : Ctx) : (s.setCtxAt ck c).sdva = s.sdva := rfl
@[simp] theorem setCtxAt_graddr (s : State) (ck : Nat) (c : Ctx) : (s.setCtxAt ck c).graddr = s.graddr := rfl
@[simp] theorem setCtxAt_psdctl (s : State) (ck : Nat) (c : Ctx) : (s.setCtxAt ck c).psdctl = s.psdctl := rfl
@[simp] theorem setCtxAt_psdva (s : State) (ck : Nat) (c : Ctx) : (s.setCtxAt ck c).psdva = s.psdva := rfl
@[simp] theorem setCtxAt_sdfirst (s : State) (ck : Nat) (c : Ctx) : (s.setCtxAt ck c).sdfirst = s.sdfirst := rfl
@[simp] theorem setCtxAt_queues (s : State) (ck : Nat) (c : Ctx) : (s.setCtxAt ck c).queues = s.queues := rfl
@[simp] theorem setCtxAt_combs (s : State) (ck : Nat) (c : Ctx) : (s.setCtxAt ck c).combs = s.combs := rfl
@[simp] theorem setCtxAt_grav (s : State) (ck : Nat) (c : Ctx) : (s.setCtxAt ck c).grav = s.grav := rfl
@[simp] theorem setCtxAt_barWaits (s : State) (ck : Nat) (c : Ctx) : (s.setCtxAt ck c).barWaits = s.barWaits := rfl
@[simp] theorem setCtxAt_closing (s : State) (ck : Nat) (c : Ctx) : (s.setCtxAt ck c).closing = s.closing := rfl
@[simp] theorem setCtxAt_wakes (s : State) (ck : Nat) (c : Ctx) : (s.setCtxAt ck c).wakes = s.wakes := rfl
@[simp] theorem setCtxAt_returning (s : State) (ck : Nat) (c : Ctx) : (s.setCtxAt ck c).returning = s.returning := rfl
@[simp] theorem setCtxAt_ac (s : State) (ck : Nat) (c : Ctx) : (s.setCtxAt ck c).ac = s.ac := rfl
@[simp] theorem setCtxAt_routes (s : State) (ck : Nat) (c : Ctx) : (s.setCtxAt ck c).routes = s.routes := rfl
@[simp] theorem setCtxAt_acks (s : State) (ck : Nat) (c : Ctx) : (s.setCtxAt ck c).acks = s.acks := rfl
@[simp] theorem setCtxAt_nextAck (s : State) (ck : Nat) (c : Ctx) : (s.setCtxAt ck c).nextAck = s.nextAck := rfl
@[simp] theorem setCtxAt_traps (s : State) (ck : Nat) (c : Ctx) : (s.setCtxAt ck c).traps = s.traps := rfl
@[simp] theorem setCtxAt_packets (s : State) (ck : Nat) (c : Ctx) : (s.setCtxAt ck c).packets = s.packets := rfl
@[simp] theorem setCtxAt_nextPacket (s : State) (ck : Nat) (c : Ctx) : (s.setCtxAt ck c).nextPacket = s.nextPacket := rfl
@[simp] theorem setCtxAt_copyQueues (s : State) (ck : Nat) (c : Ctx) : (s.setCtxAt ck c).copyQueues = s.copyQueues := rfl
@[simp] theorem setCtxAt_chipLines (s : State) (ck : Nat) (c : Ctx) : (s.setCtxAt ck c).chipLines = s.chipLines := rfl
@[simp] theorem setCtxAt_nextCq (s : State) (ck : Nat) (c : Ctx) : (s.setCtxAt ck c).nextCq = s.nextCq := rfl
@[simp] theorem setCtxAt_pkgRing (s : State) (ck : Nat) (c : Ctx) : (s.setCtxAt ck c).pkgRing = s.pkgRing := rfl
@[simp] theorem setCtxAt_launches (s : State) (ck : Nat) (c : Ctx) : (s.setCtxAt ck c).launches = s.launches := rfl
@[simp] theorem setCtxAt_svcCalls (s : State) (ck : Nat) (c : Ctx) : (s.setCtxAt ck c).svcCalls = s.svcCalls := rfl
@[simp] theorem setCtxAt_parts (s : State) (ck : Nat) (c : Ctx) : (s.setCtxAt ck c).parts = s.parts := rfl
@[simp] theorem setCtxAt_io (s : State) (ck : Nat) (c : Ctx) : (s.setCtxAt ck c).io = s.io := rfl
@[simp] theorem setCtxAt_islands (s : State) (ck : Nat) (c : Ctx) : (s.setCtxAt ck c).islands = s.islands := rfl
@[simp] theorem setCtxAt_fwRing (s : State) (ck : Nat) (c : Ctx) : (s.setCtxAt ck c).fwRing = s.fwRing := rfl
@[simp] theorem setCtxAt_dies (s : State) (ck : Nat) (c : Ctx) : (s.setCtxAt ck c).dies = s.dies := rfl
@[simp] theorem setCtxAt_reduced (s : State) (ck : Nat) (c : Ctx) : (s.setCtxAt ck c).reduced = s.reduced := rfl
@[simp] theorem setCtxAt_root (s : State) (ck : Nat) (c : Ctx) : (s.setCtxAt ck c).root = s.root := rfl
@[simp] theorem setCtxAt_out (s : State) (ck : Nat) (c : Ctx) : (s.setCtxAt ck c).out = s.out := rfl
@[simp] theorem setCtxAt_posted (s : State) (ck : Nat) (c : Ctx) : (s.setCtxAt ck c).posted = s.posted := rfl
@[simp] theorem setCtxAt_harts (s : State) (ck : Nat) (c : Ctx) : (s.setCtxAt ck c).harts = s.harts := rfl
@[simp] theorem setCtxAt_waiting (s : State) (ck : Nat) (c : Ctx) : (s.setCtxAt ck c).waiting = s.waiting := rfl
@[simp] theorem setCtxAt_outside (s : State) (ck : Nat) (c : Ctx) : (s.setCtxAt ck c).outside = s.outside := rfl
@[simp] theorem setCtxAt_preempts (s : State) (ck : Nat) (c : Ctx) : (s.setCtxAt ck c).preempts = s.preempts := rfl
@[simp] theorem setCtxAt_parked (s : State) (ck : Nat) (c : Ctx) : (s.setCtxAt ck c).parked = s.parked := rfl
@[simp] theorem setCtxAt_displaced (s : State) (ck : Nat) (c : Ctx) : (s.setCtxAt ck c).displaced = s.displaced := rfl

/-! ### onCtxAt -/

@[simp] theorem onCtxAt_schedule (s : State) (ck : Nat) (f : Ctx → Ctx) : (s.onCtxAt ck f).schedule = s.schedule := rfl
@[simp] theorem onCtxAt_act (s : State) (ck : Nat) (f : Ctx → Ctx) : (s.onCtxAt ck f).act = s.act := rfl
@[simp] theorem onCtxAt_fresh (s : State) (ck : Nat) (f : Ctx → Ctx) : (s.onCtxAt ck f).fresh = s.fresh := rfl
@[simp] theorem onCtxAt_clk (s : State) (ck : Nat) (f : Ctx → Ctx) : (s.onCtxAt ck f).clk = s.clk := rfl
@[simp] theorem onCtxAt_time (s : State) (ck : Nat) (f : Ctx → Ctx) : (s.onCtxAt ck f).time = s.time := rfl
@[simp] theorem onCtxAt_powered (s : State) (ck : Nat) (f : Ctx → Ctx) : (s.onCtxAt ck f).powered = s.powered := rfl
@[simp] theorem onCtxAt_mem (s : State) (ck : Nat) (f : Ctx → Ctx) : (s.onCtxAt ck f).mem = s.mem := rfl
@[simp] theorem onCtxAt_tileMem (s : State) (ck : Nat) (f : Ctx → Ctx) : (s.onCtxAt ck f).tileMem = s.tileMem := rfl
@[simp] theorem onCtxAt_cores (s : State) (ck : Nat) (f : Ctx → Ctx) : (s.onCtxAt ck f).cores = s.cores := rfl
@[simp] theorem onCtxAt_ctlb (s : State) (ck : Nat) (f : Ctx → Ctx) : (s.onCtxAt ck f).ctlb = s.ctlb := rfl
@[simp] theorem onCtxAt_store (s : State) (ck : Nat) (f : Ctx → Ctx) : (s.onCtxAt ck f).store = s.store := rfl
@[simp] theorem onCtxAt_gfes (s : State) (ck : Nat) (f : Ctx → Ctx) : (s.onCtxAt ck f).gfes = s.gfes := rfl
@[simp] theorem onCtxAt_ops (s : State) (ck : Nat) (f : Ctx → Ctx) : (s.onCtxAt ck f).ops = s.ops := rfl
@[simp] theorem onCtxAt_nextOp (s : State) (ck : Nat) (f : Ctx → Ctx) : (s.onCtxAt ck f).nextOp = s.nextOp := rfl
@[simp] theorem onCtxAt_nextUid (s : State) (ck : Nat) (f : Ctx → Ctx) : (s.onCtxAt ck f).nextUid = s.nextUid := rfl
@[simp] theorem onCtxAt_nextStream (s : State) (ck : Nat) (f : Ctx → Ctx) : (s.onCtxAt ck f).nextStream = s.nextStream := rfl
@[simp] theorem onCtxAt_devs (s : State) (ck : Nat) (f : Ctx → Ctx) : (s.onCtxAt ck f).devs = s.devs := rfl
@[simp] theorem onCtxAt_installed (s : State) (ck : Nat) (f : Ctx → Ctx) : (s.onCtxAt ck f).installed = s.installed := rfl
@[simp] theorem onCtxAt_blocks (s : State) (ck : Nat) (f : Ctx → Ctx) : (s.onCtxAt ck f).blocks = s.blocks := rfl
@[simp] theorem onCtxAt_nextBlock (s : State) (ck : Nat) (f : Ctx → Ctx) : (s.onCtxAt ck f).nextBlock = s.nextBlock := rfl
@[simp] theorem onCtxAt_temps (s : State) (ck : Nat) (f : Ctx → Ctx) : (s.onCtxAt ck f).temps = s.temps := rfl
@[simp] theorem onCtxAt_nextTemp (s : State) (ck : Nat) (f : Ctx → Ctx) : (s.onCtxAt ck f).nextTemp = s.nextTemp := rfl
@[simp] theorem onCtxAt_extents (s : State) (ck : Nat) (f : Ctx → Ctx) : (s.onCtxAt ck f).extents = s.extents := rfl
@[simp] theorem onCtxAt_prefer (s : State) (ck : Nat) (f : Ctx → Ctx) : (s.onCtxAt ck f).prefer = s.prefer := rfl
@[simp] theorem onCtxAt_gone (s : State) (ck : Nat) (f : Ctx → Ctx) : (s.onCtxAt ck f).gone = s.gone := rfl
@[simp] theorem onCtxAt_releases (s : State) (ck : Nat) (f : Ctx → Ctx) : (s.onCtxAt ck f).releases = s.releases := rfl
@[simp] theorem onCtxAt_granules (s : State) (ck : Nat) (f : Ctx → Ctx) : (s.onCtxAt ck f).granules = s.granules := rfl
@[simp] theorem onCtxAt_sdctl (s : State) (ck : Nat) (f : Ctx → Ctx) : (s.onCtxAt ck f).sdctl = s.sdctl := rfl
@[simp] theorem onCtxAt_sdva (s : State) (ck : Nat) (f : Ctx → Ctx) : (s.onCtxAt ck f).sdva = s.sdva := rfl
@[simp] theorem onCtxAt_graddr (s : State) (ck : Nat) (f : Ctx → Ctx) : (s.onCtxAt ck f).graddr = s.graddr := rfl
@[simp] theorem onCtxAt_psdctl (s : State) (ck : Nat) (f : Ctx → Ctx) : (s.onCtxAt ck f).psdctl = s.psdctl := rfl
@[simp] theorem onCtxAt_psdva (s : State) (ck : Nat) (f : Ctx → Ctx) : (s.onCtxAt ck f).psdva = s.psdva := rfl
@[simp] theorem onCtxAt_sdfirst (s : State) (ck : Nat) (f : Ctx → Ctx) : (s.onCtxAt ck f).sdfirst = s.sdfirst := rfl
@[simp] theorem onCtxAt_queues (s : State) (ck : Nat) (f : Ctx → Ctx) : (s.onCtxAt ck f).queues = s.queues := rfl
@[simp] theorem onCtxAt_combs (s : State) (ck : Nat) (f : Ctx → Ctx) : (s.onCtxAt ck f).combs = s.combs := rfl
@[simp] theorem onCtxAt_grav (s : State) (ck : Nat) (f : Ctx → Ctx) : (s.onCtxAt ck f).grav = s.grav := rfl
@[simp] theorem onCtxAt_barWaits (s : State) (ck : Nat) (f : Ctx → Ctx) : (s.onCtxAt ck f).barWaits = s.barWaits := rfl
@[simp] theorem onCtxAt_closing (s : State) (ck : Nat) (f : Ctx → Ctx) : (s.onCtxAt ck f).closing = s.closing := rfl
@[simp] theorem onCtxAt_wakes (s : State) (ck : Nat) (f : Ctx → Ctx) : (s.onCtxAt ck f).wakes = s.wakes := rfl
@[simp] theorem onCtxAt_returning (s : State) (ck : Nat) (f : Ctx → Ctx) : (s.onCtxAt ck f).returning = s.returning := rfl
@[simp] theorem onCtxAt_ac (s : State) (ck : Nat) (f : Ctx → Ctx) : (s.onCtxAt ck f).ac = s.ac := rfl
@[simp] theorem onCtxAt_routes (s : State) (ck : Nat) (f : Ctx → Ctx) : (s.onCtxAt ck f).routes = s.routes := rfl
@[simp] theorem onCtxAt_acks (s : State) (ck : Nat) (f : Ctx → Ctx) : (s.onCtxAt ck f).acks = s.acks := rfl
@[simp] theorem onCtxAt_nextAck (s : State) (ck : Nat) (f : Ctx → Ctx) : (s.onCtxAt ck f).nextAck = s.nextAck := rfl
@[simp] theorem onCtxAt_traps (s : State) (ck : Nat) (f : Ctx → Ctx) : (s.onCtxAt ck f).traps = s.traps := rfl
@[simp] theorem onCtxAt_packets (s : State) (ck : Nat) (f : Ctx → Ctx) : (s.onCtxAt ck f).packets = s.packets := rfl
@[simp] theorem onCtxAt_nextPacket (s : State) (ck : Nat) (f : Ctx → Ctx) : (s.onCtxAt ck f).nextPacket = s.nextPacket := rfl
@[simp] theorem onCtxAt_copyQueues (s : State) (ck : Nat) (f : Ctx → Ctx) : (s.onCtxAt ck f).copyQueues = s.copyQueues := rfl
@[simp] theorem onCtxAt_chipLines (s : State) (ck : Nat) (f : Ctx → Ctx) : (s.onCtxAt ck f).chipLines = s.chipLines := rfl
@[simp] theorem onCtxAt_nextCq (s : State) (ck : Nat) (f : Ctx → Ctx) : (s.onCtxAt ck f).nextCq = s.nextCq := rfl
@[simp] theorem onCtxAt_pkgRing (s : State) (ck : Nat) (f : Ctx → Ctx) : (s.onCtxAt ck f).pkgRing = s.pkgRing := rfl
@[simp] theorem onCtxAt_launches (s : State) (ck : Nat) (f : Ctx → Ctx) : (s.onCtxAt ck f).launches = s.launches := rfl
@[simp] theorem onCtxAt_svcCalls (s : State) (ck : Nat) (f : Ctx → Ctx) : (s.onCtxAt ck f).svcCalls = s.svcCalls := rfl
@[simp] theorem onCtxAt_parts (s : State) (ck : Nat) (f : Ctx → Ctx) : (s.onCtxAt ck f).parts = s.parts := rfl
@[simp] theorem onCtxAt_io (s : State) (ck : Nat) (f : Ctx → Ctx) : (s.onCtxAt ck f).io = s.io := rfl
@[simp] theorem onCtxAt_islands (s : State) (ck : Nat) (f : Ctx → Ctx) : (s.onCtxAt ck f).islands = s.islands := rfl
@[simp] theorem onCtxAt_fwRing (s : State) (ck : Nat) (f : Ctx → Ctx) : (s.onCtxAt ck f).fwRing = s.fwRing := rfl
@[simp] theorem onCtxAt_dies (s : State) (ck : Nat) (f : Ctx → Ctx) : (s.onCtxAt ck f).dies = s.dies := rfl
@[simp] theorem onCtxAt_reduced (s : State) (ck : Nat) (f : Ctx → Ctx) : (s.onCtxAt ck f).reduced = s.reduced := rfl
@[simp] theorem onCtxAt_root (s : State) (ck : Nat) (f : Ctx → Ctx) : (s.onCtxAt ck f).root = s.root := rfl
@[simp] theorem onCtxAt_out (s : State) (ck : Nat) (f : Ctx → Ctx) : (s.onCtxAt ck f).out = s.out := rfl
@[simp] theorem onCtxAt_posted (s : State) (ck : Nat) (f : Ctx → Ctx) : (s.onCtxAt ck f).posted = s.posted := rfl
@[simp] theorem onCtxAt_harts (s : State) (ck : Nat) (f : Ctx → Ctx) : (s.onCtxAt ck f).harts = s.harts := rfl
@[simp] theorem onCtxAt_waiting (s : State) (ck : Nat) (f : Ctx → Ctx) : (s.onCtxAt ck f).waiting = s.waiting := rfl
@[simp] theorem onCtxAt_outside (s : State) (ck : Nat) (f : Ctx → Ctx) : (s.onCtxAt ck f).outside = s.outside := rfl
@[simp] theorem onCtxAt_preempts (s : State) (ck : Nat) (f : Ctx → Ctx) : (s.onCtxAt ck f).preempts = s.preempts := rfl
@[simp] theorem onCtxAt_parked (s : State) (ck : Nat) (f : Ctx → Ctx) : (s.onCtxAt ck f).parked = s.parked := rfl
@[simp] theorem onCtxAt_displaced (s : State) (ck : Nat) (f : Ctx → Ctx) : (s.onCtxAt ck f).displaced = s.displaced := rfl

/-! ### onCtx -/

@[simp] theorem onCtx_schedule (s : State) (f : Ctx → Ctx) : (s.onCtx f).schedule = s.schedule := rfl
@[simp] theorem onCtx_act (s : State) (f : Ctx → Ctx) : (s.onCtx f).act = s.act := rfl
@[simp] theorem onCtx_fresh (s : State) (f : Ctx → Ctx) : (s.onCtx f).fresh = s.fresh := rfl
@[simp] theorem onCtx_clk (s : State) (f : Ctx → Ctx) : (s.onCtx f).clk = s.clk := rfl
@[simp] theorem onCtx_time (s : State) (f : Ctx → Ctx) : (s.onCtx f).time = s.time := rfl
@[simp] theorem onCtx_powered (s : State) (f : Ctx → Ctx) : (s.onCtx f).powered = s.powered := rfl
@[simp] theorem onCtx_mem (s : State) (f : Ctx → Ctx) : (s.onCtx f).mem = s.mem := rfl
@[simp] theorem onCtx_tileMem (s : State) (f : Ctx → Ctx) : (s.onCtx f).tileMem = s.tileMem := rfl
@[simp] theorem onCtx_cores (s : State) (f : Ctx → Ctx) : (s.onCtx f).cores = s.cores := rfl
@[simp] theorem onCtx_ctlb (s : State) (f : Ctx → Ctx) : (s.onCtx f).ctlb = s.ctlb := rfl
@[simp] theorem onCtx_store (s : State) (f : Ctx → Ctx) : (s.onCtx f).store = s.store := rfl
@[simp] theorem onCtx_gfes (s : State) (f : Ctx → Ctx) : (s.onCtx f).gfes = s.gfes := rfl
@[simp] theorem onCtx_ops (s : State) (f : Ctx → Ctx) : (s.onCtx f).ops = s.ops := rfl
@[simp] theorem onCtx_nextOp (s : State) (f : Ctx → Ctx) : (s.onCtx f).nextOp = s.nextOp := rfl
@[simp] theorem onCtx_nextUid (s : State) (f : Ctx → Ctx) : (s.onCtx f).nextUid = s.nextUid := rfl
@[simp] theorem onCtx_nextStream (s : State) (f : Ctx → Ctx) : (s.onCtx f).nextStream = s.nextStream := rfl
@[simp] theorem onCtx_devs (s : State) (f : Ctx → Ctx) : (s.onCtx f).devs = s.devs := rfl
@[simp] theorem onCtx_installed (s : State) (f : Ctx → Ctx) : (s.onCtx f).installed = s.installed := rfl
@[simp] theorem onCtx_blocks (s : State) (f : Ctx → Ctx) : (s.onCtx f).blocks = s.blocks := rfl
@[simp] theorem onCtx_nextBlock (s : State) (f : Ctx → Ctx) : (s.onCtx f).nextBlock = s.nextBlock := rfl
@[simp] theorem onCtx_temps (s : State) (f : Ctx → Ctx) : (s.onCtx f).temps = s.temps := rfl
@[simp] theorem onCtx_nextTemp (s : State) (f : Ctx → Ctx) : (s.onCtx f).nextTemp = s.nextTemp := rfl
@[simp] theorem onCtx_extents (s : State) (f : Ctx → Ctx) : (s.onCtx f).extents = s.extents := rfl
@[simp] theorem onCtx_prefer (s : State) (f : Ctx → Ctx) : (s.onCtx f).prefer = s.prefer := rfl
@[simp] theorem onCtx_gone (s : State) (f : Ctx → Ctx) : (s.onCtx f).gone = s.gone := rfl
@[simp] theorem onCtx_releases (s : State) (f : Ctx → Ctx) : (s.onCtx f).releases = s.releases := rfl
@[simp] theorem onCtx_granules (s : State) (f : Ctx → Ctx) : (s.onCtx f).granules = s.granules := rfl
@[simp] theorem onCtx_sdctl (s : State) (f : Ctx → Ctx) : (s.onCtx f).sdctl = s.sdctl := rfl
@[simp] theorem onCtx_sdva (s : State) (f : Ctx → Ctx) : (s.onCtx f).sdva = s.sdva := rfl
@[simp] theorem onCtx_graddr (s : State) (f : Ctx → Ctx) : (s.onCtx f).graddr = s.graddr := rfl
@[simp] theorem onCtx_psdctl (s : State) (f : Ctx → Ctx) : (s.onCtx f).psdctl = s.psdctl := rfl
@[simp] theorem onCtx_psdva (s : State) (f : Ctx → Ctx) : (s.onCtx f).psdva = s.psdva := rfl
@[simp] theorem onCtx_sdfirst (s : State) (f : Ctx → Ctx) : (s.onCtx f).sdfirst = s.sdfirst := rfl
@[simp] theorem onCtx_queues (s : State) (f : Ctx → Ctx) : (s.onCtx f).queues = s.queues := rfl
@[simp] theorem onCtx_combs (s : State) (f : Ctx → Ctx) : (s.onCtx f).combs = s.combs := rfl
@[simp] theorem onCtx_grav (s : State) (f : Ctx → Ctx) : (s.onCtx f).grav = s.grav := rfl
@[simp] theorem onCtx_barWaits (s : State) (f : Ctx → Ctx) : (s.onCtx f).barWaits = s.barWaits := rfl
@[simp] theorem onCtx_closing (s : State) (f : Ctx → Ctx) : (s.onCtx f).closing = s.closing := rfl
@[simp] theorem onCtx_wakes (s : State) (f : Ctx → Ctx) : (s.onCtx f).wakes = s.wakes := rfl
@[simp] theorem onCtx_returning (s : State) (f : Ctx → Ctx) : (s.onCtx f).returning = s.returning := rfl
@[simp] theorem onCtx_ac (s : State) (f : Ctx → Ctx) : (s.onCtx f).ac = s.ac := rfl
@[simp] theorem onCtx_routes (s : State) (f : Ctx → Ctx) : (s.onCtx f).routes = s.routes := rfl
@[simp] theorem onCtx_acks (s : State) (f : Ctx → Ctx) : (s.onCtx f).acks = s.acks := rfl
@[simp] theorem onCtx_nextAck (s : State) (f : Ctx → Ctx) : (s.onCtx f).nextAck = s.nextAck := rfl
@[simp] theorem onCtx_traps (s : State) (f : Ctx → Ctx) : (s.onCtx f).traps = s.traps := rfl
@[simp] theorem onCtx_packets (s : State) (f : Ctx → Ctx) : (s.onCtx f).packets = s.packets := rfl
@[simp] theorem onCtx_nextPacket (s : State) (f : Ctx → Ctx) : (s.onCtx f).nextPacket = s.nextPacket := rfl
@[simp] theorem onCtx_copyQueues (s : State) (f : Ctx → Ctx) : (s.onCtx f).copyQueues = s.copyQueues := rfl
@[simp] theorem onCtx_chipLines (s : State) (f : Ctx → Ctx) : (s.onCtx f).chipLines = s.chipLines := rfl
@[simp] theorem onCtx_nextCq (s : State) (f : Ctx → Ctx) : (s.onCtx f).nextCq = s.nextCq := rfl
@[simp] theorem onCtx_pkgRing (s : State) (f : Ctx → Ctx) : (s.onCtx f).pkgRing = s.pkgRing := rfl
@[simp] theorem onCtx_launches (s : State) (f : Ctx → Ctx) : (s.onCtx f).launches = s.launches := rfl
@[simp] theorem onCtx_svcCalls (s : State) (f : Ctx → Ctx) : (s.onCtx f).svcCalls = s.svcCalls := rfl
@[simp] theorem onCtx_parts (s : State) (f : Ctx → Ctx) : (s.onCtx f).parts = s.parts := rfl
@[simp] theorem onCtx_io (s : State) (f : Ctx → Ctx) : (s.onCtx f).io = s.io := rfl
@[simp] theorem onCtx_islands (s : State) (f : Ctx → Ctx) : (s.onCtx f).islands = s.islands := rfl
@[simp] theorem onCtx_fwRing (s : State) (f : Ctx → Ctx) : (s.onCtx f).fwRing = s.fwRing := rfl
@[simp] theorem onCtx_dies (s : State) (f : Ctx → Ctx) : (s.onCtx f).dies = s.dies := rfl
@[simp] theorem onCtx_reduced (s : State) (f : Ctx → Ctx) : (s.onCtx f).reduced = s.reduced := rfl
@[simp] theorem onCtx_root (s : State) (f : Ctx → Ctx) : (s.onCtx f).root = s.root := rfl
@[simp] theorem onCtx_out (s : State) (f : Ctx → Ctx) : (s.onCtx f).out = s.out := rfl
@[simp] theorem onCtx_posted (s : State) (f : Ctx → Ctx) : (s.onCtx f).posted = s.posted := rfl
@[simp] theorem onCtx_harts (s : State) (f : Ctx → Ctx) : (s.onCtx f).harts = s.harts := rfl
@[simp] theorem onCtx_waiting (s : State) (f : Ctx → Ctx) : (s.onCtx f).waiting = s.waiting := rfl
@[simp] theorem onCtx_outside (s : State) (f : Ctx → Ctx) : (s.onCtx f).outside = s.outside := rfl
@[simp] theorem onCtx_preempts (s : State) (f : Ctx → Ctx) : (s.onCtx f).preempts = s.preempts := rfl
@[simp] theorem onCtx_parked (s : State) (f : Ctx → Ctx) : (s.onCtx f).parked = s.parked := rfl
@[simp] theorem onCtx_displaced (s : State) (f : Ctx → Ctx) : (s.onCtx f).displaced = s.displaced := rfl

/-! ### onCoreAt -/

@[simp] theorem onCoreAt_schedule (s : State) (n : Nat) (f : Core → Core) : (s.onCoreAt n f).schedule = s.schedule := rfl
@[simp] theorem onCoreAt_act (s : State) (n : Nat) (f : Core → Core) : (s.onCoreAt n f).act = s.act := rfl
@[simp] theorem onCoreAt_fresh (s : State) (n : Nat) (f : Core → Core) : (s.onCoreAt n f).fresh = s.fresh := rfl
@[simp] theorem onCoreAt_clk (s : State) (n : Nat) (f : Core → Core) : (s.onCoreAt n f).clk = s.clk := rfl
@[simp] theorem onCoreAt_time (s : State) (n : Nat) (f : Core → Core) : (s.onCoreAt n f).time = s.time := rfl
@[simp] theorem onCoreAt_powered (s : State) (n : Nat) (f : Core → Core) : (s.onCoreAt n f).powered = s.powered := rfl
@[simp] theorem onCoreAt_mem (s : State) (n : Nat) (f : Core → Core) : (s.onCoreAt n f).mem = s.mem := rfl
@[simp] theorem onCoreAt_tileMem (s : State) (n : Nat) (f : Core → Core) : (s.onCoreAt n f).tileMem = s.tileMem := rfl
@[simp] theorem onCoreAt_ctxs (s : State) (n : Nat) (f : Core → Core) : (s.onCoreAt n f).ctxs = s.ctxs := rfl
@[simp] theorem onCoreAt_ctlb (s : State) (n : Nat) (f : Core → Core) : (s.onCoreAt n f).ctlb = s.ctlb := rfl
@[simp] theorem onCoreAt_store (s : State) (n : Nat) (f : Core → Core) : (s.onCoreAt n f).store = s.store := rfl
@[simp] theorem onCoreAt_gfes (s : State) (n : Nat) (f : Core → Core) : (s.onCoreAt n f).gfes = s.gfes := rfl
@[simp] theorem onCoreAt_ops (s : State) (n : Nat) (f : Core → Core) : (s.onCoreAt n f).ops = s.ops := rfl
@[simp] theorem onCoreAt_nextOp (s : State) (n : Nat) (f : Core → Core) : (s.onCoreAt n f).nextOp = s.nextOp := rfl
@[simp] theorem onCoreAt_nextUid (s : State) (n : Nat) (f : Core → Core) : (s.onCoreAt n f).nextUid = s.nextUid := rfl
@[simp] theorem onCoreAt_nextStream (s : State) (n : Nat) (f : Core → Core) : (s.onCoreAt n f).nextStream = s.nextStream := rfl
@[simp] theorem onCoreAt_devs (s : State) (n : Nat) (f : Core → Core) : (s.onCoreAt n f).devs = s.devs := rfl
@[simp] theorem onCoreAt_installed (s : State) (n : Nat) (f : Core → Core) : (s.onCoreAt n f).installed = s.installed := rfl
@[simp] theorem onCoreAt_blocks (s : State) (n : Nat) (f : Core → Core) : (s.onCoreAt n f).blocks = s.blocks := rfl
@[simp] theorem onCoreAt_nextBlock (s : State) (n : Nat) (f : Core → Core) : (s.onCoreAt n f).nextBlock = s.nextBlock := rfl
@[simp] theorem onCoreAt_temps (s : State) (n : Nat) (f : Core → Core) : (s.onCoreAt n f).temps = s.temps := rfl
@[simp] theorem onCoreAt_nextTemp (s : State) (n : Nat) (f : Core → Core) : (s.onCoreAt n f).nextTemp = s.nextTemp := rfl
@[simp] theorem onCoreAt_extents (s : State) (n : Nat) (f : Core → Core) : (s.onCoreAt n f).extents = s.extents := rfl
@[simp] theorem onCoreAt_prefer (s : State) (n : Nat) (f : Core → Core) : (s.onCoreAt n f).prefer = s.prefer := rfl
@[simp] theorem onCoreAt_gone (s : State) (n : Nat) (f : Core → Core) : (s.onCoreAt n f).gone = s.gone := rfl
@[simp] theorem onCoreAt_releases (s : State) (n : Nat) (f : Core → Core) : (s.onCoreAt n f).releases = s.releases := rfl
@[simp] theorem onCoreAt_granules (s : State) (n : Nat) (f : Core → Core) : (s.onCoreAt n f).granules = s.granules := rfl
@[simp] theorem onCoreAt_sdctl (s : State) (n : Nat) (f : Core → Core) : (s.onCoreAt n f).sdctl = s.sdctl := rfl
@[simp] theorem onCoreAt_sdva (s : State) (n : Nat) (f : Core → Core) : (s.onCoreAt n f).sdva = s.sdva := rfl
@[simp] theorem onCoreAt_graddr (s : State) (n : Nat) (f : Core → Core) : (s.onCoreAt n f).graddr = s.graddr := rfl
@[simp] theorem onCoreAt_psdctl (s : State) (n : Nat) (f : Core → Core) : (s.onCoreAt n f).psdctl = s.psdctl := rfl
@[simp] theorem onCoreAt_psdva (s : State) (n : Nat) (f : Core → Core) : (s.onCoreAt n f).psdva = s.psdva := rfl
@[simp] theorem onCoreAt_sdfirst (s : State) (n : Nat) (f : Core → Core) : (s.onCoreAt n f).sdfirst = s.sdfirst := rfl
@[simp] theorem onCoreAt_queues (s : State) (n : Nat) (f : Core → Core) : (s.onCoreAt n f).queues = s.queues := rfl
@[simp] theorem onCoreAt_combs (s : State) (n : Nat) (f : Core → Core) : (s.onCoreAt n f).combs = s.combs := rfl
@[simp] theorem onCoreAt_grav (s : State) (n : Nat) (f : Core → Core) : (s.onCoreAt n f).grav = s.grav := rfl
@[simp] theorem onCoreAt_barWaits (s : State) (n : Nat) (f : Core → Core) : (s.onCoreAt n f).barWaits = s.barWaits := rfl
@[simp] theorem onCoreAt_closing (s : State) (n : Nat) (f : Core → Core) : (s.onCoreAt n f).closing = s.closing := rfl
@[simp] theorem onCoreAt_wakes (s : State) (n : Nat) (f : Core → Core) : (s.onCoreAt n f).wakes = s.wakes := rfl
@[simp] theorem onCoreAt_returning (s : State) (n : Nat) (f : Core → Core) : (s.onCoreAt n f).returning = s.returning := rfl
@[simp] theorem onCoreAt_ac (s : State) (n : Nat) (f : Core → Core) : (s.onCoreAt n f).ac = s.ac := rfl
@[simp] theorem onCoreAt_routes (s : State) (n : Nat) (f : Core → Core) : (s.onCoreAt n f).routes = s.routes := rfl
@[simp] theorem onCoreAt_acks (s : State) (n : Nat) (f : Core → Core) : (s.onCoreAt n f).acks = s.acks := rfl
@[simp] theorem onCoreAt_nextAck (s : State) (n : Nat) (f : Core → Core) : (s.onCoreAt n f).nextAck = s.nextAck := rfl
@[simp] theorem onCoreAt_traps (s : State) (n : Nat) (f : Core → Core) : (s.onCoreAt n f).traps = s.traps := rfl
@[simp] theorem onCoreAt_packets (s : State) (n : Nat) (f : Core → Core) : (s.onCoreAt n f).packets = s.packets := rfl
@[simp] theorem onCoreAt_nextPacket (s : State) (n : Nat) (f : Core → Core) : (s.onCoreAt n f).nextPacket = s.nextPacket := rfl
@[simp] theorem onCoreAt_copyQueues (s : State) (n : Nat) (f : Core → Core) : (s.onCoreAt n f).copyQueues = s.copyQueues := rfl
@[simp] theorem onCoreAt_chipLines (s : State) (n : Nat) (f : Core → Core) : (s.onCoreAt n f).chipLines = s.chipLines := rfl
@[simp] theorem onCoreAt_nextCq (s : State) (n : Nat) (f : Core → Core) : (s.onCoreAt n f).nextCq = s.nextCq := rfl
@[simp] theorem onCoreAt_pkgRing (s : State) (n : Nat) (f : Core → Core) : (s.onCoreAt n f).pkgRing = s.pkgRing := rfl
@[simp] theorem onCoreAt_launches (s : State) (n : Nat) (f : Core → Core) : (s.onCoreAt n f).launches = s.launches := rfl
@[simp] theorem onCoreAt_svcCalls (s : State) (n : Nat) (f : Core → Core) : (s.onCoreAt n f).svcCalls = s.svcCalls := rfl
@[simp] theorem onCoreAt_parts (s : State) (n : Nat) (f : Core → Core) : (s.onCoreAt n f).parts = s.parts := rfl
@[simp] theorem onCoreAt_io (s : State) (n : Nat) (f : Core → Core) : (s.onCoreAt n f).io = s.io := rfl
@[simp] theorem onCoreAt_islands (s : State) (n : Nat) (f : Core → Core) : (s.onCoreAt n f).islands = s.islands := rfl
@[simp] theorem onCoreAt_fwRing (s : State) (n : Nat) (f : Core → Core) : (s.onCoreAt n f).fwRing = s.fwRing := rfl
@[simp] theorem onCoreAt_dies (s : State) (n : Nat) (f : Core → Core) : (s.onCoreAt n f).dies = s.dies := rfl
@[simp] theorem onCoreAt_reduced (s : State) (n : Nat) (f : Core → Core) : (s.onCoreAt n f).reduced = s.reduced := rfl
@[simp] theorem onCoreAt_root (s : State) (n : Nat) (f : Core → Core) : (s.onCoreAt n f).root = s.root := rfl
@[simp] theorem onCoreAt_out (s : State) (n : Nat) (f : Core → Core) : (s.onCoreAt n f).out = s.out := rfl
@[simp] theorem onCoreAt_posted (s : State) (n : Nat) (f : Core → Core) : (s.onCoreAt n f).posted = s.posted := rfl
@[simp] theorem onCoreAt_harts (s : State) (n : Nat) (f : Core → Core) : (s.onCoreAt n f).harts = s.harts := rfl
@[simp] theorem onCoreAt_waiting (s : State) (n : Nat) (f : Core → Core) : (s.onCoreAt n f).waiting = s.waiting := rfl
@[simp] theorem onCoreAt_outside (s : State) (n : Nat) (f : Core → Core) : (s.onCoreAt n f).outside = s.outside := rfl
@[simp] theorem onCoreAt_preempts (s : State) (n : Nat) (f : Core → Core) : (s.onCoreAt n f).preempts = s.preempts := rfl
@[simp] theorem onCoreAt_parked (s : State) (n : Nat) (f : Core → Core) : (s.onCoreAt n f).parked = s.parked := rfl
@[simp] theorem onCoreAt_displaced (s : State) (n : Nat) (f : Core → Core) : (s.onCoreAt n f).displaced = s.displaced := rfl

/-! ### onCore -/

@[simp] theorem onCore_schedule (s : State) (f : Core → Core) : (s.onCore f).schedule = s.schedule := rfl
@[simp] theorem onCore_act (s : State) (f : Core → Core) : (s.onCore f).act = s.act := rfl
@[simp] theorem onCore_fresh (s : State) (f : Core → Core) : (s.onCore f).fresh = s.fresh := rfl
@[simp] theorem onCore_clk (s : State) (f : Core → Core) : (s.onCore f).clk = s.clk := rfl
@[simp] theorem onCore_time (s : State) (f : Core → Core) : (s.onCore f).time = s.time := rfl
@[simp] theorem onCore_powered (s : State) (f : Core → Core) : (s.onCore f).powered = s.powered := rfl
@[simp] theorem onCore_mem (s : State) (f : Core → Core) : (s.onCore f).mem = s.mem := rfl
@[simp] theorem onCore_tileMem (s : State) (f : Core → Core) : (s.onCore f).tileMem = s.tileMem := rfl
@[simp] theorem onCore_ctxs (s : State) (f : Core → Core) : (s.onCore f).ctxs = s.ctxs := rfl
@[simp] theorem onCore_ctlb (s : State) (f : Core → Core) : (s.onCore f).ctlb = s.ctlb := rfl
@[simp] theorem onCore_store (s : State) (f : Core → Core) : (s.onCore f).store = s.store := rfl
@[simp] theorem onCore_gfes (s : State) (f : Core → Core) : (s.onCore f).gfes = s.gfes := rfl
@[simp] theorem onCore_ops (s : State) (f : Core → Core) : (s.onCore f).ops = s.ops := rfl
@[simp] theorem onCore_nextOp (s : State) (f : Core → Core) : (s.onCore f).nextOp = s.nextOp := rfl
@[simp] theorem onCore_nextUid (s : State) (f : Core → Core) : (s.onCore f).nextUid = s.nextUid := rfl
@[simp] theorem onCore_nextStream (s : State) (f : Core → Core) : (s.onCore f).nextStream = s.nextStream := rfl
@[simp] theorem onCore_devs (s : State) (f : Core → Core) : (s.onCore f).devs = s.devs := rfl
@[simp] theorem onCore_installed (s : State) (f : Core → Core) : (s.onCore f).installed = s.installed := rfl
@[simp] theorem onCore_blocks (s : State) (f : Core → Core) : (s.onCore f).blocks = s.blocks := rfl
@[simp] theorem onCore_nextBlock (s : State) (f : Core → Core) : (s.onCore f).nextBlock = s.nextBlock := rfl
@[simp] theorem onCore_temps (s : State) (f : Core → Core) : (s.onCore f).temps = s.temps := rfl
@[simp] theorem onCore_nextTemp (s : State) (f : Core → Core) : (s.onCore f).nextTemp = s.nextTemp := rfl
@[simp] theorem onCore_extents (s : State) (f : Core → Core) : (s.onCore f).extents = s.extents := rfl
@[simp] theorem onCore_prefer (s : State) (f : Core → Core) : (s.onCore f).prefer = s.prefer := rfl
@[simp] theorem onCore_gone (s : State) (f : Core → Core) : (s.onCore f).gone = s.gone := rfl
@[simp] theorem onCore_releases (s : State) (f : Core → Core) : (s.onCore f).releases = s.releases := rfl
@[simp] theorem onCore_granules (s : State) (f : Core → Core) : (s.onCore f).granules = s.granules := rfl
@[simp] theorem onCore_sdctl (s : State) (f : Core → Core) : (s.onCore f).sdctl = s.sdctl := rfl
@[simp] theorem onCore_sdva (s : State) (f : Core → Core) : (s.onCore f).sdva = s.sdva := rfl
@[simp] theorem onCore_graddr (s : State) (f : Core → Core) : (s.onCore f).graddr = s.graddr := rfl
@[simp] theorem onCore_psdctl (s : State) (f : Core → Core) : (s.onCore f).psdctl = s.psdctl := rfl
@[simp] theorem onCore_psdva (s : State) (f : Core → Core) : (s.onCore f).psdva = s.psdva := rfl
@[simp] theorem onCore_sdfirst (s : State) (f : Core → Core) : (s.onCore f).sdfirst = s.sdfirst := rfl
@[simp] theorem onCore_queues (s : State) (f : Core → Core) : (s.onCore f).queues = s.queues := rfl
@[simp] theorem onCore_combs (s : State) (f : Core → Core) : (s.onCore f).combs = s.combs := rfl
@[simp] theorem onCore_grav (s : State) (f : Core → Core) : (s.onCore f).grav = s.grav := rfl
@[simp] theorem onCore_barWaits (s : State) (f : Core → Core) : (s.onCore f).barWaits = s.barWaits := rfl
@[simp] theorem onCore_closing (s : State) (f : Core → Core) : (s.onCore f).closing = s.closing := rfl
@[simp] theorem onCore_wakes (s : State) (f : Core → Core) : (s.onCore f).wakes = s.wakes := rfl
@[simp] theorem onCore_returning (s : State) (f : Core → Core) : (s.onCore f).returning = s.returning := rfl
@[simp] theorem onCore_ac (s : State) (f : Core → Core) : (s.onCore f).ac = s.ac := rfl
@[simp] theorem onCore_routes (s : State) (f : Core → Core) : (s.onCore f).routes = s.routes := rfl
@[simp] theorem onCore_acks (s : State) (f : Core → Core) : (s.onCore f).acks = s.acks := rfl
@[simp] theorem onCore_nextAck (s : State) (f : Core → Core) : (s.onCore f).nextAck = s.nextAck := rfl
@[simp] theorem onCore_traps (s : State) (f : Core → Core) : (s.onCore f).traps = s.traps := rfl
@[simp] theorem onCore_packets (s : State) (f : Core → Core) : (s.onCore f).packets = s.packets := rfl
@[simp] theorem onCore_nextPacket (s : State) (f : Core → Core) : (s.onCore f).nextPacket = s.nextPacket := rfl
@[simp] theorem onCore_copyQueues (s : State) (f : Core → Core) : (s.onCore f).copyQueues = s.copyQueues := rfl
@[simp] theorem onCore_chipLines (s : State) (f : Core → Core) : (s.onCore f).chipLines = s.chipLines := rfl
@[simp] theorem onCore_nextCq (s : State) (f : Core → Core) : (s.onCore f).nextCq = s.nextCq := rfl
@[simp] theorem onCore_pkgRing (s : State) (f : Core → Core) : (s.onCore f).pkgRing = s.pkgRing := rfl
@[simp] theorem onCore_launches (s : State) (f : Core → Core) : (s.onCore f).launches = s.launches := rfl
@[simp] theorem onCore_svcCalls (s : State) (f : Core → Core) : (s.onCore f).svcCalls = s.svcCalls := rfl
@[simp] theorem onCore_parts (s : State) (f : Core → Core) : (s.onCore f).parts = s.parts := rfl
@[simp] theorem onCore_io (s : State) (f : Core → Core) : (s.onCore f).io = s.io := rfl
@[simp] theorem onCore_islands (s : State) (f : Core → Core) : (s.onCore f).islands = s.islands := rfl
@[simp] theorem onCore_fwRing (s : State) (f : Core → Core) : (s.onCore f).fwRing = s.fwRing := rfl
@[simp] theorem onCore_dies (s : State) (f : Core → Core) : (s.onCore f).dies = s.dies := rfl
@[simp] theorem onCore_reduced (s : State) (f : Core → Core) : (s.onCore f).reduced = s.reduced := rfl
@[simp] theorem onCore_root (s : State) (f : Core → Core) : (s.onCore f).root = s.root := rfl
@[simp] theorem onCore_out (s : State) (f : Core → Core) : (s.onCore f).out = s.out := rfl
@[simp] theorem onCore_posted (s : State) (f : Core → Core) : (s.onCore f).posted = s.posted := rfl
@[simp] theorem onCore_harts (s : State) (f : Core → Core) : (s.onCore f).harts = s.harts := rfl
@[simp] theorem onCore_waiting (s : State) (f : Core → Core) : (s.onCore f).waiting = s.waiting := rfl
@[simp] theorem onCore_outside (s : State) (f : Core → Core) : (s.onCore f).outside = s.outside := rfl
@[simp] theorem onCore_preempts (s : State) (f : Core → Core) : (s.onCore f).preempts = s.preempts := rfl
@[simp] theorem onCore_parked (s : State) (f : Core → Core) : (s.onCore f).parked = s.parked := rfl
@[simp] theorem onCore_displaced (s : State) (f : Core → Core) : (s.onCore f).displaced = s.displaced := rfl

/-! ### onGfeAt -/

@[simp] theorem onGfeAt_schedule (s : State) (n : Nat) (f : Gfe → Gfe) : (s.onGfeAt n f).schedule = s.schedule := rfl
@[simp] theorem onGfeAt_act (s : State) (n : Nat) (f : Gfe → Gfe) : (s.onGfeAt n f).act = s.act := rfl
@[simp] theorem onGfeAt_fresh (s : State) (n : Nat) (f : Gfe → Gfe) : (s.onGfeAt n f).fresh = s.fresh := rfl
@[simp] theorem onGfeAt_clk (s : State) (n : Nat) (f : Gfe → Gfe) : (s.onGfeAt n f).clk = s.clk := rfl
@[simp] theorem onGfeAt_time (s : State) (n : Nat) (f : Gfe → Gfe) : (s.onGfeAt n f).time = s.time := rfl
@[simp] theorem onGfeAt_powered (s : State) (n : Nat) (f : Gfe → Gfe) : (s.onGfeAt n f).powered = s.powered := rfl
@[simp] theorem onGfeAt_mem (s : State) (n : Nat) (f : Gfe → Gfe) : (s.onGfeAt n f).mem = s.mem := rfl
@[simp] theorem onGfeAt_tileMem (s : State) (n : Nat) (f : Gfe → Gfe) : (s.onGfeAt n f).tileMem = s.tileMem := rfl
@[simp] theorem onGfeAt_ctxs (s : State) (n : Nat) (f : Gfe → Gfe) : (s.onGfeAt n f).ctxs = s.ctxs := rfl
@[simp] theorem onGfeAt_cores (s : State) (n : Nat) (f : Gfe → Gfe) : (s.onGfeAt n f).cores = s.cores := rfl
@[simp] theorem onGfeAt_ctlb (s : State) (n : Nat) (f : Gfe → Gfe) : (s.onGfeAt n f).ctlb = s.ctlb := rfl
@[simp] theorem onGfeAt_store (s : State) (n : Nat) (f : Gfe → Gfe) : (s.onGfeAt n f).store = s.store := rfl
@[simp] theorem onGfeAt_ops (s : State) (n : Nat) (f : Gfe → Gfe) : (s.onGfeAt n f).ops = s.ops := rfl
@[simp] theorem onGfeAt_nextOp (s : State) (n : Nat) (f : Gfe → Gfe) : (s.onGfeAt n f).nextOp = s.nextOp := rfl
@[simp] theorem onGfeAt_nextUid (s : State) (n : Nat) (f : Gfe → Gfe) : (s.onGfeAt n f).nextUid = s.nextUid := rfl
@[simp] theorem onGfeAt_nextStream (s : State) (n : Nat) (f : Gfe → Gfe) : (s.onGfeAt n f).nextStream = s.nextStream := rfl
@[simp] theorem onGfeAt_devs (s : State) (n : Nat) (f : Gfe → Gfe) : (s.onGfeAt n f).devs = s.devs := rfl
@[simp] theorem onGfeAt_installed (s : State) (n : Nat) (f : Gfe → Gfe) : (s.onGfeAt n f).installed = s.installed := rfl
@[simp] theorem onGfeAt_blocks (s : State) (n : Nat) (f : Gfe → Gfe) : (s.onGfeAt n f).blocks = s.blocks := rfl
@[simp] theorem onGfeAt_nextBlock (s : State) (n : Nat) (f : Gfe → Gfe) : (s.onGfeAt n f).nextBlock = s.nextBlock := rfl
@[simp] theorem onGfeAt_temps (s : State) (n : Nat) (f : Gfe → Gfe) : (s.onGfeAt n f).temps = s.temps := rfl
@[simp] theorem onGfeAt_nextTemp (s : State) (n : Nat) (f : Gfe → Gfe) : (s.onGfeAt n f).nextTemp = s.nextTemp := rfl
@[simp] theorem onGfeAt_extents (s : State) (n : Nat) (f : Gfe → Gfe) : (s.onGfeAt n f).extents = s.extents := rfl
@[simp] theorem onGfeAt_prefer (s : State) (n : Nat) (f : Gfe → Gfe) : (s.onGfeAt n f).prefer = s.prefer := rfl
@[simp] theorem onGfeAt_gone (s : State) (n : Nat) (f : Gfe → Gfe) : (s.onGfeAt n f).gone = s.gone := rfl
@[simp] theorem onGfeAt_releases (s : State) (n : Nat) (f : Gfe → Gfe) : (s.onGfeAt n f).releases = s.releases := rfl
@[simp] theorem onGfeAt_granules (s : State) (n : Nat) (f : Gfe → Gfe) : (s.onGfeAt n f).granules = s.granules := rfl
@[simp] theorem onGfeAt_sdctl (s : State) (n : Nat) (f : Gfe → Gfe) : (s.onGfeAt n f).sdctl = s.sdctl := rfl
@[simp] theorem onGfeAt_sdva (s : State) (n : Nat) (f : Gfe → Gfe) : (s.onGfeAt n f).sdva = s.sdva := rfl
@[simp] theorem onGfeAt_graddr (s : State) (n : Nat) (f : Gfe → Gfe) : (s.onGfeAt n f).graddr = s.graddr := rfl
@[simp] theorem onGfeAt_psdctl (s : State) (n : Nat) (f : Gfe → Gfe) : (s.onGfeAt n f).psdctl = s.psdctl := rfl
@[simp] theorem onGfeAt_psdva (s : State) (n : Nat) (f : Gfe → Gfe) : (s.onGfeAt n f).psdva = s.psdva := rfl
@[simp] theorem onGfeAt_sdfirst (s : State) (n : Nat) (f : Gfe → Gfe) : (s.onGfeAt n f).sdfirst = s.sdfirst := rfl
@[simp] theorem onGfeAt_queues (s : State) (n : Nat) (f : Gfe → Gfe) : (s.onGfeAt n f).queues = s.queues := rfl
@[simp] theorem onGfeAt_combs (s : State) (n : Nat) (f : Gfe → Gfe) : (s.onGfeAt n f).combs = s.combs := rfl
@[simp] theorem onGfeAt_grav (s : State) (n : Nat) (f : Gfe → Gfe) : (s.onGfeAt n f).grav = s.grav := rfl
@[simp] theorem onGfeAt_barWaits (s : State) (n : Nat) (f : Gfe → Gfe) : (s.onGfeAt n f).barWaits = s.barWaits := rfl
@[simp] theorem onGfeAt_closing (s : State) (n : Nat) (f : Gfe → Gfe) : (s.onGfeAt n f).closing = s.closing := rfl
@[simp] theorem onGfeAt_wakes (s : State) (n : Nat) (f : Gfe → Gfe) : (s.onGfeAt n f).wakes = s.wakes := rfl
@[simp] theorem onGfeAt_returning (s : State) (n : Nat) (f : Gfe → Gfe) : (s.onGfeAt n f).returning = s.returning := rfl
@[simp] theorem onGfeAt_ac (s : State) (n : Nat) (f : Gfe → Gfe) : (s.onGfeAt n f).ac = s.ac := rfl
@[simp] theorem onGfeAt_routes (s : State) (n : Nat) (f : Gfe → Gfe) : (s.onGfeAt n f).routes = s.routes := rfl
@[simp] theorem onGfeAt_acks (s : State) (n : Nat) (f : Gfe → Gfe) : (s.onGfeAt n f).acks = s.acks := rfl
@[simp] theorem onGfeAt_nextAck (s : State) (n : Nat) (f : Gfe → Gfe) : (s.onGfeAt n f).nextAck = s.nextAck := rfl
@[simp] theorem onGfeAt_traps (s : State) (n : Nat) (f : Gfe → Gfe) : (s.onGfeAt n f).traps = s.traps := rfl
@[simp] theorem onGfeAt_packets (s : State) (n : Nat) (f : Gfe → Gfe) : (s.onGfeAt n f).packets = s.packets := rfl
@[simp] theorem onGfeAt_nextPacket (s : State) (n : Nat) (f : Gfe → Gfe) : (s.onGfeAt n f).nextPacket = s.nextPacket := rfl
@[simp] theorem onGfeAt_copyQueues (s : State) (n : Nat) (f : Gfe → Gfe) : (s.onGfeAt n f).copyQueues = s.copyQueues := rfl
@[simp] theorem onGfeAt_chipLines (s : State) (n : Nat) (f : Gfe → Gfe) : (s.onGfeAt n f).chipLines = s.chipLines := rfl
@[simp] theorem onGfeAt_nextCq (s : State) (n : Nat) (f : Gfe → Gfe) : (s.onGfeAt n f).nextCq = s.nextCq := rfl
@[simp] theorem onGfeAt_pkgRing (s : State) (n : Nat) (f : Gfe → Gfe) : (s.onGfeAt n f).pkgRing = s.pkgRing := rfl
@[simp] theorem onGfeAt_launches (s : State) (n : Nat) (f : Gfe → Gfe) : (s.onGfeAt n f).launches = s.launches := rfl
@[simp] theorem onGfeAt_svcCalls (s : State) (n : Nat) (f : Gfe → Gfe) : (s.onGfeAt n f).svcCalls = s.svcCalls := rfl
@[simp] theorem onGfeAt_parts (s : State) (n : Nat) (f : Gfe → Gfe) : (s.onGfeAt n f).parts = s.parts := rfl
@[simp] theorem onGfeAt_io (s : State) (n : Nat) (f : Gfe → Gfe) : (s.onGfeAt n f).io = s.io := rfl
@[simp] theorem onGfeAt_islands (s : State) (n : Nat) (f : Gfe → Gfe) : (s.onGfeAt n f).islands = s.islands := rfl
@[simp] theorem onGfeAt_fwRing (s : State) (n : Nat) (f : Gfe → Gfe) : (s.onGfeAt n f).fwRing = s.fwRing := rfl
@[simp] theorem onGfeAt_dies (s : State) (n : Nat) (f : Gfe → Gfe) : (s.onGfeAt n f).dies = s.dies := rfl
@[simp] theorem onGfeAt_reduced (s : State) (n : Nat) (f : Gfe → Gfe) : (s.onGfeAt n f).reduced = s.reduced := rfl
@[simp] theorem onGfeAt_root (s : State) (n : Nat) (f : Gfe → Gfe) : (s.onGfeAt n f).root = s.root := rfl
@[simp] theorem onGfeAt_out (s : State) (n : Nat) (f : Gfe → Gfe) : (s.onGfeAt n f).out = s.out := rfl
@[simp] theorem onGfeAt_posted (s : State) (n : Nat) (f : Gfe → Gfe) : (s.onGfeAt n f).posted = s.posted := rfl
@[simp] theorem onGfeAt_harts (s : State) (n : Nat) (f : Gfe → Gfe) : (s.onGfeAt n f).harts = s.harts := rfl
@[simp] theorem onGfeAt_waiting (s : State) (n : Nat) (f : Gfe → Gfe) : (s.onGfeAt n f).waiting = s.waiting := rfl
@[simp] theorem onGfeAt_outside (s : State) (n : Nat) (f : Gfe → Gfe) : (s.onGfeAt n f).outside = s.outside := rfl
@[simp] theorem onGfeAt_preempts (s : State) (n : Nat) (f : Gfe → Gfe) : (s.onGfeAt n f).preempts = s.preempts := rfl
@[simp] theorem onGfeAt_parked (s : State) (n : Nat) (f : Gfe → Gfe) : (s.onGfeAt n f).parked = s.parked := rfl
@[simp] theorem onGfeAt_displaced (s : State) (n : Nat) (f : Gfe → Gfe) : (s.onGfeAt n f).displaced = s.displaced := rfl

/-! ### onGfe -/

@[simp] theorem onGfe_schedule (s : State) (f : Gfe → Gfe) : (s.onGfe f).schedule = s.schedule := rfl
@[simp] theorem onGfe_act (s : State) (f : Gfe → Gfe) : (s.onGfe f).act = s.act := rfl
@[simp] theorem onGfe_fresh (s : State) (f : Gfe → Gfe) : (s.onGfe f).fresh = s.fresh := rfl
@[simp] theorem onGfe_clk (s : State) (f : Gfe → Gfe) : (s.onGfe f).clk = s.clk := rfl
@[simp] theorem onGfe_time (s : State) (f : Gfe → Gfe) : (s.onGfe f).time = s.time := rfl
@[simp] theorem onGfe_powered (s : State) (f : Gfe → Gfe) : (s.onGfe f).powered = s.powered := rfl
@[simp] theorem onGfe_mem (s : State) (f : Gfe → Gfe) : (s.onGfe f).mem = s.mem := rfl
@[simp] theorem onGfe_tileMem (s : State) (f : Gfe → Gfe) : (s.onGfe f).tileMem = s.tileMem := rfl
@[simp] theorem onGfe_ctxs (s : State) (f : Gfe → Gfe) : (s.onGfe f).ctxs = s.ctxs := rfl
@[simp] theorem onGfe_cores (s : State) (f : Gfe → Gfe) : (s.onGfe f).cores = s.cores := rfl
@[simp] theorem onGfe_ctlb (s : State) (f : Gfe → Gfe) : (s.onGfe f).ctlb = s.ctlb := rfl
@[simp] theorem onGfe_store (s : State) (f : Gfe → Gfe) : (s.onGfe f).store = s.store := rfl
@[simp] theorem onGfe_ops (s : State) (f : Gfe → Gfe) : (s.onGfe f).ops = s.ops := rfl
@[simp] theorem onGfe_nextOp (s : State) (f : Gfe → Gfe) : (s.onGfe f).nextOp = s.nextOp := rfl
@[simp] theorem onGfe_nextUid (s : State) (f : Gfe → Gfe) : (s.onGfe f).nextUid = s.nextUid := rfl
@[simp] theorem onGfe_nextStream (s : State) (f : Gfe → Gfe) : (s.onGfe f).nextStream = s.nextStream := rfl
@[simp] theorem onGfe_devs (s : State) (f : Gfe → Gfe) : (s.onGfe f).devs = s.devs := rfl
@[simp] theorem onGfe_installed (s : State) (f : Gfe → Gfe) : (s.onGfe f).installed = s.installed := rfl
@[simp] theorem onGfe_blocks (s : State) (f : Gfe → Gfe) : (s.onGfe f).blocks = s.blocks := rfl
@[simp] theorem onGfe_nextBlock (s : State) (f : Gfe → Gfe) : (s.onGfe f).nextBlock = s.nextBlock := rfl
@[simp] theorem onGfe_temps (s : State) (f : Gfe → Gfe) : (s.onGfe f).temps = s.temps := rfl
@[simp] theorem onGfe_nextTemp (s : State) (f : Gfe → Gfe) : (s.onGfe f).nextTemp = s.nextTemp := rfl
@[simp] theorem onGfe_extents (s : State) (f : Gfe → Gfe) : (s.onGfe f).extents = s.extents := rfl
@[simp] theorem onGfe_prefer (s : State) (f : Gfe → Gfe) : (s.onGfe f).prefer = s.prefer := rfl
@[simp] theorem onGfe_gone (s : State) (f : Gfe → Gfe) : (s.onGfe f).gone = s.gone := rfl
@[simp] theorem onGfe_releases (s : State) (f : Gfe → Gfe) : (s.onGfe f).releases = s.releases := rfl
@[simp] theorem onGfe_granules (s : State) (f : Gfe → Gfe) : (s.onGfe f).granules = s.granules := rfl
@[simp] theorem onGfe_sdctl (s : State) (f : Gfe → Gfe) : (s.onGfe f).sdctl = s.sdctl := rfl
@[simp] theorem onGfe_sdva (s : State) (f : Gfe → Gfe) : (s.onGfe f).sdva = s.sdva := rfl
@[simp] theorem onGfe_graddr (s : State) (f : Gfe → Gfe) : (s.onGfe f).graddr = s.graddr := rfl
@[simp] theorem onGfe_psdctl (s : State) (f : Gfe → Gfe) : (s.onGfe f).psdctl = s.psdctl := rfl
@[simp] theorem onGfe_psdva (s : State) (f : Gfe → Gfe) : (s.onGfe f).psdva = s.psdva := rfl
@[simp] theorem onGfe_sdfirst (s : State) (f : Gfe → Gfe) : (s.onGfe f).sdfirst = s.sdfirst := rfl
@[simp] theorem onGfe_queues (s : State) (f : Gfe → Gfe) : (s.onGfe f).queues = s.queues := rfl
@[simp] theorem onGfe_combs (s : State) (f : Gfe → Gfe) : (s.onGfe f).combs = s.combs := rfl
@[simp] theorem onGfe_grav (s : State) (f : Gfe → Gfe) : (s.onGfe f).grav = s.grav := rfl
@[simp] theorem onGfe_barWaits (s : State) (f : Gfe → Gfe) : (s.onGfe f).barWaits = s.barWaits := rfl
@[simp] theorem onGfe_closing (s : State) (f : Gfe → Gfe) : (s.onGfe f).closing = s.closing := rfl
@[simp] theorem onGfe_wakes (s : State) (f : Gfe → Gfe) : (s.onGfe f).wakes = s.wakes := rfl
@[simp] theorem onGfe_returning (s : State) (f : Gfe → Gfe) : (s.onGfe f).returning = s.returning := rfl
@[simp] theorem onGfe_ac (s : State) (f : Gfe → Gfe) : (s.onGfe f).ac = s.ac := rfl
@[simp] theorem onGfe_routes (s : State) (f : Gfe → Gfe) : (s.onGfe f).routes = s.routes := rfl
@[simp] theorem onGfe_acks (s : State) (f : Gfe → Gfe) : (s.onGfe f).acks = s.acks := rfl
@[simp] theorem onGfe_nextAck (s : State) (f : Gfe → Gfe) : (s.onGfe f).nextAck = s.nextAck := rfl
@[simp] theorem onGfe_traps (s : State) (f : Gfe → Gfe) : (s.onGfe f).traps = s.traps := rfl
@[simp] theorem onGfe_packets (s : State) (f : Gfe → Gfe) : (s.onGfe f).packets = s.packets := rfl
@[simp] theorem onGfe_nextPacket (s : State) (f : Gfe → Gfe) : (s.onGfe f).nextPacket = s.nextPacket := rfl
@[simp] theorem onGfe_copyQueues (s : State) (f : Gfe → Gfe) : (s.onGfe f).copyQueues = s.copyQueues := rfl
@[simp] theorem onGfe_chipLines (s : State) (f : Gfe → Gfe) : (s.onGfe f).chipLines = s.chipLines := rfl
@[simp] theorem onGfe_nextCq (s : State) (f : Gfe → Gfe) : (s.onGfe f).nextCq = s.nextCq := rfl
@[simp] theorem onGfe_pkgRing (s : State) (f : Gfe → Gfe) : (s.onGfe f).pkgRing = s.pkgRing := rfl
@[simp] theorem onGfe_launches (s : State) (f : Gfe → Gfe) : (s.onGfe f).launches = s.launches := rfl
@[simp] theorem onGfe_svcCalls (s : State) (f : Gfe → Gfe) : (s.onGfe f).svcCalls = s.svcCalls := rfl
@[simp] theorem onGfe_parts (s : State) (f : Gfe → Gfe) : (s.onGfe f).parts = s.parts := rfl
@[simp] theorem onGfe_io (s : State) (f : Gfe → Gfe) : (s.onGfe f).io = s.io := rfl
@[simp] theorem onGfe_islands (s : State) (f : Gfe → Gfe) : (s.onGfe f).islands = s.islands := rfl
@[simp] theorem onGfe_fwRing (s : State) (f : Gfe → Gfe) : (s.onGfe f).fwRing = s.fwRing := rfl
@[simp] theorem onGfe_dies (s : State) (f : Gfe → Gfe) : (s.onGfe f).dies = s.dies := rfl
@[simp] theorem onGfe_reduced (s : State) (f : Gfe → Gfe) : (s.onGfe f).reduced = s.reduced := rfl
@[simp] theorem onGfe_root (s : State) (f : Gfe → Gfe) : (s.onGfe f).root = s.root := rfl
@[simp] theorem onGfe_out (s : State) (f : Gfe → Gfe) : (s.onGfe f).out = s.out := rfl
@[simp] theorem onGfe_posted (s : State) (f : Gfe → Gfe) : (s.onGfe f).posted = s.posted := rfl
@[simp] theorem onGfe_harts (s : State) (f : Gfe → Gfe) : (s.onGfe f).harts = s.harts := rfl
@[simp] theorem onGfe_waiting (s : State) (f : Gfe → Gfe) : (s.onGfe f).waiting = s.waiting := rfl
@[simp] theorem onGfe_outside (s : State) (f : Gfe → Gfe) : (s.onGfe f).outside = s.outside := rfl
@[simp] theorem onGfe_preempts (s : State) (f : Gfe → Gfe) : (s.onGfe f).preempts = s.preempts := rfl
@[simp] theorem onGfe_parked (s : State) (f : Gfe → Gfe) : (s.onGfe f).parked = s.parked := rfl
@[simp] theorem onGfe_displaced (s : State) (f : Gfe → Gfe) : (s.onGfe f).displaced = s.displaced := rfl

/-! ### onDev -/

@[simp] theorem onDev_schedule (s : State) (c : Nat) (f : DevCtx → DevCtx) : (s.onDev c f).schedule = s.schedule := rfl
@[simp] theorem onDev_act (s : State) (c : Nat) (f : DevCtx → DevCtx) : (s.onDev c f).act = s.act := rfl
@[simp] theorem onDev_fresh (s : State) (c : Nat) (f : DevCtx → DevCtx) : (s.onDev c f).fresh = s.fresh := rfl
@[simp] theorem onDev_clk (s : State) (c : Nat) (f : DevCtx → DevCtx) : (s.onDev c f).clk = s.clk := rfl
@[simp] theorem onDev_time (s : State) (c : Nat) (f : DevCtx → DevCtx) : (s.onDev c f).time = s.time := rfl
@[simp] theorem onDev_powered (s : State) (c : Nat) (f : DevCtx → DevCtx) : (s.onDev c f).powered = s.powered := rfl
@[simp] theorem onDev_mem (s : State) (c : Nat) (f : DevCtx → DevCtx) : (s.onDev c f).mem = s.mem := rfl
@[simp] theorem onDev_tileMem (s : State) (c : Nat) (f : DevCtx → DevCtx) : (s.onDev c f).tileMem = s.tileMem := rfl
@[simp] theorem onDev_ctxs (s : State) (c : Nat) (f : DevCtx → DevCtx) : (s.onDev c f).ctxs = s.ctxs := rfl
@[simp] theorem onDev_cores (s : State) (c : Nat) (f : DevCtx → DevCtx) : (s.onDev c f).cores = s.cores := rfl
@[simp] theorem onDev_ctlb (s : State) (c : Nat) (f : DevCtx → DevCtx) : (s.onDev c f).ctlb = s.ctlb := rfl
@[simp] theorem onDev_store (s : State) (c : Nat) (f : DevCtx → DevCtx) : (s.onDev c f).store = s.store := rfl
@[simp] theorem onDev_gfes (s : State) (c : Nat) (f : DevCtx → DevCtx) : (s.onDev c f).gfes = s.gfes := rfl
@[simp] theorem onDev_ops (s : State) (c : Nat) (f : DevCtx → DevCtx) : (s.onDev c f).ops = s.ops := rfl
@[simp] theorem onDev_nextOp (s : State) (c : Nat) (f : DevCtx → DevCtx) : (s.onDev c f).nextOp = s.nextOp := rfl
@[simp] theorem onDev_nextUid (s : State) (c : Nat) (f : DevCtx → DevCtx) : (s.onDev c f).nextUid = s.nextUid := rfl
@[simp] theorem onDev_nextStream (s : State) (c : Nat) (f : DevCtx → DevCtx) : (s.onDev c f).nextStream = s.nextStream := rfl
@[simp] theorem onDev_installed (s : State) (c : Nat) (f : DevCtx → DevCtx) : (s.onDev c f).installed = s.installed := rfl
@[simp] theorem onDev_blocks (s : State) (c : Nat) (f : DevCtx → DevCtx) : (s.onDev c f).blocks = s.blocks := rfl
@[simp] theorem onDev_nextBlock (s : State) (c : Nat) (f : DevCtx → DevCtx) : (s.onDev c f).nextBlock = s.nextBlock := rfl
@[simp] theorem onDev_temps (s : State) (c : Nat) (f : DevCtx → DevCtx) : (s.onDev c f).temps = s.temps := rfl
@[simp] theorem onDev_nextTemp (s : State) (c : Nat) (f : DevCtx → DevCtx) : (s.onDev c f).nextTemp = s.nextTemp := rfl
@[simp] theorem onDev_extents (s : State) (c : Nat) (f : DevCtx → DevCtx) : (s.onDev c f).extents = s.extents := rfl
@[simp] theorem onDev_prefer (s : State) (c : Nat) (f : DevCtx → DevCtx) : (s.onDev c f).prefer = s.prefer := rfl
@[simp] theorem onDev_gone (s : State) (c : Nat) (f : DevCtx → DevCtx) : (s.onDev c f).gone = s.gone := rfl
@[simp] theorem onDev_releases (s : State) (c : Nat) (f : DevCtx → DevCtx) : (s.onDev c f).releases = s.releases := rfl
@[simp] theorem onDev_granules (s : State) (c : Nat) (f : DevCtx → DevCtx) : (s.onDev c f).granules = s.granules := rfl
@[simp] theorem onDev_sdctl (s : State) (c : Nat) (f : DevCtx → DevCtx) : (s.onDev c f).sdctl = s.sdctl := rfl
@[simp] theorem onDev_sdva (s : State) (c : Nat) (f : DevCtx → DevCtx) : (s.onDev c f).sdva = s.sdva := rfl
@[simp] theorem onDev_graddr (s : State) (c : Nat) (f : DevCtx → DevCtx) : (s.onDev c f).graddr = s.graddr := rfl
@[simp] theorem onDev_psdctl (s : State) (c : Nat) (f : DevCtx → DevCtx) : (s.onDev c f).psdctl = s.psdctl := rfl
@[simp] theorem onDev_psdva (s : State) (c : Nat) (f : DevCtx → DevCtx) : (s.onDev c f).psdva = s.psdva := rfl
@[simp] theorem onDev_sdfirst (s : State) (c : Nat) (f : DevCtx → DevCtx) : (s.onDev c f).sdfirst = s.sdfirst := rfl
@[simp] theorem onDev_queues (s : State) (c : Nat) (f : DevCtx → DevCtx) : (s.onDev c f).queues = s.queues := rfl
@[simp] theorem onDev_combs (s : State) (c : Nat) (f : DevCtx → DevCtx) : (s.onDev c f).combs = s.combs := rfl
@[simp] theorem onDev_grav (s : State) (c : Nat) (f : DevCtx → DevCtx) : (s.onDev c f).grav = s.grav := rfl
@[simp] theorem onDev_barWaits (s : State) (c : Nat) (f : DevCtx → DevCtx) : (s.onDev c f).barWaits = s.barWaits := rfl
@[simp] theorem onDev_closing (s : State) (c : Nat) (f : DevCtx → DevCtx) : (s.onDev c f).closing = s.closing := rfl
@[simp] theorem onDev_wakes (s : State) (c : Nat) (f : DevCtx → DevCtx) : (s.onDev c f).wakes = s.wakes := rfl
@[simp] theorem onDev_returning (s : State) (c : Nat) (f : DevCtx → DevCtx) : (s.onDev c f).returning = s.returning := rfl
@[simp] theorem onDev_ac (s : State) (c : Nat) (f : DevCtx → DevCtx) : (s.onDev c f).ac = s.ac := rfl
@[simp] theorem onDev_routes (s : State) (c : Nat) (f : DevCtx → DevCtx) : (s.onDev c f).routes = s.routes := rfl
@[simp] theorem onDev_acks (s : State) (c : Nat) (f : DevCtx → DevCtx) : (s.onDev c f).acks = s.acks := rfl
@[simp] theorem onDev_nextAck (s : State) (c : Nat) (f : DevCtx → DevCtx) : (s.onDev c f).nextAck = s.nextAck := rfl
@[simp] theorem onDev_traps (s : State) (c : Nat) (f : DevCtx → DevCtx) : (s.onDev c f).traps = s.traps := rfl
@[simp] theorem onDev_packets (s : State) (c : Nat) (f : DevCtx → DevCtx) : (s.onDev c f).packets = s.packets := rfl
@[simp] theorem onDev_nextPacket (s : State) (c : Nat) (f : DevCtx → DevCtx) : (s.onDev c f).nextPacket = s.nextPacket := rfl
@[simp] theorem onDev_copyQueues (s : State) (c : Nat) (f : DevCtx → DevCtx) : (s.onDev c f).copyQueues = s.copyQueues := rfl
@[simp] theorem onDev_chipLines (s : State) (c : Nat) (f : DevCtx → DevCtx) : (s.onDev c f).chipLines = s.chipLines := rfl
@[simp] theorem onDev_nextCq (s : State) (c : Nat) (f : DevCtx → DevCtx) : (s.onDev c f).nextCq = s.nextCq := rfl
@[simp] theorem onDev_pkgRing (s : State) (c : Nat) (f : DevCtx → DevCtx) : (s.onDev c f).pkgRing = s.pkgRing := rfl
@[simp] theorem onDev_launches (s : State) (c : Nat) (f : DevCtx → DevCtx) : (s.onDev c f).launches = s.launches := rfl
@[simp] theorem onDev_svcCalls (s : State) (c : Nat) (f : DevCtx → DevCtx) : (s.onDev c f).svcCalls = s.svcCalls := rfl
@[simp] theorem onDev_parts (s : State) (c : Nat) (f : DevCtx → DevCtx) : (s.onDev c f).parts = s.parts := rfl
@[simp] theorem onDev_io (s : State) (c : Nat) (f : DevCtx → DevCtx) : (s.onDev c f).io = s.io := rfl
@[simp] theorem onDev_islands (s : State) (c : Nat) (f : DevCtx → DevCtx) : (s.onDev c f).islands = s.islands := rfl
@[simp] theorem onDev_fwRing (s : State) (c : Nat) (f : DevCtx → DevCtx) : (s.onDev c f).fwRing = s.fwRing := rfl
@[simp] theorem onDev_dies (s : State) (c : Nat) (f : DevCtx → DevCtx) : (s.onDev c f).dies = s.dies := rfl
@[simp] theorem onDev_reduced (s : State) (c : Nat) (f : DevCtx → DevCtx) : (s.onDev c f).reduced = s.reduced := rfl
@[simp] theorem onDev_root (s : State) (c : Nat) (f : DevCtx → DevCtx) : (s.onDev c f).root = s.root := rfl
@[simp] theorem onDev_out (s : State) (c : Nat) (f : DevCtx → DevCtx) : (s.onDev c f).out = s.out := rfl
@[simp] theorem onDev_posted (s : State) (c : Nat) (f : DevCtx → DevCtx) : (s.onDev c f).posted = s.posted := rfl
@[simp] theorem onDev_harts (s : State) (c : Nat) (f : DevCtx → DevCtx) : (s.onDev c f).harts = s.harts := rfl
@[simp] theorem onDev_waiting (s : State) (c : Nat) (f : DevCtx → DevCtx) : (s.onDev c f).waiting = s.waiting := rfl
@[simp] theorem onDev_outside (s : State) (c : Nat) (f : DevCtx → DevCtx) : (s.onDev c f).outside = s.outside := rfl
@[simp] theorem onDev_preempts (s : State) (c : Nat) (f : DevCtx → DevCtx) : (s.onDev c f).preempts = s.preempts := rfl
@[simp] theorem onDev_parked (s : State) (c : Nat) (f : DevCtx → DevCtx) : (s.onDev c f).parked = s.parked := rfl
@[simp] theorem onDev_displaced (s : State) (c : Nat) (f : DevCtx → DevCtx) : (s.onDev c f).displaced = s.displaced := rfl

/-! ### onOp -/

@[simp] theorem onOp_schedule (s : State) (i : Nat) (f : OpInst → OpInst) : (s.onOp i f).schedule = s.schedule := rfl
@[simp] theorem onOp_act (s : State) (i : Nat) (f : OpInst → OpInst) : (s.onOp i f).act = s.act := rfl
@[simp] theorem onOp_fresh (s : State) (i : Nat) (f : OpInst → OpInst) : (s.onOp i f).fresh = s.fresh := rfl
@[simp] theorem onOp_clk (s : State) (i : Nat) (f : OpInst → OpInst) : (s.onOp i f).clk = s.clk := rfl
@[simp] theorem onOp_time (s : State) (i : Nat) (f : OpInst → OpInst) : (s.onOp i f).time = s.time := rfl
@[simp] theorem onOp_powered (s : State) (i : Nat) (f : OpInst → OpInst) : (s.onOp i f).powered = s.powered := rfl
@[simp] theorem onOp_mem (s : State) (i : Nat) (f : OpInst → OpInst) : (s.onOp i f).mem = s.mem := rfl
@[simp] theorem onOp_tileMem (s : State) (i : Nat) (f : OpInst → OpInst) : (s.onOp i f).tileMem = s.tileMem := rfl
@[simp] theorem onOp_ctxs (s : State) (i : Nat) (f : OpInst → OpInst) : (s.onOp i f).ctxs = s.ctxs := rfl
@[simp] theorem onOp_cores (s : State) (i : Nat) (f : OpInst → OpInst) : (s.onOp i f).cores = s.cores := rfl
@[simp] theorem onOp_ctlb (s : State) (i : Nat) (f : OpInst → OpInst) : (s.onOp i f).ctlb = s.ctlb := rfl
@[simp] theorem onOp_store (s : State) (i : Nat) (f : OpInst → OpInst) : (s.onOp i f).store = s.store := rfl
@[simp] theorem onOp_gfes (s : State) (i : Nat) (f : OpInst → OpInst) : (s.onOp i f).gfes = s.gfes := rfl
@[simp] theorem onOp_nextOp (s : State) (i : Nat) (f : OpInst → OpInst) : (s.onOp i f).nextOp = s.nextOp := rfl
@[simp] theorem onOp_nextUid (s : State) (i : Nat) (f : OpInst → OpInst) : (s.onOp i f).nextUid = s.nextUid := rfl
@[simp] theorem onOp_nextStream (s : State) (i : Nat) (f : OpInst → OpInst) : (s.onOp i f).nextStream = s.nextStream := rfl
@[simp] theorem onOp_devs (s : State) (i : Nat) (f : OpInst → OpInst) : (s.onOp i f).devs = s.devs := rfl
@[simp] theorem onOp_installed (s : State) (i : Nat) (f : OpInst → OpInst) : (s.onOp i f).installed = s.installed := rfl
@[simp] theorem onOp_blocks (s : State) (i : Nat) (f : OpInst → OpInst) : (s.onOp i f).blocks = s.blocks := rfl
@[simp] theorem onOp_nextBlock (s : State) (i : Nat) (f : OpInst → OpInst) : (s.onOp i f).nextBlock = s.nextBlock := rfl
@[simp] theorem onOp_temps (s : State) (i : Nat) (f : OpInst → OpInst) : (s.onOp i f).temps = s.temps := rfl
@[simp] theorem onOp_nextTemp (s : State) (i : Nat) (f : OpInst → OpInst) : (s.onOp i f).nextTemp = s.nextTemp := rfl
@[simp] theorem onOp_extents (s : State) (i : Nat) (f : OpInst → OpInst) : (s.onOp i f).extents = s.extents := rfl
@[simp] theorem onOp_prefer (s : State) (i : Nat) (f : OpInst → OpInst) : (s.onOp i f).prefer = s.prefer := rfl
@[simp] theorem onOp_gone (s : State) (i : Nat) (f : OpInst → OpInst) : (s.onOp i f).gone = s.gone := rfl
@[simp] theorem onOp_releases (s : State) (i : Nat) (f : OpInst → OpInst) : (s.onOp i f).releases = s.releases := rfl
@[simp] theorem onOp_granules (s : State) (i : Nat) (f : OpInst → OpInst) : (s.onOp i f).granules = s.granules := rfl
@[simp] theorem onOp_sdctl (s : State) (i : Nat) (f : OpInst → OpInst) : (s.onOp i f).sdctl = s.sdctl := rfl
@[simp] theorem onOp_sdva (s : State) (i : Nat) (f : OpInst → OpInst) : (s.onOp i f).sdva = s.sdva := rfl
@[simp] theorem onOp_graddr (s : State) (i : Nat) (f : OpInst → OpInst) : (s.onOp i f).graddr = s.graddr := rfl
@[simp] theorem onOp_psdctl (s : State) (i : Nat) (f : OpInst → OpInst) : (s.onOp i f).psdctl = s.psdctl := rfl
@[simp] theorem onOp_psdva (s : State) (i : Nat) (f : OpInst → OpInst) : (s.onOp i f).psdva = s.psdva := rfl
@[simp] theorem onOp_sdfirst (s : State) (i : Nat) (f : OpInst → OpInst) : (s.onOp i f).sdfirst = s.sdfirst := rfl
@[simp] theorem onOp_queues (s : State) (i : Nat) (f : OpInst → OpInst) : (s.onOp i f).queues = s.queues := rfl
@[simp] theorem onOp_combs (s : State) (i : Nat) (f : OpInst → OpInst) : (s.onOp i f).combs = s.combs := rfl
@[simp] theorem onOp_grav (s : State) (i : Nat) (f : OpInst → OpInst) : (s.onOp i f).grav = s.grav := rfl
@[simp] theorem onOp_barWaits (s : State) (i : Nat) (f : OpInst → OpInst) : (s.onOp i f).barWaits = s.barWaits := rfl
@[simp] theorem onOp_closing (s : State) (i : Nat) (f : OpInst → OpInst) : (s.onOp i f).closing = s.closing := rfl
@[simp] theorem onOp_wakes (s : State) (i : Nat) (f : OpInst → OpInst) : (s.onOp i f).wakes = s.wakes := rfl
@[simp] theorem onOp_returning (s : State) (i : Nat) (f : OpInst → OpInst) : (s.onOp i f).returning = s.returning := rfl
@[simp] theorem onOp_ac (s : State) (i : Nat) (f : OpInst → OpInst) : (s.onOp i f).ac = s.ac := rfl
@[simp] theorem onOp_routes (s : State) (i : Nat) (f : OpInst → OpInst) : (s.onOp i f).routes = s.routes := rfl
@[simp] theorem onOp_acks (s : State) (i : Nat) (f : OpInst → OpInst) : (s.onOp i f).acks = s.acks := rfl
@[simp] theorem onOp_nextAck (s : State) (i : Nat) (f : OpInst → OpInst) : (s.onOp i f).nextAck = s.nextAck := rfl
@[simp] theorem onOp_traps (s : State) (i : Nat) (f : OpInst → OpInst) : (s.onOp i f).traps = s.traps := rfl
@[simp] theorem onOp_packets (s : State) (i : Nat) (f : OpInst → OpInst) : (s.onOp i f).packets = s.packets := rfl
@[simp] theorem onOp_nextPacket (s : State) (i : Nat) (f : OpInst → OpInst) : (s.onOp i f).nextPacket = s.nextPacket := rfl
@[simp] theorem onOp_copyQueues (s : State) (i : Nat) (f : OpInst → OpInst) : (s.onOp i f).copyQueues = s.copyQueues := rfl
@[simp] theorem onOp_chipLines (s : State) (i : Nat) (f : OpInst → OpInst) : (s.onOp i f).chipLines = s.chipLines := rfl
@[simp] theorem onOp_nextCq (s : State) (i : Nat) (f : OpInst → OpInst) : (s.onOp i f).nextCq = s.nextCq := rfl
@[simp] theorem onOp_pkgRing (s : State) (i : Nat) (f : OpInst → OpInst) : (s.onOp i f).pkgRing = s.pkgRing := rfl
@[simp] theorem onOp_launches (s : State) (i : Nat) (f : OpInst → OpInst) : (s.onOp i f).launches = s.launches := rfl
@[simp] theorem onOp_svcCalls (s : State) (i : Nat) (f : OpInst → OpInst) : (s.onOp i f).svcCalls = s.svcCalls := rfl
@[simp] theorem onOp_parts (s : State) (i : Nat) (f : OpInst → OpInst) : (s.onOp i f).parts = s.parts := rfl
@[simp] theorem onOp_io (s : State) (i : Nat) (f : OpInst → OpInst) : (s.onOp i f).io = s.io := rfl
@[simp] theorem onOp_islands (s : State) (i : Nat) (f : OpInst → OpInst) : (s.onOp i f).islands = s.islands := rfl
@[simp] theorem onOp_fwRing (s : State) (i : Nat) (f : OpInst → OpInst) : (s.onOp i f).fwRing = s.fwRing := rfl
@[simp] theorem onOp_dies (s : State) (i : Nat) (f : OpInst → OpInst) : (s.onOp i f).dies = s.dies := rfl
@[simp] theorem onOp_reduced (s : State) (i : Nat) (f : OpInst → OpInst) : (s.onOp i f).reduced = s.reduced := rfl
@[simp] theorem onOp_root (s : State) (i : Nat) (f : OpInst → OpInst) : (s.onOp i f).root = s.root := rfl
@[simp] theorem onOp_out (s : State) (i : Nat) (f : OpInst → OpInst) : (s.onOp i f).out = s.out := rfl
@[simp] theorem onOp_posted (s : State) (i : Nat) (f : OpInst → OpInst) : (s.onOp i f).posted = s.posted := rfl
@[simp] theorem onOp_harts (s : State) (i : Nat) (f : OpInst → OpInst) : (s.onOp i f).harts = s.harts := rfl
@[simp] theorem onOp_waiting (s : State) (i : Nat) (f : OpInst → OpInst) : (s.onOp i f).waiting = s.waiting := rfl
@[simp] theorem onOp_outside (s : State) (i : Nat) (f : OpInst → OpInst) : (s.onOp i f).outside = s.outside := rfl
@[simp] theorem onOp_preempts (s : State) (i : Nat) (f : OpInst → OpInst) : (s.onOp i f).preempts = s.preempts := rfl
@[simp] theorem onOp_parked (s : State) (i : Nat) (f : OpInst → OpInst) : (s.onOp i f).parked = s.parked := rfl
@[simp] theorem onOp_displaced (s : State) (i : Nat) (f : OpInst → OpInst) : (s.onOp i f).displaced = s.displaced := rfl

/-! ### onQueue -/

@[simp] theorem onQueue_schedule (s : State) (i : Nat) (f : HwQueue → HwQueue) : (s.onQueue i f).schedule = s.schedule := rfl
@[simp] theorem onQueue_act (s : State) (i : Nat) (f : HwQueue → HwQueue) : (s.onQueue i f).act = s.act := rfl
@[simp] theorem onQueue_fresh (s : State) (i : Nat) (f : HwQueue → HwQueue) : (s.onQueue i f).fresh = s.fresh := rfl
@[simp] theorem onQueue_clk (s : State) (i : Nat) (f : HwQueue → HwQueue) : (s.onQueue i f).clk = s.clk := rfl
@[simp] theorem onQueue_time (s : State) (i : Nat) (f : HwQueue → HwQueue) : (s.onQueue i f).time = s.time := rfl
@[simp] theorem onQueue_powered (s : State) (i : Nat) (f : HwQueue → HwQueue) : (s.onQueue i f).powered = s.powered := rfl
@[simp] theorem onQueue_mem (s : State) (i : Nat) (f : HwQueue → HwQueue) : (s.onQueue i f).mem = s.mem := rfl
@[simp] theorem onQueue_tileMem (s : State) (i : Nat) (f : HwQueue → HwQueue) : (s.onQueue i f).tileMem = s.tileMem := rfl
@[simp] theorem onQueue_ctxs (s : State) (i : Nat) (f : HwQueue → HwQueue) : (s.onQueue i f).ctxs = s.ctxs := rfl
@[simp] theorem onQueue_cores (s : State) (i : Nat) (f : HwQueue → HwQueue) : (s.onQueue i f).cores = s.cores := rfl
@[simp] theorem onQueue_ctlb (s : State) (i : Nat) (f : HwQueue → HwQueue) : (s.onQueue i f).ctlb = s.ctlb := rfl
@[simp] theorem onQueue_store (s : State) (i : Nat) (f : HwQueue → HwQueue) : (s.onQueue i f).store = s.store := rfl
@[simp] theorem onQueue_gfes (s : State) (i : Nat) (f : HwQueue → HwQueue) : (s.onQueue i f).gfes = s.gfes := rfl
@[simp] theorem onQueue_ops (s : State) (i : Nat) (f : HwQueue → HwQueue) : (s.onQueue i f).ops = s.ops := rfl
@[simp] theorem onQueue_nextOp (s : State) (i : Nat) (f : HwQueue → HwQueue) : (s.onQueue i f).nextOp = s.nextOp := rfl
@[simp] theorem onQueue_nextUid (s : State) (i : Nat) (f : HwQueue → HwQueue) : (s.onQueue i f).nextUid = s.nextUid := rfl
@[simp] theorem onQueue_nextStream (s : State) (i : Nat) (f : HwQueue → HwQueue) : (s.onQueue i f).nextStream = s.nextStream := rfl
@[simp] theorem onQueue_devs (s : State) (i : Nat) (f : HwQueue → HwQueue) : (s.onQueue i f).devs = s.devs := rfl
@[simp] theorem onQueue_installed (s : State) (i : Nat) (f : HwQueue → HwQueue) : (s.onQueue i f).installed = s.installed := rfl
@[simp] theorem onQueue_blocks (s : State) (i : Nat) (f : HwQueue → HwQueue) : (s.onQueue i f).blocks = s.blocks := rfl
@[simp] theorem onQueue_nextBlock (s : State) (i : Nat) (f : HwQueue → HwQueue) : (s.onQueue i f).nextBlock = s.nextBlock := rfl
@[simp] theorem onQueue_temps (s : State) (i : Nat) (f : HwQueue → HwQueue) : (s.onQueue i f).temps = s.temps := rfl
@[simp] theorem onQueue_nextTemp (s : State) (i : Nat) (f : HwQueue → HwQueue) : (s.onQueue i f).nextTemp = s.nextTemp := rfl
@[simp] theorem onQueue_extents (s : State) (i : Nat) (f : HwQueue → HwQueue) : (s.onQueue i f).extents = s.extents := rfl
@[simp] theorem onQueue_prefer (s : State) (i : Nat) (f : HwQueue → HwQueue) : (s.onQueue i f).prefer = s.prefer := rfl
@[simp] theorem onQueue_gone (s : State) (i : Nat) (f : HwQueue → HwQueue) : (s.onQueue i f).gone = s.gone := rfl
@[simp] theorem onQueue_releases (s : State) (i : Nat) (f : HwQueue → HwQueue) : (s.onQueue i f).releases = s.releases := rfl
@[simp] theorem onQueue_granules (s : State) (i : Nat) (f : HwQueue → HwQueue) : (s.onQueue i f).granules = s.granules := rfl
@[simp] theorem onQueue_sdctl (s : State) (i : Nat) (f : HwQueue → HwQueue) : (s.onQueue i f).sdctl = s.sdctl := rfl
@[simp] theorem onQueue_sdva (s : State) (i : Nat) (f : HwQueue → HwQueue) : (s.onQueue i f).sdva = s.sdva := rfl
@[simp] theorem onQueue_graddr (s : State) (i : Nat) (f : HwQueue → HwQueue) : (s.onQueue i f).graddr = s.graddr := rfl
@[simp] theorem onQueue_psdctl (s : State) (i : Nat) (f : HwQueue → HwQueue) : (s.onQueue i f).psdctl = s.psdctl := rfl
@[simp] theorem onQueue_psdva (s : State) (i : Nat) (f : HwQueue → HwQueue) : (s.onQueue i f).psdva = s.psdva := rfl
@[simp] theorem onQueue_sdfirst (s : State) (i : Nat) (f : HwQueue → HwQueue) : (s.onQueue i f).sdfirst = s.sdfirst := rfl
@[simp] theorem onQueue_combs (s : State) (i : Nat) (f : HwQueue → HwQueue) : (s.onQueue i f).combs = s.combs := rfl
@[simp] theorem onQueue_grav (s : State) (i : Nat) (f : HwQueue → HwQueue) : (s.onQueue i f).grav = s.grav := rfl
@[simp] theorem onQueue_barWaits (s : State) (i : Nat) (f : HwQueue → HwQueue) : (s.onQueue i f).barWaits = s.barWaits := rfl
@[simp] theorem onQueue_closing (s : State) (i : Nat) (f : HwQueue → HwQueue) : (s.onQueue i f).closing = s.closing := rfl
@[simp] theorem onQueue_wakes (s : State) (i : Nat) (f : HwQueue → HwQueue) : (s.onQueue i f).wakes = s.wakes := rfl
@[simp] theorem onQueue_returning (s : State) (i : Nat) (f : HwQueue → HwQueue) : (s.onQueue i f).returning = s.returning := rfl
@[simp] theorem onQueue_ac (s : State) (i : Nat) (f : HwQueue → HwQueue) : (s.onQueue i f).ac = s.ac := rfl
@[simp] theorem onQueue_routes (s : State) (i : Nat) (f : HwQueue → HwQueue) : (s.onQueue i f).routes = s.routes := rfl
@[simp] theorem onQueue_acks (s : State) (i : Nat) (f : HwQueue → HwQueue) : (s.onQueue i f).acks = s.acks := rfl
@[simp] theorem onQueue_nextAck (s : State) (i : Nat) (f : HwQueue → HwQueue) : (s.onQueue i f).nextAck = s.nextAck := rfl
@[simp] theorem onQueue_traps (s : State) (i : Nat) (f : HwQueue → HwQueue) : (s.onQueue i f).traps = s.traps := rfl
@[simp] theorem onQueue_packets (s : State) (i : Nat) (f : HwQueue → HwQueue) : (s.onQueue i f).packets = s.packets := rfl
@[simp] theorem onQueue_nextPacket (s : State) (i : Nat) (f : HwQueue → HwQueue) : (s.onQueue i f).nextPacket = s.nextPacket := rfl
@[simp] theorem onQueue_copyQueues (s : State) (i : Nat) (f : HwQueue → HwQueue) : (s.onQueue i f).copyQueues = s.copyQueues := rfl
@[simp] theorem onQueue_chipLines (s : State) (i : Nat) (f : HwQueue → HwQueue) : (s.onQueue i f).chipLines = s.chipLines := rfl
@[simp] theorem onQueue_nextCq (s : State) (i : Nat) (f : HwQueue → HwQueue) : (s.onQueue i f).nextCq = s.nextCq := rfl
@[simp] theorem onQueue_pkgRing (s : State) (i : Nat) (f : HwQueue → HwQueue) : (s.onQueue i f).pkgRing = s.pkgRing := rfl
@[simp] theorem onQueue_launches (s : State) (i : Nat) (f : HwQueue → HwQueue) : (s.onQueue i f).launches = s.launches := rfl
@[simp] theorem onQueue_svcCalls (s : State) (i : Nat) (f : HwQueue → HwQueue) : (s.onQueue i f).svcCalls = s.svcCalls := rfl
@[simp] theorem onQueue_parts (s : State) (i : Nat) (f : HwQueue → HwQueue) : (s.onQueue i f).parts = s.parts := rfl
@[simp] theorem onQueue_io (s : State) (i : Nat) (f : HwQueue → HwQueue) : (s.onQueue i f).io = s.io := rfl
@[simp] theorem onQueue_islands (s : State) (i : Nat) (f : HwQueue → HwQueue) : (s.onQueue i f).islands = s.islands := rfl
@[simp] theorem onQueue_fwRing (s : State) (i : Nat) (f : HwQueue → HwQueue) : (s.onQueue i f).fwRing = s.fwRing := rfl
@[simp] theorem onQueue_dies (s : State) (i : Nat) (f : HwQueue → HwQueue) : (s.onQueue i f).dies = s.dies := rfl
@[simp] theorem onQueue_reduced (s : State) (i : Nat) (f : HwQueue → HwQueue) : (s.onQueue i f).reduced = s.reduced := rfl
@[simp] theorem onQueue_root (s : State) (i : Nat) (f : HwQueue → HwQueue) : (s.onQueue i f).root = s.root := rfl
@[simp] theorem onQueue_out (s : State) (i : Nat) (f : HwQueue → HwQueue) : (s.onQueue i f).out = s.out := rfl
@[simp] theorem onQueue_posted (s : State) (i : Nat) (f : HwQueue → HwQueue) : (s.onQueue i f).posted = s.posted := rfl
@[simp] theorem onQueue_harts (s : State) (i : Nat) (f : HwQueue → HwQueue) : (s.onQueue i f).harts = s.harts := rfl
@[simp] theorem onQueue_waiting (s : State) (i : Nat) (f : HwQueue → HwQueue) : (s.onQueue i f).waiting = s.waiting := rfl
@[simp] theorem onQueue_outside (s : State) (i : Nat) (f : HwQueue → HwQueue) : (s.onQueue i f).outside = s.outside := rfl
@[simp] theorem onQueue_preempts (s : State) (i : Nat) (f : HwQueue → HwQueue) : (s.onQueue i f).preempts = s.preempts := rfl
@[simp] theorem onQueue_parked (s : State) (i : Nat) (f : HwQueue → HwQueue) : (s.onQueue i f).parked = s.parked := rfl
@[simp] theorem onQueue_displaced (s : State) (i : Nat) (f : HwQueue → HwQueue) : (s.onQueue i f).displaced = s.displaced := rfl

/-! ### say -/

@[simp] theorem say_schedule (s : State) (o : Output) : (s.say o).schedule = s.schedule := rfl
@[simp] theorem say_act (s : State) (o : Output) : (s.say o).act = s.act := rfl
@[simp] theorem say_fresh (s : State) (o : Output) : (s.say o).fresh = s.fresh := rfl
@[simp] theorem say_clk (s : State) (o : Output) : (s.say o).clk = s.clk := rfl
@[simp] theorem say_time (s : State) (o : Output) : (s.say o).time = s.time := rfl
@[simp] theorem say_powered (s : State) (o : Output) : (s.say o).powered = s.powered := rfl
@[simp] theorem say_mem (s : State) (o : Output) : (s.say o).mem = s.mem := rfl
@[simp] theorem say_tileMem (s : State) (o : Output) : (s.say o).tileMem = s.tileMem := rfl
@[simp] theorem say_ctxs (s : State) (o : Output) : (s.say o).ctxs = s.ctxs := rfl
@[simp] theorem say_cores (s : State) (o : Output) : (s.say o).cores = s.cores := rfl
@[simp] theorem say_ctlb (s : State) (o : Output) : (s.say o).ctlb = s.ctlb := rfl
@[simp] theorem say_store (s : State) (o : Output) : (s.say o).store = s.store := rfl
@[simp] theorem say_gfes (s : State) (o : Output) : (s.say o).gfes = s.gfes := rfl
@[simp] theorem say_ops (s : State) (o : Output) : (s.say o).ops = s.ops := rfl
@[simp] theorem say_nextOp (s : State) (o : Output) : (s.say o).nextOp = s.nextOp := rfl
@[simp] theorem say_nextUid (s : State) (o : Output) : (s.say o).nextUid = s.nextUid := rfl
@[simp] theorem say_nextStream (s : State) (o : Output) : (s.say o).nextStream = s.nextStream := rfl
@[simp] theorem say_devs (s : State) (o : Output) : (s.say o).devs = s.devs := rfl
@[simp] theorem say_installed (s : State) (o : Output) : (s.say o).installed = s.installed := rfl
@[simp] theorem say_blocks (s : State) (o : Output) : (s.say o).blocks = s.blocks := rfl
@[simp] theorem say_nextBlock (s : State) (o : Output) : (s.say o).nextBlock = s.nextBlock := rfl
@[simp] theorem say_temps (s : State) (o : Output) : (s.say o).temps = s.temps := rfl
@[simp] theorem say_nextTemp (s : State) (o : Output) : (s.say o).nextTemp = s.nextTemp := rfl
@[simp] theorem say_extents (s : State) (o : Output) : (s.say o).extents = s.extents := rfl
@[simp] theorem say_prefer (s : State) (o : Output) : (s.say o).prefer = s.prefer := rfl
@[simp] theorem say_gone (s : State) (o : Output) : (s.say o).gone = s.gone := rfl
@[simp] theorem say_releases (s : State) (o : Output) : (s.say o).releases = s.releases := rfl
@[simp] theorem say_granules (s : State) (o : Output) : (s.say o).granules = s.granules := rfl
@[simp] theorem say_sdctl (s : State) (o : Output) : (s.say o).sdctl = s.sdctl := rfl
@[simp] theorem say_sdva (s : State) (o : Output) : (s.say o).sdva = s.sdva := rfl
@[simp] theorem say_graddr (s : State) (o : Output) : (s.say o).graddr = s.graddr := rfl
@[simp] theorem say_psdctl (s : State) (o : Output) : (s.say o).psdctl = s.psdctl := rfl
@[simp] theorem say_psdva (s : State) (o : Output) : (s.say o).psdva = s.psdva := rfl
@[simp] theorem say_sdfirst (s : State) (o : Output) : (s.say o).sdfirst = s.sdfirst := rfl
@[simp] theorem say_queues (s : State) (o : Output) : (s.say o).queues = s.queues := rfl
@[simp] theorem say_combs (s : State) (o : Output) : (s.say o).combs = s.combs := rfl
@[simp] theorem say_grav (s : State) (o : Output) : (s.say o).grav = s.grav := rfl
@[simp] theorem say_barWaits (s : State) (o : Output) : (s.say o).barWaits = s.barWaits := rfl
@[simp] theorem say_closing (s : State) (o : Output) : (s.say o).closing = s.closing := rfl
@[simp] theorem say_wakes (s : State) (o : Output) : (s.say o).wakes = s.wakes := rfl
@[simp] theorem say_returning (s : State) (o : Output) : (s.say o).returning = s.returning := rfl
@[simp] theorem say_ac (s : State) (o : Output) : (s.say o).ac = s.ac := rfl
@[simp] theorem say_routes (s : State) (o : Output) : (s.say o).routes = s.routes := rfl
@[simp] theorem say_acks (s : State) (o : Output) : (s.say o).acks = s.acks := rfl
@[simp] theorem say_nextAck (s : State) (o : Output) : (s.say o).nextAck = s.nextAck := rfl
@[simp] theorem say_traps (s : State) (o : Output) : (s.say o).traps = s.traps := rfl
@[simp] theorem say_packets (s : State) (o : Output) : (s.say o).packets = s.packets := rfl
@[simp] theorem say_nextPacket (s : State) (o : Output) : (s.say o).nextPacket = s.nextPacket := rfl
@[simp] theorem say_copyQueues (s : State) (o : Output) : (s.say o).copyQueues = s.copyQueues := rfl
@[simp] theorem say_chipLines (s : State) (o : Output) : (s.say o).chipLines = s.chipLines := rfl
@[simp] theorem say_nextCq (s : State) (o : Output) : (s.say o).nextCq = s.nextCq := rfl
@[simp] theorem say_pkgRing (s : State) (o : Output) : (s.say o).pkgRing = s.pkgRing := rfl
@[simp] theorem say_launches (s : State) (o : Output) : (s.say o).launches = s.launches := rfl
@[simp] theorem say_svcCalls (s : State) (o : Output) : (s.say o).svcCalls = s.svcCalls := rfl
@[simp] theorem say_parts (s : State) (o : Output) : (s.say o).parts = s.parts := rfl
@[simp] theorem say_io (s : State) (o : Output) : (s.say o).io = s.io := rfl
@[simp] theorem say_islands (s : State) (o : Output) : (s.say o).islands = s.islands := rfl
@[simp] theorem say_fwRing (s : State) (o : Output) : (s.say o).fwRing = s.fwRing := rfl
@[simp] theorem say_dies (s : State) (o : Output) : (s.say o).dies = s.dies := rfl
@[simp] theorem say_reduced (s : State) (o : Output) : (s.say o).reduced = s.reduced := rfl
@[simp] theorem say_root (s : State) (o : Output) : (s.say o).root = s.root := rfl
@[simp] theorem say_posted (s : State) (o : Output) : (s.say o).posted = s.posted := rfl
@[simp] theorem say_harts (s : State) (o : Output) : (s.say o).harts = s.harts := rfl
@[simp] theorem say_waiting (s : State) (o : Output) : (s.say o).waiting = s.waiting := rfl
@[simp] theorem say_outside (s : State) (o : Output) : (s.say o).outside = s.outside := rfl
@[simp] theorem say_preempts (s : State) (o : Output) : (s.say o).preempts = s.preempts := rfl
@[simp] theorem say_parked (s : State) (o : Output) : (s.say o).parked = s.parked := rfl
@[simp] theorem say_displaced (s : State) (o : Output) : (s.say o).displaced = s.displaced := rfl

/-! ### What an accessor reads after an update -/

@[simp] theorem ctxAt_setCtxAt (s : State) (k : Nat) (c : Ctx) : (s.setCtxAt k c).ctxAt k = c := get_ins_self _ _ _ _

theorem ctxAt_setCtxAt_ne (s : State) {j k : Nat} (c : Ctx) (h : j ≠ k) : (s.setCtxAt k c).ctxAt j = s.ctxAt j := get_ins_ne _ _ h _

@[simp] theorem ctxAt_onCtxAt (s : State) (k : Nat) (f : Ctx → Ctx) : (s.onCtxAt k f).ctxAt k = f (s.ctxAt k) := get_ins_self _ _ _ _

theorem ctxAt_onCtxAt_ne (s : State) {j k : Nat} (f : Ctx → Ctx) (h : j ≠ k) : (s.onCtxAt k f).ctxAt j = s.ctxAt j := get_ins_ne _ _ h _

@[simp] theorem ctx_onCtx (s : State) (f : Ctx → Ctx) : (s.onCtx f).ctx = f s.ctx := get_ins_self _ _ _ _

theorem ctxAt_onCtx_ne (s : State) {j : Nat} (f : Ctx → Ctx) (h : j ≠ s.act.ck) : (s.onCtx f).ctxAt j = s.ctxAt j := get_ins_ne _ _ h _

@[simp] theorem coreAt_onCoreAt (s : State) (n : Nat) (f : Core → Core) : (s.onCoreAt n f).coreAt n = f (s.coreAt n) := get_ins_self _ _ _ _

theorem coreAt_onCoreAt_ne (s : State) {m n : Nat} (f : Core → Core) (h : m ≠ n) : (s.onCoreAt n f).coreAt m = s.coreAt m :=
  get_ins_ne _ _ h _

@[simp] theorem core_onCore (s : State) (f : Core → Core) : (s.onCore f).core = f s.core := get_ins_self _ _ _ _

@[simp] theorem gfeAt_onGfeAt (s : State) (n : Nat) (f : Gfe → Gfe) : (s.onGfeAt n f).gfeAt n = f (s.gfeAt n) := get_ins_self _ _ _ _

@[simp] theorem gfe_onGfe (s : State) (f : Gfe → Gfe) : (s.onGfe f).gfe = f s.gfe := get_ins_self _ _ _ _

@[simp] theorem dev_onDev (s : State) (c : Nat) (f : DevCtx → DevCtx) : (s.onDev c f).dev c = f (s.dev c) := get_ins_self _ _ _ _

theorem dev_onDev_ne (s : State) {b c : Nat} (f : DevCtx → DevCtx) (h : b ≠ c) : (s.onDev c f).dev b = s.dev b := get_ins_ne _ _ h _

@[simp] theorem queue_onQueue (s : State) (i : Nat) (f : HwQueue → HwQueue) : (s.onQueue i f).queue i = f (s.queue i) := get_ins_self _ _ _ _

@[simp] theorem say_out_eq (s : State) (o : Output) : (s.say o).out = s.out ++ [o] := rfl

@[simp] theorem core_onCtx (s : State) (f : Ctx → Ctx) : (s.onCtx f).core = s.core := rfl

@[simp] theorem gfe_onCtx (s : State) (f : Ctx → Ctx) : (s.onCtx f).gfe = s.gfe := rfl

@[simp] theorem ctx_onCore (s : State) (f : Core → Core) : (s.onCore f).ctx = s.ctx := rfl

/-! ### A context's updates -/

@[simp] theorem later_bank (c : Ctx) (n : Nat) (ws : List RegW) : (c.later n ws).bank = c.bank := rfl
@[simp] theorem later_pos (c : Ctx) (n : Nat) (ws : List RegW) : (c.later n ws).pos = c.pos := rfl
@[simp] theorem later_status (c : Ctx) (n : Nat) (ws : List RegW) : (c.later n ws).status = c.status := rfl
@[simp] theorem later_gated (c : Ctx) (n : Nat) (ws : List RegW) : (c.later n ws).gated = c.gated := rfl
@[simp] theorem later_next (c : Ctx) (n : Nat) (ws : List RegW) : (c.later n ws).next = c.next := rfl
@[simp] theorem later_var (c : Ctx) (n : Nat) (ws : List RegW) : (c.later n ws).var = c.var := rfl
@[simp] theorem goto_next (c : Ctx) (t : Nat) : (c.goto t).next = some t := rfl
@[simp] theorem goto_bank (c : Ctx) (t : Nat) : (c.goto t).bank = c.bank := rfl
@[simp] theorem dropLatches_bank (c : Ctx) : c.dropLatches.bank = c.bank := rfl
@[simp] theorem inFlight_bank (c : Ctx) (d : Dst) (bs : List Byte) (n : Nat) (a b : Bool) : (c.inFlight d bs n a b).bank = c.bank := rfl

/-- One result of a fixed latency joins those in flight. -/
theorem later_one (c : Ctx) (n : Nat) (w : RegW) : (c.later n [w]).fix = insFix ⟨c.pos + n, w⟩ c.fix := rfl

/-! ### The shared operations -/

/-- Everything a slot operation can come to. -/
theorem slotOp_next (v : Verdict) (s : State) (f : State → State) : slotOp v s f = .next (runVerdict v s f) := rfl

/-- A slot operation whose checks pass has its effect. -/
theorem slotOp_ok {v : Verdict} {s : State} {f : State → State} (h : v = .ok) : slotOp v s f = .next (f s) := by
  subst h
  rfl

theorem always_next (s : State) (f : State → State) : always s f = .next (f s) := rfl

/-- Everything a context's trap does: its record joins those that wait, the context stops, its latches drop (R141, R157). -/
theorem takeTrap_traps (t : TrapInfo) (s : State) : (takeTrap t s).traps = s.traps ++ [s.trapRecOf s.act.ck t false] := rfl
theorem takeTrap_mem (t : TrapInfo) (s : State) : (takeTrap t s).mem = s.mem := rfl
theorem takeTrap_tileMem (t : TrapInfo) (s : State) : (takeTrap t s).tileMem = s.tileMem := rfl
theorem takeTrap_cores (t : TrapInfo) (s : State) : (takeTrap t s).cores = s.cores := rfl
theorem takeTrap_ctx (t : TrapInfo) (s : State) :
    (takeTrap t s).ctx = { s.ctx.dropLatches with status := .trapped, marks := 0, w := 0 } := get_ins_self _ _ _ _

/-- The checks pass together exactly when each passes. -/
theorem and_ok {a b : Verdict} : a.and b = .ok ↔ a = .ok ∧ b = .ok := by
  cases a <;> simp [Verdict.and]

theorem need_ok {c : Bool} {t : TrapInfo} : need c t = .ok ↔ c = true := by
  cases c <;> simp [need]

end Sys2Proof.Laws
end

