-- ==== Sys2Proof/Tests/Slice0.lean ====
section
/-! SUPPORT. Tests: the well-formedness smoke, decoding of words written out from the encoding tables, a few one-step tests, and for each
statement a state and operands that meet its hypotheses, clause by clause. -/

set_option linter.all false
set_option Elab.async false
set_option maxRecDepth 20000

namespace Sys2Proof.Tests

open Sys2Proof Sys2Proof.Machine Sys2Proof.Claims

/-! ### Small states -/

/-- Context 0 of core 0, ready, bound to work whose image is bundles 0 to 99. -/
def base : State := State.reset.onCtx fun c => { c with status := .ready, work := { ({} : Work) with job := .tile 1 0 [], nb := 100 } }

/-- With s registers, k-registers, a bundle index. -/
def regs (l : AMap SReg) (s : State) : State := s.onCtx fun c => { c with bank := { c.bank with s := l } }
def kregs (l : AMap Word) (s : State) : State := s.onCtx fun c => { c with bank := { c.bank with k := l } }
def atPc (n : Nat) (s : State) : State := s.onCtx fun c => { c with bank := { c.bank with pc := n } }
/-- A capability: base, length, permissions R W E N S as bits 4 to 0, residency. -/
def cap (b len perm res : Nat) : SReg := ⟨BitVec.ofNat 128 (b * 2 ^ 72 + len * 2 ^ 32 + perm * 2 ^ 27 + res * 2 ^ 16), true⟩

/-- With bytes of memory, and with a heap that maps 0x10000 to 0x20000 onto itself. -/
def bytes (l : Memory) (s : State) : State := { s with mem := l }
def heap (k : AMap Word) (s : State) : State := kregs ([(0x10, 0x10000), (0x11, 0x20000)] ++ k) s

/-- Whether a verdict blocks, and whether a status waits for a ring's slot. -/
def blocks? : Verdict → Bool
  | .block _ => true
  | _ => false
def ringed? : Status → Bool
  | .blocked (.ring _ _) => true
  | _ => false
theorem noBlock {v : Verdict} (h : blocks? v = false) : ∀ why, v ≠ .block why := by
  rintro why rfl
  simp [blocks?] at h
theorem someBlock {v : Verdict} (h : blocks? v = true) : ∃ why, v = .block why := by
  cases v <;> simp [blocks?] at h
  exact ⟨_, rfl⟩
theorem noRing {st : Status} (h : ringed? st = false) : ∀ m i, st ≠ .blocked (.ring m i) := by
  rintro m i rfl
  simp [ringed?] at h

/-- The value of a result, and what it is when there is one. -/
def okOr {ε α : Type} (d : α) : Except ε α → α
  | .ok x => x
  | .error _ => d
theorem okIs {ε α : Type} {d : α} {x : Except ε α} (h : x.toBool = true) : x = .ok (okOr d x) := by
  cases x <;> simp_all [okOr, Except.toBool]
/-- The state that a part's work leaves. -/
def doneOr (d : State) : PartOut → State
  | .done t => t
  | _ => d
def done? : PartOut → Bool
  | .done _ => true
  | _ => false
theorem doneIs {d : State} {x : PartOut} (h : done? x = true) : x = .done (doneOr d x) := by
  cases x <;> simp_all [doneOr, done?]
/-- A state in which nothing of a context is under way has drained (R106). -/
theorem quietly {s : State} {d v f : Nat} (h : s.acks = []) (g : ∀ p ∈ s.ctxs, p.2.var = [] ∧ p.2.remote = none ∧ p.2.gated = [] ∧ p.2.wbuf = []) :
    Drained s d v f :=
  ⟨by simp [h], fun p hp _ => ⟨by simp [(g p hp).1], by simp [(g p hp).2.1], by simp [(g p hp).2.2.1, (g p hp).2.2.2]⟩⟩
theorem unquiet {s : State} {d v f : Nat} {a : Ack} (h : a ∈ s.acks) (hd : a.ck / 512 = d) (hp : a.performed = false)
    (hu : s.ctxOfUid a.uid = none) : ¬Drained s d v f := fun g => by
  rcases g.1 a h hd with q | ⟨c, hc, _⟩ <;> simp_all
/-- The first number of an error. -/
def errOf {α : Type} : Except (Nat × Nat) α → Option Nat
  | .ok _ => none
  | .error e => some e.1
theorem errIs {α : Type} {n : Nat} {x : Except (Nat × Nat) α} (h : errOf x = some n) : ∃ b, x = .error (n, b) := by
  rcases x with ⟨a, b⟩ | x <;> simp_all [errOf]
/-- What an image reads as. -/
def img? : ImgOut → Bool
  | .ok _ _ => true
  | .no _ => false
def imgM (d : Installed) : ImgOut → Installed
  | .ok m _ => m
  | .no _ => d
def imgB : ImgOut → List Nat
  | .ok _ b => b
  | .no _ => []
theorem imgIs {d : Installed} {x : ImgOut} (h : img? x = true) : x = .ok (imgM d x) (imgB x) := by
  cases x <;> simp_all [img?, imgM, imgB]
/-- What holds at each place of a list of pairs. -/
theorem allAt {b : List (Nat × Nat)} {P : Nat → Nat → Nat → Prop} (h : ∀ k, k < b.length → P k (nth (0, 0) b k).1 (nth (0, 0) b k).2) :
    ∀ k o n, b[k]? = some (o, n) → P k o n := by
  intro k o n e
  have hk : k < b.length := by
    by_contra g
    simp [List.getElem?_eq_none (Nat.le_of_not_lt g)] at e
  have := h k hk
  have q : nth (0, 0) b k = (o, n) := by
    clear h this hk
    induction b generalizing k with
    | nil => simp at e
    | cons x xs ih => cases k <;> simp_all [nth]
  rw [q] at this
  exact this
theorem pairIs {α β : Type} {x : α × β} {a : α} (h : x.1 = a) : x = (a, x.2) := by
  cases x
  simp_all
theorem someIs {α : Type} {d : α} {x : Option α} (h : x.isSome = true) : x = some (x.getD d) := by
  cases x <;> simp_all
theorem fstIs {α β : Type} {x : Option (α × β)} {a : α} (h : x.map Prod.fst = some a) : ∃ b, x = some (a, b) := by
  rcases x with _ | ⟨c, b⟩ <;> simp_all

/-- Registers for the scalar statements. -/
def wS : State := regs [(1, plain 5), (2, cap 0x1000 16 31 0), (3, cap 0x1000 16 29 0), (4, plain 17), (5, plain 16), (6, plain 0),
  (7, plain 12345678901234567890), (8, ⟨5, true⟩), (9, plain 0x111), (10, plain 512), (11, plain 528), (12, plain (2 ^ 40 + 67))] base
/-- A page at 0x10000, and table entries in it: target 5, then no target, a reserved bit, and a target outside the image. -/
def page (p : Nat) (s : State) : State := s.onCore fun c => { c with tlb := [⟨0, 0x10000, 4096, p, 0x900⟩] }
def wD : State := page 0x100D7 (bytes [(0x10000, 5), (0x10001, 0x80), (0x10002, 9), (0x10005, 0x60), (0x10006, 200), (0x10007, 0x80)]
  (kregs [(0x24, 2 ^ 57 + 0x10000)] (regs [(1, plain 1), (2, plain 2), (3, plain 3)] base)))
def paged (va : Nat) : List (Nat × Option (Nat × Nat)) := [(va, some (0x100D7, 0x900))]

def wF : VFields := ⟨1, 3, 1, 2, 0x151, false, false, 5, 0⟩
def wL : Ctx := { ({} : Ctx) with latchA := ⟨some 7, 4⟩, latchB := ⟨some 9, 5⟩ }

/-- Capabilities for the engine commands. -/
def wM : State := regs [(1, cap 0x3000000 4096 31 3), (2, cap 0x2000000 4096 31 4), (3, cap 0x3000000 64 29 3), (4, cap 0x2000000 256 29 4), (5, plain 9),
  (6, cap 0x3000000 1024 23 3), (7, cap 0x3000000 1023 31 3), (8, cap 0x2000000 1024 31 4), (9, cap 0x3000040 128 31 3), (10, cap 0x3000000 8 29 3)]
  (kregs [(0x42, 0x35)] base)
def full (q n : Nat) (s : State) : State := s.onCore fun c => { c with cmds := (List.range n).map fun k => ⟨k, q, 1, 0, {}, 0, .rtclr, [], [], 0, [], false, false, 0, [], [], none, none, false, 0⟩ }
def heldBy (m r : Option Nat) (s : State) : State := s.onCore fun c => { c with holdM := m, holdR := r }

/-- A heap from 0x10000 to 0x20000 with two numbers in it, and operands to it. -/
def wX : State := bytes [(0x10000, 1), (0x10001, 2), (0x10002, 3), (0x1003F, 4), (0x10040, 5), (0x10100, 255)]
  (heap [(0x50, 2 ^ 63 + 3)] (regs [(1, plain 0x10000), (2, cap 0x10000 16 31 0), (3, plain 0x1000C), (4, plain 4), (5, plain 0x10001), (6, cap 0x10000 4096 31 0), (7, plain (2 ^ 64 - 3))] base))
def own (a n : Nat) : List Piece := [⟨.mem a, 0, n, false⟩]
def direct (a : Nat) : List (Nat × Option (Nat × Nat)) := [(a, none)]
def released (s : State) : State := s.onCtx fun c => { c with released := true }
def gatedBy (l : List GStore) (s : State) : State := s.onCtx fun c => { c with gated := l }
/-- A speculating context; its register 2 holds a capability with S = 1. -/
def wSpec : State := wX.onCtx fun c => { c with spec := true }

/-- Memory with a number of n bytes at k; a variable-latency result in flight; a data or task queue at slot 5 of a region. -/
def put (k n v : Nat) (s : State) : State := { s with mem := s.mem.writeNat k n v }
def inflight (s : State) : State := s.onCtx fun c => { c with var := [⟨0, .int 9 8 false, [], 1, [], false, false, false, [], false, false, [], []⟩] }
def gravity (n : Nat) (s : State) : State := s.onCtx fun c => { c with hg := n }
/-- Device context 0 with a region whose RCB lies at 0x12000, to which the context is bound. -/
def wR : State := ({ wX with devs := [(0, { resident := true, created := true, heap := [0x10000, 0x20000, 0], rootRcb := 0x12000, regions := [⟨0x12000, 0x12000, 0, true⟩] })] } : State).onCtx
  fun c => { c with work := { c.work with rcb := 0x12000 } }
/-- The same with a quiescence root (ROOT is bit 7 of byte 15). -/
def wQ : State := put 0x1200F 1 0x80 wR
/-- Hardware queue 3 of die 0, mapped at slot 5, of 16 places. -/
def queued (task : Nat) (l : List QElem) (s : State) : State :=
  { s with queues := [(3, { qcfg := BitVec.ofNat 64 (2 ^ 62 + task * 2 ^ 59 + 5 * 2 ^ 53 + 4 * 2 ^ 49 + 16 * 2 ^ 33), qrcb := 0x12000, elems := l })] }

/-- A stream of region 0x12000 on GFE 0 alone, its image at 0x14000 with 64 code words, an ENDLOOP at offset 64, and the Handle Table at 0x13000. -/
def gfe0 : Gfe := { busy := true, ctxid := 0, rcb := 0x12000, set := [0], width := 1, chips := 1, img := 0x14000, codew := 64, shoff := 0x200, nshard := 1, pc := 32, g := [(1, 5), (2, 7)] }
def wG : State := put 0x14040 4 0x01010000 { wR with act := { core := 0, x := 0, gfe := 0, die := 0 }, gfes := [(0, gfe0)], devs := [(0, { resident := true, created := true, htbase := 0x13000, htcount := 64, heap := [0x10000, 0x20000, 0], rootRcb := 0x12000, ptroot := 0x1000, pools := [(0x18000, 0x200000)], regions := [⟨0x12000, 0x12000, 0, true⟩] })] }
def onG (f : Gfe → Gfe) (s : State) : State := s.onGfe f
/-- A dense tensor: handle, format, extents, base. -/
def ent (h fmt : Nat) (dims : List Nat) (base : Nat) : HEnt := ⟨h, true, dims.length, 15, 0, 0, fmt, 0, denseStrides dims, pad6 dims, capBits base (fmtSize fmt (dims.foldl (· * ·) 1)) 0x1E fmt 3 h⟩
/-- The cells of bytes from an address; a byte 0 is not listed. -/
def cells : Nat → List Byte → Memory
  | _, [] => []
  | a, b :: bs => if b = 0 then cells (a + 1) bs else (a, b) :: cells (a + 1) bs
/-- With a tensor defined: its entry of 64 bytes in the Handle Table of plane 0. -/
def ten (h fmt : Nat) (dims : List Nat) (base : Nat) (s : State) : State :=
  let a := 0x13000 + 64 * h
  { s with mem := s.mem.takeWhile (fun c => decide (c.1 < a)) ++ cells a (ent h fmt dims base).bytes ++ s.mem.dropWhile (fun c => decide (c.1 < a + 64)) }
/-- Two GFEs in the set; the other has presented a value. -/
def pair (b : GBlock) (s : State) : State := { (s.onGfe fun g => { g with set := [0, 1] }) with gfes := [(0, { gfe0 with set := [0, 1] }), (1, { gfe0 with set := [0, 1], shard := 1, block := b })] }
def hd0 : Hd := ⟨0, false, 0⟩
/-- An operator in progress of the stream that names handle h. -/
def opOn (h : Nat) (wr : Bool) (s : State) : State := { s with ops := [{ id := 0, gfe := 0, stream := 0, ctxid := 0, rcb := 0x12000, shard := 0, width := 1, chips := 1, rank := 0, opc := 32, fuse := 0, record := .softmax hd0 h h 0, vals := [], handles := [⟨h, !wr, wr, 3⟩], deps := [], blocks := [], counts := [], order := 0, total := 1 }] }
/-- Tensors for the operator records. -/
def wT : State := ten 1 0 [4, 4] 0x15000 (ten 2 0 [4, 4] 0x15100 (ten 3 0 [4, 8] 0x15200 (ten 4 8 [4] 0x15300 (ten 5 0 [8, 4] 0x15400 (ten 6 0 [4, 2] 0x15500 wG)))))
def wP : State := ten 10 5 [4, 3] 0x16000 (ten 11 0 [2, 3] 0x16100 (ten 12 5 [4, 2] 0x16200 (ten 13 9 [4, 2] 0x16800 (ten 14 1 [4, 3] 0x16300 (ten 15 8 [256] 0x17000 (ten 16 0 [1, 4] 0x16400 (ten 17 0 [4] 0x16500 wT)))))))
def wC : State := ten 20 5 [2, 3, 3, 1] 0x16000 (ten 21 0 [2, 2, 2, 1] 0x16100 (ten 22 5 [2, 2, 2, 2] 0x16200 (ten 23 2 [4, 3] 0x16300 (ten 24 2 [4, 3] 0x16400 (ten 25 2 [4, 5] 0x16500 (ten 26 2 [4, 5] 0x16600 wT))))))
def wE : State := ten 30 0 [4, 10] 0x16000 (ten 31 0 [4, 3] 0x16100 (ten 32 8 [3] 0x16200 (ten 33 0 [2, 3] 0x16300 (ten 34 8 [2, 3] 0x16400 (ten 35 8 [1, 3] 0x16500 wT)))))
def wL2 : State := ten 40 0 [3, 8] 0x16000 (ten 41 0 [3, 3] 0x16100 (ten 42 0 [3] 0x16200 (ten 43 0 [1, 8] 0x16300 (ten 44 8 [32] 0x16400 (ten 45 0 [2, 4] 0x16500 wT)))))
/-- Handle 7 in a region of HBM that has room. -/
def wA : State := { wT.setEntry 0 0 ((ent 7 0 [4, 4] 0x18000).place 0x18000 64 0) with blocks := [⟨1, 0, 0, 0, 0, 0x1000, 0, 0x12000, 7, 0, [], 0⟩] }
def inst1 : Installed := ⟨0, 512, 0, 1, 0, 0, [0, 0, 0, 0, 0, 0], [1], [], 0, false, false⟩
def planes2 (s : State) : State := { s with devs := s.devs.map fun d => (d.1, { d.2 with htplanes := 2, heap := [0x10000, 0x1000000, 0] }) }
/-- The region is a root; a job card at 0x16000 (entry 1, one record), in handle 8; queue 3 takes tasks. -/
def wK : State := queued 1 [] (put 0x1200F 1 0x80 (put 0x16000 2 1 (put 0x1600C 4 1 (ten 8 6 [32] 0x16000 wT))))
def card0 : Card := okOr ⟨0, 0, 0, 0, 0, 0, 0, 0, false⟩ (wK.cardAt 0 0x16000)
def after (s : State) : State := okOr s ((s.rootAdd 0x12000 0x40 (2 ^ 30)).writeCard 0 0x16000)
/-- A page of 2 MiB at 0 with X = 1, and an operator image of one bundle at 0x40000. -/
def paged2M (s : State) : State := put 0x1000 8 0x2001 (put 0x2000 8 0x3001 (put 0x3000 8 0x4001 (put 0x4000 8 (2 * 2 ^ 52 + 0xDB) s)))
def imaged (s : State) : State := put 0x40000 4 0x57454F31 (put 0x40004 2 1 (put 0x40008 2 1 (put 0x40018 4 0x60 (put 0x4001C 4 0x40 (put 0x40020 4 0x50 (put 0x40040 4 1 (paged2M s)))))))
def wI : State := imaged wT
def insOf (s : State) : Installed := match s.readImage false 0x40000 512 9 with
  | .ok m _ => m
  | .no _ => inst1
def bundlesIn (s : State) : List Nat := match s.readImage false 0x40000 512 9 with
  | .ok _ b => b
  | .no _ => []
/-- The service ring of the region at 0x10100, of 4 slots of one line. -/
def wV : State := put 0x12068 8 0x10100 (put 0x10100 1 0 (put 0x10108 4 (1 * 65536 + 4) wT))
def calledBy (s : State) (args : List Nat) : State := match s.gfeCall args with
  | .ok u => u
  | _ => s
def budget (s : State) : State := put 0x12020 8 (2 ^ 30) (put 0x12028 8 (2 ^ 30) (put 0x12030 8 (2 ^ 30) (put 0x12038 8 (2 ^ 30) s)))
def wH : State := budget wI
def history (s : State) (h : Nat) : (Nat × Nat × Nat) × State := match (s.offSpecs 0 h).historyRegion (issueAsker s.gfe 0) (s.gent h) with
  | .ok x => x
  | .error _ => ((0, 0, 0), s)
def ringOf (s : State) : State := match s.svcRing with
  | .ok u => u
  | _ => s
def relV : State := wV.onCtx fun c => { c with released := true }

/-- TLB entries of two device contexts, one of them global, in core 0, core 130 and cluster 0. -/
def wSd : State := { base with ctlb := [(0, [⟨1, 0x4000, 4096, 0xDF, 0x900⟩]), (16, [⟨1, 0x4000, 4096, 0xDF, 0x900⟩])], cores := [(0, { tlb := [⟨1, 0x3000, 4096, 0xDF, 0x900⟩, ⟨2, 0x5000, 4096, 0xFF, 0x908⟩] }), (130, { tlb := [⟨1, 0x3000, 4096, 0xDF, 0x900⟩] })], sdva := [(0, 0x3000)], psdva := 0x5000, dies := [0, 1] }
def go : Nat := 2 ^ 63
def sdBusy (v : Nat) (s : State) : State := { s with sdctl := [(0, BitVec.ofNat 64 v)] }
def psdBusy (v : Nat) (s : State) : State := { s with psdctl := BitVec.ofNat 64 v }
/-- The tables of the 2 MiB page, with A and D clear. -/
def wPt : State := put 0x4000 8 (2 * 2 ^ 52 + 0x1B) (put 0x3000 8 0x4001 (put 0x2000 8 0x3001 (put 0x1000 8 0x2001 wG)))
/-- Context 0 stands at a load, or a store, of 8 bytes at 0x30000, which its page tables give. -/
def paging (i : Instr) (s : State) : State := { s.onCtxAt 0 fun c => { c with bank := { c.bank with s := AMap.put ⟨0, false⟩ 1 (plain 0x30000) c.bank.s } } with store := [(0, BitVec.ofNat 256 (encodeBundle1 0 i))] }
def wPl : State := paging (.ld 9 1 3 false 0 0) wPt
def wPs : State := paging (.st 9 1 3 false 0 0) wPt
def tlbIn (p : Nat) (s : State) : State := s.onCoreAt 0 fun c => { c with tlb := [⟨0, 0, 2 ^ 21, p, 0x4000⟩] }
/-- Queue 3 of die 0 in a state, its backing area and its signal word in the heap, with elements. -/
def qState (st : Nat) (task : Nat) (l : List QElem) (s : State) : State :=
  { s with queues := [(3, { qcfg := BitVec.ofNat 64 (st * 2 ^ 62 + task * 2 ^ 59 + 5 * 2 ^ 53 + 4 * 2 ^ 49 + 16 * 2 ^ 33), qrcb := 0x12000, qsave := 0x16000, qsig := BitVec.ofNat 64 (2 ^ 63 + 0x16800), elems := l })] }
def unmapped (s : State) : State := okOr s (s.unitWrite (s.unitEnv 0) 0x16000 (leBytes 2 4 ++ leBytes 0 12 ++ leBytes 7 16 ++ leBytes 8 16))
def sigDue (b : Bool) (s : State) : State := s.onQueue 3 fun q => { q with due := b }

def island (i v : Nat) (s : State) : State := s.setIo (0x1000 + 8 * i) v
def isled (i l : Nat) (b : Bool) (s : State) : State := { s with islands := AMap.ins i (b, l) s.islands }
def onRoute (src dst : Nat) (m : Msg) (s : State) : State := { s with routes := [(9 * src + dst, [m, ⟨[], .marker⟩])] }

/-- A service request pending on core 0 for a context, so many clk counted, and a deadline. -/
def svcAsked (x kind n : Nat) (s : State) : State := s.onCore fun c => { c with svcreq := BitVec.ofNat 64 (2 ^ 63 + x * 2 ^ 56 + kind * 2 ^ 48 + 77), dcount := n, k := [(0x48, 10)], svcS := [(5, plain 55)], svcP := 3 }
/-- The bundle at index 0 has a Y mark. -/
def yMark (s : State) : State := { s with store := [(0, BitVec.ofNat 256 (2 ^ 253))] }
def call0 (l : List SvcCall) (s : State) : State := ({ s with svcCalls := l } : State).setIo 0x28 9
/-- A CSCMD command with its block at 0x18000. -/
def cmd (op c : Nat) (s : State) : State := ((s.setIo 0x58 (2 ^ 63 + c * 2 ^ 56 + op)).setIo 0x50 0x18000)
def inBlk (l : List (Nat × Nat × Nat)) (s : State) : State := l.foldl (fun t w => put (0x18000 + w.1) w.2.1 w.2.2 t) s
def haltRec (s : State) : State := put 0x14020 4 0x02410000 s
/-- A sound descriptor: its root region's RCB at 0x12000, reached through the heap. -/
def described : List (Nat × Nat × Nat) := [(0, 8, 0x1000), (8, 8, 0x13000), (0x10, 4, 64), (0x14, 1, 1), (0x18, 8, 0x10000), (0x20, 8, 0x20000), (0xB0, 8, 0x12000)]
def bare (s : State) : State := { s with devs := [] }
def calm (s : State) : State := s.onCtxAt 0 fun _ => {}
def noStreams (s : State) : State := { calm s with gfes := [] }
def devIs (f : DevCtx → DevCtx) (s : State) : State := { s with devs := s.devs.map fun d => (d.1, f d.2) }
/-- A copy-queue header at 0x10400: 16 slots at 0x11000, tables at 0x12800 and 0x12C00. -/
def header (s : State) : State := put 0x10410 8 0x11000 (put 0x10418 8 4 (put 0x10420 8 0x1F000 (put 0x10428 8 0x12C00 (put 0x10400 8 5 (put 0x10408 8 5 s)))))
def headBytes (s : State) : List Byte := okOr [] (s.unitRead (s.unitEnv 0) 0x10400 64)
def cq0 : CopyQueue := ⟨7, 0, 0x10400, 0, 0, 0, 0x12000, none⟩
def rg (dir : Nat) (s : State) : State := put 0x10100 1 0 (put 0x10108 4 (65536 + 4) (put 0x1010C 4 dir s))
def wSus : State := devIs (fun d => { d with suspending := true }) (put 0x1200F 1 0x10 (opOn 3 true { wG with gfes := [] }))
def resumes (n : Nat) (s : State) : State := devIs (fun d => { d with resident := decide (n ≠ 0), resuming := n }) (put 0x1200F 1 0x20 s)

/-- A launch record at 0x17000 for the image at 0x14000, dies 0 and 1 in service. -/
def wLn : State := put 0x17000 8 0x14000 (put 0x17008 8 0x12000 (put 0x17020 8 3 (put 0x17028 8 5 (put 0x17030 8 7 (put 0x14000 4 0x41444E31 (put 0x14004 4 64 (put 0x1400E 2 1 { noStreams wG with dies := [0, 1] })))))))
def recordOf (s : State) : List Byte := okOr [] (s.unitRead (s.unitEnv 0) 0x17000 0x228)
def headOf (s : State) : List Byte := okOr [] (s.unitRead (s.unitEnv 0) 0x14000 32)
def stated (n : Nat) (s : State) : State := okOr s (s.unitWrite (s.unitEnv 0) 0x1701C (leBytes n 4))
def wLw : State := { wLn with launches := [Claims.asked 0 0x17000 0 (recordOf wLn)] }
def rg0 : LaunchRec := Claims.asked 0 0x17000 0 (recordOf wLn)
def cMark (c p : Bool) (s : State) : State := { s with store := [(0, BitVec.ofNat 256 (c.toNat * 2 ^ 252 + p.toNat * 2 ^ 254 + 2 ^ 240))] }
/-- Operator 1 of the stream with its image; the tile of it that the context runs. -/
def tiled (s : State) : State := { s with installed := [inst1], ops := [{ id := 1, gfe := 0, stream := 0, ctxid := 0, rcb := 0x12000, shard := 0, width := 1, chips := 1, rank := 0, opc := 32, fuse := 0, record := .userOperator 0 0 512 [(3, 0)], vals := [], handles := [⟨3, true, false, 3⟩], deps := [], blocks := [], counts := [], order := 0, total := 4, nextTile := 1, image := some 0 }] }
def op1 (s : State) : OpInst := nth { id := 9, gfe := 0, stream := 0, ctxid := 0, rcb := 0, shard := 0, width := 1, chips := 1, rank := 0, opc := 32, fuse := 0, record := .halt 0, vals := [], handles := [], deps := [], blocks := [], counts := [], order := 0, total := 4 } s.ops 0
def wCp : State := tiled (cMark true false (put 0x1200F 1 0x10 wT))
def reg0 : Region := ⟨0x12000, 0x12000, 0, true⟩
/-- A save area of the region at 0x17800, with room. -/
def saving (s : State) : State := put 0x12070 8 0x17800 (put 0x17800 8 0x8000 s)
/-- Every core of die 0 halted, a card of priority 15 waiting, and a blocked context. -/
def full0 (s : State) : State := { (s.onCtx fun c => { c with status := .blocked .hwq }) with cores := (List.range 128).map fun k => (k, { halted := true }), queues := (queued 1 [⟨0x16000, 0, 0⟩] wG).queues.map fun p => (p.1, { p.2 with high := true, checked := true }) }
def cand0 : Cand := ⟨15, 0, true, 3⟩
def sv0 : Saved := { ctx := { wG.ctx with status := .blocked .hwq, hg := 4 }, since := 0 }

/-- The state after a record has issued, its region running and core 0 without work. -/
def ran (i : Instr) (s : State) : State := match exec i (calm (put 0x1200F 1 0x10 s)) with
  | .next t => t
  | _ => s
def wTb : State := calm wCp
def wSm : State := ran (.softmax hd0 2 1 0) wT
def tiledBy (s : State) : State := okOr s (((s.onDie 0).onOp (op1 s).id fun _ => ((op1 s).take s.clk).2).archTile (op1 s) 0 ((walkTile (op1 s).order (op1 s).counts (op1 s).code).1))
/-- A card of 8 records at 0x16000 at the head of queue 3, in a region without a root. -/
def wCd : State := calm (put 0x1200F 1 0x10 (put 0x1600A 2 16 (put 0x1600C 4 8 (put 0x16008 2 8 (ten 8 6 [256] 0x16100 wK)))))
def cardBytes (s : State) : List Byte := okOr [] (s.unitRead (s.unitEnv 0) 0x16000 32)
def headCard (s : State) : Card := okOr card0 (s.headCard 3)
def carded (b : Bool) (s : State) : State := { s with queues := s.queues.map fun q => (q.1, { q.2 with elems := [⟨0x16000, 0, 0⟩], checked := b }) }
def dealt0 (n g : Nat) (s : State) : State := okOr s ((s.onDie 0).dealt 0 0x16000 n g)
def finishedOp (s : State) : State := { s with ops := s.ops.map fun o => { o with done := o.total } }
def wTl : State := ran (.tload 0 1 (.imm 0x17000)) wT
def loadedBy (s : State) : State := doneOr s ((s.onDie 0).performOp (op1 s))
/-- A bundle whose every slot is empty. -/
def empty1 (s : State) : State := { s with store := [(0, 0)] }
def bun0 : Bundle := decodeBundle 0
def two (s : State) : State := s.onCtxAt 1 fun _ => s.ctxAt 0
def v0 : VarW := ⟨0, .int 9 8 false, leBytes 77 8, 0, [[0, 0]], true, true, false, [], false, false, [], []⟩
def a0 (p : Bool) : Ack := ⟨0, 0, 0, 0, p, false, [], false, []⟩
def deqing (l : List QElem) : State := { (queued 0 l wR).onCtx fun c => { c with status := .blocked (.deq 3) } with store := [(0, BitVec.ofNat 256 (encodeBundle1 0 (.deq 9 5 false)))] }

/-- The state after an operation, and a trap record it left. -/
def did (i : Instr) (s : State) : State := match exec i s with
  | .next t => t
  | _ => s
def lastTrap (s : State) : TrapRec := s.traps.getLast?.getD ⟨[], 0, 0, 0, 0, 0, 0, false, false, false, .none, false, none, 0⟩
/-- A fault ring of the region at 0x10100, with slots of one line, or full. -/
def faultRing (n : Nat) (s : State) : State := put 0x12060 8 0x10100 (put 0x10104 4 n (put 0x10100 4 0 (put 0x10108 4 (65536 + 4) s)))
def wFt : State := did (.trap 5) (faultRing 0 wG)
def ringed (s : State) : State := match s.ringFor (lastTrap s) with
  | .ok u => u
  | _ => s
/-- A load of a page that is not mapped, by context 0. -/
def wLd : State := did (.ld 9 1 3 false 0 0) (regs [(1, plain 0x30000)] (faultRing 0 wG))
def stuckly (s : State) : State := { s with traps := s.traps.map fun r => { r with stuck := true } }
def afterly (n : Nat) (s : State) : State := { s with traps := s.traps.map fun r => { r with after := n } }
def blockedAt (va : Nat) (s : State) : State := s.onCtx fun c => { c with status := .blocked (.fault va false) }
def pk0 : Packet := { id := 5, cq := 7, slot := 0, bytes := [], by_ := 0, epc := 0, work := {}, started := true, done := 0, status := 0, finished := false, moved := 0, fault := some (0x30000, 6) }
def blk0 : Block := ⟨1, 0, 0, 0, 0, 0x1000, 0, 0x12100, 7, 0, [], 0⟩
/-- Engine commands: a TMOV of two rows from 0x10000 to 0x11000 or from an unmapped page, a TZERO, a WLOAD, an MXGO, issued by context 0. -/
def wEn : State := regs [(1, cap 0x10000 4096 31 0), (2, cap 0x11000 4096 31 0), (3, cap 0x30000 4096 31 0), (4, cap 0x2000000 256 29 4), (6, cap 0x10000 1024 31 3), (10, cap 0x3000000 64 29 3), (11, cap 0x3000000 4096 31 3)] (kregs [(0x10, 0x10000), (0x11, 0x20000), (0x30, 2 ^ 32), (0x31, 2 ^ 32), (0x32, 2 ^ 32), (0x33, 2 ^ 32), (0x34, 2 ^ 32), (0x35, 2 ^ 32), (0x42, 0x35)] wG)
def cmd0 (s : State) : EngCmd := nth ⟨0, 0, 0, 0, {}, 0, .rtclr, [], [], 0, [], false, false, 0, [], [], none, none, false, 0⟩ s.core.cmds 0
def begun (s : State) : State := s.onCore fun c => { c with cmds := c.cmds.map fun e => { e with started := true } }
def unitRes (s : State) : List Byte × EngCmd × State := match cmdUnit (s.onDie 0) 0 (cmd0 s) with
  | .done r u => (r, cmd0 s, u)
  | .more e u => ([], e, u)
  | _ => ([], cmd0 s, s)
def wTz : State := did (.tzero 3) wEn
def wTm : State := did (.tmov 2 1 true true 1 1) wEn
def wTf : State := did (.tmov 2 3 true true 1 1) wEn
def wWl : State := did (.wload 11 false 3) wEn
def f0 : MxgoF := ⟨10, 10, 4, 2, true, true, false, 0, 5, true, true, 0⟩
def wMx : State := did (.mxgo f0) wEn
def wt0 : WTile := ⟨3, [], []⟩
/-- Copy queue 7 with a packet in slot 5: its kind, the words of it; source handle 2, destination handle 1 unless they say otherwise. -/
def pkt (kind : Nat) (l : List (Nat × Nat × Nat)) (s : State) : State :=
  l.foldl (fun t w => put (0x11140 + w.1) w.2.1 w.2.2 t) (put 0x11140 4 (2 ^ 31 + kind * 2 ^ 24) { header s with copyQueues := [cq0] })
def copied : List (Nat × Nat × Nat) := [(4, 2, 2), (6, 2, 1), (0x12, 2, 32)]
def wPk : State := put 0x15100 8 0x1122334455667788 (pkt 0 copied wT)
def pkBytes (s : State) : List Byte := okOr [] (s.unitRead (s.unitEnv 0) 0x11140 64)
def pk1 (s : State) : State := okOr s (s.unitWrite (s.unitEnv 0) 0x11140 (leBytes (leNat (pkBytes s) - 2 ^ 31) 4))
def pk2 (s : State) : State := okOr s ((pk1 s).unitWrite (s.unitEnv 0) 0x10408 (leBytes 6 8))
def pk3 (s : State) : State := let s2 := pk2 s; ({ s2 with packets := s2.packets ++ [Claims.taken s2.nextPacket 7 5 (pkBytes s) (findProducer 0 0x10400 0x11140 s2.packets s2.cores) false], nextPacket := s2.nextPacket + 1 } : State).readBy 0 0x11140 64
def wRed : State := pkt 1 copied wT
def cleared (s : State) : State := okOr s ((pk3 s).unitWrite ((pk3 s).unitEnv 0) ((pk3 s).queueWord cq0 0x28 + 128 * 5) (List.replicate 128 0))
def wRef : State := pkt 0 [(4, 2, 2), (6, 2, 60), (0x12, 2, 32)] wT
/-- A ring handle 9 whose header lies at 0x30000, which is not mapped. -/
def wRh : State := ten 9 6 [320] 0x30000 (pkt 0 [(4, 2, 2), (6, 2, 1), (0x12, 2, 32), (0x35, 2, 9)] wT)
/-- A subscription of handle 8, 4 tiles of 32 bytes in HBM, to the ring of handle 9 at 0x10500, and a drain of a ring with one filled slot. -/
def ringAt (dir fill w : Nat) (s : State) : State := put 0x10504 4 w (put 0x10508 4 (65536 + 4) (put 0x1050C 4 dir (put 0x10510 1 fill s)))
def handles89 (s : State) : State := ten 9 6 [320] 0x10500 (s.setEntry 0 0 ((ent 8 6 [32, 4] 0x18000).place 0x18000 128 0))
def wSub : State := ringAt 0 0 0 (handles89 (pkt 2 [(2, 1, 1), (4, 2, 8), (6, 2, 9), (0x12, 2, 32), (0x14, 2, 4), (0x1A, 4, 32)] wT))
def wDrn : State := ringAt 1 1 1 (handles89 (pkt 3 [(2, 1, 1), (4, 2, 9), (6, 2, 8), (0x12, 2, 32), (0x14, 2, 4), (0x26, 4, 32)] wT))
def out (o : Host.Outcome State Fault Refusal) (s : State) : State := match o with
  | .next t => t
  | _ => s
/-- With the packet of slot 5 taken and checked. -/
def begunPk (kind : Nat) (l : List (Nat × Nat × Nat)) (s : State) : State :=
  let b := leBytes (l.foldl (fun n w => n + w.2.2 * 2 ^ (8 * w.1)) (2 ^ 31 + kind * 2 ^ 24)) 64
  put 0x10408 1 6 (put 0x11143 1 kind { s with packets := [{ Claims.taken 0 7 5 b none false with checked := true }], nextPacket := 1 })
def wSubT : State := begunPk 2 [(2, 1, 1), (4, 2, 8), (6, 2, 9), (0x12, 2, 32), (0x14, 2, 4), (0x1A, 4, 32)] wSub
def wDrnT : State := begunPk 3 [(2, 1, 1), (4, 2, 9), (6, 2, 8), (0x12, 2, 32), (0x14, 2, 4), (0x26, 4, 32)] wDrn
def wCpyT : State := begunPk 0 copied wPk
def packet0 (s : State) : Packet := nth pk0 s.packets 0
def h8 (s : State) : HEnt := (s.pkEnt cq0 8).getD (ent 8 6 [1] 0)
def h9 (s : State) : HEnt := (s.pkEnt cq0 9).getD (ent 8 6 [1] 0)
/-- A ring without a free slot. -/
def wSubF : State := put 0x10510 1 15 (put 0x10504 4 4 wSubT)
/-- A ring without a filled slot. -/
def wDrnE : State := put 0x10510 1 0 (put 0x10504 4 0 wDrnT)
def beatOf (s : State) : Nat × State := match (s.onDie 0).copyBeat cq0 (packet0 s) 0 0 with
  | .ok t n => (n, t)
  | _ => (0, s)
def movedBy (s : State) : State := movePacket cq0 (packet0 s) (s.onDie 0)
def wMvd : State := movedBy wCpyT
def owing (s : State) : State := { s with acks := [⟨0, 1000000 + (packet0 s).id, 0, 0, false, false, [], false, []⟩] }
/-- Handle 8 at the end of the heap: its first tile of 32 bytes does not lie in it whole. -/
def atEnd (s : State) : State := s.setEntry 0 0 ((ent 8 6 [32, 4] 0x1FFF0).place 0x1FFF0 128 0)
def wSubA : State := atEnd wSubT
def wDrnA : State := atEnd wDrnT

/-- A combiner slot of root 0x12000 on die 0, and messages under way. -/
def slot0 : Comb := ⟨0x12000, 2 ^ 20, 5, 100⟩
def wGr (l : List GravMsg) : State := { wG with grav := l, combs := [(0, [slot0])], time := 5000 }
def closedRoot (s : State) : State := put 0x12050 8 1 s
def prb : GravMsg := .probe 0x12000 0 0
def lender (s : State) : State := s.onCtx fun c => { c with grav := 1, work := { c.work with uid := 1 } }
/-- Operator 1 speculates on handle 3 of DEPTH 2 and writes handle 2, whose shadow is temporary 65537; operator 2 reads handle 2. -/
def spc : SpecHandle := ⟨3, 0, 2, false, 0, 0, 0, 0, 4, 6, 1, 0, true, false⟩
def spOp (id w r : Nat) (ph : SpecPhase) : OpInst := { id := id, gfe := 0, stream := 0, ctxid := 0, rcb := 0x12000, shard := 0, width := 1, chips := 1, rank := 0, opc := 32, fuse := 0, record := .softmax hd0 w r 0, vals := [], handles := [⟨r, true, false, 3⟩, ⟨w, false, true, 3⟩], deps := [], blocks := [], counts := [], order := 0, total := 1, phase := ph }
def spC (ph : SpecPhase) (v : List Bool) : OpInst := { spOp 1 2 3 ph with specHid := 3, done := 1, shadows := [(2, 65537)], verdicts := v }
def wSp (ops : List OpInst) : State := onG (fun g => { g with specs := [spc] }) { wH with ops := ops, temps := [(65537, (ent 2 0 [4, 4] 0x15100).bytes)] }
def wDs : State := wSp [spC .running [], spOp 2 5 2 .no]
def took (s : State) : List (Nat × Nat) × State := match s.takeShadows (issueAsker (s.gfeAt 0) 0) 0 0 [5] with
  | .ok x => x
  | .error _ => ([], s)
/-- A tile of operator 1 held at its ENDOP, with a store held back and a trap of its own. -/
def hTrap : TrapRec := { lastTrap wFt with held := true, op := 1 }
def heldCtx (s : State) : State := { s.onCtx fun c => { c with status := .blocked .spec, spec := true, work := { c.work with job := .tile 1 0 [] } } with traps := [hTrap], installed := [inst1] }
def wSc (sh : List (Nat × Nat)) (v : List Bool) : State := heldCtx (wSp [{ spC .judging v with image := some 0, shadows := sh }])
def img0 (s : State) : Installed := (s.image? 0 0).getD inst1
def histed (s : State) : State := match ((s.onDie 0).copyEntry 0 0 4 6).bind fun t => t.copyEntry 0 0 3 4 with
  | .ok t => t
  | .error _ => s
def wSq : State := onG (fun g => { g with specs := [] }) (wSc [] [false])

/-- Boot images: two bundles each; a bad one has a key that no signature verifies with. -/
def img (k : Nat) : BootImage := ⟨(List.range 64).map (· + k), 5, [k], [k], [k], [k]⟩
def started0 (s : State) : State := { s with root := { s.root with up := true }, dies := [0, 2] }
def wBt : State := { started0 wG with reduced := true, dies := [0, 1, 2, 3, 4, 5, 6, 7] }
def failedTwice (n : Nat) (s : State) : State := { s with root := { s.root with failures := n, kept := [1, 2] } }
def settled (s : State) : State := { s with root := { s.root with spdmVersion := true, spdmCaps := true, spdmAlgs := true, meas := [(0, List.replicate 48 7)] } }
def window (t : Nat) (l : List (Nat × Nat)) (s : State) : State := { s with root := { s.root with windowAt := some t, claims := l } }
def leads (n : Nat) (s : State) : State := { s with root := { s.root with leader := some n, up := true, lastBeat := 5 } }

/-- The state that marks let go on with, and that an outcome answers. -/
def onward : Marked → State
  | .goOn u => u
  | .instead u => u
def goes? : Marked → Bool
  | .goOn _ => true
  | .instead _ => false
theorem onwardIs {x : Marked} (h : goes? x = true) : x = .goOn (onward x) := by
  cases x <;> simp_all [onward, goes?]
def next? : Host.Outcome State Fault Refusal → Bool
  | .next _ => true
  | _ => false
theorem nextIs {d : State} {x : Host.Outcome State Fault Refusal} (h : next? x = true) : x = .next (out x d) := by
  cases x <;> simp_all [out, next?]
/-- The state that operations one after another answer, and that it is theirs. -/
def ranAll : List Instr → State → Option State
  | [], s => some s
  | i :: r, s => match exec i s with
    | .next u => ranAll r u
    | _ => none
theorem ranAllIs {d : State} : ∀ {l : List Instr} {s : State}, (ranAll l s).isSome = true → Claims.Run l s ((ranAll l s).getD d)
  | [], _, _ => rfl
  | i :: r, s, h => by
    revert h
    simp only [ranAll]
    cases e : exec i s <;> intro h
    · exact ⟨_, e, ranAllIs h⟩
    all_goals simp_all
/-- Context 0 of core 0 about to issue the bundle at 0: empty, or with one ADD in the S slot. -/
def stepW (b : BitVec 256) : State := { wS with store := [(0, b)], dies := [0], schedule := [.ctx 0 0, .tick 3 1] }
def addB : BitVec 256 := BitVec.ofNat 256 (encodeSlot 0 (.add 9 1 2) * 2 ^ 180)
def bunOf (b : BitVec 256) : Bundle := decodeBundle b.toNat
def actW (s : State) : State := (({ s with schedule := [.tick 3 1] } : State).onDie 0).acting 0 0
def goesOn (b : Bundle) (s : State) : State := match marks b s with
  | .goOn u => u
  | _ => s
def issuing (b : Bundle) (s : State) : State := noteDeadline b (noteShown b (answerRecalled (dropHold ((goesOn b (actW s)).onCtx Ctx.landed))))
def edgeW : State := { (stepW addB).onCtxAt 0 (fun c => { c with bank := { c.bank with pc := 7679 }, snap := { c.snap with pc := 7679 } }) with store := [(7679, addB)] }
/-- GFE 0 at a NOP, and a heartbeat. -/
def nopW : State := put 0x12018 8 5 <| put 0x14020 4 0x00010000 (put 0x1200F 1 0x10 { wG with schedule := [.gfe 0], dies := [0] })
def atgW : State := (({ nopW with schedule := [] } : State).onDie 0).actingGfe 0
def beatW : State := { wG with schedule := [.event .heartbeat] }
/-- Regions 0x12200 below 0x12100 below the root 0x12000. -/
def wIn : State := put 0x12118 2 1 { wG with devs := wG.devs.map fun d => (d.1, { d.2 with regions := [⟨0x12000, 0x12000, 0, true⟩, ⟨0x12100, 0x12100, 0x12000, false⟩, ⟨0x12200, 0x12200, 0x12100, false⟩] }) }


/-! ### Witnesses: states and operands that meet the premises of each clause -/

theorem wit_ComparesAndPredicates_1 :
    let k : Nat := 9
    k ≤ 9 := by decide +kernel

theorem wit_CapabilityOperations_1 :
    let s : State := wS
    let c : Nat := 1
    let r := s.ctx.bank.sreg c
    r.tag = false := by decide +kernel

theorem wit_CapabilityOperations_2 :
    let s : State := wS
    let c : Nat := 2
    let a : Nat := 6
    let b : Nat := 5
    let r := s.ctx.bank.sreg c
    let len := r.bits.extractLsb' 32 40
    r.tag = true ∧
    r.bits.getLsbD 28 = true ∧
    (val s a).toNat + (val s b).toNat ≤ len.toNat := by decide +kernel

theorem wit_CapabilityOperations_3 :
    let s : State := wS
    let c : Nat := 2
    let a : Nat := 4
    let b : Nat := 5
    let r := s.ctx.bank.sreg c
    let len := r.bits.extractLsb' 32 40
    r.tag = true ∧
    r.bits.getLsbD 28 = true ∧
    ((len.toNat < (val s a).toNat ∨ len.toNat - (val s a).toNat < (val s b).toNat)) := by decide +kernel

theorem wit_CapabilityOperations_4 :
    let s : State := wS
    let c : Nat := 3
    let r := s.ctx.bank.sreg c
    r.tag = true ∧
    r.bits.getLsbD 28 = false := by decide +kernel

theorem wit_KRegisterReads_1 :
    let s : State := wS
    let d : Nat := 1
    let k : Nat := 0x10
    (Instr.mfk d k).wf = true ∧
    k ≠ 0x48 ∧
    k ≠ 0x49 ∧
    k ≠ 0x60 ∧
    (k < 0x28 ∨ 0x2D < k ∨ s.core.cmds = []) := by decide +kernel

theorem wit_KRegisterReads_2 :
    let d : Nat := 1
    let k : Nat := 0x48
    (Instr.mfk d k).wf = true ∧
    (k = 0x48 ∨ k = 0x49) := by decide +kernel

theorem wit_KRegisterReads_3 :
    let d : Nat := 1
    let k : Nat := 0x60
    (Instr.mfk d k).wf = true ∧
    k = 0x60 := by decide +kernel

theorem wit_KRegisterWrites_1 :
    let s : State := wS
    let k : Nat := 0x20
    let a : Nat := 7
    (Instr.mtk k a).wf = true ∧
    (let v := val s a; let line := (v.extractLsb' 6 50 ++ (0 : BitVec 6)).setWidth 64; let rsz := s.ctx.bank.kreg 0x23; let inside := ∀ n, n ≤ v.toNat / 16 % 16 → ∃ m, m ≤ s.ctx.bank.kreg 0x42 / 16 % 16 ∧ (v.toNat + n) % 16 = (s.ctx.bank.kreg 0x42 + m) % 16; (k = 0x20 ∨ k = 0x40)) := by decide +kernel

theorem wit_KRegisterWrites_2 :
    let s : State := wS
    let k : Nat := 0x21
    let a : Nat := 7
    (Instr.mtk k a).wf = true ∧
    (let v := val s a; let line := (v.extractLsb' 6 50 ++ (0 : BitVec 6)).setWidth 64; let rsz := s.ctx.bank.kreg 0x23; let inside := ∀ n, n ≤ v.toNat / 16 % 16 → ∃ m, m ≤ s.ctx.bank.kreg 0x42 / 16 % 16 ∧ (v.toNat + n) % 16 = (s.ctx.bank.kreg 0x42 + m) % 16; k = 0x21) := by decide +kernel

theorem wit_KRegisterWrites_3 :
    let s : State := wS
    let k : Nat := 0x24
    let a : Nat := 7
    (Instr.mtk k a).wf = true ∧
    (let v := val s a; let line := (v.extractLsb' 6 50 ++ (0 : BitVec 6)).setWidth 64; let rsz := s.ctx.bank.kreg 0x23; let inside := ∀ n, n ≤ v.toNat / 16 % 16 → ∃ m, m ≤ s.ctx.bank.kreg 0x42 / 16 % 16 ∧ (v.toNat + n) % 16 = (s.ctx.bank.kreg 0x42 + m) % 16; k = 0x24) := by decide +kernel

theorem wit_KRegisterWrites_4 :
    let s : State := wS
    let k : Nat := 0x30
    let a : Nat := 7
    (Instr.mtk k a).wf = true ∧
    (let v := val s a; let line := (v.extractLsb' 6 50 ++ (0 : BitVec 6)).setWidth 64; let rsz := s.ctx.bank.kreg 0x23; let inside := ∀ n, n ≤ v.toNat / 16 % 16 → ∃ m, m ≤ s.ctx.bank.kreg 0x42 / 16 % 16 ∧ (v.toNat + n) % 16 = (s.ctx.bank.kreg 0x42 + m) % 16; 0x30 ≤ k) ∧
    (let v := val s a; let line := (v.extractLsb' 6 50 ++ (0 : BitVec 6)).setWidth 64; let rsz := s.ctx.bank.kreg 0x23; let inside := ∀ n, n ≤ v.toNat / 16 % 16 → ∃ m, m ≤ s.ctx.bank.kreg 0x42 / 16 % 16 ∧ (v.toNat + n) % 16 = (s.ctx.bank.kreg 0x42 + m) % 16; k ≤ 0x35) := by decide +kernel

theorem wit_KRegisterWrites_5 :
    let s : State := wS
    let k : Nat := 0x41
    let a : Nat := 7
    (Instr.mtk k a).wf = true ∧
    (let v := val s a; let line := (v.extractLsb' 6 50 ++ (0 : BitVec 6)).setWidth 64; let rsz := s.ctx.bank.kreg 0x23; let inside := ∀ n, n ≤ v.toNat / 16 % 16 → ∃ m, m ≤ s.ctx.bank.kreg 0x42 / 16 % 16 ∧ (v.toNat + n) % 16 = (s.ctx.bank.kreg 0x42 + m) % 16; k = 0x41) := by decide +kernel

theorem wit_KRegisterWrites_6 :
    let s : State := wS
    let k : Nat := 0x50
    let a : Nat := 7
    (Instr.mtk k a).wf = true ∧
    (let v := val s a; let line := (v.extractLsb' 6 50 ++ (0 : BitVec 6)).setWidth 64; let rsz := s.ctx.bank.kreg 0x23; let inside := ∀ n, n ≤ v.toNat / 16 % 16 → ∃ m, m ≤ s.ctx.bank.kreg 0x42 / 16 % 16 ∧ (v.toNat + n) % 16 = (s.ctx.bank.kreg 0x42 + m) % 16; k = 0x50) := by decide +kernel

theorem wit_KRegisterWrites_7 :
    let s : State := wS
    let k : Nat := 0x51
    let a : Nat := 7
    (Instr.mtk k a).wf = true ∧
    (let v := val s a; let line := (v.extractLsb' 6 50 ++ (0 : BitVec 6)).setWidth 64; let rsz := s.ctx.bank.kreg 0x23; let inside := ∀ n, n ≤ v.toNat / 16 % 16 → ∃ m, m ≤ s.ctx.bank.kreg 0x42 / 16 % 16 ∧ (v.toNat + n) % 16 = (s.ctx.bank.kreg 0x42 + m) % 16; (k = 0x51 ∨ k = 0x52)) := by decide +kernel

theorem wit_KRegisterWrites_8 :
    let s : State := wS
    let k : Nat := 0x53
    let a : Nat := 7
    (Instr.mtk k a).wf = true ∧
    (let v := val s a; let line := (v.extractLsb' 6 50 ++ (0 : BitVec 6)).setWidth 64; let rsz := s.ctx.bank.kreg 0x23; let inside := ∀ n, n ≤ v.toNat / 16 % 16 → ∃ m, m ≤ s.ctx.bank.kreg 0x42 / 16 % 16 ∧ (v.toNat + n) % 16 = (s.ctx.bank.kreg 0x42 + m) % 16; k = 0x53) := by decide +kernel

theorem wit_KRegisterWrites_9 :
    let s : State := wS
    let k : Nat := 0x23
    let a : Nat := 10
    (Instr.mtk k a).wf = true ∧
    (let v := val s a; let line := (v.extractLsb' 6 50 ++ (0 : BitVec 6)).setWidth 64; let rsz := s.ctx.bank.kreg 0x23; let inside := ∀ n, n ≤ v.toNat / 16 % 16 → ∃ m, m ≤ s.ctx.bank.kreg 0x42 / 16 % 16 ∧ (v.toNat + n) % 16 = (s.ctx.bank.kreg 0x42 + m) % 16; k = 0x23) ∧
    (let v := val s a; let line := (v.extractLsb' 6 50 ++ (0 : BitVec 6)).setWidth 64; let rsz := s.ctx.bank.kreg 0x23; let inside := ∀ n, n ≤ v.toNat / 16 % 16 → ∃ m, m ≤ s.ctx.bank.kreg 0x42 / 16 % 16 ∧ (v.toNat + n) % 16 = (s.ctx.bank.kreg 0x42 + m) % 16; v.toNat % 1024 % 16 = 0) ∧
    (let v := val s a; let line := (v.extractLsb' 6 50 ++ (0 : BitVec 6)).setWidth 64; let rsz := s.ctx.bank.kreg 0x23; let inside := ∀ n, n ≤ v.toNat / 16 % 16 → ∃ m, m ≤ s.ctx.bank.kreg 0x42 / 16 % 16 ∧ (v.toNat + n) % 16 = (s.ctx.bank.kreg 0x42 + m) % 16; v.toNat % 1024 ≤ 512) := by decide +kernel

theorem wit_KRegisterWrites_10 :
    let s : State := wS
    let k : Nat := 0x23
    let a : Nat := 11
    (Instr.mtk k a).wf = true ∧
    (let v := val s a; let line := (v.extractLsb' 6 50 ++ (0 : BitVec 6)).setWidth 64; let rsz := s.ctx.bank.kreg 0x23; let inside := ∀ n, n ≤ v.toNat / 16 % 16 → ∃ m, m ≤ s.ctx.bank.kreg 0x42 / 16 % 16 ∧ (v.toNat + n) % 16 = (s.ctx.bank.kreg 0x42 + m) % 16; k = 0x23) ∧
    (let v := val s a; let line := (v.extractLsb' 6 50 ++ (0 : BitVec 6)).setWidth 64; let rsz := s.ctx.bank.kreg 0x23; let inside := ∀ n, n ≤ v.toNat / 16 % 16 → ∃ m, m ≤ s.ctx.bank.kreg 0x42 / 16 % 16 ∧ (v.toNat + n) % 16 = (s.ctx.bank.kreg 0x42 + m) % 16; (v.toNat % 1024 % 16 ≠ 0 ∨ 512 < v.toNat % 1024)) := by decide +kernel

theorem wit_KRegisterWrites_11 :
    let s : State := kregs [(0x23, 48)] wS
    let k : Nat := 0x22
    let a : Nat := 7
    (Instr.mtk k a).wf = true ∧
    (let v := val s a; let line := (v.extractLsb' 6 50 ++ (0 : BitVec 6)).setWidth 64; let rsz := s.ctx.bank.kreg 0x23; let inside := ∀ n, n ≤ v.toNat / 16 % 16 → ∃ m, m ≤ s.ctx.bank.kreg 0x42 / 16 % 16 ∧ (v.toNat + n) % 16 = (s.ctx.bank.kreg 0x42 + m) % 16; k = 0x22) := by decide +kernel

theorem wit_KRegisterWrites_12 :
    let s : State := wS
    let k : Nat := 0x0
    let a : Nat := 7
    (Instr.mtk k a).wf = true ∧
    (let v := val s a; let line := (v.extractLsb' 6 50 ++ (0 : BitVec 6)).setWidth 64; let rsz := s.ctx.bank.kreg 0x23; let inside := ∀ n, n ≤ v.toNat / 16 % 16 → ∃ m, m ≤ s.ctx.bank.kreg 0x42 / 16 % 16 ∧ (v.toNat + n) % 16 = (s.ctx.bank.kreg 0x42 + m) % 16; s.ctx.bank.pc < 7680) ∧
    (let v := val s a; let line := (v.extractLsb' 6 50 ++ (0 : BitVec 6)).setWidth 64; let rsz := s.ctx.bank.kreg 0x23; let inside := ∀ n, n ≤ v.toNat / 16 % 16 → ∃ m, m ≤ s.ctx.bank.kreg 0x42 / 16 % 16 ∧ (v.toNat + n) % 16 = (s.ctx.bank.kreg 0x42 + m) % 16; (k ≤ 0x0D ∨ k = 0x12 ∨ 0x28 ≤ k ∧ k ≤ 0x2D ∨ k = 0x48 ∨ k = 0x49 ∨ k = 0x60)) := by decide +kernel

theorem wit_KRegisterWrites_13 :
    let s : State := kregs [(0x42, 0x24)] wS
    let k : Nat := 0x42
    let a : Nat := 1
    (Instr.mtk k a).wf = true ∧
    (let v := val s a; let line := (v.extractLsb' 6 50 ++ (0 : BitVec 6)).setWidth 64; let rsz := s.ctx.bank.kreg 0x23; let inside := ∀ n, n ≤ v.toNat / 16 % 16 → ∃ m, m ≤ s.ctx.bank.kreg 0x42 / 16 % 16 ∧ (v.toNat + n) % 16 = (s.ctx.bank.kreg 0x42 + m) % 16; s.ctx.bank.pc < 7680) ∧
    (let v := val s a; let line := (v.extractLsb' 6 50 ++ (0 : BitVec 6)).setWidth 64; let rsz := s.ctx.bank.kreg 0x23; let inside := ∀ n, n ≤ v.toNat / 16 % 16 → ∃ m, m ≤ s.ctx.bank.kreg 0x42 / 16 % 16 ∧ (v.toNat + n) % 16 = (s.ctx.bank.kreg 0x42 + m) % 16; k = 0x42) ∧
    (let v := val s a; let line := (v.extractLsb' 6 50 ++ (0 : BitVec 6)).setWidth 64; let rsz := s.ctx.bank.kreg 0x23; let inside := ∀ n, n ≤ v.toNat / 16 % 16 → ∃ m, m ≤ s.ctx.bank.kreg 0x42 / 16 % 16 ∧ (v.toNat + n) % 16 = (s.ctx.bank.kreg 0x42 + m) % 16; inside) := by decide +kernel

theorem wit_KRegisterWrites_14 :
    let s : State := kregs [(0x42, 0x24)] wS
    let k : Nat := 0x42
    let a : Nat := 9
    (Instr.mtk k a).wf = true ∧
    (let v := val s a; let line := (v.extractLsb' 6 50 ++ (0 : BitVec 6)).setWidth 64; let rsz := s.ctx.bank.kreg 0x23; let inside := ∀ n, n ≤ v.toNat / 16 % 16 → ∃ m, m ≤ s.ctx.bank.kreg 0x42 / 16 % 16 ∧ (v.toNat + n) % 16 = (s.ctx.bank.kreg 0x42 + m) % 16; s.ctx.bank.pc < 7680) ∧
    (let v := val s a; let line := (v.extractLsb' 6 50 ++ (0 : BitVec 6)).setWidth 64; let rsz := s.ctx.bank.kreg 0x23; let inside := ∀ n, n ≤ v.toNat / 16 % 16 → ∃ m, m ≤ s.ctx.bank.kreg 0x42 / 16 % 16 ∧ (v.toNat + n) % 16 = (s.ctx.bank.kreg 0x42 + m) % 16; k = 0x42) ∧
    (let v := val s a; let line := (v.extractLsb' 6 50 ++ (0 : BitVec 6)).setWidth 64; let rsz := s.ctx.bank.kreg 0x23; let inside := ∀ n, n ≤ v.toNat / 16 % 16 → ∃ m, m ≤ s.ctx.bank.kreg 0x42 / 16 % 16 ∧ (v.toNat + n) % 16 = (s.ctx.bank.kreg 0x42 + m) % 16; ¬inside) := by decide +kernel

theorem wit_KRegisterWrites_15 :
    let s : State := kregs [(0x10, 0x100)] wS
    let k : Nat := 0x10
    let a : Nat := 12
    (Instr.mtk k a).wf = true ∧
    (let v := val s a; let line := (v.extractLsb' 6 50 ++ (0 : BitVec 6)).setWidth 64; let rsz := s.ctx.bank.kreg 0x23; let inside := ∀ n, n ≤ v.toNat / 16 % 16 → ∃ m, m ≤ s.ctx.bank.kreg 0x42 / 16 % 16 ∧ (v.toNat + n) % 16 = (s.ctx.bank.kreg 0x42 + m) % 16; s.ctx.bank.pc < 7680) ∧
    (let v := val s a; let line := (v.extractLsb' 6 50 ++ (0 : BitVec 6)).setWidth 64; let rsz := s.ctx.bank.kreg 0x23; let inside := ∀ n, n ≤ v.toNat / 16 % 16 → ∃ m, m ≤ s.ctx.bank.kreg 0x42 / 16 % 16 ∧ (v.toNat + n) % 16 = (s.ctx.bank.kreg 0x42 + m) % 16; k = 0x10) ∧
    (let v := val s a; let line := (v.extractLsb' 6 50 ++ (0 : BitVec 6)).setWidth 64; let rsz := s.ctx.bank.kreg 0x23; let inside := ∀ n, n ≤ v.toNat / 16 % 16 → ∃ m, m ≤ s.ctx.bank.kreg 0x42 / 16 % 16 ∧ (v.toNat + n) % 16 = (s.ctx.bank.kreg 0x42 + m) % 16; s.ctx.bank.kreg k < line.toNat) := by decide +kernel

theorem wit_KRegisterWrites_16 :
    let s : State := kregs [(0x10, 0x100)] wS
    let k : Nat := 0x10
    let a : Nat := 1
    (Instr.mtk k a).wf = true ∧
    (let v := val s a; let line := (v.extractLsb' 6 50 ++ (0 : BitVec 6)).setWidth 64; let rsz := s.ctx.bank.kreg 0x23; let inside := ∀ n, n ≤ v.toNat / 16 % 16 → ∃ m, m ≤ s.ctx.bank.kreg 0x42 / 16 % 16 ∧ (v.toNat + n) % 16 = (s.ctx.bank.kreg 0x42 + m) % 16; s.ctx.bank.pc < 7680) ∧
    (let v := val s a; let line := (v.extractLsb' 6 50 ++ (0 : BitVec 6)).setWidth 64; let rsz := s.ctx.bank.kreg 0x23; let inside := ∀ n, n ≤ v.toNat / 16 % 16 → ∃ m, m ≤ s.ctx.bank.kreg 0x42 / 16 % 16 ∧ (v.toNat + n) % 16 = (s.ctx.bank.kreg 0x42 + m) % 16; k = 0x10) ∧
    (let v := val s a; let line := (v.extractLsb' 6 50 ++ (0 : BitVec 6)).setWidth 64; let rsz := s.ctx.bank.kreg 0x23; let inside := ∀ n, n ≤ v.toNat / 16 % 16 → ∃ m, m ≤ s.ctx.bank.kreg 0x42 / 16 % 16 ∧ (v.toNat + n) % 16 = (s.ctx.bank.kreg 0x42 + m) % 16; line.toNat ≤ s.ctx.bank.kreg k) := by decide +kernel

theorem wit_KRegisterWrites_17 :
    let s : State := kregs [(0x11, 0x100)] wS
    let k : Nat := 0x11
    let a : Nat := 1
    (Instr.mtk k a).wf = true ∧
    (let v := val s a; let line := (v.extractLsb' 6 50 ++ (0 : BitVec 6)).setWidth 64; let rsz := s.ctx.bank.kreg 0x23; let inside := ∀ n, n ≤ v.toNat / 16 % 16 → ∃ m, m ≤ s.ctx.bank.kreg 0x42 / 16 % 16 ∧ (v.toNat + n) % 16 = (s.ctx.bank.kreg 0x42 + m) % 16; s.ctx.bank.pc < 7680) ∧
    (let v := val s a; let line := (v.extractLsb' 6 50 ++ (0 : BitVec 6)).setWidth 64; let rsz := s.ctx.bank.kreg 0x23; let inside := ∀ n, n ≤ v.toNat / 16 % 16 → ∃ m, m ≤ s.ctx.bank.kreg 0x42 / 16 % 16 ∧ (v.toNat + n) % 16 = (s.ctx.bank.kreg 0x42 + m) % 16; k = 0x11) ∧
    (let v := val s a; let line := (v.extractLsb' 6 50 ++ (0 : BitVec 6)).setWidth 64; let rsz := s.ctx.bank.kreg 0x23; let inside := ∀ n, n ≤ v.toNat / 16 % 16 → ∃ m, m ≤ s.ctx.bank.kreg 0x42 / 16 % 16 ∧ (v.toNat + n) % 16 = (s.ctx.bank.kreg 0x42 + m) % 16; line.toNat < s.ctx.bank.kreg k) := by decide +kernel

theorem wit_KRegisterWrites_18 :
    let s : State := kregs [(0x11, 0x100)] wS
    let k : Nat := 0x11
    let a : Nat := 12
    (Instr.mtk k a).wf = true ∧
    (let v := val s a; let line := (v.extractLsb' 6 50 ++ (0 : BitVec 6)).setWidth 64; let rsz := s.ctx.bank.kreg 0x23; let inside := ∀ n, n ≤ v.toNat / 16 % 16 → ∃ m, m ≤ s.ctx.bank.kreg 0x42 / 16 % 16 ∧ (v.toNat + n) % 16 = (s.ctx.bank.kreg 0x42 + m) % 16; s.ctx.bank.pc < 7680) ∧
    (let v := val s a; let line := (v.extractLsb' 6 50 ++ (0 : BitVec 6)).setWidth 64; let rsz := s.ctx.bank.kreg 0x23; let inside := ∀ n, n ≤ v.toNat / 16 % 16 → ∃ m, m ≤ s.ctx.bank.kreg 0x42 / 16 % 16 ∧ (v.toNat + n) % 16 = (s.ctx.bank.kreg 0x42 + m) % 16; k = 0x11) ∧
    (let v := val s a; let line := (v.extractLsb' 6 50 ++ (0 : BitVec 6)).setWidth 64; let rsz := s.ctx.bank.kreg 0x23; let inside := ∀ n, n ≤ v.toNat / 16 % 16 → ∃ m, m ≤ s.ctx.bank.kreg 0x42 / 16 % 16 ∧ (v.toNat + n) % 16 = (s.ctx.bank.kreg 0x42 + m) % 16; s.ctx.bank.kreg k ≤ line.toNat) := by decide +kernel

theorem wit_LockedStoreWrites_1 :
    let s : State := atPc 7680 wS
    let k : Nat := 0
    let a : Nat := 7
    (Instr.mtk k a).wf = true ∧
    7680 ≤ s.ctx.bank.pc ∧
    (let v := val s a; let line := (v.extractLsb' 6 50 ++ (0 : BitVec 6)).setWidth 64; let fixed := fun (x : BitVec 64) => exec (.mtk k a) s = .next (s.onCtx fun c => { c.later 1 [.k k x] with irrev := true }); k = 0x0) := by decide +kernel

theorem wit_LockedStoreWrites_2 :
    let s : State := atPc 7680 wS
    let k : Nat := 1
    let a : Nat := 7
    (Instr.mtk k a).wf = true ∧
    7680 ≤ s.ctx.bank.pc ∧
    (let v := val s a; let line := (v.extractLsb' 6 50 ++ (0 : BitVec 6)).setWidth 64; let fixed := fun (x : BitVec 64) => exec (.mtk k a) s = .next (s.onCtx fun c => { c.later 1 [.k k x] with irrev := true }); k = 0x1) := by decide +kernel

theorem wit_LockedStoreWrites_3 :
    let s : State := atPc 7680 wS
    let k : Nat := 2
    let a : Nat := 7
    (Instr.mtk k a).wf = true ∧
    7680 ≤ s.ctx.bank.pc ∧
    (let v := val s a; let line := (v.extractLsb' 6 50 ++ (0 : BitVec 6)).setWidth 64; let fixed := fun (x : BitVec 64) => exec (.mtk k a) s = .next (s.onCtx fun c => { c.later 1 [.k k x] with irrev := true }); k = 0x2) := by decide +kernel

theorem wit_LockedStoreWrites_4 :
    let s : State := atPc 7680 wS
    let k : Nat := 3
    let a : Nat := 7
    (Instr.mtk k a).wf = true ∧
    7680 ≤ s.ctx.bank.pc ∧
    (let v := val s a; let line := (v.extractLsb' 6 50 ++ (0 : BitVec 6)).setWidth 64; let fixed := fun (x : BitVec 64) => exec (.mtk k a) s = .next (s.onCtx fun c => { c.later 1 [.k k x] with irrev := true }); k = 0x3) := by decide +kernel

theorem wit_LockedStoreWrites_5 :
    let s : State := atPc 7680 wS
    let k : Nat := 4
    let a : Nat := 7
    (Instr.mtk k a).wf = true ∧
    7680 ≤ s.ctx.bank.pc ∧
    (let v := val s a; let line := (v.extractLsb' 6 50 ++ (0 : BitVec 6)).setWidth 64; let fixed := fun (x : BitVec 64) => exec (.mtk k a) s = .next (s.onCtx fun c => { c.later 1 [.k k x] with irrev := true }); k = 0x4) := by decide +kernel

theorem wit_LockedStoreWrites_6 :
    let s : State := atPc 8191 wS
    let k : Nat := 8
    let a : Nat := 7
    (Instr.mtk k a).wf = true ∧
    7680 ≤ s.ctx.bank.pc ∧
    (let v := val s a; let line := (v.extractLsb' 6 50 ++ (0 : BitVec 6)).setWidth 64; let fixed := fun (x : BitVec 64) => exec (.mtk k a) s = .next (s.onCtx fun c => { c.later 1 [.k k x] with irrev := true }); 8 ≤ k) ∧
    (let v := val s a; let line := (v.extractLsb' 6 50 ++ (0 : BitVec 6)).setWidth 64; let fixed := fun (x : BitVec 64) => exec (.mtk k a) s = .next (s.onCtx fun c => { c.later 1 [.k k x] with irrev := true }); k ≤ 0x0D) := by decide +kernel

theorem wit_LockedStoreWrites_7 :
    let s : State := atPc 8191 wS
    let k : Nat := 0x42
    let a : Nat := 7
    (Instr.mtk k a).wf = true ∧
    7680 ≤ s.ctx.bank.pc ∧
    (let v := val s a; let line := (v.extractLsb' 6 50 ++ (0 : BitVec 6)).setWidth 64; let fixed := fun (x : BitVec 64) => exec (.mtk k a) s = .next (s.onCtx fun c => { c.later 1 [.k k x] with irrev := true }); k = 0x42) := by decide +kernel

theorem wit_LockedStoreWrites_8 :
    let s : State := atPc 8191 wS
    let k : Nat := 0x28
    let a : Nat := 7
    (Instr.mtk k a).wf = true ∧
    7680 ≤ s.ctx.bank.pc ∧
    (let v := val s a; let line := (v.extractLsb' 6 50 ++ (0 : BitVec 6)).setWidth 64; let fixed := fun (x : BitVec 64) => exec (.mtk k a) s = .next (s.onCtx fun c => { c.later 1 [.k k x] with irrev := true }); 0x28 ≤ k) ∧
    (let v := val s a; let line := (v.extractLsb' 6 50 ++ (0 : BitVec 6)).setWidth 64; let fixed := fun (x : BitVec 64) => exec (.mtk k a) s = .next (s.onCtx fun c => { c.later 1 [.k k x] with irrev := true }); k ≤ 0x2D) := by decide +kernel

theorem wit_LockedStoreWrites_9 :
    let s : State := atPc 8191 wS
    let k : Nat := 0x12
    let a : Nat := 7
    (Instr.mtk k a).wf = true ∧
    7680 ≤ s.ctx.bank.pc ∧
    (let v := val s a; let line := (v.extractLsb' 6 50 ++ (0 : BitVec 6)).setWidth 64; let fixed := fun (x : BitVec 64) => exec (.mtk k a) s = .next (s.onCtx fun c => { c.later 1 [.k k x] with irrev := true }); 0x10 ≤ k) ∧
    (let v := val s a; let line := (v.extractLsb' 6 50 ++ (0 : BitVec 6)).setWidth 64; let fixed := fun (x : BitVec 64) => exec (.mtk k a) s = .next (s.onCtx fun c => { c.later 1 [.k k x] with irrev := true }); k ≤ 0x12) := by decide +kernel

theorem wit_LockedStoreWrites_10 :
    let s : State := atPc 8191 wS
    let k : Nat := 0x48
    let a : Nat := 7
    (Instr.mtk k a).wf = true ∧
    7680 ≤ s.ctx.bank.pc ∧
    (let v := val s a; let line := (v.extractLsb' 6 50 ++ (0 : BitVec 6)).setWidth 64; let fixed := fun (x : BitVec 64) => exec (.mtk k a) s = .next (s.onCtx fun c => { c.later 1 [.k k x] with irrev := true }); k = 0x48) := by decide +kernel

theorem wit_LockedStoreWrites_11 :
    let s : State := atPc 8191 wS
    let k : Nat := 0x49
    let a : Nat := 7
    (Instr.mtk k a).wf = true ∧
    7680 ≤ s.ctx.bank.pc ∧
    (let v := val s a; let line := (v.extractLsb' 6 50 ++ (0 : BitVec 6)).setWidth 64; let fixed := fun (x : BitVec 64) => exec (.mtk k a) s = .next (s.onCtx fun c => { c.later 1 [.k k x] with irrev := true }); k = 0x49) := by decide +kernel

theorem wit_LockedStoreWrites_12 :
    let s : State := atPc 8191 wS
    let k : Nat := 0x60
    let a : Nat := 7
    (Instr.mtk k a).wf = true ∧
    7680 ≤ s.ctx.bank.pc ∧
    (let v := val s a; let line := (v.extractLsb' 6 50 ++ (0 : BitVec 6)).setWidth 64; let fixed := fun (x : BitVec 64) => exec (.mtk k a) s = .next (s.onCtx fun c => { c.later 1 [.k k x] with irrev := true }); k = 0x60) := by decide +kernel

theorem wit_Transfers_1 :
    let s : State := wS
    let a : Nat := 1
    let t : Nat := 99
    let r := (val s a).toNat % 8192
    Inside s r ∧
    (Inside s r ∨ Handling s) ∧
    Inside s t := by dsimp only [Handling, Inside]; decide +kernel

theorem wit_Transfers_2 :
    let s : State := wS
    let a : Nat := 7
    let t : Nat := 100
    let r := (val s a).toNat % 8192
    ¬Inside s r ∧
    (s.ctx.inHandler = true → 7680 ≤ s.ctx.bank.pc) ∧
    ¬Handling s ∧
    ¬Inside s t := by dsimp only [Handling, Inside]; decide +kernel

theorem wit_DispatchTransfers_1 :
    let s : State := kregs [(0x24, 9 * 2 ^ 56)] base
    8 < bitsOf (s.ctx.bank.kreg 0x24) 56 4 := by decide +kernel

theorem wit_DispatchTransfers_2 :
    let s : State := wD
    let a : Nat := 0
    let sh : Nat := 0
    let na : Nat := 2
    let smask : Nat := 0
    let p : Piece := ⟨.mem 0x10000, 0, 2, false⟩
    let ls : List (Nat × Option (Nat × Nat)) := paged 0x10000
    let x := s.dispatchAccess a sh na smask
    let e := s.dispatchEntry x
    let t := ((if s.ctx.bank.pc < 7680 then s.ctx.work.img else 7680) + e % 8192) % 8192
    let far := s.farPieces s.act.ck [p]
    bitsOf (s.ctx.bank.kreg 0x24) 56 4 ≤ 8 ∧
    x = .ok [p] false ls ∧
    p.key?.isSome = true ∧
    ((∀ q ∈ far, s.reachable (dieOfCore s.act.core) q.loc.domain = true)) ∧
    ((s.ctx.var.all fun v => !v.acq) = true) ∧
    bitsOf e 13 2 = 0 ∧
    bitOf e 15 = true ∧
    Inside s t := by dsimp only [Inside]; decide +kernel

theorem wit_DispatchTransfers_3 :
    let s : State := wD
    let a : Nat := 1
    let sh : Nat := 0
    let na : Nat := 2
    let smask : Nat := 0
    let p : Piece := ⟨.mem 0x10002, 0, 2, false⟩
    let ls : List (Nat × Option (Nat × Nat)) := paged 0x10002
    let x := s.dispatchAccess a sh na smask
    let e := s.dispatchEntry x
    let far := s.farPieces s.act.ck [p]
    bitsOf (s.ctx.bank.kreg 0x24) 56 4 ≤ 8 ∧
    x = .ok [p] false ls ∧
    p.key?.isSome = true ∧
    ((∀ q ∈ far, s.reachable (dieOfCore s.act.core) q.loc.domain = true)) ∧
    ((s.ctx.var.all fun v => !v.acq) = true) ∧
    bitsOf e 13 2 = 0 ∧
    bitOf e 15 = false := by decide +kernel

theorem wit_DispatchTransfers_4 :
    let s : State := wD
    let a : Nat := 2
    let sh : Nat := 0
    let na : Nat := 2
    let smask : Nat := 0
    let p : Piece := ⟨.mem 0x10004, 0, 2, false⟩
    let ls : List (Nat × Option (Nat × Nat)) := paged 0x10004
    let x := s.dispatchAccess a sh na smask
    let e := s.dispatchEntry x
    let far := s.farPieces s.act.ck [p]
    bitsOf (s.ctx.bank.kreg 0x24) 56 4 ≤ 8 ∧
    x = .ok [p] false ls ∧
    p.key?.isSome = true ∧
    ((∀ q ∈ far, s.reachable (dieOfCore s.act.core) q.loc.domain = true)) ∧
    ((s.ctx.var.all fun v => !v.acq) = true) ∧
    bitsOf e 13 2 ≠ 0 := by decide +kernel

theorem wit_DispatchTransfers_5 :
    let s : State := wD
    let a : Nat := 3
    let sh : Nat := 0
    let na : Nat := 2
    let smask : Nat := 0
    let p : Piece := ⟨.mem 0x10006, 0, 2, false⟩
    let ls : List (Nat × Option (Nat × Nat)) := paged 0x10006
    let x := s.dispatchAccess a sh na smask
    let e := s.dispatchEntry x
    let t := ((if s.ctx.bank.pc < 7680 then s.ctx.work.img else 7680) + e % 8192) % 8192
    let far := s.farPieces s.act.ck [p]
    bitsOf (s.ctx.bank.kreg 0x24) 56 4 ≤ 8 ∧
    x = .ok [p] false ls ∧
    p.key?.isSome = true ∧
    ((∀ q ∈ far, s.reachable (dieOfCore s.act.core) q.loc.domain = true)) ∧
    ((s.ctx.var.all fun v => !v.acq) = true) ∧
    bitsOf e 13 2 = 0 ∧
    bitOf e 15 = true ∧
    ¬Inside s t := by dsimp only [Inside]; decide +kernel

theorem wit_LoopHardware_1 :
    let s : State := wS
    let b := s.ctx.bank
    let lc := b.kreg 0x20
    let ec := b.kreg 0x21
    lc = 0 ∧
    ec = 0 := by decide +kernel

theorem wit_LoopHardware_2 :
    let s : State := kregs [(0x20, 3), (0x21, 2), (0x23, 32)] base
    let t : Nat := 5
    let b := s.ctx.bank
    let lc := b.kreg 0x20
    0 < lc ∧
    Inside s t := by dsimp only [Inside]; decide +kernel

theorem wit_LoopHardware_3 :
    let s : State := kregs [(0x21, 2)] base
    let t : Nat := 50
    let b := s.ctx.bank
    let lc := b.kreg 0x20
    let ec := b.kreg 0x21
    lc = 0 ∧
    1 < ec ∧
    Inside s t := by dsimp only [Inside]; decide +kernel

theorem wit_LoopHardware_4 :
    let s : State := kregs [(0x21, 1)] base
    let b := s.ctx.bank
    let lc := b.kreg 0x20
    let ec := b.kreg 0x21
    lc = 0 ∧
    ec = 1 := by decide +kernel

theorem wit_LoopHardware_5 :
    let s : State := kregs [(0x20, 1)] base
    let t : Nat := 500
    let b := s.ctx.bank
    let lc := b.kreg 0x20
    let ec := b.kreg 0x21
    (0 < lc ∨ 1 < ec) ∧
    ¬Inside s t := by dsimp only [Inside]; decide +kernel

theorem wit_EndsAndTraps_1 :
    let s : State := atPc 7679 base
    s.ctx.bank.pc < 7680 ∧
    s.ctx.spec = false := by decide +kernel

theorem wit_EndsAndTraps_2 :
    let s : State := atPc 7680 base
    7680 ≤ s.ctx.bank.pc := by decide +kernel


theorem wit_IntegerVectorArithmetic_1 :
    let f : VFields := wF
    5 ≤ f.fmt ∧
    f.fmt ≤ 8 := by decide +kernel

theorem wit_VectorMovesAndShifts_1 :
    let f : VFields := { wF with fmt := 8 }
    5 ≤ f.fmt ∧
    f.fmt ≤ 8 := by decide +kernel

theorem wit_VectorConversionsAndLanes_1 :
    let f : VFields := { wF with fmt := 0, vc := 0x10 * 3 + 8 - 8 + 3 }
    let sf := f.vc % 16
    let part := f.vc / 16 % 4
    let ws := fmtWidth sf
    let wd := fmtWidth f.fmt
    let per32 := 32 / wd
    sf ≤ 8 ∧
    f.fmt ≤ 8 ∧
    ws ≤ wd ∧
    part * ws < wd ∧
    f.vc / 256 % 4 < per32 := by decide +kernel

theorem wit_VectorConversionsAndLanes_2 :
    let f : VFields := { wF with fmt := 3, vc := 0x30 }
    let sf := f.vc % 16
    let part := f.vc / 16 % 4
    let ws := fmtWidth sf
    let wd := fmtWidth f.fmt
    sf ≤ 8 ∧
    f.fmt ≤ 8 ∧
    wd < ws ∧
    part * wd < ws := by decide +kernel

theorem wit_HoldLatches_1 :
    let f : VFields := wF
    f.ha = false ∧
    f.hb = false := by decide +kernel

theorem wit_HoldLatches_2 :
    let c : Ctx := wL
    let f : VFields := { wF with ha := true, hb := true }
    f.ha = true ∧
    (c.latchA.val).isSome = true ∧
    f.hb = true ∧
    (c.latchB.val).isSome = true := by decide +kernel

theorem wit_HoldLatches_3 :
    let c : Ctx := wL.dropLatches
    let f : VFields := { wF with ha := true, hb := true }
    f.ha = true ∧
    c.latchA.val = none ∧
    f.hb = true ∧
    c.latchB.val = none := by decide +kernel

theorem wit_RegisterWrites_1 :
    let n : Nat := 1
    let m : Nat := 2
    m ≠ n ∧
    n < 16 ∧
    n ≠ 0 ∧
    m < 16 := by decide +kernel

theorem wit_RotatingNames_1 :
    let b : Bank := {}
    let n : Nat := 512
    b.kreg 0x23 = 0 ∧
    (n < 512 ∨ 512 + b.kreg 0x23 ≤ n) := by decide +kernel

theorem wit_RotatingNames_2 :
    let b : Bank := { ({} : Bank) with k := [(0x22, 3), (0x23, 32)] }
    let n : Nat := 512
    512 ≤ n ∧
    n < 512 + b.kreg 0x23 := by decide +kernel

theorem wit_RotatingNames_3 :
    let b : Bank := { ({} : Bank) with k := [(0x22, 3), (0x23, 32)] }
    let n : Nat := 511
    let m : Nat := 511
    b.phys n = b.phys m := by decide +kernel


theorem wit_TileAndWeightCommands_1 :
    let s : State := full 3 7 wM
    let tn : Nat := 3
    let fmt : Nat := 1
    let src : Nat := 1
    InWindow s tn ∧
    Room s 3 ∧
    (Holds s src true false 0 3 (if fmt = 9 then 1152 else 4096)) ∧
    Room s 1 ∧
    MatrixFree s ∧
    InWindow s src ∧
    Holds s src true false 0 3 1024 := by dsimp only [Holds, InWindow, MatrixFree, Room, RotatorFree]; decide +kernel

theorem wit_TileAndWeightCommands_2 :
    let s : State := full 1 7 wM
    let tn : Nat := 4
    ¬InWindow s tn := by dsimp only [InWindow]; decide +kernel

theorem wit_NestAndMxgo_1 :
    let s : State := full 0 15 wM
    let cnt : Nat := 65535
    let f : MxgoF := ⟨3, 3, 4, 2, true, true, false, 0, 5, true, true, 0⟩
    cnt < 2 ^ 16 ∧
    ((if f.asel then Holds s f.a true false 3 3 64 else InWindow s f.a)) ∧
    ((f.mode = 2 → if f.bsel then Holds s f.b true false 3 3 64 else InWindow s f.b)) ∧
    Holds s f.sc true true 4 4 256 ∧
    Room s 0 ∧
    MatrixFree s := by dsimp only [Holds, InWindow, MatrixFree, Room, RotatorFree]; decide +kernel

theorem wit_AccumulatorCommands_1 :
    let s : State := full 0 15 wM
    let sc : Nat := 4
    let fmt : Nat := 3
    let nl : Nat := 4
    let off : Nat := 0
    Holds s sc true false 4 4 (64 * off + 4 * (512 / fmtWidth fmt)) ∧
    Room s 0 ∧
    Holds s sc false true 4 4 (64 * off + 64) ∧
    Holds s sc false true 4 4 (64 * (off + nl)) := by dsimp only [Holds, Room]; decide +kernel

theorem wit_RotatorCommands_1 :
    let s : State := wM
    let sa : Nat := 9
    let sb : Nat := 10
    let sw : Nat := 9
    let rf : Bool := false
    let uw : Bool := false
    let e := if rf then 8 else 4
    Room s 2 ∧
    RotatorFree s ∧
    Holds s sa true false 3 3 e ∧
    Holds s sb false true 3 3 e ∧
    (uw = false → Holds s sw true false 3 3 128) ∧
    Holds s sa false true 0 3 128 := by dsimp only [Holds, Room, RotatorFree]; decide +kernel

theorem wit_PermuteCompareAndMoveCommands_1 :
    let s : State := full 3 7 wM
    let tn : Nat := 3
    let sa : Nat := 3
    let sb : Nat := 6
    let sc : Nat := 3
    let si : Nat := 3
    let n : Nat := 31
    let fmt : Nat := 2
    let r := fun k => s.ctx.bank.sreg k
    let w := fmtWidth fmt / 8
    Holds s sa true false 3 3 64 ∧
    Holds s si true false 3 3 (2 * (n + 1)) ∧
    InWindow s tn ∧
    Room s 3 ∧
    Holds s sa true false 0 3 w ∧
    Holds s sb true false 0 3 (r sa).len ∧
    Holds s sc false true 0 3 16 ∧
    (r sa).len % w = 0 ∧
    Room s 4 := by dsimp only [Holds, InWindow, Room]; decide +kernel

theorem wit_PermuteCompareAndMoveCommands_2 :
    let s : State := wM
    let sa : Nat := 9
    let sb : Nat := 10
    let sd : Nat := 10
    let fmt : Nat := 0
    let kind : Nat := 0
    let r := fun k => s.ctx.bank.sreg k
    let w := fmtWidth fmt / 8
    Holds s sd false true 0 3 w ∧
    Holds s sa true false 0 3 (r sd).len ∧
    (kind ≠ 0 → Holds s sb true false 0 3 (r sd).len) ∧
    (r sd).len % w = 0 ∧
    Room s 4 := by dsimp only [Holds, Room]; decide +kernel

theorem wit_EngineCommandsWaitOrTrap_1 :
    let s : State := full 2 8 wM
    let sa : Nat := 5
    let sc : Nat := 5
    let c := s.ctx.bank.sreg sa
    RotatorFree s ∧
    ¬(s.core.inQueue 2 < 8) ∧
    c.tag = false ∧
    (s.ctx.bank.sreg sc).tag = false := by dsimp only [RotatorFree]; decide +kernel

theorem wit_EngineCommandsWaitOrTrap_2 :
    let s : State := heldBy (some 1) (some 2) wM
    let sa : Nat := 6
    let x : Nat := 1
    Holds s sa true false 0 3 1024 ∧
    s.core.holdM = some x ∧
    x ≠ s.act.x := by dsimp only [Holds]; decide +kernel

theorem wit_EngineCommandsWaitOrTrap_3 :
    let s : State := heldBy (some 1) (some 2) wM
    let x : Nat := 2
    s.core.holdR = some x ∧
    x ≠ s.act.x := by decide +kernel

theorem wit_EngineCommandsWaitOrTrap_4 :
    let s : State := full 1 8 wM
    let sa : Nat := 6
    Holds s sa true false 0 3 1024 ∧
    MatrixFree s ∧
    ¬(s.core.inQueue 1 < 8) := by dsimp only [Holds, MatrixFree, RotatorFree]; decide +kernel

theorem wit_EngineCommandsWaitOrTrap_5 :
    let s : State := wM
    let sa : Nat := 2
    let c := s.ctx.bank.sreg sa
    let good := c.permR = true ∧ c.permE = true ∧ c.res ≤ 3
    c.tag = true ∧
    ¬good := by decide +kernel

theorem wit_EngineCommandsWaitOrTrap_6 :
    let s : State := wM
    let sa : Nat := 7
    let c := s.ctx.bank.sreg sa
    let good := c.permR = true ∧ c.permE = true ∧ c.res ≤ 3
    c.tag = true ∧
    good ∧
    c.len < 1024 := by decide +kernel


theorem wit_ScalarLoads_1 :
    let s : State := wX
    let sa : Nat := 1
    let sz : Nat := 0
    let so : Bool := false
    let imm : Int := 3
    let ps : List Piece := own 0x10003 1
    let ls : List (Nat × Option (Nat × Nat)) := direct 0x10003
    let n := 2 ^ sz
    let va := s.opVa sa imm
    Granted s sa .read imm n ∧
    s.access .read va n = .ok ps so ls ∧
    InOrder s so ∧
    va % n = 0 := by dsimp only [Granted, InOrder]; decide +kernel

theorem wit_ScalarLoads_2 :
    let s : State := wX
    let sa : Nat := 2
    let sz : Nat := 3
    let imm : Int := 4
    let n := 2 ^ sz
    let va := s.opVa sa imm
    Granted s sa .read imm n ∧
    va % n ≠ 0 := by dsimp only [Granted]; decide +kernel

theorem wit_VectorLoads_1 :
    let s : State := wX.onCtx fun c => { c with bank := { c.bank with q := [(1, 1)] } }
    let sa : Nat := 6
    let qp : Nat := 1
    let sb : Nat := 4
    let vb : Nat := 7
    let sz : Nat := 2
    let imm : Int := 0
    let so : Bool := false
    let ps : List Piece := own 0x10000 4
    let ls : List (Nat × Option (Nat × Nat)) := direct 0x10000
    let b := s.ctx.bank
    let r := b.sreg sa
    let m := b.lanes qp
    let ready := fun (l : List (Int × Nat × Nat)) => (∀ p ∈ l, Granted s sa .read p.1 p.2.2) ∧ s.partsAccess r .read l = .ok ps so ls ∧ InOrder s so
    let pat := b.bfxPattern
    ready (lanesParts imm m) ∧
    bfxEN pat = false ∧
    ready (stridedParts imm (val s sb).toInt sz m) ∧
    ready (indexedParts imm (b.vreg vb) sz m) := by dsimp only [Granted, InOrder]; decide +kernel

theorem wit_VectorLoads_2 :
    let s : State := heap [(0x50, 0x3801007)] wX
    let sa : Nat := 6
    let imm : Int := 0
    let so : Bool := false
    let ps : List Piece := own 0x10000 64
    let ls : List (Nat × Option (Nat × Nat)) := direct 0x10000
    let b := s.ctx.bank
    let r := b.sreg sa
    let ready := fun (l : List (Int × Nat × Nat)) => (∀ p ∈ l, Granted s sa .read p.1 p.2.2) ∧ s.partsAccess r .read l = .ok ps so ls ∧ InOrder s so
    let pat := b.bfxPattern
    bfxEN pat = true ∧
    bfxOk pat = true ∧
    ready [(imm, 0, bfxBytes pat)] := by dsimp only [Granted, InOrder]; decide +kernel

theorem wit_GatedStores_1 :
    let s : State := wX
    let sa : Nat := 1
    let sz : Nat := 0
    let imm : Int := 3
    let ps : List Piece := own 0x10003 1
    let ls : List (Nat × Option (Nat × Nat)) := direct 0x10003
    let b := s.ctx.bank
    let r := b.sreg sa
    let n := 2 ^ sz
    let va := s.opVa sa imm
    let plain := s.ctx.spec = false ∨ r.tag = false ∨ r.permS = false
    Granted s sa .write imm n ∧
    s.access .write va n = .ok ps false ls ∧
    InOrder s false ∧
    plain ∧
    BufferRoom s ps (linesOf va n) := by dsimp only [BufferRoom, Granted, InOrder]; decide +kernel

theorem wit_GatedStores_2 :
    let s : State := wX.onCtx fun c => { c with bank := { c.bank with q := [(1, 0x8000)] } }
    let sa : Nat := 6
    let qp : Nat := 1
    let imm : Int := -60
    let ps : List Piece := [⟨.mem 0x10000, 60, 4, false⟩]
    let ls : List (Nat × Option (Nat × Nat)) := direct 0x10000
    let b := s.ctx.bank
    let r := b.sreg sa
    let plain := s.ctx.spec = false ∨ r.tag = false ∨ r.permS = false
    let ready := fun (l : List (Int × Nat × Nat)) => (∀ p ∈ l, Granted s sa .write p.1 p.2.2) ∧ s.partsAccess r .write l = .ok ps false ls ∧
      InOrder s false ∧ plain ∧ BufferRoom s ps (partLines r l)
    ready (lanesParts imm (b.lanes qp)) := by dsimp only [BufferRoom, Granted, InOrder]; decide +kernel

theorem wit_GatedStores_3 :
    let s : State := wX.onCtx fun c => { c with bank := { c.bank with q := [(1, 0x8000)] } }
    let sa : Nat := 6
    let sz : Nat := 2
    let qp : Nat := 1
    let vb : Nat := 7
    let imm : Int := 0
    let ps : List Piece := [⟨.mem 0x10000, 60, 4, false⟩]
    let ls : List (Nat × Option (Nat × Nat)) := direct 0x10000
    let b := s.ctx.bank
    let r := b.sreg sa
    let plain := s.ctx.spec = false ∨ r.tag = false ∨ r.permS = false
    let ready := fun (l : List (Int × Nat × Nat)) => (∀ p ∈ l, Granted s sa .write p.1 p.2.2) ∧ s.partsAccess r .write l = .ok ps false ls ∧
      InOrder s false ∧ plain ∧ BufferRoom s ps (partLines r l)
    ready (indexedParts imm (b.vreg vb) sz (b.lanes qp)) := by dsimp only [BufferRoom, Granted, InOrder]; decide +kernel

theorem wit_GatedStores_4 :
    let s : State := wSpec
    let sa : Nat := 2
    let sz : Nat := 2
    let key : Nat := 0x10000
    let sw : Bool := false
    let imm : Int := 0
    let ps : List Piece := own 0x10000 4
    let ls : List (Nat × Option (Nat × Nat)) := direct 0x10000
    let b := s.ctx.bank
    let r := b.sreg sa
    let n := 2 ^ sz
    let va := s.opVa sa imm
    let plain := s.ctx.spec = false ∨ r.tag = false ∨ r.permS = false
    s.act.x < 4 ∧
    Granted s sa .write imm n ∧
    ps = [⟨.mem key, 0, n, sw⟩] ∧
    homeDie key = dieOfCore s.act.core ∧
    s.access .write va n = .ok ps false ls ∧
    InOrder s false ∧
    ¬plain ∧
    s.mem.wf = true := by dsimp only [Granted, InOrder]; decide +kernel

theorem wit_StoreRelease_1 :
    let s : State := wX
    let sa : Nat := 1
    let sz : Nat := 0
    let scope : Nat := 0
    let so : Bool := false
    let imm : Int := 3
    let ps : List Piece := own 0x10003 1
    let ls : List (Nat × Option (Nat × Nat)) := direct 0x10003
    let n := 2 ^ sz
    let va := s.opVa sa imm
    s.act.x < 4 ∧
    Granted s sa .write imm n ∧
    va % n = 0 ∧
    s.access .write va n = .ok ps so ls ∧
    InOrder s so ∧
    s.ctx.spec = false ∧
    Released s scope := by dsimp only [Granted, InOrder, Released]; decide +kernel

theorem wit_StoreRelease_2 :
    let s : State := wX
    let sa : Nat := 5
    let sz : Nat := 3
    let imm : Int := 6
    let n := 2 ^ sz
    let va := s.opVa sa imm
    s.act.x < 4 ∧
    Granted s sa .write imm n ∧
    va % n ≠ 0 := by dsimp only [Granted]; decide +kernel


theorem wit_AtomicsAtHome_1 :
    let s : State := wX
    let sa : Nat := 2
    let aop : Nat := 0
    let ord : Nat := 0
    let scope : Nat := 3
    let key : Nat := 0x10000
    let w8 : Bool := true
    let sw : Bool := false
    let so : Bool := false
    let imm : Int := 0
    let ls : List (Nat × Option (Nat × Nat)) := direct 0x10000
    let n := if w8 then 8 else 4
    AtHome s sa imm n key sw so ls ∧
    (bitOf ord 1 = true → Released s scope) ∧
    aop ≤ 9 ∧
    (aop = 9 → w8 = false) := by dsimp only [AtHome, Granted, Released]; decide +kernel

theorem wit_AtomicsAtHome_2 :
    let s : State := wX
    let sa : Nat := 2
    let w8 : Bool := true
    let imm : Int := 1
    let n := if w8 then 8 else 4
    Granted s sa .atomic imm n ∧
    s.opVa sa imm % n ≠ 0 := by dsimp only [Granted]; decide +kernel

theorem wit_FencesAndWaits_1 :
    let s : State := wX
    let kind : Nat := 1
    let scope : Nat := 3
    let emask : Nat := 0
    let sa : Nat := 2
    let r := s.ctx.bank.sreg sa
    kind ≤ 4 ∧
    Released s scope ∧
    s.unacked s.act.ck = [] ∧
    s.stampsSeen = true ∧
    s.fenced emask = [] ∧
    r.tag = true := by dsimp only [Released]; decide +kernel

theorem wit_FencesAndWaits_2 :
    let s : State := inflight wX
    let kind : Nat := 2
    let emask : Nat := 0
    let sa : Nat := 1
    let r := s.ctx.bank.sreg sa
    kind ≤ 4 ∧
    ((∀ v ∈ s.ctx.var, v.acq = false)) ∧
    s.ctx.var ≠ [] ∧
    s.ctx.gated = [] ∧
    s.unacked s.act.ck = [] ∧
    s.fenced emask = [] ∧
    r.tag = false := by decide +kernel

theorem wit_RingOperations_1 :
    let s : State := regs [(8, cap 0x10100 64 31 0)] (put 0x10100 1 0 (put 0x10108 4 (64 * 65536 + 4) (put 0x10104 4 2 (put 0x10110 1 3 wR))))
    let sa : Nat := 8
    let k : Nat := 1
    let n : Nat := 1
    let key : Nat := 0x10100
    let sw : Bool := false
    let so : Bool := false
    let ls : List (Nat × Option (Nat × Nat)) := direct 0x10100
    let r := s.ctx.bank.sreg sa
    let p : Piece := ⟨.mem key, 0, 64, sw⟩
    let ring := s.mem.ring key
    let base := r.tag = true ∧ r.permR = true ∧ r.permW = true ∧ 64 ≤ r.len ∧ s.access .atomic r.base 64 = .ok [p] so ls ∧ p.inAcc = false ∧
      homeDie key = dieOfCore s.act.core ∧ InOrder s so ∧ Unpaged ls
    base ∧
    ring.bad = false ∧
    (ring.side k).2 = true ∧
    ((∀ j, j ≤ n → (ring.side j).2 = true)) ∧
    s.ctx.spec = false ∧
    Released s 3 ∧
    NoRootAt s key 64 := by dsimp only [InOrder, NoRootAt, Released, Unpaged]; decide +kernel

theorem wit_RingOperations_2 :
    let s : State := regs [(8, cap 0x10100 64 31 0)] (put 0x10100 1 0 (put 0x10108 4 (64 * 65536 + 4) wR))
    let sa : Nat := 8
    let k : Nat := 0
    let key : Nat := 0x10100
    let sw : Bool := false
    let so : Bool := false
    let ls : List (Nat × Option (Nat × Nat)) := direct 0x10100
    let r := s.ctx.bank.sreg sa
    let p : Piece := ⟨.mem key, 0, 64, sw⟩
    let ring := s.mem.ring key
    let base := r.tag = true ∧ r.permR = true ∧ r.permW = true ∧ 64 ≤ r.len ∧ s.access .atomic r.base 64 = .ok [p] so ls ∧ p.inAcc = false ∧
      homeDie key = dieOfCore s.act.core ∧ InOrder s so ∧ Unpaged ls
    base ∧
    ring.bad = false ∧
    (ring.side k).2 = false ∧
    s.ctx.spec = false ∧
    Released s 3 ∧
    (ring.side 0).2 = false := by dsimp only [InOrder, Released, Unpaged]; decide +kernel

theorem wit_RingOperations_3 :
    let s : State := put 0x10108 4 (64 * 65536 + 4) (put 0x10104 4 2 (put 0x10110 1 3 wR))
    let sa : Nat := 8
    let r := s.ctx.bank.sreg sa
    r.tag = false := by decide +kernel

theorem wit_RingOperations_4 :
    let s : State := regs [(8, cap 0x10100 64 31 0)] (put 0x10100 1 0 wR)
    let sa : Nat := 8
    let key : Nat := 0x10100
    let sw : Bool := false
    let so : Bool := false
    let ls : List (Nat × Option (Nat × Nat)) := direct 0x10100
    let r := s.ctx.bank.sreg sa
    let p : Piece := ⟨.mem key, 0, 64, sw⟩
    let ring := s.mem.ring key
    let base := r.tag = true ∧ r.permR = true ∧ r.permW = true ∧ 64 ≤ r.len ∧ s.access .atomic r.base 64 = .ok [p] so ls ∧ p.inAcc = false ∧
      homeDie key = dieOfCore s.act.core ∧ InOrder s so ∧ Unpaged ls
    base ∧
    ring.bad = true := by dsimp only [InOrder, Unpaged]; decide +kernel

theorem wit_BarrierOperations_1 :
    let s : State := { put 0x10000 16 (5 * 2 ^ 116 + 4 * 2 ^ 100) wX with time := 3 }
    let sa : Nat := 2
    let sb : Nat := 4
    let sc : Nat := 4
    let scope : Nat := 3
    let n : Nat := 4
    let cnt : Nat := 77
    let key : Nat := 0x10000
    let rc : Bool := true
    let sw : Bool := false
    let so : Bool := false
    let imm : Int := 0
    let ls : List (Nat × Option (Nat × Nat)) := direct 0x10000
    let o := s.mem.readNat key 16
    let k := if rc then (val s n).toNat else n
    let sound := o / 2 ^ 116 % 2 ^ 12 ≠ 0 ∧ bitOf o 97 = false ∧ bitOf o 96 = false
    let arrived := o / 2 ^ 104 % 2 ^ 12
    let phase := o / 2 ^ 100 % 2 ^ 4
    AtHome s sa imm 16 key sw so ls ∧
    Unpaged ls ∧
    NoRootAt s key 16 ∧
    s.mem.wf = true ∧
    Released s scope ∧
    cnt < 2 ^ 12 ∧
    sound ∧
    1 ≤ k ∧
    k ≤ 4095 ∧
    arrived + k < o / 2 ^ 116 % 2 ^ 12 ∧
    phase = (val s sb).toNat % 16 ∧
    bitOf o 97 = false ∧
    bitOf o 96 = false ∧
    s.time < (val s sc).toNat := by dsimp only [AtHome, Granted, NoRootAt, Released, Unpaged]; decide +kernel

theorem wit_BarrierOperations_2 :
    let s : State := put 0x10000 16 (5 * 2 ^ 116 + 3 * 2 ^ 104 + 15 * 2 ^ 100) wX
    let sa : Nat := 2
    let scope : Nat := 3
    let n : Nat := 2
    let key : Nat := 0x10000
    let rc : Bool := false
    let sw : Bool := false
    let so : Bool := false
    let imm : Int := 0
    let ls : List (Nat × Option (Nat × Nat)) := direct 0x10000
    let o := s.mem.readNat key 16
    let k := if rc then (val s n).toNat else n
    let sound := o / 2 ^ 116 % 2 ^ 12 ≠ 0 ∧ bitOf o 97 = false ∧ bitOf o 96 = false
    let arrived := o / 2 ^ 104 % 2 ^ 12
    AtHome s sa imm 16 key sw so ls ∧
    Unpaged ls ∧
    NoRootAt s key 16 ∧
    s.mem.wf = true ∧
    Released s scope ∧
    sound ∧
    1 ≤ k ∧
    k ≤ 4095 ∧
    arrived + k = o / 2 ^ 116 % 2 ^ 12 := by dsimp only [AtHome, Granted, NoRootAt, Released, Unpaged]; decide +kernel

theorem wit_BarrierOperations_3 :
    let s : State := put 0x10000 16 (5 * 2 ^ 116 + 1 * 2 ^ 100) wX
    let sa : Nat := 2
    let scope : Nat := 3
    let n : Nat := 0
    let key : Nat := 0x10000
    let rc : Bool := false
    let sw : Bool := false
    let so : Bool := false
    let imm : Int := 0
    let ls : List (Nat × Option (Nat × Nat)) := direct 0x10000
    let k := if rc then (val s n).toNat else n
    AtHome s sa imm 16 key sw so ls ∧
    Unpaged ls ∧
    NoRootAt s key 16 ∧
    s.mem.wf = true ∧
    Released s scope ∧
    (k = 0 ∨ 4095 < k) := by dsimp only [AtHome, Granted, NoRootAt, Released, Unpaged]; decide +kernel

theorem wit_BarrierOperations_4 :
    let s : State := { put 0x10000 16 (5 * 2 ^ 116 + 4 * 2 ^ 100) wX with time := 4 }
    let sa : Nat := 2
    let sb : Nat := 4
    let sc : Nat := 4
    let key : Nat := 0x10000
    let sw : Bool := false
    let so : Bool := false
    let imm : Int := 0
    let ls : List (Nat × Option (Nat × Nat)) := direct 0x10000
    let o := s.mem.readNat key 16
    let phase := o / 2 ^ 100 % 2 ^ 4
    AtHome s sa imm 16 key sw so ls ∧
    Unpaged ls ∧
    NoRootAt s key 16 ∧
    s.mem.wf = true ∧
    phase = (val s sb).toNat % 16 ∧
    bitOf o 97 = false ∧
    bitOf o 96 = false ∧
    (val s sc).toNat ≤ s.time := by dsimp only [AtHome, Granted, NoRootAt, Unpaged]; decide +kernel

theorem wit_QueueOperations_1 :
    let s : State := queued 0 [] wR
    let slot : Nat := 5
    let qi : Nat := 3
    let rq : Bool := false
    let no := if rq then (val s slot).toNat else slot
    let q := s.queue qi
    let mine := no ≤ 63 ∧ s.slotQueue (dieOfCore s.act.core) s.ctx.work.ctxid s.ctx.work.rcb no = some qi ∧ q.isTask = false ∧ s.ctx.spec = false ∧
      (∀ v ∈ s.ctx.var, v.acq = false)
    mine ∧
    q.state = 1 ∧
    q.elems.length < q.cap ∧
    q.elems.length ≤ q.hwm ∧
    Released s 3 ∧
    q.elems = [] := by dsimp only [Released]; decide +kernel

theorem wit_QueueOperations_2 :
    let s : State := queued 0 [⟨7, 0, 0⟩, ⟨8, 0, 0⟩] wR
    let slot : Nat := 5
    let qi : Nat := 3
    let rq : Bool := false
    let e : QElem := ⟨7, 0, 0⟩
    let es : List QElem := [⟨8, 0, 0⟩]
    let no := if rq then (val s slot).toNat else slot
    let q := s.queue qi
    let mine := no ≤ 63 ∧ s.slotQueue (dieOfCore s.act.core) s.ctx.work.ctxid s.ctx.work.rcb no = some qi ∧ q.isTask = false ∧ s.ctx.spec = false ∧
      (∀ v ∈ s.ctx.var, v.acq = false)
    mine ∧
    q.state = 1 ∧
    q.elems = e :: es ∧
    turnOf q.waiters s.act.ck 0 < q.elems.length ∧
    s.ctx.gated = [] := by decide +kernel

theorem wit_QueueOperations_3 :
    let s : State := queued 0 ((List.range 16).map fun k => ⟨k, 0, 0⟩) wR
    let slot : Nat := 5
    let qi : Nat := 3
    let rq : Bool := false
    let no := if rq then (val s slot).toNat else slot
    let q := s.queue qi
    let mine := no ≤ 63 ∧ s.slotQueue (dieOfCore s.act.core) s.ctx.work.ctxid s.ctx.work.rcb no = some qi ∧ q.isTask = false ∧ s.ctx.spec = false ∧
      (∀ v ∈ s.ctx.var, v.acq = false)
    mine ∧
    q.state = 1 ∧
    q.cap ≤ q.elems.length := by decide +kernel

theorem wit_QueueOperations_4 :
    let s : State := wR
    let slot : Nat := 64
    let rq : Bool := false
    let no := if rq then (val s slot).toNat else slot
    63 < no := by decide +kernel

theorem wit_GravityOperations_1 :
    let s : State := released (gravity 10 wR)
    let k : Nat := 4096
    let sb : Nat := 4
    let sa : Nat := 1
    let rk : Bool := false
    let n := if rk then (val s k).toNat else k
    let b := (val s sb).toNat
    let root := s.rootOf s.ctx.work.ctxid s.ctx.work.rcb
    4095 < n ∧
    s.ctx.spec = false ∧
    Released s 5 ∧
    b < 2 ^ 40 ∧
    root = none ∧
    ((∀ v ∈ s.ctx.var, v.acq = false)) ∧
    s.waitqRoot sa = none := by dsimp only [Released]; decide +kernel

theorem wit_GravityOperations_2 :
    let s : State := regs [(4, plain (2 ^ 40 - 1)), (8, plain 0x12000)] ((released wQ).onCtx fun c => { c with probed := true })
    let sb : Nat := 4
    let sa : Nat := 8
    let r : Nat := 0x12000
    let b := (val s sb).toNat
    let root := s.rootOf s.ctx.work.ctxid s.ctx.work.rcb
    s.ctx.spec = false ∧
    Released s 5 ∧
    b < 2 ^ 40 ∧
    root = some r ∧
    ((∀ v ∈ s.ctx.var, v.acq = false)) ∧
    s.waitqRoot sa = some r ∧
    s.ctx.probed = true ∧
    s.rootQuiet r (s.act.ck + 1) = true ∧
    dominates (s.clockOf (dieOfCore s.act.core)) (s.clockOf (homeDie r)) = true := by dsimp only [Released]; decide +kernel

theorem wit_GravityOperations_3 :
    let s : State := gravity 10 wQ
    let k : Nat := 2
    let r : Nat := 0x12000
    let rk : Bool := false
    let n := if rk then (val s k).toNat else k
    let g := s.ctx.hg
    let root := s.rootOf s.ctx.work.ctxid s.ctx.work.rcb
    s.ctx.spec = false ∧
    1 ≤ n ∧
    n ≤ 4095 ∧
    root = some r ∧
    n + 1 ≤ g := by decide +kernel

theorem wit_GravityOperations_4 :
    let s : State := gravity 10 wR
    let k : Nat := 2
    let rk : Bool := false
    let n := if rk then (val s k).toNat else k
    let root := s.rootOf s.ctx.work.ctxid s.ctx.work.rcb
    s.ctx.spec = false ∧
    1 ≤ n ∧
    n ≤ 4095 ∧
    root = none := by decide +kernel

theorem wit_GravityOperations_5 :
    let s : State := gravity 10 wR
    let k : Nat := 0
    let rk : Bool := false
    let n := if rk then (val s k).toNat else k
    s.ctx.spec = false ∧
    n = 0 := by decide +kernel

theorem wit_GravityOperations_6 :
    let s : State := regs [(4, plain (2 ^ 40)), (8, plain 0x12000)] (released (gravity 10 wQ))
    let sb : Nat := 4
    let b := (val s sb).toNat
    2 ^ 40 ≤ b := by decide +kernel

theorem wit_GravityOperations_7 :
    let s : State := put 0x12040 8 5 (regs [(4, plain (2 ^ 40 - 1)), (8, plain 0x12000)] ((released wQ).onCtx fun c => { c with probed := true }))
    let sa : Nat := 8
    let r : Nat := 0x12000
    ((∀ v ∈ s.ctx.var, v.acq = false)) ∧
    s.waitqRoot sa = some r ∧
    s.ctx.probed = true ∧
    s.rootQuiet r (s.act.ck + 1) = false := by decide +kernel

theorem wit_SpawnAndCopyPut_1 :
    let s : State := queued 1 [] wR
    let slot : Nat := 5
    let sa : Nat := 6
    let qi : Nat := 3
    let rq : Bool := false
    let imm : Int := 0x40
    let ps : List Piece := [⟨.mem 0x10040, 0, 32, false⟩]
    let ls : List (Nat × Option (Nat × Nat)) := direct 0x10040
    let no := if rq then (val s slot).toNat else slot
    let q := s.queue qi
    let va := s.opVa sa imm
    no ≤ 63 ∧
    s.slotQueue (dieOfCore s.act.core) s.ctx.work.ctxid s.ctx.work.rcb no = some qi ∧
    q.isTask = true ∧
    q.state = 1 ∧
    q.elems.length < q.cap ∧
    q.elems.length ≤ q.hwm ∧
    s.ctx.spec = false ∧
    ((∀ v ∈ s.ctx.var, v.acq = false)) ∧
    Released s 3 ∧
    Granted s sa .atomic imm 32 ∧
    va % 32 = 0 ∧
    s.access .atomic va 32 = .ok ps false ls ∧
    ((s.rootOf s.ctx.work.ctxid s.ctx.work.rcb = none ∨ 2 ≤ s.ctx.hg)) := by dsimp only [Granted, Released]; decide +kernel

theorem wit_SpawnAndCopyPut_2 :
    let s : State := released (put 0x10100 8 3 (put 0x10108 8 0 (put 0x10110 8 0x10200 (put 0x10118 8 2 wR))))
    let sa : Nat := 6
    let key : Nat := 0x10100
    let sw : Bool := false
    let so : Bool := false
    let imm : Int := 0x100
    let qs : List Piece := own 0x102C0 64
    let ls : List (Nat × Option (Nat × Nat)) := direct 0x10100
    let ms : List (Nat × Option (Nat × Nat)) := direct 0x102C0
    let head := s.mem.readNat key 8
    let n := 2 ^ (s.mem.readNat (key + 0x18) 1 % 16)
    let place := (s.mem.readNat (key + 0x10) 8 + 64 * (head % n)) % 2 ^ 56
    AtHome s sa imm 64 key sw so ls ∧
    Unpaged ls ∧
    Released s 4 ∧
    Room s 5 ∧
    (head + 2 ^ 64 - s.mem.readNat (key + 8) 8) % 2 ^ 64 < n ∧
    s.access .write place 64 = .ok qs so ms := by dsimp only [AtHome, Granted, Released, Room, Unpaged]; decide +kernel

theorem wit_TimeOperations_1 :
    let s : State := { wX with time := 5 }
    let sa : Nat := 1
    let rel : Bool := false
    let due := s.ctx.deadline.getD (if rel then s.time + (val s sa).toNat else (val s sa).toNat)
    s.time < due := by decide +kernel

theorem wit_TimeOperations_2 :
    let s : State := { wX with time := 17 }
    let sa : Nat := 4
    let rel : Bool := false
    let due := s.ctx.deadline.getD (if rel then s.time + (val s sa).toNat else (val s sa).toNat)
    due ≤ s.time := by decide +kernel


theorem wit_ExchangeWrites_1 :
    let op : Nat := 1
    op ≤ 18 := by decide +kernel

theorem wit_GraphElementRead_1 :
    let s : State := ten 3 8 [4] 0x15000 (put 0x15004 4 (2 ^ 32 - 5) wG)
    let a : Nat := 3
    let v : Nat := 2 ^ 32 - 5
    let b : Sow := .imm 1
    let g := s.gfe
    let h := s.gent a
    let i := (operand s b).toNat
    let waits := s.writerOf g.ctxid g.shard a
    (Valid s a ∧ waits = false ∧ i < h.count ∧ h.placed = true ∧ s.isGone g.ctxid g.shard a = false ∧ isFloat h.fmt = false) ∧
    s.readElem g.ctxid g.shard h (coords h.dims i) = .ok v := ⟨by (try dsimp only [Valid]); decide +kernel,
    rfl⟩

theorem wit_GraphElementRead_2 :
    let s : State := ten 3 0 [4] 0x15000 (put 0x15004 4 0x40600000 wG)
    let a : Nat := 3
    let v : Nat := 0x40600000
    let b : Sow := .imm 1
    let g := s.gfe
    let h := s.gent a
    let i := (operand s b).toNat
    let waits := s.writerOf g.ctxid g.shard a
    (Valid s a ∧ waits = false ∧ i < h.count ∧ h.placed = true ∧ s.isGone g.ctxid g.shard a = false ∧ isFloat h.fmt = true) ∧
    s.readElem g.ctxid g.shard h (coords h.dims i) = .ok v := ⟨by (try dsimp only [Valid]); decide +kernel,
    rfl⟩

theorem wit_GraphElementRead_3 :
    let s : State := ten 3 0 [4] 0x15000 (put 0x15004 4 0x40600000 wG)
    let a : Nat := 3
    let b : Sow := .imm 4
    let g := s.gfe
    let h := s.gent a
    let i := (operand s b).toNat
    let waits := s.writerOf g.ctxid g.shard a
    Valid s a ∧
    waits = false ∧
    h.count ≤ i := by dsimp only [Valid]; decide +kernel

theorem wit_GraphElementRead_4 :
    let s : State := ten 3 0 [4] 0x15000 (put 0x15004 4 0x40600000 wG)
    let a : Nat := 4
    ¬Valid s a := by dsimp only [Valid]; decide +kernel

theorem wit_GraphElementRead_5 :
    let s : State := opOn 3 true (ten 3 0 [4] 0x15000 (put 0x15004 4 0x40600000 wG))
    let a : Nat := 3
    let g := s.gfe
    let waits := s.writerOf g.ctxid g.shard a
    Valid s a ∧
    waits = true := by dsimp only [Valid]; decide +kernel

theorem wit_ControlFlow_1 :
    let s : State := wG
    let c : Nat := 2
    let d : Nat := 9
    let w : Nat := 0x01010000
    let r : Nat := 0
    let t : Int := 8
    let b : Sow := .reg 2
    let n : Sow := .imm 3
    let g := s.gfe
    let o := (g.pc : Int) + 4 * t
    let reps := (operand s n).toInt
    let endloop := s.codeWord g o.toNat = .ok w ∧ w / 2 ^ 22 % 2 ^ 10 = 4
    (InCode s o ∧ c ≤ 9 ∧ g.frames.length < 32 ∧ endloop ∧ 0 < reps) ∧
    ((∀ r, g.frames.head? ≠ some (.call r))) ∧
    ((∀ d n b, g.frames.head? ≠ some (.loop d n b))) := ⟨by (try dsimp only [InCode]); decide +kernel,
    nofun,
    nofun⟩

theorem wit_ControlFlow_2 :
    let s : State := wG
    let w : Nat := 0x01010000
    let t : Int := 8
    let n : Sow := .imm 0
    let g := s.gfe
    let o := (g.pc : Int) + 4 * t
    let reps := (operand s n).toInt
    let endloop := s.codeWord g o.toNat = .ok w ∧ w / 2 ^ 22 % 2 ^ 10 = 4
    InCode s o ∧
    endloop ∧
    reps ≤ 0 := by dsimp only [InCode]; decide +kernel

theorem wit_ControlFlow_3 :
    let s : State := wG
    let t : Int := -1
    let g := s.gfe
    let o := (g.pc : Int) + 4 * t
    ¬InCode s o := by dsimp only [InCode]; decide +kernel

theorem wit_ControlFlow_4 :
    let s : State := onG (fun g => { g with frames := [.call 48] }) wG
    let r : Nat := 48
    let fs : List Frame := []
    let g := s.gfe
    g.frames = .call r :: fs := by decide +kernel

theorem wit_ControlFlow_5 :
    let s : State := onG (fun g => { g with frames := [.loop 1 7 44] }) wG
    let d : Nat := 1
    let body : Nat := 44
    let m : Int := 7
    let fs : List Frame := []
    let g := s.gfe
    g.frames = .loop d m body :: fs ∧
    (let v := AMap.get (0 : BitVec 64) g.g d + 1; v.toInt < m) := by decide +kernel

theorem wit_ControlFlow_6 :
    let s : State := onG (fun g => { g with frames := [.loop 1 6 44] }) wG
    let d : Nat := 1
    let body : Nat := 44
    let m : Int := 6
    let fs : List Frame := []
    let g := s.gfe
    g.frames = .loop d m body :: fs ∧
    (let v := AMap.get (0 : BitVec 64) g.g d + 1; m ≤ v.toInt) := by decide +kernel

theorem wit_ControlFlow_7 :
    let s : State := onG (fun g => { g with frames := List.replicate 32 (.call 48) }) wG
    let t : Int := 63
    let g := s.gfe
    let o := (g.pc : Int) + 4 * t
    InCode s o ∧
    32 ≤ g.frames.length := by dsimp only [InCode]; decide +kernel

theorem wit_HaltEndsAStream_1 :
    let s : State := wG
    let g := s.gfe
    let left := s.ops.any fun o => o.stream == g.stream
    g.busy = true ∧
    left = false ∧
    ((∀ k ∈ g.set, k = s.act.gfe ∨ (s.gfeAt k).halted = true)) := by decide +kernel

theorem wit_HaltEndsAStream_2 :
    let s : State := opOn 3 true wG
    let g := s.gfe
    let left := s.ops.any fun o => o.stream == g.stream
    ((∃ k ∈ g.set, k ≠ s.act.gfe ∧ (s.gfeAt k).halted = false) ∨ left = true) := by decide +kernel

theorem wit_TensorDefinitions_1 :
    let s : State := wG
    let h : Nat := 3
    let fmt : Nat := 0
    let pin : Nat := 15
    let lay : Nat := 0
    let attr : Nat := 0
    let bt : Nat := 0
    let dims : List Sow := [.imm 4, .reg 1]
    let g := s.gfe
    let ds := dims.map fun v => (operand s v).toNat
    let att := (s.attrOf g attr).get?
    let ls := localDims g att ds
    let st := if lay = 1 then tiledStrides ls else denseStrides ls
    let e : HEnt := ⟨h, true, dims.length, pin, 0, attr, fmt, lay, if lay = 2 then setNth bt st 4 else st, pad6 ls, capBits 0 0 0x1E fmt 15 h⟩
    let named := s.fmtOpen fmt = true ∧ h ≠ 0 ∧ h < (s.dev g.ctxid).htcount
    let attrGood := attr = 0 ∨ ∃ a, att = some a ∧ a.dim < dims.length
    named ∧
    ¬Valid s h ∧
    (lay = 2 → Valid s (bt % 65536)) ∧
    attrGood ∧
    ((∀ n ∈ ds, 1 ≤ n ∧ n ≤ 16777215)) ∧
    e.size < 2 ^ 40 := by dsimp only [Valid]; decide +kernel

theorem wit_TensorDefinitions_2 :
    let s : State := wG
    let h : Nat := 0
    let fmt : Nat := 0
    let g := s.gfe
    s.fmtOpen fmt = true ∧
    (h = 0 ∨ (s.dev g.ctxid).htcount ≤ h ∨ Valid s h) := by dsimp only [Valid]; decide +kernel

theorem wit_TensorDefinitions_3 :
    let s : State := wG
    let h : Nat := 3
    let fmt : Nat := 0
    let lay : Nat := 0
    let attr : Nat := 0
    let bt : Nat := 0
    let dims : List Sow := [.imm 4, .imm 0]
    let g := s.gfe
    let ds := dims.map fun v => (operand s v).toNat
    let att := (s.attrOf g attr).get?
    let named := s.fmtOpen fmt = true ∧ h ≠ 0 ∧ h < (s.dev g.ctxid).htcount
    let attrGood := attr = 0 ∨ ∃ a, att = some a ∧ a.dim < dims.length
    named ∧
    ¬Valid s h ∧
    (lay = 2 → Valid s (bt % 65536)) ∧
    attrGood ∧
    ((∃ n ∈ ds, n = 0 ∨ 16777215 < n)) := by dsimp only [Valid]; decide +kernel

theorem wit_TensorRecords_1 :
    let s : State := ten 3 0 [4, 8] 0x15000 (ten 4 0 [4] 0x15100 wG)
    let d : Nat := 4
    let src : Nat := 3
    let h : Nat := 3
    let attr : Nat := 1
    let box : List (Sow × Sow) := [(.imm 1, .imm 3), (.imm 7, .imm 1)]
    let dims : List Sow := [.imm 8, .imm 4]
    let g := s.gfe
    let e := s.gent src
    let val := fun v => (operand s v).toNat
    let b := box.map fun p => (val p.1, val p.2)
    let ds := dims.map val
    let source := Valid s src ∧ e.placed = true ∧ s.isGone g.ctxid g.shard src = false
    let newAtt := (s.attrOf g attr).get?
    let attrGood := attr = 0 ∨ ∃ a, newAtt = some a ∧ a.dim < (s.gent h).ndim
    let gone := s.isGone g.ctxid g.shard h
    let room := s.outstanding s.act.gfe + (s.tshardSteps h attr).length ≤ 64
    (Valid s d ∧ source ∧ box.length = e.ndim ∧ e.layout = 0 ∧ e.dense = true ∧ ((∀ n ∈ ds, 1 ≤ n ∧ n ≤ 16777215)) ∧ e.count = ds.foldl (· * ·) 1 ∧ Valid s h ∧ s.blockOf g.ctxid g.shard h = none ∧ s.releases = [] ∧ g.specs = [] ∧ room ∧ (s.gent h).placed = true ∧ gone = false ∧ s.tshardSteps h attr = []) ∧
    ((∀ k o n, b[k]? = some (o, n) → n ≠ 0 ∧ o + n ≤ e.ext k)) ∧
    attrGood := ⟨by (try dsimp only [Valid]); decide +kernel,
    allAt (by decide +kernel),
    Or.inr ⟨_, by rfl, by decide +kernel⟩⟩

theorem wit_TensorRecords_2 :
    let s : State := ten 3 0 [4, 8] 0x15000 wG
    let d : Nat := 4
    let src : Nat := 3
    let h : Nat := 4
    let box : List (Sow × Sow) := [(.imm 1, .imm 3), (.imm 7, .imm 1)]
    let g := s.gfe
    let sized := ∀ x, s.rawEntry g.ctxid g.shard src = some x → box.length = x.ndim
    ¬Valid s h ∧
    ¬Valid s d ∧
    sized := by dsimp only [Valid]; decide +kernel

theorem wit_TensorRecords_3 :
    let s : State := ten 3 0 [4, 8] 0x15000 (wG.setEntry 0 0 ((ent 4 0 [4] 0).place 0 0 15))
    let h : Nat := 4
    let attr : Nat := 1
    let g := s.gfe
    let newAtt := (s.attrOf g attr).get?
    let attrGood := attr = 0 ∨ ∃ a, newAtt = some a ∧ a.dim < (s.gent h).ndim
    let gone := s.isGone g.ctxid g.shard h
    let room := s.outstanding s.act.gfe + (s.tshardSteps h attr).length ≤ 64
    Valid s h ∧
    attrGood ∧
    room ∧
    ((s.gent h).placed = false ∨ gone = true) := by dsimp only [Valid]; decide +kernel

theorem wit_TensorRecords_4 :
    let s : State := ten 4 0 [4, 8] 0x15000 (wG.setEntry 0 0 { ent 3 0 [4, 8] 0x15000 with valid := false })
    let d : Nat := 4
    let src : Nat := 3
    let box : List (Sow × Sow) := [(.imm 1, .imm 3), (.imm 7, .imm 1)]
    let g := s.gfe
    let sized := ∀ x, s.rawEntry g.ctxid g.shard src = some x → box.length = x.ndim
    Valid s d ∧
    ¬Valid s src ∧
    sized := by dsimp only [Valid]; decide +kernel

theorem wit_MovesIssue_1 :
    let s : State := wT
    let hd : Hd := hd0
    let fuse : Nat := 0
    let h : Nat := 1
    let d : Nat := 2
    let a : Nat := 1
    let tbl : Nat := 4
    let rnd : Nat := 0
    let rlog : Nat := 0
    let perm : Nat := 1
    let last : Bool := false
    let v : Sow := .imm 4
    let n := (operand s v).toNat
    let conv := fun f => f ≤ 10 ∧ f ≠ 9
    Plain (.tload fuse h v) s ∧
    Plain (.tstore fuse last h v) s ∧
    ((fm s a = fm s d ∨ conv (fm s a) ∧ conv (fm s d))) ∧
    (s.gent a).dims = (s.gent d).dims ∧
    Plain (.tcopy hd rnd d a) s ∧
    fm s d = fm s a ∧
    (s.gent a).layout = 0 ∧
    fm s tbl = 8 ∧
    nd s a = 2 ∧
    nd s d = 2 ∧
    ext s d 0 = ext s a 0 ∧
    nd s tbl = 1 ∧
    cdiv n (2 ^ rlog) ≤ ext s tbl 0 ∧
    n ≤ ext s d 1 ∧
    Plain (.tgatherb hd rlog d a tbl v) s ∧
    fm s a = fm s d ∧
    nd s d = nd s a ∧
    perm < 8 ^ nd s a ∧
    ((∀ k, k < nd s a → ∃ j, j < nd s a ∧ perm / 8 ^ j % 8 = k)) ∧
    ((∀ k, k < nd s d → ext s d k = ext s a (perm / 8 ^ k % 8))) ∧
    Plain (.ttrans hd d a perm) s := by dsimp only [Plain, Valid]; decide +kernel

theorem wit_MovesIssue_2 :
    let s : State := wT
    let hd : Hd := hd0
    let d : Nat := 3
    let a : Nat := 1
    let b : Nat := 2
    let axis : Nat := 1
    axis < nd s d ∧
    fm s a = fm s d ∧
    fm s b = fm s d ∧
    SameBut s a d axis ∧
    SameBut s b d axis ∧
    ext s d axis = ext s a axis + ext s b axis ∧
    Plain (.tconcat hd axis d a b) s := by dsimp only [Plain, SameBut, Valid]; decide +kernel

theorem wit_MovesIssue_3 :
    let s : State := wT
    let hd : Hd := hd0
    let d : Nat := 60
    let a : Nat := 1
    let rnd : Nat := 0
    ¬Valid s d ∧
    s.outstanding s.act.gfe + s.lowCount (.tcopy hd rnd d a) < 64 := by dsimp only [Valid]; decide +kernel

theorem wit_AppendGrows_1 :
    let s : State := wA
    let hd : Hd := hd0
    let h : Nat := 7
    let x : Nat := 6
    let b : Block := ⟨1, 0, 0, 0, 0, 0x1000, 0, 0x12000, 7, 0, [], 0⟩
    let g := s.gfe
    let i := Instr.tappend hd h x
    let e := s.gent h
    let l := e.ndim - 1
    let n := ext s x l
    let fits := fm s x = e.fmt ∧ SameBut s x h l ∧ e.ext l + n ≤ 16777215
    Plain i s ∧
    fits ∧
    s.blockWith g.ctxid g.shard h = some b ∧
    e.base - s.blockVa b + (e.grown n).size ≤ b.size := by dsimp only [Plain, SameBut, Valid]; decide +kernel

theorem wit_ProductAndElementRecords_1 :
    let s : State := wP
    let hd : Hd := hd0
    let d : Nat := 1
    let a : Nat := 2
    let b : Nat := 0
    let c : Nat := 0
    let g : Nat := 17
    let scale : Nat := 0
    let eps : Nat := 0
    let st0 : Nat := 0
    let st1 : Nat := 0
    let st2 : Nat := 0
    let st3 : Nat := 0
    let k : Nat := 0
    let layer : Bool := true
    let plain := fun h => fm s h ≤ 8
    plain d ∧
    plain a ∧
    (s.gent a).dims = (s.gent d).dims ∧
    Broadcasts s d b ∧
    Broadcasts s d c ∧
    Plain (.eltw hd d a b c st0 st1 st2 st3 k) s ∧
    Unpinned (.eltw hd d a b c st0 st1 st2 st3 k) s ∧
    Plain (.softmax hd d a scale) s ∧
    Unpinned (.softmax hd d a scale) s ∧
    (Vector? s g (ext s a 0) (fun f => f ≤ 8)) ∧
    (Vector? s b (ext s a 0) (fun f => f ≤ 8)) ∧
    Plain (.norm hd layer d a g b eps) s ∧
    Unpinned (.norm hd layer d a g b eps) s := by dsimp only [Broadcasts, Plain, Unpinned, Valid, Vector?]; decide +kernel

theorem wit_ProductAndElementRecords_2 :
    let s : State := wP
    let hd : Hd := hd0
    let d : Nat := 11
    let a : Nat := 10
    let w : Nat := 12
    let b : Nat := 0
    let scale : Nat := 0
    let k : Nat := 0
    let acc : Bool := false
    let integer : Bool := true
    let m : Nat := 64
    let plain := fun h => fm s h ≤ 8
    let bias := fun (int : Bool) => Vector? s b (ext s d 0) fun f => f = 0 ∨ (int = true ∧ f = 8)
    let rest := nd s a = nd s d ∧ 2 ≤ nd s a ∧ ∀ k, 1 ≤ k → k < nd s a → ext s a k = ext s d k
    let weights := nd s w = 2 ∧ ext s w 0 = ext s a 0 ∧ ext s w 1 = ext s d 0
    (plain d ∧ fm s w ≠ 9 ∧ matPair (fm s w) (fm s a) = some (m, integer) ∧ weights ∧ bias integer ∧ Plain (.matmul hd acc d a w b) s ∧ Unpinned (.matmul hd acc d a w b) s ∧ plain a ∧ (s.gent a).dims ≠ (s.gent d).dims ∧ Plain (.softmax hd d a scale) s ∧ Unpinned (.softmax hd d a scale) s) ∧
    rest := ⟨by (try dsimp only [Plain, Unpinned, Valid, Vector?]); decide +kernel,
    ⟨by decide +kernel, by decide +kernel, fun k h1 h2 => (by decide +kernel : ∀ k, k < nd wP 10 → 1 ≤ k → ext wP 10 k = ext wP 11 k) k h2 h1⟩⟩

theorem wit_ProductAndElementRecords_3 :
    let s : State := wP
    let hd : Hd := hd0
    let d : Nat := 11
    let a : Nat := 14
    let w : Nat := 13
    let t : Nat := 15
    let b : Nat := 0
    let scale : Nat := 0
    let k : Nat := 0
    let acc : Bool := false
    let plain := fun h => fm s h ≤ 8
    let bias := fun (int : Bool) => Vector? s b (ext s d 0) fun f => f = 0 ∨ (int = true ∧ f = 8)
    let rest := nd s a = nd s d ∧ 2 ≤ nd s a ∧ ∀ k, 1 ≤ k → k < nd s a → ext s a k = ext s d k
    let weights := nd s w = 2 ∧ ext s w 0 = ext s a 0 ∧ ext s w 1 = ext s d 0
    (plain d ∧ (matPair 9 (fm s a)).isSome = true ∧ fm s w = 9 ∧ fm s t = 8 ∧ (s.gent t).count = 256 ∧ weights ∧ bias false ∧ Plain (.matmulcb hd acc d a w t b scale) s ∧ Unpinned (.matmulcb hd acc d a w t b scale) s) ∧
    rest := ⟨by (try dsimp only [Plain, Unpinned, Valid, Vector?]); decide +kernel,
    ⟨by decide +kernel, by decide +kernel, fun k h1 h2 => (by decide +kernel : ∀ k, k < nd wP 14 → 1 ≤ k → ext wP 14 k = ext wP 11 k) k h2 h1⟩⟩

theorem wit_ProductAndElementRecords_4 :
    let s : State := wP
    let hd : Hd := hd0
    let d : Nat := 16
    let a : Nat := 1
    let op : Nat := 0
    let axis : Nat := 0
    let plain := fun h => fm s h ≤ 8
    plain d ∧
    plain a ∧
    axis < nd s a ∧
    SameBut s a d axis ∧
    ext s d axis = 1 ∧
    Plain (.reduce hd op d a axis) s ∧
    Unpinned (.reduce hd op d a axis) s := by dsimp only [Plain, SameBut, Unpinned, Valid]; decide +kernel

theorem wit_StructuredComputeRecords_1 :
    let s : State := wC
    let hd : Hd := hd0
    let d : Nat := 21
    let w : Nat := 22
    let b : Nat := 0
    let x : Nat := 20
    let sx : Nat := 0
    let sy : Nat := 0
    let px : Nat := 0
    let py : Nat := 0
    let dx : Nat := 0
    let dy : Nat := 0
    let integer : Bool := true
    let m : Nat := 64
    let out := fun (e pad dil k st : Nat) => Int.fdiv ((e : Int) + 2 * pad - (dil + 1) * ((k : Int) - 1) - 1) (st + 1) + 1
    fm s d ≤ 8 ∧
    fm s w ≠ 9 ∧
    matPair (fm s w) (fm s x) = some (m, integer) ∧
    nd s x = 4 ∧
    nd s d = 4 ∧
    ext s x 3 = ext s d 3 ∧
    nd s w = 4 ∧
    ext s w 0 = ext s x 0 ∧
    ext s w 3 = ext s d 0 ∧
    (ext s d 1 : Int) = out (ext s x 1) px dx (ext s w 1) sx ∧
    (ext s d 2 : Int) = out (ext s x 2) py dy (ext s w 2) sy ∧
    (Vector? s b (ext s d 0) (fun f => f = 0 ∨ (integer = true ∧ f = 8))) ∧
    Plain (.convOp hd d x w b sx sy px py dx dy) s ∧
    Unpinned (.convOp hd d x w b sx sy px py dx dy) s := by dsimp only [Plain, Unpinned, Valid, Vector?]; decide +kernel

theorem wit_StructuredComputeRecords_2 :
    let s : State := wC
    let hd : Hd := hd0
    let d : Nat := 23
    let q : Nat := 24
    let kk : Nat := 25
    let v : Nat := 26
    let heads : Nat := 2
    let scale : Nat := 0
    let causal : Bool := true
    let dims := fun h => (s.gent h).dims
    fm s d ≤ 2 ∧
    fm s kk ≠ 9 ∧
    (matPair (fm s kk) (fm s q)).isSome = true ∧
    (matPair (fm s v) (fm s v)).isSome = true ∧
    nd s q = 2 ∧
    dims d = dims q ∧
    nth 0 (s.extOf d) 0 % heads = 0 ∧
    nd s kk = 2 ∧
    ext s kk 0 = ext s q 0 ∧
    dims v = dims kk ∧
    Plain (.attn hd causal d q kk v heads scale) s ∧
    Unpinned (.attn hd causal d q kk v heads scale) s := by dsimp only [Plain, Unpinned, Valid]; decide +kernel

theorem wit_StructuredComputeRecords_3 :
    let s : State := wE
    let hd : Hd := hd0
    let d : Nat := 31
    let w : Nat := 30
    let x : Nat := 32
    let dims := fun h => (s.gent h).dims
    fm s w ≤ 8 ∧
    fm s d = fm s w ∧
    fm s x = 8 ∧
    nd s w = 2 ∧
    dims d = ext s w 0 :: dims x ∧
    Plain (.embed hd d w x) s ∧
    Unpinned (.embed hd d w x) s := by dsimp only [Plain, Unpinned, Valid]; decide +kernel

theorem wit_StructuredComputeRecords_4 :
    let s : State := wE
    let hd : Hd := hd0
    let d : Nat := 33
    let a : Nat := 31
    let x : Nat := 34
    let kv : Sow := .imm 2
    let n := (operand s kv).toNat
    fm s a ≤ 8 ∧
    fm s d = fm s a ∧
    fm s x = 8 ∧
    1 ≤ n ∧
    n ≤ ext s a 0 ∧
    SameBut s a d 0 ∧
    ext s d 0 = n ∧
    SameBut s a x 0 ∧
    ext s x 0 = n ∧
    Plain (.topk hd d a x kv) s ∧
    Unpinned (.topk hd d a x kv) s := by dsimp only [Plain, SameBut, Unpinned, Valid]; decide +kernel

theorem wit_StructuredComputeRecords_5 :
    let s : State := wE
    let hd : Hd := hd0
    let d : Nat := 35
    let a : Nat := 31
    fm s a ≤ 8 ∧
    fm s d = 8 ∧
    SameBut s a d 0 ∧
    ext s d 0 = 1 ∧
    Plain (.argmax hd d a) s ∧
    Unpinned (.argmax hd d a) s := by dsimp only [Plain, SameBut, Unpinned, Valid]; decide +kernel

theorem wit_StructuredComputeRecords_6 :
    let s : State := wL2
    let hd : Hd := hd0
    let d : Nat := 41
    let a : Nat := 40
    let gm : Bool := false
    let dims := fun h => (s.gent h).dims
    fm s d = 0 ∧
    fm s a = 0 ∧
    nd s a = 2 ∧
    1 ≤ ext s a 0 ∧
    ext s a 0 ≤ 32 ∧
    dims d = [ext s a 0, ext s a 0] ∧
    Plain (.qr hd gm d a) s ∧
    Unpinned (.qr hd gm d a) s := by dsimp only [Plain, Unpinned, Valid]; decide +kernel

theorem wit_StructuredComputeRecords_7 :
    let s : State := wL2
    let hd : Hd := hd0
    let d : Nat := 42
    let a : Nat := 40
    let b : Nat := 43
    let gm : Bool := false
    let dims := fun h => (s.gent h).dims
    fm s d = 0 ∧
    fm s a = 0 ∧
    fm s b = 0 ∧
    nd s a = 2 ∧
    1 ≤ ext s a 0 ∧
    ext s a 0 ≤ 31 ∧
    dims d = [ext s a 0] ∧
    dims b = [1, ext s a 1] ∧
    Plain (.lsq hd gm d a b) s ∧
    Unpinned (.lsq hd gm d a b) s := by dsimp only [Plain, Unpinned, Valid]; decide +kernel

theorem wit_StructuredComputeRecords_8 :
    let s : State := wL2
    let hd : Hd := hd0
    let d : Nat := 1
    let w : Nat := 44
    let x : Nat := 2
    let gm : Bool := false
    let dims := fun h => (s.gent h).dims
    fm s d = 0 ∧
    fm s x = 0 ∧
    fm s w = 8 ∧
    dims d = dims x ∧
    ext s x 0 ≤ 32 ∧
    2 ≤ nd s x ∧
    nd s x ≤ 3 ∧
    ((dims w = [32] ∨ dims w = [32, ext s x 2])) ∧
    Plain (.rotl hd gm d x w) s ∧
    Unpinned (.rotl hd gm d x w) s := by dsimp only [Plain, Unpinned, Valid]; decide +kernel

theorem wit_CollectiveAndUserRecords_1 :
    let s : State := onG (fun g => { g with width := 2 }) wL2
    let hd : Hd := hd0
    let d : Nat := 45
    let x : Nat := 1
    let axes : Nat := 0
    let dim : Nat := 0
    let rop : Nat := 0
    let tag : Nat := 0
    let ring : Nat := 0
    let opc : Nat := 512
    let v : Sow := .imm 1
    let g := s.gfe
    let n := (operand s v).toNat
    let parts := if axes = 0 then g.width else if axes = 1 then g.chips else g.width * g.chips
    let part := if axes = 0 then g.shard else if axes = 1 then g.rank else g.shard + g.width * g.rank
    let blk := (ext s x dim + parts - 1) / parts
    let plain := fm s d ≤ 8 ∧ fm s x ≤ 8
    fm s d = fm s x ∧
    dim < nd s x ∧
    SameBut s x d dim ∧
    Plain (.allgather hd d x axes dim) s ∧
    plain ∧
    ext s d dim = min blk (ext s x dim - part * blk) ∧
    Plain (.redscat hd d x axes dim rop) s ∧
    n < parts ∧
    Plain (.bcast hd d x axes v) s ∧
    Plain (.send hd x axes tag v) s ∧
    Plain (.recv hd d ring axes tag v) s ∧
    s.installedAt g.ctxid opc = none ∧
    s.outstanding s.act.gfe < 64 := by dsimp only [Plain, SameBut, Valid]; decide +kernel

theorem wit_CollectiveAndUserRecords_2 :
    let s : State := { wL2 with installed := [inst1] }
    let hd : Hd := hd0
    let d : Nat := 2
    let x : Nat := 1
    let axes : Nat := 0
    let rop : Nat := 0
    let tag : Nat := 0
    let ring : Nat := 0
    let fuse : Nat := 0
    let flags : Nat := 0
    let opc : Nat := 512
    let v : Sow := .imm 2
    let hs : List (Nat × Nat) := [(1, 0)]
    let m : Installed := inst1
    let g := s.gfe
    let n := (operand s v).toNat
    let parts := if axes = 0 then g.width else if axes = 1 then g.chips else g.width * g.chips
    let plain := fm s d ≤ 8 ∧ fm s x ≤ 8
    let user := Instr.userOperator fuse flags opc hs
    plain ∧
    (s.gent d).dims = (s.gent x).dims ∧
    Plain (.allred hd d x axes rop) s ∧
    Plain (.send hd x axes tag v) s ∧
    parts ≤ n ∧
    Plain (.recv hd d ring axes tag v) s ∧
    512 ≤ opc ∧
    opc < 1024 ∧
    s.installedAt g.ctxid opc = some m ∧
    hs.length = (m.foot.length + 1) / 2 ∧
    (m.foot.length % 2 = 1 → (nth (0, 0) hs (m.foot.length / 2)).2 = 0) ∧
    ((∀ o ∈ s.opdsOf user, o.level = 4 → (s.gent o.hid).pin = 4 ∨ (s.gent o.hid).pin = 15)) ∧
    Plain user s := by dsimp only [Plain, Valid]; decide +kernel

theorem wit_TaskRecords_1 :
    let s : State := wK
    let u : State := after wK
    let fuse : Nat := 0
    let card : Nat := 8
    let q : Nat := 3
    let r : Nat := 0x12000
    let each : Bool := false
    let slot : Sow := .imm 5
    let rcb : Sow := .imm 0x12000
    let k : Card := card0
    let g := s.gfe
    let h := s.gent card
    let no := (operand s slot).toNat
    let here := Valid s card
    let mine := here ∧ (each = true ∨ g.shard = 0) ∧ s.writerOf g.ctxid g.shard card = false ∧ h.placed = true ∧ s.isGone g.ctxid g.shard card = false ∧
      32 ≤ h.size ∧ h.base % 32 = 0 ∧ s.cardAt g.ctxid h.base = .ok k ∧ (k.argh ≠ 0 → s.writerOf g.ctxid g.shard k.argh = false) ∧ no ≤ 63 ∧
      s.gfeQueue no = some q ∧ (s.queue q).isTask = true
    let quiet := Instr.quiet fuse rcb
    (mine ∧ s.rootOf g.ctxid g.rcb = some r ∧ s.closed r = false ∧ (s.queue q).state = 1 ∧ (s.queue q).elems.length < (s.queue q).cap ∧ (s.queue q).elems.length ≤ (s.queue q).hwm ∧ (s.writeCard g.ctxid h.base).isOk = true ∧ g.block = .none ∧ s.streamQuiet quiet = true ∧ s.quietRoot rcb = some r) ∧
    (s.rootAdd r 0x40 (2 ^ 30)).writeCard g.ctxid h.base = .ok u := ⟨by (try dsimp only [Valid]); decide +kernel,
    okIs (by decide +kernel)⟩

theorem wit_TaskRecords_2 :
    let s : State := put 0x1200F 1 0 wK
    let fuse : Nat := 0
    let card : Nat := 8
    let q : Nat := 3
    let each : Bool := false
    let slot : Sow := .imm 5
    let rcb : Sow := .imm 0x12000
    let k : Card := card0
    let g := s.gfe
    let h := s.gent card
    let no := (operand s slot).toNat
    let here := Valid s card
    let mine := here ∧ (each = true ∨ g.shard = 0) ∧ s.writerOf g.ctxid g.shard card = false ∧ h.placed = true ∧ s.isGone g.ctxid g.shard card = false ∧
      32 ≤ h.size ∧ h.base % 32 = 0 ∧ s.cardAt g.ctxid h.base = .ok k ∧ (k.argh ≠ 0 → s.writerOf g.ctxid g.shard k.argh = false) ∧ no ≤ 63 ∧
      s.gfeQueue no = some q ∧ (s.queue q).isTask = true
    let quiet := Instr.quiet fuse rcb
    mine ∧
    s.rootOf g.ctxid g.rcb = none ∧
    g.block = .none ∧
    s.streamQuiet quiet = true ∧
    s.quietRoot rcb = none := by dsimp only [Valid]; decide +kernel

theorem wit_TaskRecords_3 :
    let s : State := onG (fun g => { g with shard := 1 }) ((planes2 wK).setEntry 0 1 (ent 8 6 [32] 0x16000))
    let card : Nat := 8
    let each : Bool := false
    let g := s.gfe
    let here := Valid s card
    here ∧
    each = false ∧
    g.shard ≠ 0 := by dsimp only [Valid]; decide +kernel

theorem wit_TaskRecords_4 :
    let s : State := put 0x12050 1 1 wK
    let card : Nat := 8
    let q : Nat := 3
    let r : Nat := 0x12000
    let each : Bool := false
    let slot : Sow := .imm 5
    let k : Card := card0
    let g := s.gfe
    let h := s.gent card
    let no := (operand s slot).toNat
    let here := Valid s card
    let mine := here ∧ (each = true ∨ g.shard = 0) ∧ s.writerOf g.ctxid g.shard card = false ∧ h.placed = true ∧ s.isGone g.ctxid g.shard card = false ∧
      32 ≤ h.size ∧ h.base % 32 = 0 ∧ s.cardAt g.ctxid h.base = .ok k ∧ (k.argh ≠ 0 → s.writerOf g.ctxid g.shard k.argh = false) ∧ no ≤ 63 ∧
      s.gfeQueue no = some q ∧ (s.queue q).isTask = true
    mine ∧
    s.rootOf g.ctxid g.rcb = some r ∧
    s.closed r = true := by dsimp only [Valid]; decide +kernel

theorem wit_TaskRecords_5 :
    let s : State := opOn 3 true wK
    let g := s.gfe
    g.block = .none ∧
    ((∃ j ∈ g.set, (s.gfeAt j).joint = g.joint ∧ s.busyOps j = true)) := by decide +kernel

theorem wit_TaskRecords_6 :
    let s : State := onG (fun g => { g with block := .quiet 0x12000 }) wK
    let r : Nat := 0x12000
    let g := s.gfe
    let waiting := gfeWaiter s.act.gfe
    g.block = .quiet r ∧
    s.rootQuiet r waiting = true ∧
    dominates (s.clockOf (s.act.gfe / 4)) (s.clockOf (homeDie r)) = true := by decide +kernel

theorem wit_SystemRecords_1 :
    let s : State := wH
    let fuse : Nat := 0
    let h : Nat := 1
    let opc : Nat := 512
    let idem : Bool := false
    let each : Bool := false
    let addr : Sow := .imm 0x40000
    let pb : Sow := .imm 9
    let args : List Sow := []
    let m : Installed := imgM inst1 (s.readImage idem ((operand s addr).toNat % 2 ^ 56) opc ((operand s pb).toNat % 2 ^ 32))
    let bs : List Nat := imgB (s.readImage idem ((operand s addr).toNat % 2 ^ 56) opc ((operand s pb).toNat % 2 ^ 32))
    let g := s.gfe
    let k := s.act.gfe
    let u : State := (okOr ((0, 0, 0), s) ((s.offSpecs k h).historyRegion (issueAsker g k) (s.gent h))).2
    let r : Nat := (okOr ((0, 0, 0), s) ((s.offSpecs k h).historyRegion (issueAsker g k) (s.gent h))).1.1
    let h1 : Nat := (okOr ((0, 0, 0), s) ((s.offSpecs k h).historyRegion (issueAsker g k) (s.gent h))).1.2.1
    let h2 : Nat := (okOr ((0, 0, 0), s) ((s.offSpecs k h).historyRegion (issueAsker g k) (s.gent h))).1.2.2
    let first := g.shard = 0 ∧ g.set.Nodup ∧ s.othersWait = true
    let image := s.readImage idem ((operand s addr).toNat % 2 ^ 56) opc ((operand s pb).toNat % 2 ^ 32)
    let calls := if each = true then s.streamQuiet (.syscall fuse each args) = true else g.shard = 0 ∧ s.othersWait = true
    (Valid s h ∧ (s.gent h).fmt < 9 ∧ ((∀ p ∈ g.specs, p.hid ≠ h)) ∧ s.busyOps k = false ∧ first ∧ g.block = .none ∧ s.installedAt g.ctxid opc = none ∧ calls ∧ g.released = false ∧ s.windowFull (k / 4) = false) ∧
    (s.offSpecs k h).historyRegion (issueAsker g k) (s.gent h) = .ok ((r, h1, h2), u) ∧
    image = .ok m bs := ⟨by (try dsimp only [Valid]); decide +kernel,
    okIs (d := ((0, 0, 0), wH)) (by decide +kernel),
    imgIs (by decide +kernel)⟩

theorem wit_SystemRecords_2 :
    let s : State := onG (fun g => { g with shard := 1 }) wI
    let each : Bool := false
    let g := s.gfe
    let k := s.act.gfe
    s.busyOps k = false ∧
    g.shard ≠ 0 ∧
    each = false := by decide +kernel

theorem wit_SystemRecords_3 :
    let s : State := ten 13 9 [64, 64] 0x16800 wI
    let h : Nat := 13
    Valid s h ∧
    9 ≤ (s.gent h).fmt := by dsimp only [Valid]; decide +kernel

theorem wit_SystemRecords_4 :
    let s : State := { wI with installed := [inst1] }
    let opc : Nat := 512
    let idem : Bool := false
    let addr : Sow := .imm 0x40000
    let pb : Sow := .imm 9
    let m : Installed := imgM inst1 (s.readImage idem ((operand s addr).toNat % 2 ^ 56) opc ((operand s pb).toNat % 2 ^ 32))
    let g := s.gfe
    let first := g.shard = 0 ∧ g.set.Nodup ∧ s.othersWait = true
    first ∧
    g.block = .none ∧
    s.installedAt g.ctxid opc = some m := by decide +kernel

theorem wit_SystemRecords_5 :
    let s : State := { onG (fun g => { g with block := .removing 0 }) wI with installed := [inst1] }
    let f : Nat := 0
    let g := s.gfe
    let first := g.shard = 0 ∧ g.set.Nodup ∧ s.othersWait = true
    first ∧
    g.block = .removing f ∧
    s.instances g.ctxid f = false := by decide +kernel

theorem wit_SystemRecords_6 :
    let s : State := onG (fun g => { g with released := true }) wV
    let u : State := calledBy (onG (fun g => { g with released := true }) wV) [3, 5]
    let fuse : Nat := 0
    let each : Bool := false
    let args : List Sow := [.imm 3, .reg 1]
    let g := s.gfe
    let k := s.act.gfe
    let calls := if each = true then s.streamQuiet (.syscall fuse each args) = true else g.shard = 0 ∧ s.othersWait = true
    (s.busyOps k = false ∧ calls ∧ g.released = true) ∧
    (s.gfeCall (args.map fun v => (operand s v).toNat) = .ok u) := ⟨by decide +kernel,
    rfl⟩

theorem wit_SystemRecords_7 :
    let s : State := opOn 3 true wV
    let k := s.act.gfe
    s.busyOps k = true := by decide +kernel

theorem wit_ServiceCalls_1 :
    let s : State := wT
    s.ctx.bank.pc < 7680 ∧
    s.ctx.spec = false ∧
    s.svcRing = .bad := by decide +kernel

theorem wit_ServiceCalls_2 :
    let s : State := relV
    let u : State := ringOf relV
    (s.ctx.spec = false ∧ Released s 4 ∧ s.ctx.bank.pc < 7680) ∧
    s.svcRing = .ok u := ⟨by (try dsimp only [Released]); decide +kernel,
    rfl⟩

theorem wit_ServiceCalls_3 :
    let s : State := atPc 7680 relV
    s.ctx.spec = false ∧
    Released s 4 ∧
    7680 ≤ s.ctx.bank.pc := by dsimp only [Released]; decide +kernel


theorem wit_DieShootDowns_1 :
    let s : State := wSd
    let die : Nat := 0
    let v : Nat := go + 2 ^ 8
    let kind : Nat := 0
    let i : Instr := .sdctlKindAll 0 (go + 2 ^ 8)
    (i, kind) ∈ [(.sdctlKindAll die v, 0), (.sdctlKindCtx die v, 1), (.sdctlKindCtxRange die v, 2), (.sdctlKindGlobalRange die v, 3), (.sdctlKindUnion die v, 4)] ∧
    bitOf v 63 = true ∧
    v % 8 = kind ∧
    (let first := (AMap.get (0 : BitVec 64) s.sdva die).toNat / 2 ^ 12 % 2 ^ 44 * 4096; bitOf (sdctlOf s die) 63 = false) := by decide +kernel

theorem wit_DieShootDowns_2 :
    let s : State := sdBusy (go + 1) wSd
    let die : Nat := 0
    let v : Nat := go + 2 ^ 8 + 4
    let kind : Nat := 4
    let i : Instr := .sdctlKindUnion 0 (go + 2 ^ 8 + 4)
    (i, kind) ∈ [(.sdctlKindAll die v, 0), (.sdctlKindCtx die v, 1), (.sdctlKindCtxRange die v, 2), (.sdctlKindGlobalRange die v, 3), (.sdctlKindUnion die v, 4)] ∧
    bitOf v 63 = true ∧
    v % 8 = kind ∧
    (let first := (AMap.get (0 : BitVec 64) s.sdva die).toNat / 2 ^ 12 % 2 ^ 44 * 4096; bitOf (sdctlOf s die) 63 = true) := by decide +kernel

theorem wit_PackageShootDownsAndAcknowledgements_1 :
    let s : State := sdBusy (go + 1) (psdBusy (go + 1) wSd)
    let die : Nat := 0
    let mine := Drained s die (sdctlOf s die) (AMap.get 0 s.sdfirst die)
    let all := ∀ d ∈ s.dies, Drained s d s.psdctl.toNat (AMap.get 0 s.sdfirst 8)
    (bitOf (sdctlOf s die) 63 = true ∧ bitOf s.psdctl.toNat 63 = true) ∧
    mine ∧
    all := ⟨by decide +kernel,
    quietly (by decide +kernel) (by decide +kernel),
    fun d _ => quietly (by decide +kernel) (by decide +kernel)⟩

theorem wit_PackageShootDownsAndAcknowledgements_2 :
    let s : State := sdBusy go (psdBusy go { wSd with acks := [⟨0, 0, 7, 0, false, false, [64], false, []⟩] })
    let die : Nat := 0
    let mine := Drained s die (sdctlOf s die) (AMap.get 0 s.sdfirst die)
    let all := ∀ d ∈ s.dies, Drained s d s.psdctl.toNat (AMap.get 0 s.sdfirst 8)
    (bitOf (sdctlOf s die) 63 = true ∧ bitOf s.psdctl.toNat 63 = true) ∧
    ¬mine ∧
    ¬all := ⟨by decide +kernel,
    fun h => unquiet (s := sdBusy go (psdBusy go { wSd with acks := [⟨0, 0, 7, 0, false, false, [64], false, []⟩] })) (a := ⟨0, 0, 7, 0, false, false, [64], false, []⟩) (.head _) rfl rfl (by decide +kernel) h,
    fun h => unquiet (s := sdBusy go (psdBusy go { wSd with acks := [⟨0, 0, 7, 0, false, false, [64], false, []⟩] })) (a := ⟨0, 0, 7, 0, false, false, [64], false, []⟩) (.head _) rfl rfl (by decide +kernel) (h 0 (by decide +kernel))⟩

theorem wit_PackageShootDownsAndAcknowledgements_3 :
    let s : State := wSd
    let v : Nat := go + 2 ^ 8
    let kind : Nat := 0
    let i : Instr := .psdctlKindAll (go + 2 ^ 8)
    (i, kind) ∈ [(.psdctlKindAll v, 0), (.psdctlKindCtx v, 1), (.psdctlKindCtxRange v, 2), (.psdctlKindGlobalRange v, 3), (.psdctlKindUnion v, 4)] ∧
    bitOf v 63 = true ∧
    v % 8 = kind ∧
    bitOf s.psdctl.toNat 63 = false := by decide +kernel

theorem wit_PageTableWalks_1 :
    let s : State := wPl
    let core : Nat := 0
    let x : Nat := 0
    let ctxid : Nat := 0
    let va : Nat := 0x30005
    let p : Nat := 2 * 2 ^ 52 + 0x1B
    let a : Nat := 0x4000
    let wr : Bool := false
    let hit := s.tlb core ctxid va
    let due := hit = none ∨ (wr = true ∧ ∃ e, hit = some e ∧ bitOf e.pte 7 = false ∧ bitOf e.pte 11 = false)
    let permits := leafFault p ⟨ctxid, 0, 0, 0, (s.envOf (4 * core + x)).fw, some core, dieOfCore core⟩ (if wr then .write else .read) = none
    let asks := va < windowVa ∧ x < 4 ∧ s.wantsPage (4 * core + x) ctxid va wr = true ∧ ∀ y, y < x → s.wantsPage (4 * core + y) ctxid va wr = false
    asks ∧
    due ∧
    s.walk (dieOfCore core) ctxid va = .leaf p a ∧
    permits := by decide +kernel

theorem wit_PageTableWalks_2 :
    let s : State := wPs
    let core : Nat := 0
    let x : Nat := 0
    let ctxid : Nat := 0
    let va : Nat := 0x30005
    let p : Nat := 2 * 2 ^ 52 + 0x1B
    let a : Nat := 0x4000
    let wr : Bool := true
    let hit := s.tlb core ctxid va
    let due := hit = none ∨ (wr = true ∧ ∃ e, hit = some e ∧ bitOf e.pte 7 = false ∧ bitOf e.pte 11 = false)
    let permits := leafFault p ⟨ctxid, 0, 0, 0, (s.envOf (4 * core + x)).fw, some core, dieOfCore core⟩ (if wr then .write else .read) = none
    let asks := va < windowVa ∧ x < 4 ∧ s.wantsPage (4 * core + x) ctxid va wr = true ∧ ∀ y, y < x → s.wantsPage (4 * core + y) ctxid va wr = false
    asks ∧
    due ∧
    s.walk (dieOfCore core) ctxid va = .leaf p a ∧
    ¬permits := by decide +kernel

theorem wit_PageTableWalks_3 :
    let s : State := put 0x2000 8 0 wPl
    let core : Nat := 0
    let x : Nat := 0
    let ctxid : Nat := 0
    let va : Nat := 0x30005
    let wr : Bool := false
    let hit := s.tlb core ctxid va
    let due := hit = none ∨ (wr = true ∧ ∃ e, hit = some e ∧ bitOf e.pte 7 = false ∧ bitOf e.pte 11 = false)
    let asks := va < windowVa ∧ x < 4 ∧ s.wantsPage (4 * core + x) ctxid va wr = true ∧ ∀ y, y < x → s.wantsPage (4 * core + y) ctxid va wr = false
    asks ∧
    due ∧
    s.walk (dieOfCore core) ctxid va ∈ [.fault, .wait] := by decide +kernel

theorem wit_PageTableWalks_4 :
    let s : State := tlbIn (2 * 2 ^ 52 + 0x5B) wPl
    let core : Nat := 0
    let x : Nat := 0
    let ctxid : Nat := 0
    let va : Nat := 0x30005
    let wr : Bool := false
    let hit := s.tlb core ctxid va
    let due := hit = none ∨ (wr = true ∧ ∃ e, hit = some e ∧ bitOf e.pte 7 = false ∧ bitOf e.pte 11 = false)
    let asks := va < windowVa ∧ x < 4 ∧ s.wantsPage (4 * core + x) ctxid va wr = true ∧ ∀ y, y < x → s.wantsPage (4 * core + y) ctxid va wr = false
    asks ∧
    ¬due := by decide +kernel

theorem wit_PageTableWalks_5 :
    let s : State := wPl
    let core : Nat := 0
    let ctxid : Nat := 0
    let va : Nat := 0x10005
    let wr : Bool := false
    (windowVa ≤ va ∨ (∀ y, y < 4 → s.wantsPage (4 * core + y) ctxid va wr = false) ∧ s.cmdWantsPage core ctxid va wr = false) := by decide +kernel

theorem wit_QueueMapsUnmapsAndWakes_1 :
    let s : State := put 0x16800 8 7 (qState 2 0 [] wG)
    let die : Nat := 0
    let k : Nat := 3
    let a : Nat := 0x16800
    let b : Nat := 0x16800
    let w : Nat := 8
    let qi := 256 * die + k
    let q := s.queue qi
    let sound := 4 ≤ q.qcfg.toNat / 2 ^ 49 % 2 ^ 4 ∧ q.lwm ≤ q.hwm ∧ q.hwm ≤ q.cap
    ¬(q.state = 0 ∧ sound) ∧
    (q.state = 1 ∨ q.state = 2) ∧
    q.state ≠ 1 ∧
    bitOf q.qsig.toNat 63 = true ∧
    s.sigPlace q = some a ∧
    b < a + 8 ∧
    a < b + w ∧
    s.mem.readNat a 8 ≠ 0 ∧
    q.due = false := by decide +kernel

theorem wit_QueueMapsUnmapsAndWakes_2 :
    let s : State := sigDue true (put 0x16800 8 7 (qState 0 0 [] wG))
    let die : Nat := 0
    let k : Nat := 3
    let v : Nat := 7
    let l : List Byte := leBytes 7 8
    let qi := 256 * die + k
    let q := s.queue qi
    let e := s.unitEnv q.owner.1
    ((q.state = 0 ∨ q.state = 3) ∧ q.due = true ∧ s.unitRead e (q.qsig.toNat % 2 ^ 56) 8 = .ok l) ∧
    leNat l = v := ⟨by decide +kernel,
    rfl⟩

theorem wit_QueueMapsUnmapsAndWakes_3 :
    let s : State := qState 0 1 [] (put 0x16000 4 2 (put 0x16010 8 0x16100 wG))
    let die : Nat := 0
    let k : Nat := 3
    let h : List Byte := leBytes 2 16
    let l : List Byte := leBytes 0x16100 32
    let qi := 256 * die + k
    let q := s.queue qi
    let e := s.unitEnv q.owner.1
    let va := q.qsave.toNat % 2 ^ 56
    let n := leNat (h.take 4)
    let sound := 4 ≤ q.qcfg.toNat / 2 ^ 49 % 2 ^ 4 ∧ q.lwm ≤ q.hwm ∧ q.hwm ≤ q.cap
    q.state = 0 ∧
    sound ∧
    s.unitRead e va 16 = .ok h ∧
    n ≤ q.cap ∧
    s.unitRead e (va + 16) (16 * n) = .ok l := by decide +kernel

theorem wit_QueueMapsUnmapsAndWakes_4 :
    let s : State := put 0x16800 8 7 (qState 1 0 [] wG)
    let die : Nat := 0
    let k : Nat := 3
    let qi := 256 * die + k
    let q := s.queue qi
    q.state = 1 := by decide +kernel

theorem wit_QueueMapsUnmapsAndWakes_5 :
    let s : State := qState 0 0 [] { wG with act := { wG.act with die := 8 }, routes := [(72, [⟨[], .marker⟩])] }
    let die : Nat := 0
    let k : Nat := 3
    let b : Nat := 0
    let qi := 256 * die + k
    let q := s.queue qi
    let e := s.unitEnv q.owner.1
    let va := q.qsave.toNat % 2 ^ 56
    let sound := 4 ≤ q.qcfg.toNat / 2 ^ 49 % 2 ^ 4 ∧ q.lwm ≤ q.hwm ∧ q.hwm ≤ q.cap
    (q.state = 0 ∧ sound) ∧
    ((∃ b, s.unitRead e va 16 = .error (0, b))) := ⟨by decide +kernel,
    errIs (by decide +kernel)⟩

theorem wit_QueueFieldsAndSaves_1 :
    let s : State := qState 0 0 [] wG
    let die : Nat := 0
    let k : Nat := 3
    let qi := 256 * die + k
    let q := s.queue qi
    q.state = 0 ∧
    (q.state ≠ 3 ∨ q.faulted = true) := by decide +kernel

theorem wit_QueueFieldsAndSaves_2 :
    let s : State := qState 3 0 [⟨7, 0, 0⟩, ⟨8, 0, 0⟩] wG
    let u : State := unmapped (qState 3 0 [⟨7, 0, 0⟩, ⟨8, 0, 0⟩] wG)
    let die : Nat := 0
    let k : Nat := 3
    let v : Nat := 0
    let qi := 256 * die + k
    let q := s.queue qi
    let area := leBytes q.elems.length 4 ++ leBytes 0 12 ++
      q.elems.flatMap fun e => if q.isTask then leBytes e.val 8 ++ leBytes e.plane 8 else leBytes e.val 16
    let lw := v / 2 ^ 17 % 2 ^ 16
    let hw := v / 2 ^ 33 % 2 ^ 16
    let save := s.unitWrite (s.unitEnv q.owner.1) (q.qsave.toNat % 2 ^ 56) area
    (q.state ≠ 0 ∧ lw ≤ hw ∧ hw ≤ q.cap ∧ q.state = 3 ∧ q.faulted = false) ∧
    save = .ok u := ⟨by decide +kernel,
    rfl⟩

theorem wit_QueueFieldsAndSaves_3 :
    let s : State := qState 1 0 [⟨1, 0, 0⟩] wG
    let die : Nat := 0
    let k : Nat := 3
    let v : Nat := 2 * 2 ^ 17 + 0 * 2 ^ 33
    let qi := 256 * die + k
    let q := s.queue qi
    let lw := v / 2 ^ 17 % 2 ^ 16
    let hw := v / 2 ^ 33 % 2 ^ 16
    q.state ≠ 0 ∧
    ¬(lw ≤ hw ∧ hw ≤ q.cap) := by decide +kernel

theorem wit_QueueFieldsAndSaves_4 :
    let s : State := qState 3 0 [⟨7, 0, 0⟩, ⟨8, 0, 0⟩] { wG with devs := wG.devs.map fun d => (d.1, { d.2 with heap := [0x10000, 0x16000, 0] }) }
    let die : Nat := 0
    let k : Nat := 3
    let f : Nat := 7
    let va : Nat := 0x16000
    let qi := 256 * die + k
    let q := s.queue qi
    let area := leBytes q.elems.length 4 ++ leBytes 0 12 ++
      q.elems.flatMap fun e => if q.isTask then leBytes e.val 8 ++ leBytes e.plane 8 else leBytes e.val 16
    let save := s.unitWrite (s.unitEnv q.owner.1) (q.qsave.toNat % 2 ^ 56) area
    q.state = 3 ∧
    q.faulted = false ∧
    f ≠ 0 ∧
    save = .error (f, va) := by decide +kernel

theorem wit_QueueFieldsAndSaves_5 :
    let s : State := qState 3 0 [] { wG with act := { wG.act with die := 8 }, routes := [(72, [⟨[], .marker⟩])] }
    let die : Nat := 0
    let k : Nat := 3
    let va : Nat := 0x16000
    let qi := 256 * die + k
    let q := s.queue qi
    let area := leBytes q.elems.length 4 ++ leBytes 0 12 ++
      q.elems.flatMap fun e => if q.isTask then leBytes e.val 8 ++ leBytes e.plane 8 else leBytes e.val 16
    let save := s.unitWrite (s.unitEnv q.owner.1) (q.qsave.toNat % 2 ^ 56) area
    q.state = 3 ∧
    q.faulted = false ∧
    save = .error (0, va) := by decide +kernel


theorem wit_IslandsAndAlerts_1 :
    let s : State := base
    let i : Nat := 5
    let core : Nat := 0
    let lvl := fun (j : Nat) => s.island j % 16
    let busy := fun (j : Nat) => bitOf (s.island j) 63
    i < 1055 ∧
    i < 1024 ∧
    lvl i ≠ 0 ∧
    busy i = false ∧
    ((∀ j, j < 1024 → lvl j ≤ lvl i)) ∧
    lvl core ≠ 0 := by decide +kernel

theorem wit_IslandsAndAlerts_2 :
    let s : State := isled 5 3 true (island 7 0 base)
    let i : Nat := 5
    let core : Nat := 7
    let lvl := fun (j : Nat) => s.island j % 16
    let busy := fun (j : Nat) => bitOf (s.island j) 63
    busy i = true ∧
    lvl core = 0 ∧
    busy core = false ∧
    ((∀ x, x < 4 → (s.ctxAt (4 * core + x)).status = .empty)) ∧
    (s.coreAt core).cmds = [] ∧
    (s.coreAt core).saved = [] := by decide +kernel

theorem wit_IslandsAndAlerts_3 :
    let i : Nat := 1055
    1055 ≤ i := by decide +kernel

theorem wit_MmioWrites_1 :
    let d : Nat := 0
    let k : Nat := 3
    let v : Nat := 2 ^ 62 + 2 ^ 61
    v < 2 ^ 64 ∧
    d < 8 ∧
    k < 256 ∧
    (let die := 0x1000000 + d * 0x100000; let qr := die + 0x1000 + 0x40 * k; let qi := 256 * d + k; v / 2 ^ 62 = 1) ∧
    (let die := 0x1000000 + d * 0x100000; let qr := die + 0x1000 + 0x40 * k; let qi := 256 * d + k; k < 128) := by decide +kernel

theorem wit_MmioWrites_2 :
    let d : Nat := 0
    let k : Nat := 3
    let v : Nat := 2 ^ 61 + 77
    v < 2 ^ 64 ∧
    d < 8 ∧
    k < 256 ∧
    (let die := 0x1000000 + d * 0x100000; let qr := die + 0x1000 + 0x40 * k; let qi := 256 * d + k; v / 2 ^ 62 = 0) := by decide +kernel

theorem wit_MmioWrites_3 :
    let d : Nat := 7
    let k : Nat := 255
    let v : Nat := 2 ^ 63 + 1
    v < 2 ^ 64 ∧
    d < 8 ∧
    k < 256 ∧
    (let die := 0x1000000 + d * 0x100000; let qr := die + 0x1000 + 0x40 * k; let qi := 256 * d + k; 2 ^ 63 ≤ v) ∧
    (let die := 0x1000000 + d * 0x100000; let qr := die + 0x1000 + 0x40 * k; let qi := 256 * d + k; v % 8 = 1) := by decide +kernel

theorem wit_RoutesAndInboundTraffic_1 :
    let s : State := onRoute 0 1 ⟨[4, 0], .marker⟩ wX
    let src : Nat := 0
    let dst : Nat := 1
    let port : Nat := 2
    let addr : Nat := 0x10000
    let n : Nat := 8
    let bytes : List Nat := [1, 2, 3]
    let m : Msg := ⟨[4, 0], .marker⟩
    let r : List Msg := [⟨[], .marker⟩]
    src < 9 ∧
    dst < 9 ∧
    AMap.get [] s.routes (9 * src + dst) = m :: r ∧
    m.t = .marker ∧
    ((∀ j, j < 9 → j ≠ src → Past s dst m.stamp j)) ∧
    s.windowFull 8 = false ∧
    addr + bytes.length ≤ 2 ^ 39 ∧
    AMap.get 0 s.posted port = 0 ∧
    addr + n ≤ 2 ^ 39 ∧
    ((∀ a, addr ≤ a → a < addr + n → dominates (s.clockOf (homeDie a)) (s.clockOf 8) = true)) := by dsimp only [Past]; decide +kernel

theorem wit_RoutesAndInboundTraffic_2 :
    let s : State := onRoute 1 0 ⟨[0, 0], .read ⟨.mem 0x10000, 0, 8, false⟩ 0 0⟩ ((inflight { wX with posted := [(2, 1)] }).onCtx fun c => { c with var := c.var.map fun v => { v with bytes := [9, 9, 9, 9, 9, 9, 9, 9], kept := [1] } })
    let src : Nat := 1
    let dst : Nat := 0
    let port : Nat := 2
    let n : Nat := 8
    let key : Nat := 0x10000
    let ck : Nat := 0
    let id : Nat := 0
    let m : Msg := ⟨[0, 0], .read ⟨.mem 0x10000, 0, 8, false⟩ 0 0⟩
    let r : List Msg := [⟨[], .marker⟩]
    let sw : Bool := false
    src < 9 ∧
    dst < 9 ∧
    AMap.get [] s.routes (9 * src + dst) = m :: r ∧
    m.t = .read ⟨.mem key, 0, n, sw⟩ ck id ∧
    ((∀ j, j < 9 → Past s dst m.stamp j)) ∧
    AMap.get 0 s.posted port ≠ 0 := by dsimp only [Past]; decide +kernel

theorem wit_RoutesAndInboundTraffic_3 :
    let s : State := onRoute 0 1 ⟨[4, 0, 5], .marker⟩ wX
    let src : Nat := 0
    let dst : Nat := 1
    let m : Msg := ⟨[4, 0, 5], .marker⟩
    let r : List Msg := [⟨[], .marker⟩]
    src < 9 ∧
    dst < 9 ∧
    AMap.get [] s.routes (9 * src + dst) = m :: r ∧
    ((∃ j, j < 9 ∧ j ≠ src ∧ ¬Past s dst m.stamp j)) := by dsimp only [Past]; decide +kernel

theorem wit_RoutesAndInboundTraffic_4 :
    let s : State := onRoute 1 0 ⟨[0, 3], .write ⟨.mem 0x10000, 0, 2, false⟩ [7, 8] 9⟩ { wX with acks := [⟨9, 512, 0, 0, false, false, [], false, []⟩] }
    let src : Nat := 1
    let dst : Nat := 0
    let key : Nat := 0x10000
    let ack : Nat := 9
    let bs : List Byte := [7, 8]
    let m : Msg := ⟨[0, 3], .write ⟨.mem 0x10000, 0, 2, false⟩ [7, 8] 9⟩
    let r : List Msg := [⟨[], .marker⟩]
    let sw : Bool := false
    src < 9 ∧
    dst < 9 ∧
    AMap.get [] s.routes (9 * src + dst) = m :: r ∧
    m.t = .write ⟨.mem key, 0, bs.length, sw⟩ bs ack ∧
    ((∀ j, j < 9 → j ≠ src → Past s dst m.stamp j)) ∧
    NoRootAt s key bs.length ∧
    ((∀ q ∈ s.queues, bitOf q.2.qsig.toNat 63 = false)) := by dsimp only [NoRootAt, Past]; decide +kernel


theorem wit_ServiceRequests_1 :
    let s : State := svcAsked 0 3 10 (yMark base)
    let core : Nat := 0
    let x : Nat := 0
    let v : Nat := 2 ^ 63 + 3 * 2 ^ 48 + 77
    let k := s.coreAt core
    let dl := (AMap.get (0 : BitVec 64) k.k 0x48).toNat
    (bitOf v 63 = true ∧ bitOf k.svcreq.toNat 63 = true ∧ Requested s core x ∧ 0 < dl ∧ dl ≤ k.dcount ∧ k.dcount < 2 ^ 40 ∧ k.dcount < 2 * dl) ∧
    AtYMark s core x := ⟨by (try dsimp only [AtYMark, Requested]); decide +kernel,
    ⟨by decide +kernel, by decide +kernel, by decide +kernel, .inr ⟨.inl (by decide +kernel), by decide +kernel, by decide +kernel, _, rfl, by decide +kernel⟩⟩⟩

theorem wit_ServiceRequests_2 :
    let s : State := yMark base
    let core : Nat := 0
    let x : Nat := 0
    let v : Nat := 2 ^ 63 + 3 * 2 ^ 48 + 77
    let ck := 4 * core + x
    let k := s.coreAt core
    let c := s.ctxAt ck
    bitOf v 63 = true ∧
    bitOf k.svcreq.toNat 63 = false ∧
    x = v / 2 ^ 56 % 4 ∧
    c.status ≠ .empty ∧
    ¬(bitOf k.svcreq.toNat 63 = true ∧ k.handler = none) := by decide +kernel

theorem wit_ServiceRequests_3 :
    let s : State := yMark base
    let core : Nat := 0
    let x : Nat := 1
    let v : Nat := 2 ^ 63 + 1 * 2 ^ 56 + 3 * 2 ^ 48 + 77
    let ck := 4 * core + x
    let k := s.coreAt core
    let c := s.ctxAt ck
    bitOf v 63 = true ∧
    bitOf k.svcreq.toNat 63 = false ∧
    x = v / 2 ^ 56 % 4 ∧
    c.status = .empty := by decide +kernel

theorem wit_ServiceRequests_4 :
    let v : Nat := 2 ^ 62 + 3 * 2 ^ 48 + 77
    bitOf v 63 = false := by decide +kernel

theorem wit_ServiceRequests_5 :
    let s : State := svcAsked 0 3 20 (yMark base)
    let core : Nat := 0
    let x : Nat := 0
    let ck := 4 * core + x
    let k := s.coreAt core
    let c := s.ctxAt ck
    let dl := (AMap.get (0 : BitVec 64) k.k 0x48).toNat
    Requested s core x ∧
    0 < dl ∧
    2 * dl ≤ k.dcount ∧
    k.dcount < 2 ^ 40 ∧
    c.bound = true ∧
    c.inHandler = false ∧
    c.status = .ready := by dsimp only [Requested]; decide +kernel

theorem wit_ServiceResults_1 :
    let s : State := call0 [⟨9, 1, 0, 0x12000, 0, 1⟩] (haltRec (onG (fun g => { g with block := .svc 9 }) wG))
    let v : Nat := 5
    let k : Nat := 0
    let token : Nat := 9
    let die : Nat := 0
    let c : SvcCall := ⟨9, 1, 0, 0x12000, 0, 1⟩
    let i : Instr := .halt 0
    let tok := (AMap.get (0 : BitVec 64) s.io 0x28).toNat % 2 ^ 32
    let gr := (AMap.get (0 : BitVec 64) s.graddr die).toNat
    (s.svcCalls.find? (fun d => d.token == tok) = some c) ∧
    c.ck = 0 ∧
    c.gk = k + 1 ∧
    (s.gfeAt k).block = .svc tok ∧
    (s.gfeAt k).set = [k] ∧
    s.fetchRecord (s.gfeAt k) (s.gfeAt k).pc = .ok i ∧
    dominates (s.clockOf (k / 4)) (s.clockOf 8) = true ∧
    (s.svcCalls.find? (fun d => d.token == token && d.num == 0x50) = none) ∧
    (2 ^ 40 ≤ v ∨ findRegion (s.dev (gr / 2 ^ 56 % 64)).regions (gr % 2 ^ 56) = none) := by decide +kernel

theorem wit_ServiceResults_2 :
    let s : State := { haltRec (onG (fun g => { g with block := .result 5 [] }) wG) with ac := [(8, [0, 0, 0, 0, 0, 0, 0, 0, 1])] }
    let k : Nat := 0
    let tok := (AMap.get (0 : BitVec 64) s.io 0x28).toNat % 2 ^ 32
    (s.svcCalls.find? (fun d => d.token == tok) = none) ∧
    (s.gfeAt k).set = [k] ∧
    dominates (s.clockOf (k / 4)) (s.clockOf 8) = false := by decide +kernel

theorem wit_ServiceResults_3 :
    let s : State := call0 [⟨9, 1, 0, 0x12000, 1, 0⟩] (wG.onCtxAt 0 fun c => { c with svc := some 9 })
    let core : Nat := 0
    let x : Nat := 0
    let c : SvcCall := ⟨9, 1, 0, 0x12000, 1, 0⟩
    let ck := 4 * core + x
    let tok := (AMap.get (0 : BitVec 64) s.io 0x28).toNat % 2 ^ 32
    (s.svcCalls.find? (fun d => d.token == tok) = some c) ∧
    c.ck = ck + 1 ∧
    x < 4 ∧
    ((∀ y, y < 4 → ((s.ctxAt (4 * core + y)).svc = some tok ∨ (s.ctxAt (4 * core + y)).fwSvc = some tok ↔ y = x))) := by decide +kernel

theorem wit_ServiceResults_4 :
    let s : State := call0 [⟨9, 0x50, 0, 0x12000, 0, 1⟩] (opOn 3 true (haltRec (onG (fun g => { g with block := .svc 9 }) wG)))
    let token : Nat := 9
    let c : SvcCall := ⟨9, 0x50, 0, 0x12000, 0, 1⟩
    (s.svcCalls.find? (fun d => d.token == token && d.num == 0x50) = some c) := by decide +kernel

theorem wit_ServiceResults_5 :
    let s : State := { put 0x1200F 1 0x80 wG with graddr := [(0, 0x12000)] }
    let v : Nat := 5
    let die : Nat := 0
    let r : Region := ⟨0x12000, 0x12000, 0, true⟩
    let gr := (AMap.get (0 : BitVec 64) s.graddr die).toNat
    v < 2 ^ 40 ∧
    findRegion (s.dev (gr / 2 ^ 56 % 64)).regions (gr % 2 ^ 56) = some r ∧
    bitOf (s.mem.readNat (r.phys + 0x0F) 1) 7 = true := by decide +kernel

theorem wit_ContextCommands_1 :
    let s : State := cmd 2 3 wG
    let c : Nat := 3
    let i : Instr := .ctxsuspend 3
    let op : Nat := 2
    (i, op) ∈ [(.ctxsuspend c, 2), (.ctxresume c, 3), (.ctxdestroy c, 4), (.ctxheap c, 5), (.ctxmsi c, 6), (.regcreate c, 8), (.regdestroy c, 9), (.cqcreate c, 0xC), (.cqdestroy c, 0xD), (.ringmsi c, 0xE), (.pkgring c, 0xF)] ∧
    Commanded s op c ∧
    (s.dev c).created = false ∧
    (s.dev c).suspending = false ∧
    (s.dev c).resuming = 0 ∧
    ((∀ q ∈ s.copyQueues, q.ctxid ≠ c)) := by dsimp only [Commanded]; decide +kernel

theorem wit_ContextCommands_2 :
    let s : State := cmd 1 0 wG
    let c : Nat := 0
    Commanded s 1 c ∧
    ((∃ d, d < 64 ∧ (s.dev d).resident = false)) ∧
    (s.dev c).created = true := by dsimp only [Commanded]; decide +kernel

theorem wit_ContextCommands_3 :
    let s : State := { cmd 1 0 wG with devs := (List.range 64).map fun k => (k, { resident := true, created := true }) }
    let c : Nat := 0
    Commanded s 1 c ∧
    ((∀ d, d < 64 → (s.dev d).resident = true)) := by dsimp only [Commanded]; decide +kernel

theorem wit_ContextCommands_4 :
    let s : State := cmd 1 0 (bare wG)
    let c : Nat := 0
    Commanded s 1 c ∧
    (s.dev c).created = false ∧
    ((∃ d, d < 64 ∧ (s.dev d).resident = false)) ∧
    ¬Descriptor s := by dsimp only [Commanded, Descriptor, HeapAddress]; decide +kernel

theorem wit_ContextCommands_5 :
    let s : State := cmd 1 3 (inBlk described (bare wG))
    let c : Nat := 3
    let place : Nat := 0x12000
    let f := blk s
    let fresh := s.onDev c fun _ => { Described s place with regions := [] }
    Commanded s 1 c ∧
    (s.dev c).created = false ∧
    ((∃ d, d < 64 ∧ (s.dev d).resident = false)) ∧
    Descriptor s ∧
    fresh.rcbPlace c (f 0xB0 8) = .ok place ∧
    s.mem.readNat place 8 = 0 ∧
    bitOf (s.mem.readNat (place + 0x0F) 1) 7 = false := by dsimp only [Commanded, Descriptor, HeapAddress]; decide +kernel

theorem wit_ContextCommands_6 :
    let s : State := cmd 5 0 (inBlk [(0, 8, 64), (8, 8, 2 ^ 56 - 64)] wG)
    let c : Nat := 0
    let f := blk s
    Commanded s 5 c ∧
    (s.dev c).created = true ∧
    HeapAddress (f 0 8) ∧
    HeapAddress (f 8 8) ∧
    HeapAddress (f 0x10 8) := by dsimp only [Commanded, HeapAddress]; decide +kernel

theorem wit_ContextCommands_7 :
    let s : State := cmd 5 0 (inBlk [(0, 8, 1), (8, 8, 2 ^ 56 - 64)] wG)
    let c : Nat := 0
    let f := blk s
    Commanded s 5 c ∧
    (s.dev c).created = true ∧
    ¬HeapAddress (f 0 8) := by dsimp only [Commanded, HeapAddress]; decide +kernel

theorem wit_ContextCommands_8 :
    let s : State := cmd 6 0 (inBlk [(0, 8, 1), (8, 8, 2 ^ 56 - 64)] wG)
    let c : Nat := 0
    Commanded s 6 c ∧
    (s.dev c).created = true := by dsimp only [Commanded]; decide +kernel

theorem wit_ContextCommands_9 :
    let s : State := cmd 8 0 (inBlk [(0, 8, 0x12100), (8, 4, 0)] (put 0x12100 8 0x12000 (put 0x1210E 2 0xFFFF wG)))
    let c : Nat := 0
    let place : Nat := 0x12100
    let parent : Nat := 0x12000
    let f := blk s
    let given := f 8 4
    let p := s.mem.readNat place 8
    Commanded s 8 c ∧
    (s.dev c).created = true ∧
    given < 2 ^ 12 ∧
    s.rcbPlace c (f 0 8) = .ok place ∧
    p = parent ∧
    parent ≠ 0 ∧
    (findRegion (s.dev c).regions parent).isSome = true ∧
    s.rstate c parent ≠ 3 ∧
    s.rstate c parent ≠ 4 ∧
    findRegion (s.dev c).regions (f 0 8) = none ∧
    bitOf given 11 = false ∧
    s.mem.wf = true := by dsimp only [Commanded]; decide +kernel

theorem wit_ContextCommands_10 :
    let s : State := cmd 8 0 (inBlk [(0, 8, 0x12101), (8, 4, 0x7A0)] (put 0x12100 8 0x12000 (put 0x1210E 2 0xFFFF wG)))
    let c : Nat := 0
    let f := blk s
    let given := f 8 4
    Commanded s 8 c ∧
    (s.dev c).created = true ∧
    given < 2 ^ 12 ∧
    s.rcbPlace c (f 0 8) = .error 1 := by dsimp only [Commanded]; decide +kernel

theorem wit_ContextCommands_11 :
    let s : State := cmd 9 0 (inBlk [(0, 8, 0x12000)] wG)
    let c : Nat := 0
    let r : Region := ⟨0x12000, 0x12000, 0, true⟩
    let f := blk s
    Commanded s 9 c ∧
    (s.dev c).created = true ∧
    findRegion (s.dev c).regions (f 0 8) = some r ∧
    s.rstate c (f 0 8) ∈ [0, 3, 4] ∧
    ((∀ q ∈ s.queues, q.2.owner ≠ (c, f 0 8))) ∧
    ((∀ a ∈ (s.dev c).regions, a.root = false → a.parent ≠ f 0 8)) := by dsimp only [Commanded]; decide +kernel

theorem wit_ContextCommands_12 :
    let s : State := cmd 9 0 (inBlk [(0, 8, 0x12100)] wG)
    let c : Nat := 0
    let f := blk s
    Commanded s 9 c ∧
    (s.dev c).created = true ∧
    findRegion (s.dev c).regions (f 0 8) = none := by dsimp only [Commanded]; decide +kernel

theorem wit_SuspensionAndQueueCommands_1 :
    let s : State := cmd 2 0 (put 0x1200F 1 0x20 (noStreams wG))
    let c : Nat := 0
    let d := s.dev c
    Commanded s 2 c ∧
    d.created = true ∧
    d.resident = true ∧
    d.suspending = false ∧
    s.saveFits c d.rootRcb = true ∧
    s.preempts = [] ∧
    2 ≤ s.rstate c d.rootRcb ∧
    (d.suspending = false ∨ (s.rstate c d.rootRcb < 2 ∧ (s.saveFits c d.rootRcb = false ∨ (c, d.rootRcb) ∈ s.preempts))) := by dsimp only [Commanded]; decide +kernel

theorem wit_SuspensionAndQueueCommands_2 :
    let s : State := cmd 2 0 (put 0x1200F 1 0x10 (opOn 3 true { wG with gfes := [] }))
    let c : Nat := 0
    let d := s.dev c
    Commanded s 2 c ∧
    d.created = true ∧
    d.resident = true ∧
    d.suspending = false ∧
    s.rstate c d.rootRcb < 2 ∧
    s.preempts = [] ∧
    ((∀ e ∈ s.gfes, e.2.busy = true → e.2.ctxid ≠ c)) ∧
    s.treeAtRest c d.rootRcb = false := by dsimp only [Commanded]; decide +kernel

theorem wit_SuspensionAndQueueCommands_3 :
    let s : State := cmd 2 0 (devIs (fun d => { d with resident := false }) wG)
    let c : Nat := 0
    let d := s.dev c
    Commanded s 2 c ∧
    d.created = true ∧
    d.resident = false ∧
    d.suspending = false := by dsimp only [Commanded]; decide +kernel

theorem wit_SuspensionAndQueueCommands_4 :
    let s : State := cmd 3 0 (devIs (fun d => { d with resident := false }) wG)
    let c : Nat := 0
    let d := s.dev c
    Commanded s 3 c ∧
    d.resuming = 0 ∧
    d.created = true ∧
    d.resident = false ∧
    ((∃ e, e < 64 ∧ (s.dev e).resident = false)) ∧
    s.rstate c d.rootRcb ≠ 2 := by dsimp only [Commanded]; decide +kernel

theorem wit_SuspensionAndQueueCommands_5 :
    let s : State := cmd 2 0 (devIs (fun d => { d with suspending := true }) (put 0x1200F 1 0x20 (noStreams wG)))
    let c : Nat := 0
    let d := s.dev c
    Commanded s 2 c ∧
    d.suspending = true ∧
    2 ≤ s.rstate c d.rootRcb ∧
    s.treeAtRest c d.rootRcb = true ∧
    ((∀ b ∈ s.blocks, b.ctxid ≠ c)) := by dsimp only [Commanded]; decide +kernel

theorem wit_SuspensionAndQueueCommands_6 :
    let s : State := cmd 3 0 wG
    let c : Nat := 0
    let d := s.dev c
    Commanded s 3 c ∧
    d.resuming = 0 ∧
    d.created = true ∧
    ((∃ e, e < 64 ∧ (s.dev e).resident = false)) ∧
    d.resident = true := by dsimp only [Commanded]; decide +kernel

theorem wit_SuspensionAndQueueCommands_7 :
    let s : State := cmd 2 0 (put 0x1200F 1 0x10 wG)
    let c : Nat := 0
    let d := s.dev c
    Commanded s 2 c ∧
    d.created = true ∧
    d.resident = true ∧
    d.suspending = false ∧
    s.saveFits c d.rootRcb = false := by dsimp only [Commanded]; decide +kernel

theorem wit_SuspensionAndQueueCommands_8 :
    let s : State := cmd 2 0 wSus
    let c : Nat := 0
    let d := s.dev c
    Commanded s 2 c ∧
    d.suspending = true ∧
    s.rstate c d.rootRcb < 2 ∧
    s.saveFits c d.rootRcb = true ∧
    s.preempts = [] ∧
    ((∀ e ∈ s.gfes, e.2.busy = true → e.2.ctxid ≠ c)) ∧
    s.treeAtRest c d.rootRcb = false := by dsimp only [Commanded]; decide +kernel

theorem wit_SuspensionAndQueueCommands_9 :
    let s : State := cmd 3 0 (resumes 0 wG)
    let c : Nat := 0
    let d := s.dev c
    Commanded s 3 c ∧
    d.resuming = 0 ∧
    d.created = true ∧
    d.resident = false ∧
    ((∃ e, e < 64 ∧ (s.dev e).resident = false)) ∧
    s.rstate c d.rootRcb = 2 := by dsimp only [Commanded]; decide +kernel

theorem wit_SuspensionAndQueueCommands_10 :
    let s : State := cmd 3 0 (resumes 1 wG)
    let c : Nat := 0
    let d := s.dev c
    Commanded s 3 c ∧
    d.resuming = 1 := by dsimp only [Commanded]; decide +kernel

theorem wit_SuspensionAndQueueCommands_11 :
    let s : State := cmd 3 0 (resumes 2 wG)
    let c : Nat := 0
    let d := s.dev c
    Commanded s 3 c ∧
    d.resuming = 2 := by dsimp only [Commanded]; decide +kernel

theorem wit_SuspensionAndQueueCommands_12 :
    let s : State := cmd 4 0 wG
    let c : Nat := 0
    let d := s.dev c
    Commanded s 4 c ∧
    d.created = true ∧
    ((∃ e ∈ s.gfes, e.2.busy = true ∧ e.2.ctxid = c)) ∧
    ((∀ e ∈ s.copyQueues, e.ctxid ≠ c)) := by dsimp only [Commanded]; decide +kernel

theorem wit_SuspensionAndQueueCommands_13 :
    let s : State := cmd 4 0 (noStreams wG)
    let c : Nat := 0
    let d := s.dev c
    Commanded s 4 c ∧
    d.created = true ∧
    ((∀ e ∈ s.gfes, e.2.busy = true → e.2.ctxid ≠ c)) ∧
    ((∀ e ∈ s.queues, e.2.owner.1 ≠ c)) ∧
    ((∀ e ∈ s.copyQueues, e.ctxid ≠ c)) ∧
    s.packageShot (1 + c * 2 ^ 8) = true := by dsimp only [Commanded]; decide +kernel

theorem wit_SuspensionAndQueueCommands_14 :
    let s : State := cmd 0xC 0 (inBlk [(0, 8, 0x10400), (8, 8, 0x12000), (0x10, 2, 0x80)] { header wG with dies := [0] })
    let c : Nat := 0
    let h : List Byte := headBytes (header wG)
    let f := blk s
    let d := s.dev c
    let u := f 0x10 2
    let hf := fun (i n : Nat) => leNat ((h.drop i).take n)
    let place := 16 * (u % 8) + u / 8 % 16
    Commanded s 0xC c ∧
    d.created = true ∧
    s.unitRead (s.unitEnv c) (f 0 8) 64 = .ok h ∧
    f 0 8 % 64 = 0 ∧
    hf 0x10 8 % 64 = 0 ∧
    hf 0x18 1 ≤ 12 ∧
    hf 0x20 8 % 4096 = 0 ∧
    hf 0x28 8 % 128 = 0 ∧
    u < 2 ^ 12 ∧
    u / 2 ^ 9 < d.htplanes ∧
    ((∀ e ∈ s.copyQueues, ¬(e.ctxid = c ∧ e.hdr = f 0 8))) ∧
    (findRegion d.regions (f 8 8)).isSome = true ∧
    ((s.copyQueues.filter fun e => e.cluster == place && e.unit == u / 2 ^ 7 % 4).length < 64) ∧
    u % 8 ∈ s.dies := by dsimp only [Commanded]; decide +kernel

theorem wit_SuspensionAndQueueCommands_15 :
    let s : State := cmd 0xC 0 (inBlk [(0, 8, 0x10400), (8, 8, 0x12000), (0x10, 2, 0x80)] { put 0x10410 8 0x11001 (header wG) with dies := [0] })
    let c : Nat := 0
    let h : List Byte := headBytes (put 0x10410 8 0x11001 (header wG))
    let f := blk s
    let d := s.dev c
    let hf := fun (i n : Nat) => leNat ((h.drop i).take n)
    Commanded s 0xC c ∧
    d.created = true ∧
    s.unitRead (s.unitEnv c) (f 0 8) 64 = .ok h ∧
    hf 0x10 8 % 64 ≠ 0 := by dsimp only [Commanded]; decide +kernel

theorem wit_SuspensionAndQueueCommands_16 :
    let s : State := cmd 0xD 0 (inBlk [(0, 8, 0x10400)] { header wG with copyQueues := [cq0] })
    let c : Nat := 0
    let h : List Byte := (headBytes (header wG)).take 16
    let q : CopyQueue := cq0
    let f := blk s
    let d := s.dev c
    Commanded s 0xD c ∧
    d.created = true ∧
    (s.copyQueues.find? (fun e => e.ctxid == c && e.hdr == f 0 8) = some q) ∧
    s.unitRead (s.unitEnv c) (f 0 8) 16 = .ok h ∧
    h.take 8 = h.drop 8 ∧
    ((∀ p ∈ s.packets, p.cq ≠ q.id)) := by dsimp only [Commanded]; decide +kernel

theorem wit_SuspensionAndQueueCommands_17 :
    let s : State := cmd 0xD 0 (inBlk [(0, 8, 0x10400)] (header wG))
    let c : Nat := 0
    let f := blk s
    let d := s.dev c
    Commanded s 0xD c ∧
    d.created = true ∧
    ((∀ e ∈ s.copyQueues, ¬(e.ctxid = c ∧ e.hdr = f 0 8))) := by dsimp only [Commanded]; decide +kernel

theorem wit_SuspensionAndQueueCommands_18 :
    let s : State := cmd 0xE 0 (inBlk [(0, 8, 0x10100), (0x14, 1, 1)] (rg 0 wG))
    let c : Nat := 0
    let key : Nat := 0x10100
    let g : Ring := (rg 0 wG).mem.ring 0x10100
    let f := blk s
    let d := s.dev c
    let ring := s.headerKey (s.unitEnv c) (f 0 8) = .ok (some key) ∧ s.mem.ring key = g ∧ g.bad = false
    Commanded s 0xE c ∧
    d.created = true ∧
    ring ∧
    f 0x14 1 = 1 := by dsimp only [Commanded]; decide +kernel

theorem wit_SuspensionAndQueueCommands_19 :
    let s : State := cmd 0xF 0 (inBlk [(0, 8, 0x10100), (0x14, 1, 1)] (rg 0 wG))
    let c : Nat := 0
    let key : Nat := 0x10100
    let g : Ring := (rg 0 wG).mem.ring 0x10100
    let f := blk s
    let d := s.dev c
    let ring := s.headerKey (s.unitEnv c) (f 0 8) = .ok (some key) ∧ s.mem.ring key = g ∧ g.bad = false
    Commanded s 0xF c ∧
    d.created = true ∧
    f 0 8 ≠ 0 ∧
    ring ∧
    g.dir = false ∧
    g.slotsz = 1 := by dsimp only [Commanded]; decide +kernel

theorem wit_SuspensionAndQueueCommands_20 :
    let s : State := cmd 0xF 0 (inBlk [(0, 8, 0x10100), (0x14, 1, 1)] (rg 1 wG))
    let c : Nat := 0
    let key : Nat := 0x10100
    let g : Ring := (rg 1 wG).mem.ring 0x10100
    let f := blk s
    let d := s.dev c
    let ring := s.headerKey (s.unitEnv c) (f 0 8) = .ok (some key) ∧ s.mem.ring key = g ∧ g.bad = false
    Commanded s 0xF c ∧
    d.created = true ∧
    f 0 8 ≠ 0 ∧
    ring ∧
    g.dir = true := by dsimp only [Commanded]; decide +kernel

theorem wit_SuspensionAndQueueCommands_21 :
    let s : State := cmd 0xF 0 (inBlk [(0, 8, 0), (0x14, 1, 1)] (rg 1 wG))
    let c : Nat := 0
    let f := blk s
    let d := s.dev c
    Commanded s 0xF c ∧
    d.created = true ∧
    f 0 8 = 0 := by dsimp only [Commanded]; decide +kernel


theorem wit_Launches_1 :
    let s : State := wLw
    let u : State := wLw
    let v : Nat := 0x17000
    let k : Nat := 0
    let b : List Byte := recordOf wLw
    let h : List Byte := headOf wLw
    let dies : List Nat := [0]
    let l : LaunchRec := rg0
    let r : List LaunchRec := []
    let ctxid := v / 2 ^ 56 % 64
    let addr := v % 2 ^ 56 / 64 * 64
    let w := asked ctxid addr s.clk b
    let status := fun (n : Nat) => s.unitWrite (s.unitEnv ctxid) (addr + 0x1C) (leBytes n 4) = .ok u
    let readable := (s.dev ctxid).resident = true ∧ s.unitRead (s.unitEnv ctxid) addr 0x228 = .ok b
    readable ∧
    Allowed s w ∧
    s.unitRead (s.unitEnv ctxid) w.img 32 = .ok h ∧
    ImageHeader w.img h ∧
    status 0 ∧
    s.launches.drop k = l :: r ∧
    (findRegion (s.dev l.ctxid).regions l.rcb).isSome = true ∧
    s.rstate l.ctxid l.rcb = 0 ∧
    dies.length = l.width ∧
    ¬Asked s l.ctxid l.rcb ∧
    (s.dev l.ctxid).resident = true ∧
    s.unitRead (s.unitEnv l.ctxid) l.img 32 = .ok h ∧
    ImageHeader l.img h ∧
    dies.Pairwise (· < ·) ∧
    ((∀ d ∈ dies, d ∈ s.dies ∧ ∃ j, j < 4 ∧ (s.gfeAt (4 * d + j)).busy = false)) := by dsimp only [Allowed, Asked, ImageHeader]; decide +kernel

theorem wit_Launches_2 :
    let s : State := put 0x1400E 2 2 wLn
    let u : State := stated 2 (put 0x1400E 2 2 wLn)
    let v : Nat := 0x17000
    let b : List Byte := recordOf wLn
    let h : List Byte := headOf (put 0x1400E 2 2 wLn)
    let ctxid := v / 2 ^ 56 % 64
    let addr := v % 2 ^ 56 / 64 * 64
    let w := asked ctxid addr s.clk b
    let status := fun (n : Nat) => s.unitWrite (s.unitEnv ctxid) (addr + 0x1C) (leBytes n 4) = .ok u
    let readable := (s.dev ctxid).resident = true ∧ s.unitRead (s.unitEnv ctxid) addr 0x228 = .ok b
    readable ∧
    Allowed s w ∧
    s.unitRead (s.unitEnv ctxid) w.img 32 = .ok h ∧
    ¬ImageHeader w.img h ∧
    status 2 := by dsimp only [Allowed, ImageHeader]; decide +kernel

theorem wit_Launches_3 :
    let s : State := put 0x1200F 1 0x30 wLn
    let u : State := stated 6 (put 0x1200F 1 0x30 wLn)
    let v : Nat := 0x17000
    let b : List Byte := recordOf wLn
    let ctxid := v / 2 ^ 56 % 64
    let addr := v % 2 ^ 56 / 64 * 64
    let w := asked ctxid addr s.clk b
    let status := fun (n : Nat) => s.unitWrite (s.unitEnv ctxid) (addr + 0x1C) (leBytes n 4) = .ok u
    let readable := (s.dev ctxid).resident = true ∧ s.unitRead (s.unitEnv ctxid) addr 0x228 = .ok b
    readable ∧
    ¬Allowed s w ∧
    status (refusal s w) := by dsimp only [Allowed]; decide +kernel

theorem wit_Launches_4 :
    let s : State := devIs (fun d => { d with resident := false }) wLn
    let v : Nat := 0x17000
    let ctxid := v / 2 ^ 56 % 64
    (s.dev ctxid).resident = false := by decide +kernel

theorem wit_Launches_5 :
    let s : State := wLw
    let k : Nat := 0
    let dies : List Nat := [0, 1]
    let l : LaunchRec := rg0
    let r : List LaunchRec := []
    s.launches.drop k = l :: r ∧
    (findRegion (s.dev l.ctxid).regions l.rcb).isSome = true ∧
    s.rstate l.ctxid l.rcb = 0 ∧
    dies.length ≠ l.width := by decide +kernel

theorem wit_PreemptionAndResumption_1 :
    let s : State := wG
    let v : Nat := 0x12100
    let ctxid : Nat := 0
    let rcb : Nat := 0x12000
    let cx := v / 2 ^ 56 % 64
    let rv := v % 2 ^ 56
    ((s.dev cx).resident = false ∨ findRegion (s.dev cx).regions rv = none ∨ s.saveFits cx rv = false) ∧
    s.launches = [] ∧
    s.preempts = [] ∧
    s.rstate ctxid rcb ≠ 2 := by decide +kernel

theorem wit_PreemptionAndResumption_2 :
    let s : State := noStreams (put 0x1200F 1 0x20 wG)
    let v : Nat := 0x12000
    let ctxid : Nat := 0
    let rcb : Nat := 0x12000
    let reg : Region := reg0
    let cx := v / 2 ^ 56 % 64
    let rv := v % 2 ^ 56
    (s.dev cx).resident = true ∧
    (findRegion (s.dev cx).regions rv).isSome = true ∧
    s.saveFits cx rv = true ∧
    2 ≤ s.rstate cx rv ∧
    (s.dev ctxid).resident = true ∧
    (s.dev ctxid).suspending = false ∧
    (s.dev ctxid).regions = [reg] ∧
    reg.rcb = rcb ∧
    s.rstate ctxid rcb = 2 ∧
    s.parked = [] ∧
    s.displaced = [] ∧
    s.ops = [] ∧
    ((∀ e ∈ s.gfes, e.2.busy = true → e.2.ctxid ≠ ctxid)) := by decide +kernel

theorem wit_PreemptionAndResumption_3 :
    let s : State := { opOn 3 true wG with gfes := [] }
    let v : Nat := 0x12000
    let cx := v / 2 ^ 56 % 64
    let rv := v % 2 ^ 56
    (s.dev cx).resident = true ∧
    (findRegion (s.dev cx).regions rv).isSome = true ∧
    s.rstate cx rv < 2 ∧
    s.preempts = [] ∧
    ((∀ e ∈ s.gfes, e.2.busy = true → e.2.ctxid ≠ cx)) ∧
    s.treeAtRest cx rv = false := by decide +kernel

theorem wit_PreemptionAndResumption_4 :
    let s : State := { saving wLw with gfes := [(0, gfe0), (1, { gfe0 with launched := 3 })], clk := 2 ^ 22, launches := [{ rg0 with rcb := 0x12100 }], devs := wG.devs.map fun d => (d.1, { d.2 with regions := [⟨0x12000, 0x12000, 0, true⟩, ⟨0x12100, 0x12100, 0x12000, false⟩] }), mem := ((saving wLw).mem.writeNat 0x1210E 1 3).writeNat 0x12108 4 32 }
    let ctxid : Nat := 0
    let rcb : Nat := 0x12000
    let l : LaunchRec := { rg0 with rcb := 0x12100 }
    let g : Gfe := { gfe0 with launched := 3 }
    l ∈ s.launches ∧
    l.since + 2 ^ 22 ≤ s.clk ∧
    g ∈ s.lowStreams (s.prio l.ctxid l.rcb) ∧
    g.ctxid = ctxid ∧
    g.rcb = rcb ∧
    ((∀ w ∈ s.lowStreams (s.prio l.ctxid l.rcb), s.prio g.ctxid g.rcb < s.prio w.ctxid w.rcb ∨ (s.prio g.ctxid g.rcb = s.prio w.ctxid w.rcb ∧ w.launched ≤ g.launched))) ∧
    s.saveFits ctxid rcb = true := by decide +kernel

theorem wit_PreemptionAndResumption_5 :
    let s : State := { wCp with preempts := [(0, 0x12000)] }
    let core : Nat := 0
    let x : Nat := 0
    let op : Nat := 1
    let lin : Nat := 0
    let ix : List Nat := []
    let o : OpInst := op1 wCp
    let m : Installed := inst1
    let b : BitVec 256 := BitVec.ofNat 256 (2 ^ 252 + 2 ^ 240)
    let ck := 4 * core + x
    let c := s.ctxAt ck
    let hdr := (decodeBundle b.toNat).hdr
    x < 4 ∧
    c.work.job = .tile op lin ix ∧
    c.status = .ready ∧
    c.spec = false ∧
    c.inHandler = false ∧
    Asked s c.work.ctxid c.work.rcb ∧
    AMap.find? s.store c.bank.pc = some b ∧
    hdr.c = true ∧
    c.bank.pc < 7680 ∧
    bitOf c.marks 0 = false ∧
    c.var = [] ∧
    c.gated = [] ∧
    s.unacked ck = [] ∧
    ((∀ e ∈ (s.coreAt core).cmds, e.x = x → 5 < e.q)) ∧
    s.op? op = some o ∧
    o.image.bind (s.image? o.ctxid) = some m ∧
    ((∀ r ∈ m.live, r.1 ≠ hdr.ckid)) := by dsimp only [Asked]; decide +kernel

theorem wit_PreemptionAndResumption_6 :
    let s : State := { noStreams (put 0x1200F 1 0x20 wG) with dies := [0], parked := [(0, 0x12000, [gfe0])] }
    let ctxid : Nat := 0
    let rcb : Nat := 0x12000
    let dies : List Nat := [0]
    let reg : Region := reg0
    let gs : List Gfe := [gfe0]
    (s.dev ctxid).resident = true ∧
    (s.dev ctxid).suspending = false ∧
    (s.dev ctxid).regions = [reg] ∧
    reg.rcb = rcb ∧
    s.rstate ctxid rcb = 2 ∧
    s.parked = [(ctxid, rcb, gs)] ∧
    s.displaced = [] ∧
    s.ops = [] ∧
    gs.length = dies.length ∧
    dies.Pairwise (· < ·) ∧
    ((∀ d ∈ dies, d ∈ s.dies ∧ ∃ j, j < 4 ∧ (s.gfeAt (4 * d + j)).busy = false)) := by decide +kernel

theorem wit_EvictionAndAging_1 :
    let s : State := calm { wG with cores := [(0, { saved := [sv0] })] }
    let core : Nat := 0
    let x : Nat := 0
    let k : Nat := 0
    let w : Saved := sv0
    let r : List Saved := []
    let ck := 4 * core + x
    let c := s.ctxAt ck
    let settled := s.agingSettled (dieOfCore core) = true
    (s.evictable ck = false ∨ s.starved core (s.ctxPrio c) = none) ∧
    (s.coreAt core).saved.drop k = w :: r ∧
    s.coreFree core x = true ∧
    s.regionIssues w.ctx = true ∧
    settled ∧
    ((∀ e ∈ s.cands core, e.prio ≤ s.savedPrio w)) ∧
    ((∀ e ∈ (s.coreAt core).saved, s.regionIssues e.ctx = true → s.savedPrio e < s.savedPrio w ∨ (s.savedPrio e = s.savedPrio w ∧ w.since ≤ e.since))) ∧
    w.ended = none := by decide +kernel

theorem wit_EvictionAndAging_2 :
    let s : State := full0 wG
    let core : Nat := 0
    let x : Nat := 0
    let d : Cand := cand0
    let ck := 4 * core + x
    let c := s.ctxAt ck
    let settled := s.agingSettled (dieOfCore core) = true
    let evicts := settled ∧ s.evictable ck = true ∧ s.starved core (s.ctxPrio c) = some d ∧ core ∈ s.coresFor (dieOfCore core) d ∧ s.isVictim ck d = true
    x < 4 ∧
    evicts := by decide +kernel

theorem wit_EvictionAndAging_3 :
    let s : State := { wG with cores := [(0, { saved := [sv0] })] }
    let core : Nat := 0
    let x : Nat := 0
    let k : Nat := 0
    let w : Saved := sv0
    let r : List Saved := []
    (s.coreAt core).saved.drop k = w :: r ∧
    s.coreFree core x = false := by decide +kernel

theorem wit_EvictionAndAging_4 :
    let s : State := { wCp with clk := 2 ^ 20 }
    let op : Nat := 1
    let o : OpInst := op1 wCp
    s.op? op = some o ∧
    s.tileReady o = true ∧
    o.aged < (s.clk - o.since) / 2 ^ 20 ∧
    s.prio o.ctxid o.rcb + o.aged < 15 := by decide +kernel

theorem wit_EvictionAndAging_5 :
    let s : State := { wCp with clk := 2 ^ 20 - 1 }
    let op : Nat := 1
    let o : OpInst := op1 wCp
    s.op? op = some o ∧
    (s.clk - o.since) / 2 ^ 20 ≤ o.aged := by decide +kernel


theorem wit_TileBinds_1 :
    let s : State := wTb
    let op : Nat := 1
    let core : Nat := 0
    let x : Nat := 0
    let o : OpInst := op1 wTb
    let im : Installed := inst1
    s.op? op = some o ∧
    MayBind s o core x ∧
    PlainOp s o ∧
    o.image.bind (s.image? o.ctxid) = some im := by dsimp only [MayBind, PlainOp]; decide +kernel

theorem wit_TileBinds_2 :
    let s : State := wTb
    let op : Nat := 1
    let core : Nat := 128
    let x : Nat := 0
    let o : OpInst := op1 wTb
    s.op? op = some o ∧
    ¬MayBind s o core x := by dsimp only [MayBind]; decide +kernel

theorem wit_TileBinds_3 :
    let s : State := wSm
    let op : Nat := (op1 wSm).id
    let core : Nat := 0
    let x : Nat := 0
    let o : OpInst := op1 wSm
    let ix := (walkTile o.order o.counts o.code).1
    let taken := (s.onDie (dieOfCore core)).onOp o.id fun _ => (o.take s.clk).2
    let u : State := okOr s (taken.archTile o core ix)
    (s.op? op = some o ∧ MayBind s o core x ∧ PlainOp s o ∧ o.image = none ∧ u.ops = taken.ops ∧ u.ctxs = s.ctxs) ∧
    taken.archTile o core ix = .ok u := ⟨by (try dsimp only [MayBind, PlainOp]); decide +kernel,
    okIs (by decide +kernel)⟩

set_option maxHeartbeats 2000000 in
theorem wit_CardsAndDeals_1 :
    let s : State := carded true wCd
    let u : State := dealt0 4 0 (carded true wCd)
    let die : Nat := 0
    let k : Nat := 3
    let core : Nat := 0
    let x : Nat := 0
    let e : QElem := ⟨0x16000, 0, 0⟩
    let es : List QElem := []
    let h : HEnt := ent 8 6 [256] 0x16100
    let d : Card := headCard (carded true wCd)
    let qi := 256 * die + k
    let q := s.queue qi
    let own := q.owner
    let w := s.onDie die
    let w1 := u.readBy own.1 d.va 32
    let width := (s.ctxs.filter fun p => p.2.dealtFrom qi).length + 1
    let left := d.count - d.next
    let chunk := min left (max 1 ((left + 2 * width - 1) / (2 * width)))
    ((q.isTask = false ∨ q.elems = [] ∨ (q.checked = true ∧ s.rstate own.1 own.2 ≠ 3 ∧ s.rstate own.1 own.2 ≠ 4)) ∧ k < 256 ∧ die = dieOfCore core ∧ s.cardReady qi = true ∧ s.coreFree core x = true ∧ s.agingSettled die = true ∧ s.isFirst core (s.cardCand qi) = true ∧ q.elems = e :: es ∧ w.headCard qi = .ok d ∧ d.next < d.count ∧ s.rootOf own.1 own.2 = none ∧ w1.rootOf own.1 own.2 = none ∧ w1.entry own.1 e.plane d.argh = some h) ∧
    w.dealt own.1 d.va (d.next + chunk) d.grav = .ok u := ⟨by decide +kernel,
    rfl⟩

theorem wit_CardsAndDeals_2 :
    let s : State := carded false wCd
    let die : Nat := 0
    let k : Nat := 3
    let l : List Byte := cardBytes wCd
    let e : QElem := ⟨0x16000, 0, 0⟩
    let es : List QElem := []
    let qi := 256 * die + k
    let q := s.queue qi
    let own := q.owner
    let w := s.onDie die
    let g := fun (i n : Nat) => leNat ((l.drop i).take n)
    let good := g 0 8 < 7680 ∧ g 12 4 ≠ 0 ∧ 16 ≤ g 10 2 ∧ g 10 2 ≤ 4096 ∧ g 10 2 % 16 = 0 ∧ g 20 4 = 0 ∧ g 24 8 < 2 ^ 40
    let due := q.isTask = true ∧ q.elems = e :: es ∧ q.checked = false ∧ q.faulted = false ∧ (q.state = 1 ∨ q.state = 2) ∧
      s.rstate own.1 own.2 ≠ 3 ∧ s.rstate own.1 own.2 ≠ 4 ∧ (∀ r ∈ s.traps, r.unit ≠ .card qi)
    let read := w.unitRead (w.unitEnv own.1) e.val 32
    due ∧
    read = .ok l ∧
    good := by decide +kernel

theorem wit_CardsAndDeals_3 :
    let s : State := carded false (put 0x1600C 4 0 wCd)
    let die : Nat := 0
    let k : Nat := 3
    let l : List Byte := cardBytes (put 0x1600C 4 0 wCd)
    let e : QElem := ⟨0x16000, 0, 0⟩
    let es : List QElem := []
    let qi := 256 * die + k
    let q := s.queue qi
    let own := q.owner
    let w := s.onDie die
    let g := fun (i n : Nat) => leNat ((l.drop i).take n)
    let good := g 0 8 < 7680 ∧ g 12 4 ≠ 0 ∧ 16 ≤ g 10 2 ∧ g 10 2 ≤ 4096 ∧ g 10 2 % 16 = 0 ∧ g 20 4 = 0 ∧ g 24 8 < 2 ^ 40
    let due := q.isTask = true ∧ q.elems = e :: es ∧ q.checked = false ∧ q.faulted = false ∧ (q.state = 1 ∨ q.state = 2) ∧
      s.rstate own.1 own.2 ≠ 3 ∧ s.rstate own.1 own.2 ≠ 4 ∧ (∀ r ∈ s.traps, r.unit ≠ .card qi)
    let read := w.unitRead (w.unitEnv own.1) e.val 32
    due ∧
    read = .ok l ∧
    ¬good ∧
    s.rootOf own.1 own.2 = none := by decide +kernel

theorem wit_CardsAndDeals_4 :
    let s : State := carded false (devIs (fun d => { d with heap := [0x10000, 0x16000, 0] }) wCd)
    let die : Nat := 0
    let k : Nat := 3
    let f : Nat := 6
    let va : Nat := 0x16000
    let e : QElem := ⟨0x16000, 0, 0⟩
    let es : List QElem := []
    let qi := 256 * die + k
    let q := s.queue qi
    let own := q.owner
    let w := s.onDie die
    let due := q.isTask = true ∧ q.elems = e :: es ∧ q.checked = false ∧ q.faulted = false ∧ (q.state = 1 ∨ q.state = 2) ∧
      s.rstate own.1 own.2 ≠ 3 ∧ s.rstate own.1 own.2 ≠ 4 ∧ (∀ r ∈ s.traps, r.unit ≠ .card qi)
    let read := w.unitRead (w.unitEnv own.1) e.val 32
    due ∧
    f ≠ 0 ∧
    read = .error (f, va) := by decide +kernel

theorem wit_CardsAndDeals_5 :
    let s : State := carded true wCd
    let core : Nat := 0
    let x : Nat := 4
    s.coreFree core x = false := by decide +kernel

theorem wit_OperatorsComplete_1 :
    let s : State := finishedOp wSm
    let op : Nat := (op1 wSm).id
    let o : OpInst := op1 (finishedOp wSm)
    let quiet := (∀ t ∈ s.traps, t.op ≠ op) ∧ (∀ p ∈ s.ctxs, p.2.opId ≠ op)
    let simple := fun (w : State) => (w.gfeAt o.gfe).specs = [] ∧ (∃ j ∈ (w.gfeAt o.gfe).set, (w.gfeAt j).halted = false) ∧ w.releases = [] ∧ o.temps = [] ∧ o.olds = [] ∧ o.last = false
    s.op? op = some o ∧
    quiet ∧
    o.failed = false ∧
    o.total ≤ o.done ∧
    o.phase = .no ∧
    simple s := by decide +kernel

theorem wit_OperatorsComplete_2 :
    let s : State := wTl
    let u : State := loadedBy wTl
    let op : Nat := (op1 wTl).id
    let o : OpInst := op1 wTl
    let at0 := s.onDie (o.gfe / 4)
    let simple := fun (w : State) => (w.gfeAt o.gfe).specs = [] ∧ (∃ j ∈ (w.gfeAt o.gfe).set, (w.gfeAt j).halted = false) ∧ w.releases = [] ∧ o.temps = [] ∧ o.olds = [] ∧ o.last = false
    (s.op? op = some o ∧ o.failed = false ∧ o.done < o.total ∧ hasTiles o.record = false ∧ o.stall = none ∧ s.depsDone o = true ∧ s.rstate o.ctxid o.rcb = 1 ∧ s.historyDue o = false ∧ simple u) ∧
    at0.performOp o = .done u := ⟨by decide +kernel,
    doneIs (by decide +kernel)⟩

theorem wit_OperatorsComplete_3 :
    let s : State := wSm
    let op : Nat := (op1 wSm).id
    let o : OpInst := op1 wSm
    s.op? op = some o ∧
    o.failed = false ∧
    o.done < o.total ∧
    hasTiles o.record = true := by decide +kernel

theorem wit_OperatorsComplete_4 :
    let s : State := wG
    let op : Nat := 77
    s.op? op = none := by decide +kernel

theorem wit_IssueEvents_1 :
    let s : State := (empty1 base).onCtxAt 0 fun c => { c with status := .blocked .hwq }
    let core : Nat := 0
    let x : Nat := 0
    let a : Ack := a0 true
    let w : Why := .hwq
    let b : Bundle := bun0
    let ck := 4 * core + x
    let c := s.ctxAt ck
    let again := (s.acting core x).onCtx Ctx.landed
    (s.pick core = none ∧ c.status = .blocked w ∧ w ≠ .remote ∧ w ≠ .edges ∧ again.presented = .ok b ∧ c.pcount ≤ (AMap.get (0 : BitVec 64) c.bank.k 0x40).toNat) ∧
    ((∀ f r, w ≠ .fault f r)) ∧
    ((∀ n, w ≠ .svcResult n)) ∧
    ((∀ a dl, w ≠ .barrier a dl)) ∧
    ((∀ why, again.bundleVerdict b ≠ .block why)) ∧
    ((∀ q, w ≠ .deq q)) ∧
    ((∀ p ∈ s.ctxs, (∀ m i, p.2.status ≠ .blocked (.ring m i)) ∧ p.2.status ≠ .blocked .svcRing)) := ⟨by decide +kernel,
    nofun,
    nofun,
    nofun,
    noBlock (by decide +kernel),
    nofun,
    fun p hp => ⟨noRing ((by decide +kernel : ∀ p ∈ ((empty1 base).onCtxAt 0 fun c => { c with status := .blocked .hwq }).ctxs, ringed? p.2.status = false) p hp), (by decide +kernel : ∀ p ∈ ((empty1 base).onCtxAt 0 fun c => { c with status := .blocked .hwq }).ctxs, p.2.status ≠ .blocked .svcRing) p hp⟩⟩

theorem wit_IssueEvents_2 :
    let s : State := inflight { base with acks := [a0 true] }
    let core : Nat := 0
    let x : Nat := 0
    let k : Nat := 0
    let v : VarW := ⟨0, .int 9 8 false, [], 1, [], false, false, false, [], false, false, [], []⟩
    let vs : List VarW := []
    let a : Ack := a0 true
    let as : List Ack := []
    let ck := 4 * core + x
    let c := s.ctxAt ck
    c.var.drop k = v :: vs ∧
    v.waiting ≠ 0 ∧
    s.acks.drop k = a :: as ∧
    a.performed = true := by decide +kernel

theorem wit_IssueEvents_3 :
    let s : State := (two (empty1 base)).onCtxAt 0 fun c => { c with status := .blocked .hwq }
    let core : Nat := 0
    let x : Nat := 1
    let share : Bool := false
    s.pick core = some (x, share) ∧
    s.coreRuns core = true ∧
    (s.coreAt core).slotAt ≤ s.clk ∧
    x ≠ (s.coreAt core).lastX ∧
    (s.coreAt core).turn = none := by decide +kernel

theorem wit_IssueEvents_4 :
    let s : State := (empty1 base).onCtxAt 0 fun c => { c with status := .blocked (.ring 0x10100 0) }
    let core : Nat := 0
    let x : Nat := 0
    let key : Nat := 0x10100
    let j : Nat := 0
    let b : Bundle := bun0
    let ck := 4 * core + x
    let c := s.ctxAt ck
    let again := (s.acting core x).onCtx Ctx.landed
    (x < 4 ∧ s.ctxs = [(ck, c)] ∧ c.status = .blocked (.ring key j) ∧ again.presented = .ok b) ∧
    ((∀ why, again.bundleVerdict b ≠ .block why)) := ⟨by decide +kernel,
    noBlock (by decide +kernel)⟩

theorem wit_IssueEvents_5 :
    let s : State := base.onCtxAt 0 fun c => { c with var := [v0] }
    let core : Nat := 0
    let x : Nat := 0
    let k : Nat := 0
    let v : VarW := v0
    let vs : List VarW := []
    let ck := 4 * core + x
    let c := s.ctxAt ck
    c.var.drop k = v :: vs ∧
    v.waiting = 0 ∧
    ((v.dom = true → ∀ m ∈ v.stamps, dominates (s.clockOf (dieOfCore core)) m = true)) ∧
    x < 4 ∧
    c.svc = none ∧
    c.fwSvc = none := by decide +kernel

theorem wit_IssueEvents_6 :
    let s : State := inflight { base with acks := [a0 false] }
    let k : Nat := 0
    let a : Ack := a0 false
    let as : List Ack := []
    s.acks.drop k = a :: as ∧
    a.performed = false := by decide +kernel

theorem wit_IssueEvents_7 :
    let s : State := (kregs [(0x40, 9)] (empty1 base)).onCtx fun c => { c with pcount := 10 }
    let core : Nat := 0
    let x : Nat := 0
    let b : Bundle := bun0
    let ck := 4 * core + x
    let c := s.ctxAt ck
    c.status = .ready ∧
    c.bound = true ∧
    c.inHandler = false ∧
    (AMap.get (0 : BitVec 64) c.bank.k 0x40).toNat ≠ 0 ∧
    (AMap.get (0 : BitVec 64) c.bank.k 0x40).toNat < c.pcount ∧
    s.bundle? c.bank.pc = some b ∧
    b.hdr.p = false := by decide +kernel

theorem wit_IssueEvents_8 :
    let s : State := deqing [⟨5, 0, 0⟩]
    let core : Nat := 0
    let x : Nat := 0
    let k : Nat := 3
    let a : Ack := a0 false
    let w : Why := .deq 3
    let b : Bundle := decodeBundle (encodeBundle1 0 (.deq 9 5 false))
    let ck := 4 * core + x
    let c := s.ctxAt ck
    let again := (s.acting core x).onCtx Ctx.landed
    (c.status = .blocked w ∧ w ≠ .remote ∧ w ≠ .edges ∧ again.presented = .ok b ∧ w = .deq k) ∧
    ((∀ f r, w ≠ .fault f r)) ∧
    ((∀ n, w ≠ .svcResult n)) ∧
    ((∀ a dl, w ≠ .barrier a dl)) ∧
    ((∀ why, again.bundleVerdict b ≠ .block why)) := ⟨by decide +kernel,
    nofun,
    nofun,
    nofun,
    noBlock (by decide +kernel)⟩

theorem wit_IssueEvents_9 :
    let s : State := deqing []
    let core : Nat := 0
    let x : Nat := 0
    let w : Why := .deq 3
    let b : Bundle := decodeBundle (encodeBundle1 0 (.deq 9 5 false))
    let ck := 4 * core + x
    let c := s.ctxAt ck
    let again := (s.acting core x).onCtx Ctx.landed
    (c.status = .blocked w ∧ w ≠ .remote ∧ again.presented = .ok b) ∧
    ((∀ f r, w ≠ .fault f r)) ∧
    ((∀ n, w ≠ .svcResult n)) ∧
    ((∃ why, again.bundleVerdict b = .block why)) := ⟨by decide +kernel,
    nofun,
    nofun,
    someBlock (by decide +kernel)⟩


theorem wit_FaultDelivery_1 :
    let s : State := wFt
    let u : State := ringed wFt
    let k : Nat := 0
    let ck : Nat := 0
    let r : TrapRec := lastTrap wFt
    let rs : List TrapRec := []
    let i : Instr := .trapRecordDelivery 0
    let stuck : Bool := false
    let first := s.traps.drop k = r :: rs ∧ r.held = false ∧ r.stuck = stuck ∧ (∀ p ∈ s.traps.take k, r.sameUnit p = false)
    ((i, stuck) ∈ [(.trapRecordDelivery k, false), (.faultRingRetry k, true)] ∧ first ∧ u.devs = s.devs ∧ r.ck = ck + 1 ∧ r.unit = .ctx ck ∧ (u.ctxAt ck).bound = true ∧ r.res = false ∧ r.pol = none ∧ u.policy r.ctxid r.rcb = 0) ∧
    s.ringFor r = .ok u := ⟨by decide +kernel,
    rfl⟩

theorem wit_FaultDelivery_2 :
    let s : State := put 0x1200F 1 2 wFt
    let u : State := ringed (put 0x1200F 1 2 wFt)
    let k : Nat := 0
    let ck : Nat := 0
    let r : TrapRec := lastTrap wFt
    let rs : List TrapRec := []
    let i : Instr := .trapRecordDelivery 0
    let stuck : Bool := false
    let first := s.traps.drop k = r :: rs ∧ r.held = false ∧ r.stuck = stuck ∧ (∀ p ∈ s.traps.take k, r.sameUnit p = false)
    ((i, stuck) ∈ [(.trapRecordDelivery k, false), (.faultRingRetry k, true)] ∧ first ∧ u.devs = s.devs ∧ r.ck = ck + 1 ∧ r.unit = .ctx ck ∧ (u.ctxAt ck).bound = true ∧ r.res = false ∧ r.pol = none ∧ u.policy r.ctxid r.rcb = 2 ∧ (u.ctxAt ck).status = .trapped) ∧
    s.ringFor r = .ok u := ⟨by decide +kernel,
    rfl⟩

theorem wit_FaultDelivery_3 :
    let s : State := wLd
    let u : State := ringed wLd
    let k : Nat := 0
    let ck : Nat := 0
    let r : TrapRec := lastTrap wLd
    let rs : List TrapRec := []
    let i : Instr := .trapRecordDelivery 0
    let stuck : Bool := false
    let first := s.traps.drop k = r :: rs ∧ r.held = false ∧ r.stuck = stuck ∧ (∀ p ∈ s.traps.take k, r.sameUnit p = false)
    ((i, stuck) ∈ [(.trapRecordDelivery k, false), (.faultRingRetry k, true)] ∧ first ∧ u.devs = s.devs ∧ r.ck = ck + 1 ∧ r.unit = .ctx ck ∧ (u.ctxAt ck).bound = true ∧ r.res = true ∧ r.after = 0) ∧
    s.ringFor r = .ok u := ⟨by decide +kernel,
    rfl⟩

theorem wit_FaultDelivery_4 :
    let s : State := afterly 1 wLd
    let u : State := ringed (afterly 1 wLd)
    let k : Nat := 0
    let ck : Nat := 0
    let r : TrapRec := lastTrap (afterly 1 wLd)
    let rs : List TrapRec := []
    let i : Instr := .trapRecordDelivery 0
    let stuck : Bool := false
    let first := s.traps.drop k = r :: rs ∧ r.held = false ∧ r.stuck = stuck ∧ (∀ p ∈ s.traps.take k, r.sameUnit p = false)
    ((i, stuck) ∈ [(.trapRecordDelivery k, false), (.faultRingRetry k, true)] ∧ first ∧ u.devs = s.devs ∧ r.ck = ck + 1 ∧ r.unit = .ctx ck ∧ (u.ctxAt ck).bound = true ∧ r.res = true ∧ r.after = 1) ∧
    s.ringFor r = .ok u ∧
    ((∃ va w, (u.ctxAt ck).status = .blocked (.fault va w))) := ⟨by decide +kernel,
    rfl,
    ⟨_, _, rfl⟩⟩

theorem wit_FaultDelivery_5 :
    let s : State := put 0x10104 4 4 wFt
    let k : Nat := 0
    let r : TrapRec := lastTrap wFt
    let rs : List TrapRec := []
    let i : Instr := .trapRecordDelivery 0
    let stuck : Bool := false
    let first := s.traps.drop k = r :: rs ∧ r.held = false ∧ r.stuck = stuck ∧ (∀ p ∈ s.traps.take k, r.sameUnit p = false)
    (i, stuck) ∈ [(.trapRecordDelivery k, false), (.faultRingRetry k, true)] ∧
    first ∧
    s.ringFor r = .full := by decide +kernel

theorem wit_FaultDelivery_6 :
    let s : State := put 0x12060 8 0 wFt
    let k : Nat := 0
    let r : TrapRec := lastTrap wFt
    let rs : List TrapRec := []
    let i : Instr := .trapRecordDelivery 0
    let stuck : Bool := false
    let first := s.traps.drop k = r :: rs ∧ r.held = false ∧ r.stuck = stuck ∧ (∀ p ∈ s.traps.take k, r.sameUnit p = false)
    (i, stuck) ∈ [(.trapRecordDelivery k, false), (.faultRingRetry k, true)] ∧
    first ∧
    s.ringFor r = .bad := by decide +kernel

theorem wit_FaultResolutionAndErrors_1 :
    let s : State := blockedAt 0x30000 (queued 1 [] wG)
    let v : Nat := 0x30000
    let ck : Nat := 0
    let va : Nat := 0x30000
    let wr : Bool := false
    let ctxid := v / 2 ^ 56 % 64
    let act := v / 2 ^ 62 % 4
    let c := s.ctxAt ck
    act = 0 ∧
    c.status = .blocked (.fault va wr) ∧
    c.work.ctxid = ctxid ∧
    ((∀ r ∈ s.traps, ¬(r.unit = .ctx ck ∧ r.res = true))) ∧
    ((∀ r ∈ s.traps, r.res = false)) ∧
    act ≠ 1 := by decide +kernel

theorem wit_FaultResolutionAndErrors_2 :
    let s : State := { wG with packets := [pk0], copyQueues := [cq0] }
    let v : Nat := 2 ^ 62 + 0x30000
    let core : Nat := 0
    let x : Nat := 0
    let va : Nat := 0x30000
    let id : Nat := 5
    let cause : Nat := 6
    let p : Packet := pk0
    let ctxid := v / 2 ^ 56 % 64
    let act := v / 2 ^ 62 % 4
    let k := 4 * core + x
    let e := s.ctxAt k
    act ≠ 0 ∧
    act = 1 ∧
    s.blockedUnits ctxid = [(.packet id, va)] ∧
    va / 2 ^ 12 % 2 ^ 44 = v / 2 ^ 12 % 2 ^ 44 ∧
    s.traps = [] ∧
    p ∈ s.packets ∧
    p.id = id ∧
    p.fault = some (va, cause) ∧
    ((∀ q ∈ s.packets, q.id = id → q = p)) ∧
    e.bound = true ∧
    e.status = .ready := by decide +kernel

theorem wit_FaultResolutionAndErrors_3 :
    let s : State := blockedAt 0x30000 (put 0x1200F 1 2 wG)
    let v : Nat := 2 ^ 62 + 0x30000
    let ck : Nat := 0
    let va : Nat := 0x30000
    let ctxid := v / 2 ^ 56 % 64
    let act := v / 2 ^ 62 % 4
    let c := s.ctxAt ck
    act = 1 ∧
    s.blockedUnits ctxid = [(.ctx ck, va)] ∧
    va / 2 ^ 12 % 2 ^ 44 = v / 2 ^ 12 % 2 ^ 44 ∧
    s.traps = [] ∧
    s.policy c.work.ctxid c.work.rcb = 2 := by decide +kernel

theorem wit_FaultResolutionAndErrors_4 :
    let s : State := blockedAt 0x31000 wG
    let v : Nat := 2 ^ 62 + 0x30000
    let ctxid := v / 2 ^ 56 % 64
    let act := v / 2 ^ 62 % 4
    act = 1 ∧
    ((∀ u ∈ s.blockedUnits ctxid, u.2 / 2 ^ 12 % 2 ^ 44 ≠ v / 2 ^ 12 % 2 ^ 44)) := by decide +kernel

theorem wit_FaultResolutionAndErrors_5 :
    let s : State := wFt
    let core : Nat := 0
    let x : Nat := 0
    let k := 4 * core + x
    let e := s.ctxAt k
    e.status = .trapped := by decide +kernel

theorem wit_EngineCommands_1 :
    let s : State := wTz
    let core : Nat := 0
    let seq : Nat := (cmd0 wTz).seq
    let e : EngCmd := cmd0 wTz
    let k := s.coreAt core
    let found := findCmd k.cmds seq = some e
    let w0 := s.onDie (dieOfCore core)
    let may := k.mayStart e = true ∧ w0.moveHolds e = false
    (found ∧ may ∧ (e.started = false ∨ e.fault ≠ none) ∧ k.swapper = none) ∧
    ((∀ g, e.op ≠ .mxgo g)) ∧
    ((∀ n a b, e.op ≠ .wload n a b)) := ⟨by decide +kernel,
    nofun,
    nofun⟩

theorem wit_EngineCommands_2 :
    let s : State := begun wTz
    let u : State := (unitRes (begun wTz)).2.2
    let core : Nat := 0
    let seq : Nat := (cmd0 wTz).seq
    let e : EngCmd := cmd0 (begun wTz)
    let res : List Byte := (unitRes (begun wTz)).1
    let k := s.coreAt core
    let found := findCmd k.cmds seq = some e
    let w0 := s.onDie (dieOfCore core)
    let unit := cmdUnit w0 core e
    let may := k.mayStart e = true ∧ w0.moveHolds e = false
    found ∧
    ¬may ∧
    e.started = true ∧
    e.fault = none ∧
    e.q ≤ 5 ∧
    unit = .done res u := by decide +kernel

theorem wit_EngineCommands_3 :
    let s : State := begun wTm
    let u : State := (unitRes (begun wTm)).2.2
    let core : Nat := 0
    let seq : Nat := (cmd0 wTm).seq
    let e : EngCmd := cmd0 (begun wTm)
    let e1 : EngCmd := (unitRes (begun wTm)).2.1
    let k := s.coreAt core
    let found := findCmd k.cmds seq = some e
    let w0 := s.onDie (dieOfCore core)
    let unit := cmdUnit w0 core e
    found ∧
    e.started = true ∧
    e.fault = none ∧
    e.q ≤ 5 ∧
    unit = .more e1 u ∧
    e1.seq = seq := by decide +kernel

theorem wit_EngineCommands_4 :
    let s : State := begun wTf
    let core : Nat := 0
    let seq : Nat := (cmd0 wTf).seq
    let e : EngCmd := cmd0 (begun wTf)
    let cz : Nat := 6
    let va : Nat := 0x30000
    let wr : Bool := false
    let k := s.coreAt core
    let found := findCmd k.cmds seq = some e
    let w0 := s.onDie (dieOfCore core)
    let unit := cmdUnit w0 core e
    found ∧
    e.started = true ∧
    e.fault = none ∧
    e.q ≤ 5 ∧
    unit = .fault cz va wr ∧
    cz ≠ 8 := by decide +kernel

theorem wit_EngineCommands_5 :
    let s : State := wWl
    let core : Nat := 0
    let seq : Nat := (cmd0 wWl).seq
    let e : EngCmd := cmd0 wWl
    let k := s.coreAt core
    let found := findCmd k.cmds seq = some e
    let w0 := s.onDie (dieOfCore core)
    let may := k.mayStart e = true ∧ w0.moveHolds e = false
    (found ∧ may ∧ k.shadow = .empty) ∧
    ((∃ n a b, e.op = .wload n a b)) := ⟨by decide +kernel,
    ⟨_, _, _, rfl⟩⟩

theorem wit_EngineCommands_6 :
    let s : State := wMx
    let core : Nat := 0
    let seq : Nat := (cmd0 wMx).seq
    let e : EngCmd := cmd0 wMx
    let f : MxgoF := f0
    let k := s.coreAt core
    let found := findCmd k.cmds seq = some e
    let w0 := s.onDie (dieOfCore core)
    let may := k.mayStart e = true ∧ w0.moveHolds e = false
    found ∧
    may ∧
    e.mine (s.ctxAt (4 * core + e.x)) = true ∧
    e.op = .mxgo f ∧
    f.rsm = false ∧
    e.args.length = 8 ∧
    f.nlm1 ≤ 5 ∧
    ((∀ j, j < 6 → 0 < nestCnt (nth 0 e.args (2 + j)))) := by decide +kernel

theorem wit_EngineCommands_7 :
    let s : State := (begun wMx).onCore fun c => { c with shadow := .full wt0 }
    let core : Nat := 0
    let e : EngCmd := cmd0 (begun wMx)
    let w : WTile := wt0
    let k := s.coreAt core
    k.swapper = some e ∧
    k.shadow = .full w := by decide +kernel

theorem wit_PacketsTaken_1 :
    let s : State := wPk
    let cq : Nat := 7
    let kind : Nat := 0
    let q : CopyQueue := cq0
    let w := s.onDie (q.cluster / 16)
    let e := w.unitEnv q.ctxid
    let h : List Byte := okOr [] (w.unitRead e q.hdr 64)
    let hf := fun (j n : Nat) => leNat ((h.drop j).take n)
    let ridx := hf 8 8
    let slot := ridx % 2 ^ (hf 0x18 1 % 16)
    let va := hf 0x10 8 + 64 * slot
    let bs : List Byte := okOr [] (w.unitAcquire e va 64)
    let v := leNat bs
    let s1 : State := okOr s (w.unitWrite e va (leBytes (v - 2 ^ 31) 4))
    let s2 : State := okOr s1 (s1.unitWrite e (q.hdr + 8) (leBytes ((ridx + 1) % 2 ^ 64) 8))
    let line := ((w.xlatAccess e .read va 64).pieces.head?.bind Piece.key?).map (· / 64)
    let p := taken s2.nextPacket cq slot bs (findProducer q.ctxid q.hdr va s2.packets s2.cores) (line.any w.chipLines.contains)
    let s3 := { s2 with packets := s2.packets ++ [p], nextPacket := s2.nextPacket + 1, chipLines := s2.chipLines.filter fun l => line != some l }.readBy q.ctxid va 64
    let there := s.queueOf cq = some q ∧ q.stall = none ∧ w.unitRead e q.hdr 64 = .ok h ∧ w.unitAcquire e va 64 = .ok bs
    let writes := w.unitWrite e va (leBytes (v - 2 ^ 31) 4) = .ok s1 ∧ s1.unitWrite e (q.hdr + 8) (leBytes ((ridx + 1) % 2 ^ 64) 8) = .ok s2
    let stops := (s3.pkUnreadable q v).map (·, 0) |>.or ((pkRings v).findSome? fun h => (s3.pkHeader q h).map (·, h))
    let reached := stops = none
    (bitOf v 31 = true ∧ pkKind v = kind ∧ kind ≠ 1 ∧ reached ∧ s3.pkRefuse q v p.chip = none) ∧
    there ∧
    writes := ⟨by decide +kernel,
    ⟨by decide +kernel, by decide +kernel, okIs (by decide +kernel), okIs (by decide +kernel)⟩,
    ⟨okIs (by decide +kernel), okIs (by decide +kernel)⟩⟩

theorem wit_PacketsTaken_2 :
    let s : State := put 0x11140 4 0 wPk
    let cq : Nat := 7
    let q : CopyQueue := cq0
    let w := s.onDie (q.cluster / 16)
    let e := w.unitEnv q.ctxid
    let h : List Byte := okOr [] (w.unitRead e q.hdr 64)
    let hf := fun (j n : Nat) => leNat ((h.drop j).take n)
    let ridx := hf 8 8
    let slot := ridx % 2 ^ (hf 0x18 1 % 16)
    let va := hf 0x10 8 + 64 * slot
    let bs : List Byte := okOr [] (w.unitAcquire e va 64)
    let v := leNat bs
    let there := s.queueOf cq = some q ∧ q.stall = none ∧ w.unitRead e q.hdr 64 = .ok h ∧ w.unitAcquire e va 64 = .ok bs
    (bitOf v 31 = false) ∧
    there := ⟨by decide +kernel,
    ⟨by decide +kernel, by decide +kernel, okIs (by decide +kernel), okIs (by decide +kernel)⟩⟩

theorem wit_PacketsTaken_3 :
    let s : State := wRed
    let cq : Nat := 7
    let kind : Nat := 1
    let q : CopyQueue := cq0
    let w := s.onDie (q.cluster / 16)
    let e := w.unitEnv q.ctxid
    let h : List Byte := okOr [] (w.unitRead e q.hdr 64)
    let hf := fun (j n : Nat) => leNat ((h.drop j).take n)
    let ridx := hf 8 8
    let slot := ridx % 2 ^ (hf 0x18 1 % 16)
    let va := hf 0x10 8 + 64 * slot
    let bs : List Byte := okOr [] (w.unitAcquire e va 64)
    let v := leNat bs
    let s1 : State := okOr s (w.unitWrite e va (leBytes (v - 2 ^ 31) 4))
    let s2 : State := okOr s1 (s1.unitWrite e (q.hdr + 8) (leBytes ((ridx + 1) % 2 ^ 64) 8))
    let line := ((w.xlatAccess e .read va 64).pieces.head?.bind Piece.key?).map (· / 64)
    let p := taken s2.nextPacket cq slot bs (findProducer q.ctxid q.hdr va s2.packets s2.cores) (line.any w.chipLines.contains)
    let s3 := { s2 with packets := s2.packets ++ [p], nextPacket := s2.nextPacket + 1, chipLines := s2.chipLines.filter fun l => line != some l }.readBy q.ctxid va 64
    let u : State := okOr s3 (s3.unitWrite (s3.unitEnv q.ctxid) (s3.queueWord q 0x28 + 128 * slot) (List.replicate 128 0))
    let there := s.queueOf cq = some q ∧ q.stall = none ∧ w.unitRead e q.hdr 64 = .ok h ∧ w.unitAcquire e va 64 = .ok bs
    let writes := w.unitWrite e va (leBytes (v - 2 ^ 31) 4) = .ok s1 ∧ s1.unitWrite e (q.hdr + 8) (leBytes ((ridx + 1) % 2 ^ 64) 8) = .ok s2
    let stops := (s3.pkUnreadable q v).map (·, 0) |>.or ((pkRings v).findSome? fun h => (s3.pkHeader q h).map (·, h))
    let reached := stops = none
    (bitOf v 31 = true ∧ pkKind v = 1 ∧ kind = 1 ∧ reached ∧ s3.pkRefuse q v p.chip = none) ∧
    there ∧
    writes ∧
    s3.unitWrite (s3.unitEnv q.ctxid) (s3.queueWord q 0x28 + 128 * slot) (List.replicate 128 0) = .ok u := ⟨by decide +kernel,
    ⟨by decide +kernel, by decide +kernel, okIs (by decide +kernel), okIs (by decide +kernel)⟩,
    ⟨okIs (by decide +kernel), okIs (by decide +kernel)⟩,
    okIs (by decide +kernel)⟩

theorem wit_PacketsTaken_4 :
    let s : State := wRef
    let cq : Nat := 7
    let kind : Nat := 0
    let q : CopyQueue := cq0
    let r : Nat × Nat × Nat := wRef.pkRefuse cq0 (leNat (pkBytes wRef)) false |>.getD (0, 0, 0)
    let w := s.onDie (q.cluster / 16)
    let e := w.unitEnv q.ctxid
    let h : List Byte := okOr [] (w.unitRead e q.hdr 64)
    let hf := fun (j n : Nat) => leNat ((h.drop j).take n)
    let ridx := hf 8 8
    let slot := ridx % 2 ^ (hf 0x18 1 % 16)
    let va := hf 0x10 8 + 64 * slot
    let bs : List Byte := okOr [] (w.unitAcquire e va 64)
    let v := leNat bs
    let s1 : State := okOr s (w.unitWrite e va (leBytes (v - 2 ^ 31) 4))
    let s2 : State := okOr s1 (s1.unitWrite e (q.hdr + 8) (leBytes ((ridx + 1) % 2 ^ 64) 8))
    let line := ((w.xlatAccess e .read va 64).pieces.head?.bind Piece.key?).map (· / 64)
    let p := taken s2.nextPacket cq slot bs (findProducer q.ctxid q.hdr va s2.packets s2.cores) (line.any w.chipLines.contains)
    let s3 := { s2 with packets := s2.packets ++ [p], nextPacket := s2.nextPacket + 1, chipLines := s2.chipLines.filter fun l => line != some l }.readBy q.ctxid va 64
    let there := s.queueOf cq = some q ∧ q.stall = none ∧ w.unitRead e q.hdr 64 = .ok h ∧ w.unitAcquire e va 64 = .ok bs
    let writes := w.unitWrite e va (leBytes (v - 2 ^ 31) 4) = .ok s1 ∧ s1.unitWrite e (q.hdr + 8) (leBytes ((ridx + 1) % 2 ^ 64) 8) = .ok s2
    let stops := (s3.pkUnreadable q v).map (·, 0) |>.or ((pkRings v).findSome? fun h => (s3.pkHeader q h).map (·, h))
    let reached := stops = none
    (bitOf v 31 = true ∧ pkKind v = kind ∧ reached ∧ s3.pkRefuse q v p.chip = some r) ∧
    there ∧
    writes := ⟨by decide +kernel,
    ⟨by decide +kernel, by decide +kernel, okIs (by decide +kernel), okIs (by decide +kernel)⟩,
    ⟨okIs (by decide +kernel), okIs (by decide +kernel)⟩⟩

theorem wit_PacketsTaken_5 :
    let s : State := wRh
    let cq : Nat := 7
    let kind : Nat := 0
    let q : CopyQueue := cq0
    let f : Nat × Nat := (7, 0x30000)
    let w := s.onDie (q.cluster / 16)
    let e := w.unitEnv q.ctxid
    let h : List Byte := okOr [] (w.unitRead e q.hdr 64)
    let hf := fun (j n : Nat) => leNat ((h.drop j).take n)
    let ridx := hf 8 8
    let slot := ridx % 2 ^ (hf 0x18 1 % 16)
    let va := hf 0x10 8 + 64 * slot
    let bs : List Byte := okOr [] (w.unitAcquire e va 64)
    let v := leNat bs
    let s1 : State := okOr s (w.unitWrite e va (leBytes (v - 2 ^ 31) 4))
    let s2 : State := okOr s1 (s1.unitWrite e (q.hdr + 8) (leBytes ((ridx + 1) % 2 ^ 64) 8))
    let line := ((w.xlatAccess e .read va 64).pieces.head?.bind Piece.key?).map (· / 64)
    let p := taken s2.nextPacket cq slot bs (findProducer q.ctxid q.hdr va s2.packets s2.cores) (line.any w.chipLines.contains)
    let s3 := { s2 with packets := s2.packets ++ [p], nextPacket := s2.nextPacket + 1, chipLines := s2.chipLines.filter fun l => line != some l }.readBy q.ctxid va 64
    let there := s.queueOf cq = some q ∧ q.stall = none ∧ w.unitRead e q.hdr 64 = .ok h ∧ w.unitAcquire e va 64 = .ok bs
    let writes := w.unitWrite e va (leBytes (v - 2 ^ 31) 4) = .ok s1 ∧ s1.unitWrite e (q.hdr + 8) (leBytes ((ridx + 1) % 2 ^ 64) 8) = .ok s2
    let stops := (s3.pkUnreadable q v).map (·, 0) |>.or ((pkRings v).findSome? fun h => (s3.pkHeader q h).map (·, h))
    (bitOf v 31 = true ∧ pkKind v = kind ∧ f.1 ≠ 9) ∧
    there ∧
    writes ∧
    ((∃ hid, stops = some (f, hid))) := ⟨by decide +kernel,
    ⟨by decide +kernel, by decide +kernel, okIs (by decide +kernel), okIs (by decide +kernel)⟩,
    ⟨okIs (by decide +kernel), okIs (by decide +kernel)⟩,
    fstIs (by decide +kernel)⟩

theorem wit_PacketsMoveAndComplete_1 :
    let s : State := wMvd
    let pk : Nat := (packet0 wCpyT).id
    let q : CopyQueue := cq0
    let p : Packet := (s.packet? pk).getD pk0
    let w := s.onDie (q.cluster / 16)
    let u : State := movePacket q p w
    let o : Packet := (u.packet? pk).getD pk0
    let running := w.pkUnreadable q p.num = none ∧ s.packet? pk = some p ∧ s.queueOf p.cq = some q ∧ p.fault = none ∧ p.checked = true
    (o.finished = true ∧ o.fault = none ∧ ((∀ x ∈ u.traps, x.unit ≠ .packet pk)) ∧ o.id = pk ∧ u.unacked (1000000 + pk) = [] ∧ pkRing o.num = 0 ∧ o.by_ = 0 ∧ u.rootOf q.ctxid q.rcb = none ∧ p.finished = true) ∧
    running ∧
    movePacket q p w = u ∧
    u.packet? pk = some o := ⟨by decide +kernel,
    ⟨by decide +kernel, someIs (by decide +kernel), by decide +kernel, by decide +kernel, by decide +kernel⟩,
    rfl,
    someIs (by decide +kernel)⟩

theorem wit_PacketsMoveAndComplete_2 :
    let s : State := wSubT
    let pk : Nat := (packet0 wSubT).id
    let n : Nat := 1
    let key : Nat := 0x18000
    let j : Nat := 0
    let die : Nat := 0
    let k : Nat := 0x10500
    let q : CopyQueue := cq0
    let p : Packet := (s.packet? pk).getD pk0
    let hs : HEnt := (s.pkEnt q (pkSrc p.num)).getD (ent 8 6 [1] 0)
    let hd : HEnt := (s.pkEnt q (pkDst p.num)).getD (ent 8 6 [1] 0)
    let h : HEnt := hs
    let z : Bool := false
    let w := s.onDie (q.cluster / 16)
    let running := w.pkUnreadable q p.num = none ∧ s.packet? pk = some p ∧ s.queueOf p.cq = some q ∧ p.fault = none ∧ p.checked = true
    let ents := s.pkEnt q (pkSrc p.num) = some hs ∧ s.pkEnt q (pkDst p.num) = some hd
    let side := (w.xlatAccess (w.unitEnv q.ctxid) .read h.base 1).pieces = [⟨.mem key, j, n, z⟩] ∧ homeDie key = die
    let wd := s.onDie die
    let e := wd.unitEnv q.ctxid
    let ring := s.mem.ring k
    let u : State := (wd.moveTile q p hs false (hd.base + ring.offset (ring.putSlot 0))).2
    let due := fun (kind : Nat) => w.mayMove p = true ∧ wd.mayMove p = true ∧ pkKind p.num = kind ∧ p.moved < pkTiles p.num
    (side ∧ due 2 ∧ wd.headerKey e hd.base = .ok (some k) ∧ ring.bad = false ∧ ring.canPut 0 = true) ∧
    running ∧
    ents ∧
    h = hs ∧
    wd.moveTile q p hs false (hd.base + ring.offset (ring.putSlot 0)) = (true, u) := ⟨by decide +kernel,
    ⟨by decide +kernel, someIs (by decide +kernel), by decide +kernel, by decide +kernel, by decide +kernel⟩,
    ⟨someIs (by decide +kernel), someIs (by decide +kernel)⟩,
    rfl,
    pairIs (by decide +kernel)⟩

theorem wit_PacketsMoveAndComplete_3 :
    let s : State := wSubF
    let pk : Nat := (packet0 wSubF).id
    let n : Nat := 1
    let key : Nat := 0x18000
    let j : Nat := 0
    let die : Nat := 0
    let k : Nat := 0x10500
    let q : CopyQueue := cq0
    let p : Packet := (s.packet? pk).getD pk0
    let hs : HEnt := (s.pkEnt q (pkSrc p.num)).getD (ent 8 6 [1] 0)
    let hd : HEnt := (s.pkEnt q (pkDst p.num)).getD (ent 8 6 [1] 0)
    let h : HEnt := hs
    let z : Bool := false
    let w := s.onDie (q.cluster / 16)
    let running := w.pkUnreadable q p.num = none ∧ s.packet? pk = some p ∧ s.queueOf p.cq = some q ∧ p.fault = none ∧ p.checked = true
    let ents := s.pkEnt q (pkSrc p.num) = some hs ∧ s.pkEnt q (pkDst p.num) = some hd
    let side := (w.xlatAccess (w.unitEnv q.ctxid) .read h.base 1).pieces = [⟨.mem key, j, n, z⟩] ∧ homeDie key = die
    let wd := s.onDie die
    let e := wd.unitEnv q.ctxid
    let ring := s.mem.ring k
    let due := fun (kind : Nat) => w.mayMove p = true ∧ wd.mayMove p = true ∧ pkKind p.num = kind ∧ p.moved < pkTiles p.num
    (side ∧ due 2 ∧ wd.headerKey e hd.base = .ok (some k) ∧ ring.bad = false ∧ ring.canPut 0 = false) ∧
    running ∧
    ents ∧
    h = hs := ⟨by decide +kernel,
    ⟨by decide +kernel, someIs (by decide +kernel), by decide +kernel, by decide +kernel, by decide +kernel⟩,
    ⟨someIs (by decide +kernel), someIs (by decide +kernel)⟩,
    rfl⟩

theorem wit_PacketsMoveAndComplete_4 :
    let s : State := wDrnT
    let pk : Nat := (packet0 wDrnT).id
    let n : Nat := 1
    let key : Nat := 0x18000
    let j : Nat := 0
    let die : Nat := 0
    let k : Nat := 0x10500
    let q : CopyQueue := cq0
    let p : Packet := (s.packet? pk).getD pk0
    let hs : HEnt := (s.pkEnt q (pkSrc p.num)).getD (ent 8 6 [1] 0)
    let hd : HEnt := (s.pkEnt q (pkDst p.num)).getD (ent 8 6 [1] 0)
    let h : HEnt := hd
    let z : Bool := false
    let w := s.onDie (q.cluster / 16)
    let running := w.pkUnreadable q p.num = none ∧ s.packet? pk = some p ∧ s.queueOf p.cq = some q ∧ p.fault = none ∧ p.checked = true
    let ents := s.pkEnt q (pkSrc p.num) = some hs ∧ s.pkEnt q (pkDst p.num) = some hd
    let side := (w.xlatAccess (w.unitEnv q.ctxid) .read h.base 1).pieces = [⟨.mem key, j, n, z⟩] ∧ homeDie key = die
    let wd := s.onDie die
    let e := wd.unitEnv q.ctxid
    let ring := s.mem.ring k
    let u : State := (wd.moveTile q p hd true (hs.base + ring.offset (ring.takeSlot 0))).2
    let due := fun (kind : Nat) => w.mayMove p = true ∧ wd.mayMove p = true ∧ pkKind p.num = kind ∧ p.moved < pkTiles p.num
    (side ∧ due 3 ∧ wd.headerKey e hs.base = .ok (some k) ∧ ring.bad = false ∧ ring.canTake 0 = true) ∧
    running ∧
    ents ∧
    h = hd ∧
    wd.moveTile q p hd true (hs.base + ring.offset (ring.takeSlot 0)) = (true, u) := ⟨by decide +kernel,
    ⟨by decide +kernel, someIs (by decide +kernel), by decide +kernel, by decide +kernel, by decide +kernel⟩,
    ⟨someIs (by decide +kernel), someIs (by decide +kernel)⟩,
    rfl,
    pairIs (by decide +kernel)⟩

theorem wit_PacketsMoveAndComplete_5 :
    let s : State := wDrnE
    let pk : Nat := (packet0 wDrnE).id
    let n : Nat := 1
    let key : Nat := 0x18000
    let j : Nat := 0
    let die : Nat := 0
    let k : Nat := 0x10500
    let q : CopyQueue := cq0
    let p : Packet := (s.packet? pk).getD pk0
    let hs : HEnt := (s.pkEnt q (pkSrc p.num)).getD (ent 8 6 [1] 0)
    let hd : HEnt := (s.pkEnt q (pkDst p.num)).getD (ent 8 6 [1] 0)
    let h : HEnt := hd
    let z : Bool := false
    let w := s.onDie (q.cluster / 16)
    let running := w.pkUnreadable q p.num = none ∧ s.packet? pk = some p ∧ s.queueOf p.cq = some q ∧ p.fault = none ∧ p.checked = true
    let ents := s.pkEnt q (pkSrc p.num) = some hs ∧ s.pkEnt q (pkDst p.num) = some hd
    let side := (w.xlatAccess (w.unitEnv q.ctxid) .read h.base 1).pieces = [⟨.mem key, j, n, z⟩] ∧ homeDie key = die
    let wd := s.onDie die
    let e := wd.unitEnv q.ctxid
    let ring := s.mem.ring k
    let due := fun (kind : Nat) => w.mayMove p = true ∧ wd.mayMove p = true ∧ pkKind p.num = kind ∧ p.moved < pkTiles p.num
    (side ∧ due 3 ∧ wd.headerKey e hs.base = .ok (some k) ∧ ring.bad = false ∧ ring.canTake 0 = false) ∧
    running ∧
    ents ∧
    h = hd := ⟨by decide +kernel,
    ⟨by decide +kernel, someIs (by decide +kernel), by decide +kernel, by decide +kernel, by decide +kernel⟩,
    ⟨someIs (by decide +kernel), someIs (by decide +kernel)⟩,
    rfl⟩

theorem wit_PacketsMoveAndComplete_6 :
    let s : State := wCpyT
    let u : State := (beatOf wCpyT).2
    let pk : Nat := (packet0 wCpyT).id
    let n : Nat := (beatOf wCpyT).1
    let q : CopyQueue := cq0
    let p : Packet := (s.packet? pk).getD pk0
    let w := s.onDie (q.cluster / 16)
    let running := w.pkUnreadable q p.num = none ∧ s.packet? pk = some p ∧ s.queueOf p.cq = some q ∧ p.fault = none ∧ p.checked = true
    (w.mayMove p = true ∧ pkKind p.num = 0 ∧ pkRows p.num = 1 ∧ pkExt p.num 0 ≤ 64 ∧ 0 < pkExt p.num 0 ∧ p.moved = 0 ∧ p.sub = 0 ∧ w.copyBeat q p 0 0 = .ok u n ∧ u.packets = s.packets ∧ p.id = pk) ∧
    running := ⟨by decide +kernel,
    ⟨by decide +kernel, someIs (by decide +kernel), by decide +kernel, by decide +kernel, by decide +kernel⟩⟩

theorem wit_PacketsMoveAndComplete_7 :
    let s : State := owing wMvd
    let pk : Nat := (packet0 wCpyT).id
    let q : CopyQueue := cq0
    let p : Packet := (s.packet? pk).getD pk0
    let w := s.onDie (q.cluster / 16)
    let u : State := movePacket q p w
    let o : Packet := (u.packet? pk).getD pk0
    let running := w.pkUnreadable q p.num = none ∧ s.packet? pk = some p ∧ s.queueOf p.cq = some q ∧ p.fault = none ∧ p.checked = true
    (o.finished = true ∧ o.fault = none ∧ ((∀ x ∈ u.traps, x.unit ≠ .packet pk)) ∧ o.id = pk ∧ u.unacked (1000000 + pk) ≠ []) ∧
    running ∧
    movePacket q p w = u ∧
    u.packet? pk = some o := ⟨by decide +kernel,
    ⟨by decide +kernel, someIs (by decide +kernel), by decide +kernel, by decide +kernel, by decide +kernel⟩,
    rfl,
    someIs (by decide +kernel)⟩

theorem wit_PacketsMoveAndComplete_8 :
    let s : State := wSubA
    let pk : Nat := (packet0 wSubA).id
    let n : Nat := 1
    let key : Nat := 0x1FFF0
    let j : Nat := 0
    let die : Nat := 0
    let k : Nat := 0x10500
    let q : CopyQueue := cq0
    let p : Packet := (s.packet? pk).getD pk0
    let hs : HEnt := (s.pkEnt q (pkSrc p.num)).getD (ent 8 6 [1] 0)
    let hd : HEnt := (s.pkEnt q (pkDst p.num)).getD (ent 8 6 [1] 0)
    let h : HEnt := hs
    let z : Bool := false
    let w := s.onDie (q.cluster / 16)
    let running := w.pkUnreadable q p.num = none ∧ s.packet? pk = some p ∧ s.queueOf p.cq = some q ∧ p.fault = none ∧ p.checked = true
    let ents := s.pkEnt q (pkSrc p.num) = some hs ∧ s.pkEnt q (pkDst p.num) = some hd
    let side := (w.xlatAccess (w.unitEnv q.ctxid) .read h.base 1).pieces = [⟨.mem key, j, n, z⟩] ∧ homeDie key = die
    let wd := s.onDie die
    let e := wd.unitEnv q.ctxid
    let ring := s.mem.ring k
    let u : State := (wd.moveTile q p hs false (hd.base + ring.offset (ring.putSlot 0))).2
    let due := fun (kind : Nat) => w.mayMove p = true ∧ wd.mayMove p = true ∧ pkKind p.num = kind ∧ p.moved < pkTiles p.num
    (side ∧ due 2 ∧ wd.headerKey e hd.base = .ok (some k) ∧ ring.bad = false ∧ ring.canPut 0 = true) ∧
    running ∧
    ents ∧
    h = hs ∧
    wd.moveTile q p hs false (hd.base + ring.offset (ring.putSlot 0)) = (false, u) := ⟨by decide +kernel,
    ⟨by decide +kernel, someIs (by decide +kernel), by decide +kernel, by decide +kernel, by decide +kernel⟩,
    ⟨someIs (by decide +kernel), someIs (by decide +kernel)⟩,
    rfl,
    pairIs (by decide +kernel)⟩

theorem wit_PacketsMoveAndComplete_9 :
    let s : State := wDrnA
    let pk : Nat := (packet0 wDrnA).id
    let n : Nat := 1
    let key : Nat := 0x1FFF0
    let j : Nat := 0
    let die : Nat := 0
    let k : Nat := 0x10500
    let q : CopyQueue := cq0
    let p : Packet := (s.packet? pk).getD pk0
    let hs : HEnt := (s.pkEnt q (pkSrc p.num)).getD (ent 8 6 [1] 0)
    let hd : HEnt := (s.pkEnt q (pkDst p.num)).getD (ent 8 6 [1] 0)
    let h : HEnt := hd
    let z : Bool := false
    let w := s.onDie (q.cluster / 16)
    let running := w.pkUnreadable q p.num = none ∧ s.packet? pk = some p ∧ s.queueOf p.cq = some q ∧ p.fault = none ∧ p.checked = true
    let ents := s.pkEnt q (pkSrc p.num) = some hs ∧ s.pkEnt q (pkDst p.num) = some hd
    let side := (w.xlatAccess (w.unitEnv q.ctxid) .read h.base 1).pieces = [⟨.mem key, j, n, z⟩] ∧ homeDie key = die
    let wd := s.onDie die
    let e := wd.unitEnv q.ctxid
    let ring := s.mem.ring k
    let u : State := (wd.moveTile q p hd true (hs.base + ring.offset (ring.takeSlot 0))).2
    let due := fun (kind : Nat) => w.mayMove p = true ∧ wd.mayMove p = true ∧ pkKind p.num = kind ∧ p.moved < pkTiles p.num
    (side ∧ due 3 ∧ wd.headerKey e hs.base = .ok (some k) ∧ ring.bad = false ∧ ring.canTake 0 = true) ∧
    running ∧
    ents ∧
    h = hd ∧
    wd.moveTile q p hd true (hs.base + ring.offset (ring.takeSlot 0)) = (false, u) := ⟨by decide +kernel,
    ⟨by decide +kernel, someIs (by decide +kernel), by decide +kernel, by decide +kernel, by decide +kernel⟩,
    ⟨someIs (by decide +kernel), someIs (by decide +kernel)⟩,
    rfl,
    pairIs (by decide +kernel)⟩


theorem wit_GravityMessages_1 :
    let s : State := closedRoot { wGr [prb, .close 0x12000 0] with closing := [(0x12000, 1)] }
    let die : Nat := 0
    let k : Nat := 0
    let r : Nat := 0x12000
    let l1 : List GravMsg := [prb]
    let l2 : List GravMsg := []
    let c : Comb := slot0
    let cs : List Comb := []
    let borrows := fun (m : GravMsg) => match m with
      | .borrow _ d _ => d == die
      | _ => false
    let closes := fun (m : GravMsg) => match m with
      | .close _ d => d == die
      | _ => false
    let flushes := fun (m : GravMsg) => match m with
      | .flush _ _ => true
      | _ => false
    let slot := findSlot (s.slots die) r
    (s.slots die).drop k = c :: cs ∧
    c.root = r ∧
    slot = some c ∧
    c.used + 1241 ≤ s.time ∧
    s.grav = l1 ++ .close r die :: l2 ∧
    (l1.filter closes).length = k ∧
    AMap.get 0 s.closing r = 1 ∧
    s.closed r = true ∧
    (s.grav.filter borrows).length ≤ k ∧
    (s.grav.filter flushes).length ≤ k := by decide +kernel

theorem wit_GravityMessages_2 :
    let s : State := { wGr [.probe 0x12000 1 2, prb, .flush 4 4] with time := 1340 }
    let die : Nat := 0
    let k : Nat := 0
    let r : Nat := 0x12000
    let w : Nat := 0
    let l1 : List GravMsg := [.probe 0x12000 1 2]
    let l2 : List GravMsg := [.flush 4 4]
    let c : Comb := slot0
    let cs : List Comb := []
    let probes := fun (m : GravMsg) => match m with
      | .probe _ d _ => d == die
      | _ => false
    let slot := findSlot (s.slots die) r
    (s.slots die).drop k = c :: cs ∧
    c.root = r ∧
    slot = some c ∧
    s.time < c.used + 1241 ∧
    s.grav = l1 ++ .probe r die w :: l2 ∧
    (l1.filter probes).length = k := by decide +kernel

theorem wit_GravityMessages_3 :
    let s : State := wGr [prb, .borrow 0x12000 0 1, .flush 4 4]
    let die : Nat := 0
    let k : Nat := 0
    let r : Nat := 0x12000
    let w : Nat := 1
    let l1 : List GravMsg := [prb]
    let l2 : List GravMsg := [.flush 4 4]
    let borrows := fun (m : GravMsg) => match m with
      | .borrow _ d _ => d == die
      | _ => false
    s.grav = l1 ++ .borrow r die w :: l2 ∧
    (l1.filter borrows).length = k ∧
    s.closed r = false := by decide +kernel

theorem wit_GravityMessages_4 :
    let s : State := closedRoot (wGr [.borrow 0x12000 3 0, .borrow 0x12000 0 1, .flush 4 4])
    let die : Nat := 0
    let k : Nat := 0
    let r : Nat := 0x12000
    let w : Nat := 1
    let l1 : List GravMsg := [.borrow 0x12000 3 0]
    let l2 : List GravMsg := [.flush 4 4]
    let borrows := fun (m : GravMsg) => match m with
      | .borrow _ d _ => d == die
      | _ => false
    s.grav = l1 ++ .borrow r die w :: l2 ∧
    (l1.filter borrows).length = k ∧
    s.closed r = true := by decide +kernel

theorem wit_GravityMessages_5 :
    let s : State := wGr [.probe 0x12000 1 2, prb, .flush 4 4]
    let die : Nat := 1
    let k : Nat := 0
    let r : Nat := 0x12000
    let w : Nat := 2
    let l1 : List GravMsg := []
    let l2 : List GravMsg := [prb, .flush 4 4]
    let probes := fun (m : GravMsg) => match m with
      | .probe _ d _ => d == die
      | _ => false
    let slot := findSlot (s.slots die) r
    s.grav = l1 ++ .probe r die w :: l2 ∧
    (l1.filter probes).length = k ∧
    slot = none := by decide +kernel

theorem wit_GravityMessages_6 :
    let s : State := closedRoot { wGr [prb, .close 0x12000 0, prb] with closing := [(0x12000, 8)] }
    let die : Nat := 0
    let k : Nat := 0
    let r : Nat := 0x12000
    let l1 : List GravMsg := [prb]
    let l2 : List GravMsg := [prb]
    let c : Comb := slot0
    let closes := fun (m : GravMsg) => match m with
      | .close _ d => d == die
      | _ => false
    let slot := findSlot (s.slots die) r
    s.grav = l1 ++ .close r die :: l2 ∧
    (l1.filter closes).length = k ∧
    slot = some c ∧
    2 ≤ AMap.get 0 s.closing r := by decide +kernel

theorem wit_GravityMessages_7 :
    let s : State := wGr [prb, .flush 0x12000 (2 ^ 24)]
    let k : Nat := 0
    let r : Nat := 0x12000
    let a : Nat := 2 ^ 24
    let l1 : List GravMsg := [prb]
    let l2 : List GravMsg := []
    let flushes := fun (m : GravMsg) => match m with
      | .flush _ _ => true
      | _ => false
    s.grav = l1 ++ .flush r a :: l2 ∧
    (l1.filter flushes).length = k := by decide +kernel

theorem wit_SpeculationEvents_1 :
    let s : State := wDs
    let u : State := (took (wDs.onDie 0)).2
    let die : Nat := 0
    let gfe : Nat := 0
    let hid : Nat := 5
    let op : Nat := 2
    let p : SpecHandle := spc
    let o : OpInst := spOp 2 5 2 .no
    let c : OpInst := spC .running []
    let l : List (Nat × Nat) := (took (wDs.onDie 0)).1
    let n := 4 * die + gfe
    let g := s.gfeAt n
    let at0 := s.onDie die
    let due := g.specs.find? fun q => q.hid == hid && q.due
    let wd := s.onDie (o.gfe / 4)
    let free := o.phase = .no ∧ o.behind = none ∧ o.nextTile = 0 ∧ o.done = 0 ∧ o.follows = none ∧ o.low = none ∧ hasTiles o.record = true
    ((due = some p ∧ at0.comparesDone n p.region = false) ∨ due = none) ∧
    s.op? op = some o ∧
    free ∧
    s.specCount (o.gfe / 4) < 8 ∧
    wd.upstream o = some c ∧
    wd.takeShadows (issueAsker (s.gfeAt o.gfe) o.gfe) o.shard o.ctxid o.outs = .ok (l, u) ∧
    u.ops = s.ops ∧
    wd.passes o = false ∧
    o.phase = .no := by decide +kernel

theorem wit_SpeculationEvents_2 :
    let s : State := wSc [] [true]
    let op : Nat := 1
    let o : OpInst := { spC .judging [true] with image := some 0, shadows := [] }
    let wd := s.onDie (o.gfe / 4)
    let alone := s.behindOf op = [] ∧ o.shadows = [] ∧ ∀ k, (s.ctxAt k).wbuf = []
    (s.op? op = some o ∧ (8 ≤ s.specCount (o.gfe / 4) ∨ o.phase ≠ .no ∨ wd.upstream o = none) ∧ s.passes o = true) ∧
    alone := ⟨by decide +kernel,
    ⟨by decide +kernel, by decide +kernel, fun k => by
      rcases k with _ | k
      · decide +kernel
      · rfl⟩⟩

theorem wit_SpeculationEvents_3 :
    let s : State := wSp []
    let u : State := histed (wSp [])
    let die : Nat := 0
    let gfe : Nat := 0
    let hid : Nat := 3
    let p : SpecHandle := spc
    let n := 4 * die + gfe
    let g := s.gfeAt n
    let at0 := s.onDie die
    let copied := (at0.copyEntry g.ctxid g.shard p.h1 p.h2).bind fun t => t.copyEntry g.ctxid g.shard hid p.h1
    let due := g.specs.find? fun q => q.hid == hid && q.due
    (due = some p ∧ at0.comparesDone n p.region = true ∧ u.gfes = s.gfes) ∧
    copied = .ok u := ⟨by decide +kernel,
    rfl⟩

theorem wit_SpeculationEvents_4 :
    let s : State := wSc [] [false]
    let op : Nat := 1
    let ck : Nat := 0
    let lin : Nat := 0
    let first : Nat := 0
    let ix : List Nat := []
    let o : OpInst := nth (spC .no []) (wSc [] [false]).ops 0
    let x : Ctx := (wSc [] [false]).ctxAt 0
    let im : Installed := img0 (wSc [] [false])
    let fails := s.ops = [o] ∧ o.phase = .judging ∧ o.behind = none ∧ false ∈ o.verdicts ∧ s.commandsDone op = true ∧ s.preempts = []
    s.op? op = some o ∧
    fails ∧
    (s.ctxs.filter (fun q => q.2.opId == op) = [(ck, x)]) ∧
    s.ctxAt ck = x ∧
    x.status = .blocked .spec ∧
    x.work.job = .tile op lin ix ∧
    o.image = some first ∧
    s.image? o.ctxid first = some im := by decide +kernel


theorem wit_StartsAndService_1 :
    let s : State := wG
    let die : Nat := 1
    let failed := s.root.failures + (if s.root.warming then 1 else 0)
    failed < 2 ∧
    (s.root.up = false ∨ 8 ≤ die ∨ die ∈ s.dies) ∧
    ((∃ p ∈ s.gfes, p.2.busy = true) ∨ s.dies.length ≠ 8) := by decide +kernel

theorem wit_StartsAndService_2 :
    let s : State := failedTwice 2 wG
    let failed := s.root.failures + (if s.root.warming then 1 else 0)
    2 ≤ failed := by decide +kernel

theorem wit_StartsAndService_3 :
    let s : State := started0 wG
    let die : Nat := 1
    s.root.up = true ∧
    die < 8 ∧
    die ∉ s.dies := by decide +kernel

theorem wit_StartsAndService_4 :
    let s : State := { wBt with gfes := [] }
    s.reduced = true ∧
    s.dies.length = 8 ∧
    ((∀ p ∈ s.gfes, p.2.busy = false)) := by decide +kernel

theorem wit_AttestationAndElection_1 :
    let s : State := window 5 [(3, 9), (4, 8), (4, 7)] { wG with time := 10 ^ 9 }
    let t0 : Nat := 5
    let r := s.root
    let past := r.windowAt = some t0 ∧ t0 + 100 * 10 ^ 6 ≤ s.time
    let settled := r.spdmVersion = true ∧ r.spdmCaps = true ∧ r.spdmAlgs = true
    ¬settled ∧
    past ∧
    r.claims ≠ [] ∧
    s.time < r.lastBeat + 2 * 10 ^ 9 := by decide +kernel

theorem wit_AttestationAndElection_2 :
    let s : State := leads 1 { wG with time := 10 ^ 10 }
    let l : Nat := 1
    let r := s.root
    let me := s.ioReg 0x48 % 1024
    r.windowAt = none ∧
    r.leader = some l ∧
    l ≠ me ∧
    r.up = true ∧
    r.leader ≠ some me ∧
    r.lastBeat + 2 * 10 ^ 9 ≤ s.time := by decide +kernel

theorem wit_AttestationAndElection_3 :
    let s : State := window 5 [(3, 9), (4, 8), (4, 7)] { wG with time := 9 * 10 ^ 7 }
    let t0 : Nat := 5
    let r := s.root
    let open' := r.windowAt = some t0 ∧ s.time < t0 + 100 * 10 ^ 6
    open' := by decide +kernel

theorem wit_AttestationAndElection_4 :
    let s : State := settled wG
    let idx : Nat := 0
    let r := s.root
    let settled := r.spdmVersion = true ∧ r.spdmCaps = true ∧ r.spdmAlgs = true
    settled ∧
    idx = 0 := by decide +kernel

theorem wit_AttestationAndElection_5 :
    let s : State := settled wG
    let idx : Nat := 1
    let r := s.root
    let settled := r.spdmVersion = true ∧ r.spdmCaps = true ∧ r.spdmAlgs = true
    settled ∧
    1 ≤ idx ∧
    idx ≤ 16 := by decide +kernel

theorem wit_AttestationAndElection_6 :
    let s : State := settled wG
    let idx : Nat := 255
    let r := s.root
    let settled := r.spdmVersion = true ∧ r.spdmCaps = true ∧ r.spdmAlgs = true
    settled ∧
    idx = 255 := by decide +kernel

theorem wit_AttestationAndElection_7 :
    let s : State := leads 0 { wG with time := 10 ^ 9 }
    let r := s.root
    let me := s.ioReg 0x48 % 1024
    r.leader = some me ∧
    r.lastBeat + 250 * 10 ^ 6 ≤ s.time := by decide +kernel

theorem wit_AttestationAndElection_8 :
    let s : State := leads 0 { wG with time := 10 ^ 7 }
    let r := s.root
    let me := s.ioReg 0x48 % 1024
    r.leader = some me ∧
    s.time < r.lastBeat + 250 * 10 ^ 6 := by decide +kernel


theorem wit_TrapsAndRollbacks_1 :
    let cause : Nat := 7
    cause ≠ 8 := by decide +kernel

theorem wit_RegisterOperationsFrame_1 :
    let i : Instr := .add 9 1 2
    let s : State := wS
    let t : State := did (.add 9 1 2) wS
    (RegisterOnly i ∨ i.tier = 1 ∨ i.tier = 2) ∧
    exec i s = .next t ∧
    ((∀ a, i ≠ .mtk 0x60 a)) := ⟨.inl ⟨by decide, by decide, by decide, nofun⟩,
    rfl,
    nofun⟩

theorem wit_StepRunsTheDecodedInstruction_1 :
    let s : State := stepW addB
    let b : Bundle := bunOf addB
    let atc := ({ s with schedule := [.tick 3 1] } : State).onDie 0
    let u := onward (marks b (atc.acting 0 0))
    let w := noteDeadline b (noteShown b (answerRecalled (dropHold (u.onCtx Ctx.landed))))
    let l := issueOrder (openOps w.ctx.bank b.slots)
    let w1 := if b.hdr.j then joinViews w else w
    let v := (ranAll l w1).getD s
    (s.powered = true ∧ s.schedule = .ctx 0 0 :: [.tick 3 1] ∧ (atc.ctxAt 0).status = .ready ∧ atc.coreRuns 0 = true ∧ (atc.coreAt 0).slotAt ≤ atc.clk ∧
      atc.pick 0 = some (0, false) ∧ atc.regionIssues (atc.ctxAt 0) = true ∧ atc.mustSwitch 0 (0, false) = false ∧ (atc.acting 0 0).ctx.waitsFor = none ∧
      (atc.coreAt 0).saved = [] ∧ (atc.acting 0 0).bundle? (atc.acting 0 0).ctx.bank.pc = some b ∧ (atc.acting 0 0).decodeTrap b = none ∧
      (deadlineTrap 0 0 w).ctx.status ≠ .trapped ∧ w.bundleVerdict b = .ok ∧ l = [.add 9 1 2] ∧ v.ctx.status = .ready ∧ v.ctx.flowsOut = false) ∧
    marks b (atc.acting 0 0) = .goOn u ∧ Run l w1 v := ⟨by decide +kernel, onwardIs (by decide +kernel), ranAllIs (by decide +kernel)⟩

theorem wit_StepRunsTheDecodedInstruction_2 :
    let s : State := edgeW
    let b : Bundle := bunOf addB
    let atc := ({ s with schedule := [.tick 3 1] } : State).onDie 0
    let u := onward (marks b (atc.acting 0 0))
    let w := noteDeadline b (noteShown b (answerRecalled (dropHold (u.onCtx Ctx.landed))))
    let l := issueOrder (openOps w.ctx.bank b.slots)
    let w1 := if b.hdr.j then joinViews w else w
    let v := (ranAll l w1).getD s
    (s.powered = true ∧ s.schedule = .ctx 0 0 :: [.tick 3 1] ∧ (atc.ctxAt 0).status = .ready ∧ atc.coreRuns 0 = true ∧ (atc.coreAt 0).slotAt ≤ atc.clk ∧
      atc.pick 0 = some (0, false) ∧ atc.regionIssues (atc.ctxAt 0) = true ∧ atc.mustSwitch 0 (0, false) = false ∧ (atc.acting 0 0).ctx.waitsFor = none ∧
      (atc.coreAt 0).saved = [] ∧ (atc.acting 0 0).bundle? (atc.acting 0 0).ctx.bank.pc = some b ∧ (atc.acting 0 0).decodeTrap b = none ∧
      (deadlineTrap 0 0 w).ctx.status ≠ .trapped ∧ w.bundleVerdict b = .ok ∧ l = [.add 9 1 2] ∧ v.ctx.status = .ready ∧ v.ctx.flowsOut = true) ∧
    marks b (atc.acting 0 0) = .goOn u ∧ Run l w1 v := ⟨by decide +kernel, onwardIs (by decide +kernel), ranAllIs (by decide +kernel)⟩

theorem wit_StepRunsTheDecodedInstruction_3 :
    let s : State := wG
    s.powered = true ∧
    s.schedule = [] ∧
    ((∀ q ∈ s.traps, q.cause ≠ 0)) := by decide +kernel

theorem wit_StepRunsTheDecodedInstruction_4 :
    let s : State := nopW
    let r : List Actor := []
    let k : Nat := 0
    let i : Instr := (.nop 0 [])
    let at' := { s with schedule := r }
    let atg := (at'.onDie (k / 4)).actingGfe k
    let v : State := out (exec i atg) s
    (s.powered = true ∧ s.schedule = .gfe k :: r ∧ atg.gfeReady k = true ∧ atg.gfeHeld k = false ∧ atg.outranked k = false ∧ atg.fetchRecord (atg.gfeAt k) (atg.gfeAt k).pc = .ok i) ∧
    exec i atg = .next v := ⟨by decide +kernel,
    nextIs (by decide +kernel)⟩

theorem wit_StepRunsTheDecodedInstruction_5 :
    let s : State := beatW
    let r : List Actor := []
    let i : Instr := .heartbeat
    let at' := { s with schedule := r }
    let v : State := out (exec i (at'.onDie 8)) s
    (s.powered = true ∧ s.schedule = .event i :: r) ∧
    exec i (at'.onDie 8) = .next v := ⟨by decide +kernel,
    nextIs (by decide +kernel)⟩

theorem wit_EveryStepAnswers_1 :
    let s : State := wG
    s.powered = true := by decide +kernel

theorem wit_EveryStepAnswers_2 :
    let s : State := { wG with powered := false }
    s.powered = false ∧
    isStart s.nextActor.1 = false := by decide +kernel


/-! ### Words written out from the encoding tables (R167, R190, R211, R239, R287, R293, R301, R319, R329, R335, R338, R339) -/

theorem test_words_scalar_1 :
    ([(0x10FE000000000, .mov 3 62),
      (0x217FFFFFFFFF9, .li 5 (-7)),
      (0x31800003FFFFF, .lih 6 4194303),
      (0x4042FC0000000, .add 1 2 63),
      (0x6042FC0000000, .sub 1 2 63),
      (0xB042FC0000000, .and 1 2 63),
      (0xC042FC0000000, .or 1 2 63),
      (0xD042FC0000000, .xor 1 2 63),
      (0x7042FC0000000, .mul 1 2 63),
      (0xE042FC0000000, .shl 1 2 63),
      (0xF042FC0000000, .shr 1 2 63),
      (0x10042FC0000000, .sra 1 2 63),
      (0x5042020000000, .addi 1 2 (-536870912)),
      (0x82481C0000002, .mulh 9 8 7 2),
      (0x92481C0000001, .div 9 8 7 1),
      (0xA2481C0000001, .rem 9 8 7 1),
      (0x112481C0000001, .min 9 8 7 1),
      (0x122481C0000000, .max 9 8 7 0),
      (0xE10500000007F, .shlImm 4 5 63),
      (0xF10500000007F, .shrImm 4 5 63),
      (0x1010500000007F, .sraImm 4 5 63),
      (0x1310518000000F, .sel 4 15 5 6)].all fun (x : Nat × Instr) => decide (decodeS x.1 = .op ⟨0, x.2⟩)) = true := by
  decide +kernel

theorem test_words_scalar_2 :
    ([(0x200451A4000002, .cmp 1 2 5 6 9),
      (0x2104508FFFFFFF, .cmpi 1 2 5 (-1) 3),
      (0x223CE340000002, .pand 15 14 13 2),
      (0x233CE340000002, .por 15 14 13 2),
      (0x243CE340000002, .pxor 15 14 13 2),
      (0x300420C0000000, .cnarrow 1 2 3),
      (0x31040000000009, .cperm 1 9),
      (0x32042000000007, .cget 1 2 7),
      (0x33042000000113, .ctest 1 3 2 17),
      (0x40040000000060, .mfk 1 96),
      (0x41001000000020, .mtk 32 1),
      (0x50009000000000, .br 9),
      (0x51000000001FFF, .bri 8191),
      (0x52080000000064, .callm 2 100),
      (0x53002000000000, .retm 2),
      (0x5400001C00000C, .loop 12 7),
      (0x54003024000000, .loopReg 3 1),
      (0x55000000000005, .brloop 5),
      (0x560030000048FF, .dispatch 3 4 8 255),
      (0x57000000000000, .endop),
      (0x58000000000000, .svc),
      (0x5900000000004D, .trap 77)].all fun (x : Nat × Instr) => decide (decodeS x.1 = .op ⟨0, x.2⟩)) = true := by
  decide +kernel

theorem test_words_vector_1 :
    ([(0x101FFC0200C0002, .vadd ⟨1, 1023, 2, 3, 0, false, false, 0, 2⟩),
      (0x102FFC0200C0002, .vsub ⟨1, 1023, 2, 3, 0, false, false, 0, 2⟩),
      (0x103FFC0200C0002, .vmul ⟨1, 1023, 2, 3, 0, false, false, 0, 2⟩),
      (0x40040200C0411, .vfma ⟨0, 1, 2, 3, 4, false, false, 4, 1⟩),
      (0x2050040000C00A0, .vmin ⟨2, 1, 0, 3, 0, true, false, 8, 0⟩),
      (0x2060040000C00A0, .vmax ⟨2, 1, 0, 3, 0, true, false, 8, 0⟩),
      (0x70040200C0404, .vclamp ⟨0, 1, 2, 3, 4, false, false, 1, 0⟩),
      (0x8004020000014, .vabs ⟨0, 1, 2, 0, 0, false, false, 5, 0⟩),
      (0x9004020000014, .vneg ⟨0, 1, 2, 0, 0, false, false, 5, 0⟩),
      (0x1001C080000001, .vrcp ⟨0, 7, 8, 0, 0, false, false, 0, 1⟩),
      (0x1101C080000001, .vrsq ⟨0, 7, 8, 0, 0, false, false, 0, 1⟩),
      (0x1201C080000001, .vexp2 ⟨0, 7, 8, 0, 0, false, false, 0, 1⟩),
      (0x1301C080000001, .vlog2 ⟨0, 7, 8, 0, 0, false, false, 0, 1⟩),
      (0x1801C080001100, .vcvt ⟨0, 7, 8, 0, 17, false, false, 0, 0⟩),
      (0x1901C080240008, .vscale ⟨0, 7, 8, 9, 0, false, false, 2, 0⟩),
      (0x3200080A02F450C, .vcmp ⟨3, 2, 10, 11, 837, false, false, 3, 0⟩)].all fun (x : Nat × Instr) => decide (decodeV x.1 = .op ⟨0, x.2⟩)) = true := by
  decide +kernel

theorem test_words_vector_2 :
    ([(0x210040200C0F00, .vsel ⟨0, 1, 2, 3, 15, false, false, 0, 0⟩),
      (0x28004020000040, .vand ⟨0, 1, 2, 0, 0, false, true, 0, 0⟩),
      (0x29004020000040, .vor ⟨0, 1, 2, 0, 0, false, true, 0, 0⟩),
      (0x2A004020000040, .vxor ⟨0, 1, 2, 0, 0, false, true, 0, 0⟩),
      (0x2B0040200C0014, .vshl ⟨0, 1, 2, 3, 0, false, false, 5, 0⟩),
      (0x2C0040200C0014, .vshr ⟨0, 1, 2, 3, 0, false, false, 5, 0⟩),
      (0x2B004020023F18, .vshlImm ⟨0, 1, 2, 0, 575, false, false, 6, 0⟩),
      (0x2C004020023F18, .vshrImm ⟨0, 1, 2, 0, 575, false, false, 6, 0⟩),
      (0x30004020000002, .vred ⟨0, 1, 2, 0, 0, false, false, 0, 2⟩),
      (0x31004020000F00, .vbcast ⟨0, 1, 2, 0, 15, false, false, 0, 0⟩),
      (0x320040200C1F1C, .vext ⟨0, 1, 2, 3, 31, false, false, 7, 0⟩),
      (0x330040200C0000, .vperm ⟨0, 1, 2, 3, 0, false, false, 0, 0⟩),
      (0x3400400FFE0014, .viota ⟨0, 1, 0, 1023, 512, false, false, 5, 0⟩),
      (0x138008030100000, .qand ⟨1, 2, 3, 4, 0, false, false, 0, 0⟩),
      (0x139008030100000, .qor ⟨1, 2, 3, 4, 0, false, false, 0, 0⟩),
      (0x13A008030000000, .qnot ⟨1, 2, 3, 0, 0, false, false, 0, 0⟩)].all fun (x : Nat × Instr) => decide (decodeV x.1 = .op ⟨0, x.2⟩)) = true := by
  decide +kernel

theorem test_words_matrix :
    ([(0x4F00002BF000, .tcfg 15 10 63),
      (0x830000000000, .tzero 3),
      (0xC700002C0000, .wload 7 true 6),
      (0x1090000000000, .cbload 9),
      (0x1549000000000, .mxnest 5 9),
      (0x16BFFFF001FF8, .mxnestImm 2 true 65535 (-1024) 1023),
      (0x1810BF02E77FC, .mxgo ⟨1, 2, 63, 2, true, true, true, 3, 5, true, true, 63⟩),
      (0x1C1FFC35C004D, .accrd 1 1023 3 5 true true 77),
      (0x2010020000009, .accwr 1 0 true 9),
      (0x2410005000006, .accz 1 5 6),
      (0x4017FFFFFF000, .rtload 1 31 31 true true 32767),
      (0x4410801C77FFF, .rtapply 1 2 0 7 3 true false true 16383),
      (0x4805FC0000000, .rtread 5 31 true),
      (0x4C00000000000, .rtclr),
      (0x5000000000000, .rtgain),
      (0x5440000000000, .rtwords 4),
      (0x6015180000000, .ptrans 1 20 false true 2),
      (0x641083FC00000, .pgather 1 2 3 63),
      (0x7010838BFFFC0, .pred 1 2 3 8 2 65535),
      (0x7410831060000, .tcmp 1 2 3 4 1 true)].all fun (x : Nat × Instr) => decide (decodeM x.1 = .op ⟨0, x.2⟩)) = true := by
  decide +kernel

theorem test_words_memory :
    ([(0x1042500FFFFF8, .ld 1 2 2 true 0 (-8)),
      (0x2042400FFFFF8, .st 1 2 2 false 0 (-8)),
      (0x30424A0FFFFF8, .lda 1 2 2 false 5 (-8)),
      (0x4042480FFFFF8, .stl 1 2 2 false 4 (-8)),
      (0x8FFC238FFFFFF, .vld 1023 2 3 true (-1)),
      (0x9004200000040, .vst 1 2 0 false 64),
      (0xA00420160FFFC, .vlds 1 2 0 5 2 (-4)),
      (0xB00424FA3FFFC, .vgather 1 2 4 1000 3 (-4)),
      (0xC004240250004, .vscatter 1 2 4 9 1 4),
      (0x105038FFFFF000, .tmov 20 3 true false 15 65535),
      (0x1101C800FFFFC0, .cpyput 7 8 (-64)),
      (0x140427F0000000, .rawait 1 2 127),
      (0x16042030000000, .rapeek 1 2 3),
      (0x150027F0000000, .rarel 2 127),
      (0x180020E3C8FFF8, .atom 0 2 3 8 true 3 4 true (-8)),
      (0x190420C4D40010, .acas 1 2 3 4 true 2 5 16),
      (0x1C67F800000000, .fence 3 1 127),
      (0x1D009000000000, .ewait 9),
      (0x200027FFE0FFF0, .barinit 2 3 4095 (-16)),
      (0x21042600500008, .bararr 1 2 3 false 5 8),
      (0x21042718000008, .bararr 1 2 3 true 6 8),
      (0x22F0271C80FFF8, .barwait 15 2 3 true 7 8 (-8)),
      (0x24105800000000, .enq 4 true 5),
      (0x25105000000000, .deq 4 5 false),
      (0x28105800000020, .spawn 4 true 5 32),
      (0x2911FFE0000000, .gsplit 4 false 4095),
      (0x29124800000000, .gsplit 4 true 9),
      (0x2A003000000000, .gret 3),
      (0x2B003000000000, .waitq 3),
      (0x300C0000000000, .time 3),
      (0x31003800000000, .waitt 3 true)].all fun (x : Nat × Instr) => decide (decodeX x.1 = .op ⟨0, x.2⟩)) = true := by
  decide +kernel

theorem test_words_records_1 :
    ([(0x10000, [], .nop 0 []),
      (0x420005, [0x3FFFFFFD], .setg 0 5 (.imm (-3))),
      (0x430005, [0x89ABCDEF, 0x1234567], .setgImm64 0 5 81985529216486895),
      (0x840007, [0x1, 0xBFFFFF83, 0x1], .gop 0 7 1 (.regPlus 3 (-2)) (.imm 1)),
      (0x840007, [0x20, 0x9, 0x40000001], .gopLdt 0 7 9 (.reg 1)),
      (0xC30002, [0x40000009, 0xFFFFFFFB], .graphLoop 0 2 (.reg 9) (-5)),
      (0x1010000, [], .endloop 0),
      (0x1420000, [0xFFFFFFFC], .graphBr 0 (-4)),
      (0x1850000, [0x9, 0x40000001, 0x2, 0x6], .brc 0 9 (.reg 1) (.imm 2) 6),
      (0x1C20000, [0x3], .call 0 3),
      (0x2010000, [], .ret 0),
      (0x2410000, [], .halt 0),
      (0x4060000, [0x12F30011, 0x123, 0x8, 0x40000004, 0x220030], .tdef 0 17 3 15 2 291 [.imm 8, .reg 4] 2228272),
      (0x4420000, [0x40003], .tfree 0 3 4),
      (0x4860000, [0x40003, 0x0, 0xD0000002, 0x8, 0x40000001], .tview 0 3 4 [(.imm 0, .part 1 2), (.imm 8, .reg 1)]),
      (0x4C50000, [0x40003, 0x1, 0x8, 0x10], .treshape 0 3 4 [.imm 8, .imm 16]),
      (0x5030000, [0x29, 0x2], .tshard 0 41 2),
      (0x5430000, [0x5, 0xF], .tplace 0 5 15),
      (0x5830000, [0x28, 0x100000], .tload 0 40 (.imm 1048576))].all fun (x : Nat × List Nat × Instr) => decide (decodeRecord x.1 x.2.1 = .ok x.2.2)) = true := by
  decide +kernel

theorem test_words_records_2 :
    ([(0x5C30080, [0x29, 0xCFFFFFFF], .tstore 0 true 41 (.part 0 (-1))),
      (0x8020282, [0x20001], .tcopy ⟨2, true, 0⟩ 2 1 2),
      (0x8440285, [0x20001, 0x3, 0x40000004], .tgatherb ⟨2, true, 0⟩ 5 1 2 3 (.reg 4)),
      (0x8830283, [0x20001, 0x3], .tconcat ⟨2, true, 0⟩ 3 1 2 3),
      (0x8C20280, [0x20001], .tappend ⟨2, true, 0⟩ 1 2),
      (0x9030280, [0x20001, 0x8], .ttrans ⟨2, true, 0⟩ 1 2 8),
      (0x10030281, [0x20001, 0x40003], .matmul ⟨2, true, 0⟩ true 1 2 3 4),
      (0x10450281, [0x20001, 0x40003, 0x5, 0x3F800000], .matmulcb ⟨2, true, 0⟩ true 1 2 3 4 5 1065353216),
      (0x10840280, [0x20001, 0x40003, 0x654321], .convOp ⟨2, true, 0⟩ 1 2 3 4 1 2 3 4 5 6),
      (0x10C50280, [0x20001, 0x40003, 0x20110, 0x40000000], .eltw ⟨2, true, 0⟩ 1 2 3 4 16 1 2 0 1073741824),
      (0x11030283, [0x20001, 0x5], .reduce ⟨2, true, 0⟩ 3 1 2 5),
      (0x11430280, [0x20001, 0x7], .softmax ⟨2, true, 0⟩ 1 2 7),
      (0x11840281, [0x20001, 0x40003, 0x9], .norm ⟨2, true, 0⟩ true 1 2 3 4 9),
      (0x11C50281, [0x20001, 0x40003, 0xFF, 0x9], .attn ⟨2, true, 0⟩ true 1 2 3 4 255 9),
      (0x12030280, [0x20001, 0x3], .embed ⟨2, true, 0⟩ 1 2 3),
      (0x12440280, [0x20001, 0x3, 0x4], .topk ⟨2, true, 0⟩ 1 2 3 (.imm 4)),
      (0x12820280, [0x20001], .argmax ⟨2, true, 0⟩ 1 2)].all fun (x : Nat × List Nat × Instr) => decide (decodeRecord x.1 x.2.1 = .ok x.2.2)) = true := by
  decide +kernel

theorem test_words_records_3 :
    ([(0x14020281, [0x20001], .qr ⟨2, true, 0⟩ true 1 2),
      (0x14430281, [0x20001, 0x3], .lsq ⟨2, true, 0⟩ true 1 2 3),
      (0x14830281, [0x20001, 0x3], .rotl ⟨2, true, 0⟩ true 1 2 3),
      (0x18030280, [0x20001, 0xA8], .allgather ⟨2, true, 0⟩ 1 2 2 5),
      (0x18430280, [0x20001, 0x1A8], .redscat ⟨2, true, 0⟩ 1 2 2 5 1),
      (0x18830280, [0x20001, 0x240], .allred ⟨2, true, 0⟩ 1 2 1 2),
      (0x18C40280, [0x20001, 0x80, 0x3], .bcast ⟨2, true, 0⟩ 1 2 2 (.imm 3)),
      (0x19040280, [0x1, 0xABCD0040, 0xE0000001], .send ⟨2, true, 0⟩ 1 1 43981 (.part 2 1)),
      (0x19440280, [0x20001, 0xABCD0000, 0xEFFFFFFF], .recv ⟨2, true, 0⟩ 1 2 0 43981 (.part 2 (-1))),
      (0x1C030001, [0x3, 0x3F], .spawnb 0 true 3 (.imm 63)),
      (0x1C420000, [0x40000004], .quiet 0 (.reg 4)),
      (0x1E040000, [0x3, 0x2800000E, 0x28002C00], .specin 0 3 2 1 true 10240 11264 10240),
      (0x1E420000, [0x3], .specoff 0 3),
      (0x20040001, [0x40000001, 0x3FF, 0x3FFFFFFF], .opinstall 0 true (.reg 1) 1023 (.imm (-1))),
      (0x20420000, [0x201], .opremove 0 513),
      (0x20830001, [0x1, 0x40000002], .syscall 0 true [.imm 1, .reg 2]),
      (0x80420785, [0x290028], .userOperator 7 133 513 [(40, 41)])].all fun (x : Nat × List Nat × Instr) => decide (decodeRecord x.1 x.2.1 = .ok x.2.2)) = true := by
  decide +kernel

/-! ### Ill-formed terms, which the checks refuse -/

theorem test_ill_formed_scalar :
    ([.mov 64 0,
      .li 0 (2 ^ 41),
      .lih 0 4194304,
      .add 0 64 0,
      .addi 0 0 (2 ^ 29),
      .mulh 0 0 0 3,
      .div 0 0 0 2,
      .min 0 0 0 2,
      .shlImm 0 0 64,
      .sel 0 16 0 0,
      .cmp 1 1 0 0 0,
      .cmp 1 2 0 0 10,
      .cmpi 16 0 0 0 0,
      .cmpi 0 0 0 (2 ^ 25) 0,
      .pand 16 0 0 0,
      .cperm 0 16,
      .cget 0 0 8,
      .ctest 3 3 0 0,
      .mfk 0 5,
      .mtk 4095 0,
      .bri 8192,
      .loop 67108864 0,
      .loop 0 8,
      .loopReg 64 0,
      .dispatch 0 64 0 0,
      .dispatch 0 0 9 0,
      .trap 1073741824].all fun (i : Instr) => decide (i.wf = false)) = true := by
  decide +kernel

theorem test_ill_formed_vector :
    ([.vadd ⟨16, 0, 0, 0, 0, false, false, 0, 0⟩,
      .vadd ⟨0, 1024, 0, 0, 0, false, false, 0, 0⟩,
      .vadd ⟨0, 0, 1, 0, 0, true, false, 0, 0⟩,
      .vadd ⟨0, 0, 0, 0, 1, false, false, 0, 0⟩,
      .vadd ⟨0, 0, 0, 0, 0, false, false, 9, 0⟩,
      .vadd ⟨0, 0, 0, 0, 0, false, false, 0, 3⟩,
      .vadd ⟨0, 0, 0, 0, 0, false, false, 5, 1⟩,
      .vmin ⟨0, 0, 0, 0, 0, false, false, 0, 1⟩,
      .vabs ⟨0, 0, 0, 1, 0, false, false, 0, 0⟩,
      .vrcp ⟨0, 0, 0, 0, 0, false, false, 1, 0⟩,
      .vcvt ⟨0, 0, 0, 0, 9, false, false, 0, 0⟩,
      .vcvt ⟨0, 0, 0, 0, 32, false, false, 0, 0⟩,
      .vscale ⟨0, 0, 0, 0, 0, false, false, 5, 0⟩,
      .vcmp ⟨0, 16, 0, 0, 0, false, false, 0, 0⟩,
      .vcmp ⟨0, 1, 0, 0, 1, false, false, 0, 0⟩,
      .vcmp ⟨0, 1, 0, 0, 112, false, false, 0, 0⟩,
      .vsel ⟨0, 0, 0, 0, 16, false, false, 0, 0⟩,
      .vand ⟨0, 0, 0, 0, 0, false, false, 1, 0⟩,
      .vshl ⟨0, 0, 0, 0, 0, false, false, 4, 0⟩,
      .vshlImm ⟨0, 0, 0, 0, 63, false, false, 5, 0⟩,
      .vred ⟨0, 0, 0, 0, 3, false, false, 0, 0⟩,
      .vbcast ⟨0, 0, 0, 0, 16, false, false, 0, 0⟩,
      .viota ⟨0, 0, 1, 0, 0, false, false, 0, 0⟩,
      .qand ⟨0, 16, 0, 0, 0, false, false, 0, 0⟩,
      .qnot ⟨0, 0, 0, 1, 0, false, false, 0, 0⟩].all fun (i : Instr) => decide (i.wf = false)) = true := by
  decide +kernel

theorem test_ill_formed_matrix :
    ([.tcfg 16 0 0,
      .tcfg 0 9 0,
      .tzero 16,
      .wload 16 true 1,
      .wload 0 false 7,
      .mxnest 6 0,
      .mxnestImm 0 false 0 1024 0,
      .mxgo ⟨0, 0, 0, 3, false, false, false, 1, 0, false, false, 0⟩,
      .mxgo ⟨0, 1, 0, 0, false, false, false, 1, 0, false, false, 0⟩,
      .mxgo ⟨16, 0, 0, 0, false, false, false, 1, 0, false, false, 0⟩,
      .mxgo ⟨0, 0, 0, 0, false, false, false, 0, 0, false, false, 0⟩,
      .mxgo ⟨0, 0, 0, 0, false, false, false, 1, 6, false, false, 0⟩,
      .mxgo ⟨0, 0, 0, 0, false, false, false, 1, 0, false, false, 32⟩,
      .accrd 0 0 1 0 false false 0,
      .accrd 0 0 0 9 false false 0,
      .accwr 0 1 true 0,
      .rtapply 0 0 1 0 0 false false true 0,
      .rtread 0 32 false,
      .ptrans 0 0 false false 3,
      .pred 0 0 1 0 0 0,
      .pred 0 0 0 0 1 1,
      .tcmp 0 0 0 0 9 false].all fun (i : Instr) => decide (i.wf = false)) = true := by
  decide +kernel

theorem test_ill_formed_memory :
    ([.ld 0 0 5 false 0 0,
      .ld 0 0 3 true 0 0,
      .ld 0 0 0 false 1 0,
      .st 0 0 0 true 0 0,
      .lda 0 0 0 false 6 0,
      .stl 0 0 0 true 0 0,
      .ld 0 0 0 false 0 (2 ^ 23),
      .vst 0 0 0 true 0,
      .vlds 0 0 0 0 3 0,
      .vgather 0 0 0 0 4 0,
      .tmov 16 0 false true 0 0,
      .rawait 0 0 128,
      .atom 0 0 0 10 false 0 0 false 0,
      .atom 0 0 0 9 true 0 0 false 0,
      .atom 1 0 0 0 false 0 0 true 0,
      .acas 0 0 0 0 false 0 6 0,
      .fence 5 0 0,
      .fence 3 0 0,
      .fence 0 0 1,
      .barinit 0 0 0 0,
      .bararr 0 0 0 false 0 0,
      .barwait 0 0 0 false 0 1 0,
      .gsplit 0 true 64,
      .waitt 64 false].all fun (i : Instr) => decide (i.wf = false)) = true := by
  decide +kernel

theorem test_ill_formed_records :
    ([.setg 0 64 (.imm 0),
      .setg 0 0 (.imm (2 ^ 29)),
      .setg 0 0 (.part 3 0),
      .setg 0 0 (.part 0 0),
      .setg 256 0 (.imm 0),
      .gop 0 0 19 (.imm 0) (.imm 0),
      .brc 0 10 (.imm 0) (.imm 0) 0,
      .tdef 0 1 12 0 0 0 [.imm 1] 0,
      .tdef 0 1 0 5 0 0 [.imm 1] 0,
      .tdef 0 1 0 0 3 0 [.imm 1] 0,
      .tdef 0 1 0 0 0 0 [] 0,
      .tdef 0 1 0 0 2 0 [.imm 1] 0,
      .tplace 0 1 5,
      .treshape 0 1 2 [.imm 1, .imm 1, .imm 1, .imm 1, .imm 1, .imm 1, .imm 1],
      .tcopy ⟨0, false, 0⟩ 3 1 2,
      .tcopy ⟨0, false, 1⟩ 0 1 2,
      .eltw ⟨0, false, 0⟩ 1 2 0 0 18 0 0 0 0,
      .eltw ⟨0, false, 0⟩ 1 2 0 0 1 0 0 0 0,
      .attn ⟨0, false, 0⟩ false 1 2 3 4 0 0,
      .allgather ⟨0, false, 0⟩ 1 2 3 0,
      .redscat ⟨0, false, 0⟩ 1 2 0 0 3,
      .specin 0 1 3 0 false 0 0 0,
      .specin 0 1 1 0 false 1 0 0,
      .opinstall 0 false (.imm 0) 1024 (.imm 0),
      .syscall 0 false [.imm 0, .imm 0, .imm 0, .imm 0, .imm 0, .imm 0, .imm 0],
      .userOperator 0 0 0x1FF []].all fun (i : Instr) => decide (i.wf = false)) = true := by
  decide +kernel

/-! ### One step on a small state -/

/-- Registers s1 = 2^64 - 1 with its tag, s2 = 2, s3 = -7, s4 = 2. -/
def wSum : State := regs [(1, ⟨BitVec.ofNat 128 (2 ^ 64 - 1), true⟩), (2, ⟨2, false⟩), (3, ⟨BitVec.ofNat 128 (2 ^ 64 - 7), false⟩), (4, ⟨2, false⟩)] base

/-- The value that a result in flight brings to s register n, with its tag. -/
def brings (n : Nat) : Host.Outcome State Fault Refusal → Option (Nat × Bool)
  | .next t => (t.ctx.fix.reverse.find? fun f => match f.w with | .s k _ => k == n | _ => false).bind fun f => match f.w with
      | .s _ r => some (r.bits.toNat, r.tag)
      | _ => none
  | _ => none

/-- R168: the sum wraps modulo 2^64, and its tag is 0. -/
theorem test_add_wraps : brings 5 (exec (.add 5 1 2) wSum) = some (1, false) := by decide +kernel
/-- R168: only MOV copies a tag. -/
theorem test_mov_copies_tag : brings 5 (exec (.mov 5 1) wSum) = some (2 ^ 64 - 1, true) := by decide +kernel
/-- R168: division truncates toward zero, and the remainder has the dividend's sign. -/
theorem test_div_truncates : brings 5 (exec (.div 5 3 4 0) wSum) = some (2 ^ 64 - 3, false) := by decide +kernel
theorem test_rem_sign : brings 5 (exec (.rem 5 3 4 0) wSum) = some (2 ^ 64 - 1, false) := by decide +kernel
/-- R168: a shift reads b[5:0] only. -/
theorem test_shl_low_bits : brings 5 (exec (.shlImm 5 4 63) wSum) = some (0, false) := by decide +kernel
/-- R168: SRA of a negative number. -/
theorem test_sra_sign : brings 5 (exec (.sraImm 5 3 1) wSum) = some (2 ^ 64 - 4, false) := by decide +kernel
/-- R168: LIH keeps the low 42 bits. -/
theorem test_lih_keeps_low : brings 1 (exec (.lih 1 1) wSum) = some (2 ^ 43 - 1, false) := by decide +kernel

/-- FIPS 180-4's example: the digest of "abc". -/
theorem test_sha384_abc : beNat (sha384 [0x61, 0x62, 0x63]) =
    0xcb00753f45a35e8bb5a03d699ac65007272c32ab0eded1631a8b605a43ff5bed8086072ba1e7cc2358baeca134c825a7 := by decide +kernel

/-! ### An instruction placed at reset runs as the first step -/

/-- What the next step answers, seen through a function. -/
def steps {α : Type} (f : State → α) (s : State) : Option α := match step s with
  | .next t => some (f t)
  | _ => none

theorem test_reset_powered : State.reset.powered = true := by decide
/-- An ADDI placed at reset issues: its context is past it, and 7 is on its way to s9. -/
theorem test_placed_bundle_runs :
    steps (fun t => ((t.ctxAt 0).bank.pc, (t.ctxAt 0).fix.length, t.traps.length)) (State.reset.withFetchWord 256 (encodeSlot 0 (.addi 9 1 7) * 2 ^ 180)) =
      some (1, 1, 0) := by decide +kernel
/-- A NOP placed at reset executes: the GFE is past it. -/
theorem test_placed_record_runs :
    steps (fun t => ((t.gfeAt 0).pc, t.traps.length)) (State.reset.withFetchWord 32 0x00010000) = some (36, 0) := by decide +kernel
/-- ENDLOOP with no frame traps with cause 0x02 (R290), and HALT ends the stream (R286). -/
theorem test_placed_endloop_traps :
    steps (fun t => t.traps.map (·.cause)) (State.reset.withFetchWord 32 0x01010000) = some [2] := by decide +kernel
theorem test_placed_halt_ends :
    steps (fun t => ((t.gfeAt 0).busy, t.traps.length)) (State.reset.withFetchWord 32 0x02410000) = some (false, 0) := by decide +kernel

/-- A start is due without power. -/
theorem wit_EveryStepAnswers_3 :
    let s : State := { wG with powered := false, schedule := [.event (.coldStart [0] [])] }
    isStart s.nextActor.1 = true := rfl

end Sys2Proof.Tests
end

/-! PROOFS. Counterexamples to statements about issue, release, launch and completion (O31 to O34, O44, O46). -/

namespace Sys2Proof.Proofs
open Sys2Proof Sys2Proof.Machine Sys2Proof.Claims

/-! ### Operators of one number (O32, O33, O34) -/

/-- The entry of a one-element INT8 tensor under a temporary's number, so that `State.rawEntry` reads no Handle Table; placed or not. -/
def scalarEntry (placed : Bool) : HEnt :=
  { hid := 65536, valid := true, ndim := 1, pin := 15, version := 0, shard := 0, fmt := 8, layout := 0,
    str := [0, 0, 0, 0, 0], dim := [1, 0, 0, 0, 0, 0],
    cap := 0x10000 * 2 ^ 72 + 64 * 2 ^ 32 + 31 * 2 ^ 27 + (if placed then 2 else 15) * 2 ^ 16 }

/-- An outstanding operator that writes it. -/
def writerOp : OpInst :=
  { id := 0, gfe := 0, stream := 0, ctxid := 0, rcb := 0, shard := 0, width := 1, chips := 1, rank := 0, opc := 0, fuse := 0,
    record := .argmax ⟨0, false, 0⟩ 65536 65536, vals := [], handles := [⟨65536, false, true, 2⟩], deps := [], blocks := [], counts := [],
    order := 0, total := 1 }

/-- Two outstanding operators of one number write the tensor; the statements speak of every state, and nothing in them excludes it. -/
def twinState : State :=
  { State.reset with temps := [(65536, (scalarEntry true).bytes)], ops := [writerOp, writerOp], nextOp := 1 }


/-- The operators that the operator a record has just added waits for. -/
def depsAfter (i : Instr) (s : State) : Option (List Nat) :=
  match exec i s with
  | .next t => t.ops.getLast?.map OpInst.deps
  | _ => none

/-- A record that issues waits for exactly the operators `State.depsOf` lists, each as often as it is listed. -/
theorem depsAfter_of_issues {i : Instr} {s : State} (h : Issues i s) :
    depsAfter i s = some (s.depsOf s.gfe.ctxid s.gfe.shard ((s.opdsOf i).map Opd.handle)) := by
  obtain ⟨t, hex, -, -, -, -, -, -, o, hops, -, -, -, -, -, -, -, -, hh, hd, -⟩ := h
  simp [depsAfter, hex, hops, hd, hh]

/-- Each twin is counted by `State.depsOf`, while the operator issued keeps its number once. -/
theorem twinState_not_issues {i : Instr} (hd : depsAfter i twinState = some [0])
    (ho : (twinState.opdsOf i).map Opd.handle = [⟨65536, false, true, 3⟩, ⟨65536, true, false, 3⟩]) : ¬ Issues i twinState := by
  intro h
  have hx := depsAfter_of_issues h
  rw [hd, ho] at hx
  exact absurd hx (by decide +kernel)

/-- No fuse run, room for 64 operators, and the one handle of the record valid, placed and whole. -/
theorem twinState_plain {i : Instr} (hf : (twinState.beginRun i).gfe.fused = false)
    (ho : ∀ o ∈ twinState.opdsOf i, o.hid = 65536) : Plain i twinState := by
  have hv : Valid twinState 65536 ∧ (twinState.gent 65536).placed = true ∧ (twinState.gent 65536).shard = 0 ∧
      twinState.isGone twinState.gfe.ctxid twinState.gfe.shard 65536 = false := by
    unfold Valid; decide +kernel
  exact ⟨by decide +kernel, by decide +kernel, hf, fun o hm => ho o hm ▸ hv⟩

/-- The one handle of the record is not pinned to the accumulator store. -/
theorem twinState_unpinned {i : Instr} (ho : ∀ o ∈ twinState.opdsOf i, o.hid = 65536) : Unpinned i twinState := by
  intro o hm
  rw [ho o hm]
  decide +kernel

/-- Refutes O34 by ARGMAX behind two operators of one number: `Issues` asks for `State.depsOf` as it is, with the number twice, and the operator
issued waits for it once. -/
theorem not_structuredComputeRecords : ¬ Obligations.StructuredComputeRecords := by
  intro h
  obtain ⟨-, -, -, -, hargmax, -⟩ := h twinState ⟨0, false, 0⟩ 65536 65536 0 0 0 0 0 0 0 0 0 0 0 0 0 0 (.imm 0) false false false 0
  refine twinState_not_issues (i := .argmax ⟨0, false, 0⟩ 65536 65536) (by decide +kernel) (by decide +kernel) (hargmax ?_ ?_ ?_ ?_ ?_ ?_)
  · decide +kernel
  · decide +kernel
  · exact ⟨rfl, fun _ _ _ => rfl⟩
  · decide +kernel
  · exact twinState_plain (by decide +kernel) (by decide +kernel)
  · exact twinState_unpinned (by decide +kernel)

/-- Refutes O33 by SOFTMAX in the same state: the operator issued waits for the number once, not twice. -/
theorem not_productAndElementRecords : ¬ Obligations.ProductAndElementRecords := by
  intro h
  obtain ⟨-, -, -, -, hsoftmax, -⟩ := h twinState ⟨0, false, 0⟩ 65536 65536 0 0 0 0 0 0 0 0 0 0 0 0 0 0 false false false 0
  exact twinState_not_issues (i := .softmax ⟨0, false, 0⟩ 65536 65536 0) (by decide +kernel) (by decide +kernel)
    (hsoftmax (by decide +kernel) (by decide +kernel) rfl (twinState_plain (by decide +kernel) (by decide +kernel))
      (twinState_unpinned (by decide +kernel)))

/-- Refutes O32 by TCOPY in the same state: the operator issued waits for the number once, not twice. -/
theorem not_movementRecords : ¬ Obligations.MovementRecords := by
  rintro ⟨h, -⟩
  obtain ⟨-, -, htcopy, -⟩ := h twinState ⟨0, false, 0⟩ 0 65536 65536 65536 0 0 0 0 0 0 false (.imm 0)
  exact twinState_not_issues (i := .tcopy ⟨0, false, 0⟩ 0 65536 65536) (by decide +kernel) (by decide +kernel)
    (htcopy (.inl rfl) rfl (twinState_plain (by decide +kernel) (by decide +kernel)))


/-! ### The release of a freed identifier's own blocks (O31) -/

/-- The RCB of the region that the states below charge. -/
def witnessRcb : Nat := 0x40000

/-- A block of HBM granted for the identifier, in which its entry does not lie any more. -/
def ownedBlock : Block :=
  { id := 0, die := 0, level := 0, place := 0, off := 0, size := 2 ^ 21, ctxid := 0, rcb := witnessRcb, hid := 65536, plane := 0, views := [] }

/-- The identifier is VALID and not placed, and still owns a block of a region. -/
def ownerState : State :=
  { State.reset with temps := [(65536, (scalarEntry false).bytes)], blocks := [ownedBlock],
                     devs := [(0, { regions := [⟨witnessRcb, 0x50000, 0, true⟩] })] }

/-- The memory a record leaves. -/
def memAfter (i : Instr) (s : State) : Option Memory :=
  match exec i s with
  | .next t => some t.mem
  | _ => none

/-- A record that redefines an identifier changes the bytes of its entry alone. -/
theorem memAfter_of_redefines {i : Instr} {s : State} {h : Nat} {x : HEnt} (hr : Redefines i s h x) :
    memAfter i s = some (s.setEntry s.gfe.ctxid s.gfe.shard x).mem := by
  obtain ⟨t, hex, hmem, -⟩ := hr
  simp [memAfter, hex, hmem]

/-- The credit of R13 to the region's budget, in the RCB, for the block that TFREE releases. -/
theorem memAfter_tfree_ownerState : memAfter (.tfree 0 65536 0) ownerState = some [(0x5003A, 0x20)] := by decide +kernel

/-- Refutes O31 by TFREE of an unplaced handle that still owns a block: the block is released and its bytes are credited to the region's budget, so
memory changes beyond the Handle Table entry. -/
theorem not_tensorRecords : ¬ Obligations.TensorRecords := by
  intro h
  obtain ⟨-, -, -, -, hfree, -⟩ := h ownerState 0 0 0 65536 0 0 [] []
  have hred := memAfter_of_redefines (hfree (by unfold Valid; decide +kernel) (by decide +kernel) rfl (by decide +kernel))
  rw [memAfter_tfree_ownerState] at hred
  exact absurd hred (by decide +kernel)

/-! ### STATUS of a launch leaves as traffic to its home (O44) -/

/-- A resident device context with a heap, and the I/O die acting. -/
def launchState : State :=
  { State.reset with devs := [(0, { resident := true, heap := [0, 2 ^ 30, 0] })], act := { State.reset.act with die := 8 } }

/-- The bytes of the launch record at 64, which names no region. -/
def launchBytes : List Byte := List.replicate 0x228 0

/-- STATUS 4 as a write of the unit that takes effect at once. -/
def refusedAtOnce : State := (launchState.unitWrite (launchState.unitEnv 0) (64 + 0x1C) (leBytes 4 4)).toOption.getD launchState

theorem unitWrite_refusedAtOnce :
    launchState.unitWrite (launchState.unitEnv 0) (64 + 0x1C) (leBytes 4 4) = .ok refusedAtOnce := by
  have hok : (launchState.unitWrite (launchState.unitEnv 0) (64 + 0x1C) (leBytes 4 4)).isOk = true := by decide +kernel
  unfold refusedAtOnce
  cases hw : launchState.unitWrite (launchState.unitEnv 0) (64 + 0x1C) (leBytes 4 4) with
  | ok t => rfl
  | error e => rw [hw] at hok; cases hok

theorem unitRead_launchBytes : launchState.unitRead (launchState.unitEnv 0) 64 0x228 = .ok launchBytes := by decide +kernel

theorem memAfter_launchState : memAfter (.launch 64) launchState = some [] := by decide +kernel

/-- Refutes O44 by a launch that names no region, written while the I/O die acts: STATUS 4 leaves as a write on the route to the record's home, where
the statement has it in memory at once. -/
theorem not_launchesAndPreemption : ¬ Obligations.LaunchesAndPreemption := by
  rintro ⟨h, -⟩
  obtain ⟨-, -, hrefused, -⟩ := h launchState refusedAtOnce 64 0 launchBytes [] [] (asked 0 64 0 launchBytes) []
  have hmem : memAfter (.launch 64) launchState = some refusedAtOnce.mem := by
    rw [memAfter, hrefused ⟨rfl, unitRead_launchBytes⟩ (fun ha => absurd ha.1 (by decide +kernel)) ?_]
    have hst : refusal launchState (asked 0 64 launchState.clk launchBytes) = 4 := by unfold refusal; decide +kernel
    exact hst ▸ unitWrite_refusedAtOnce
  rw [memAfter_launchState] at hmem
  exact absurd hmem (by decide +kernel)

/-! ### A TLOAD behind an older engine command (O46) -/

/-- A TLOAD of zeros whose handle is ready. -/
def zeroLoad : OpInst :=
  { id := 0, gfe := 0, stream := 0, ctxid := 0, rcb := witnessRcb, shard := 0, width := 1, chips := 1, rank := 0, opc := 0, fuse := 0,
    record := .tload 0 65536 (.imm 0), vals := [0, 2], handles := [⟨65536, false, true, 2⟩], deps := [], blocks := [], counts := [],
    order := 0, total := 1 }

/-- An engine command of the die, under way, that writes the tensor's bytes. -/
def olderZeroing : EngCmd :=
  { seq := 0, q := 1, x := 0, ctxid := 0, work := {}, epc := 0, op := .accz 0 1 0, caps := [(scalarEntry true).reg], args := [], vec := 0,
    heap := [0, 0, 0], spec := false, started := true, unit := 0, buf := [], buf2 := [], fault := none, var := none, swapped := false }

/-- The TLOAD's recorded move (R131). -/
def loadMove : Packet :=
  { id := 0, cq := 10000, slot := 0, bytes := List.replicate 64 0, by_ := 0, epc := 0, work := {}, started := true, done := 0, status := 0,
    finished := false, moved := 0, fault := none }

/-- The TLOAD is the one outstanding operator; its region runs. -/
def heldLoadState : State :=
  { State.reset with temps := [(65536, (scalarEntry true).bytes)], ops := [zeroLoad], packets := [loadMove],
                     cores := [(0, { cmds := [olderZeroing] })], gfes := [(0, { set := [0] })],
                     devs := [(0, { resident := true, heap := [0, 2 ^ 30, 0], regions := [⟨witnessRcb, 0x50000, 0, true⟩] })],
                     mem := [(0x5000F, 0x10)] }

/-- The TLOAD's tensor filled. -/
def loadedState : State := ((heldLoadState.onDie 0).loadTensor zeroLoad 65536).1

theorem performOp_zeroLoad : (heldLoadState.onDie 0).performOp zeroLoad = .done loadedState := by
  have hok : ((heldLoadState.onDie 0).loadTensor zeroLoad 65536).2 = none := by decide +kernel
  simp only [State.performOp, zeroLoad] at hok ⊢
  rw [hok]; rfl

/-- The TLOAD waits: of the state only the acting die changes. -/
theorem operatorComplete_heldLoadState : exec (.operatorComplete 0) heldLoadState = .next (heldLoadState.onDie 0) := by
  have hd : operatorComplete 0 heldLoadState = heldLoadState.onDie 0 := by decide +kernel
  exact (Laws.always_next _ _).trans (congrArg _ hd)

/-- Refutes O46 by a TLOAD whose handle is ready and whose recorded move waits for an older engine command of its die (R131, R331), which the statement
does not exclude: it does not act, and stays outstanding. -/
theorem not_completionEvictionAndIssue : ¬ Obligations.CompletionEvictionAndIssue := by
  rintro ⟨h, -⟩
  obtain ⟨-, hacts, -⟩ := h heldLoadState loadedState 0 zeroLoad
  obtain ⟨t, hex, -, hops, -⟩ := hacts (by decide +kernel) rfl (by decide) rfl rfl (by decide +kernel) (by decide +kernel) (by decide +kernel)
    performOp_zeroLoad (by decide +kernel)
  rw [operatorComplete_heldLoadState] at hex
  cases hex
  exact absurd hops (by decide +kernel)

end Sys2Proof.Proofs

/-! PROOFS. Inherited fields and the Morton walk (O60). -/

namespace Sys2Proof.Proofs

open Sys2Proof Sys2Proof.Machine Sys2Proof.Claims

/-! ### Inheritance (R12) -/

/-- The nearest region whose override bit is set gives the field: those before it on the path are passed over. -/
theorem holder_append_cons {s : State} {bit : Nat} {near : List Region} (far : List Region) {r : Region}
    (hnear : ∀ q ∈ near, s.ovr q bit = false) (hr : s.ovr r bit = true) : s.holder bit (near ++ r :: far) = some r := by
  induction near with
  | nil => simp [State.holder, hr]
  | cons q qs ih =>
    have hq : s.ovr q bit = false := hnear q List.mem_cons_self
    simpa [State.holder, hq] using ih fun p hp => hnear p (List.mem_cons_of_mem q hp)

/-! ### The model's list functions in the library's terms -/

theorem upTo_eq_range (n : Nat) : upTo n = List.range n := by
  induction n with
  | zero => rfl
  | succ n ih => rw [upTo, ih, List.range_succ]

theorem nth_eq_getD {α : Type} (d : α) (xs : List α) (n : Nat) : nth d xs n = xs.getD n d := by
  induction xs generalizing n with
  | nil => rfl
  | cons x xs ih =>
    cases n with
    | zero => rfl
    | succ n => simpa [nth] using ih n

theorem bitOf_toNat (v i : Nat) : (bitOf v i).toNat = v / 2 ^ i % 2 := by
  unfold bitOf
  obtain h | h := Nat.mod_two_eq_zero_or_one (v / 2 ^ i) <;> simp [h]

/-- Adding up a list from the left is its sum. -/
theorem foldl_add_eq_sum (f : Nat → Nat) (xs : List Nat) (a : Nat) :
    xs.foldl (fun a j => a + f j) a = a + (xs.map f).sum := by
  induction xs generalizing a with
  | nil => simp
  | cons x xs ih => simp [ih, Nat.add_assoc]

/-! ### The Morton walk (R27) -/

/-- The level-l index of a Morton code of n levels: its bit j is bit j * n + l of the code (R27). -/
def mortonIndex (n c l : Nat) : Nat := ((List.range 16).map fun j => c / 2 ^ (j * n + l) % 2 * 2 ^ j).sum

theorem mortonIx_eq_map (n c : Nat) : mortonIx n c = (List.range n).map (mortonIndex n c) := by
  simp only [mortonIx, upTo_eq_range, bitOf_toNat, foldl_add_eq_sum, Nat.zero_add]
  rfl

@[simp] theorem length_mortonIx (n c : Nat) : (mortonIx n c).length = n := by simp [mortonIx_eq_map]

theorem nth_mortonIx {n l : Nat} (c : Nat) (hl : l < n) : nth 0 (mortonIx n c) l = mortonIndex n c l := by
  simp [mortonIx_eq_map, nth_eq_getD, hl]

/-- The walker's test of a code compares the lists level by level. -/
theorem all_zip_lt_iff {xs ys : List Nat} (h : xs.length = ys.length) :
    ((List.zip xs ys).all fun p => decide (p.1 < p.2)) = true ↔ ∀ l, l < ys.length → nth 0 xs l < nth 0 ys l := by
  induction xs generalizing ys with
  | nil => cases ys with
    | nil => simp
    | cons y ys => simp at h
  | cons x xs ih => cases ys with
    | nil => simp at h
    | cons y ys =>
      have hlen : xs.length = ys.length := by simpa using h
      have hsucc : (∀ l, l < (y :: ys).length → nth 0 (x :: xs) l < nth 0 (y :: ys) l) ↔
          x < y ∧ ∀ l, l < ys.length → nth 0 xs l < nth 0 ys l :=
        ⟨fun hl => ⟨hl 0 (by simp), fun l h => hl (l + 1) (by simpa using h)⟩,
          fun ⟨h0, hs⟩ l hl => match l with
            | 0 => h0
            | l + 1 => hs l (by simpa using hl)⟩
      rw [hsucc, ← ih hlen]
      simp

/-- No level index of a code reaches its count. -/
def MortonInside (counts : List Nat) (c : Nat) : Prop := ∀ l, l < counts.length → mortonIndex counts.length c l < nth 0 counts l

theorem mortonTest_iff (counts : List Nat) (c : Nat) :
    ((List.zip (mortonIx counts.length c) counts).all fun p => decide (p.1 < p.2)) = true ↔ MortonInside counts c := by
  rw [all_zip_lt_iff (length_mortonIx _ _)]
  exact forall₂_congr fun l hl => by rw [nth_mortonIx c hl]

/-- With fuel past the first inside code, the search ends at it. -/
theorem mortonNext_eq {counts : List Nat} {c : Nat} (hin : MortonInside counts c) (fuel code : Nat) (hle : code ≤ c)
    (hfuel : c - code < fuel) (hout : ∀ m, code ≤ m → m < c → ¬ MortonInside counts m) : mortonNext counts fuel code = c := by
  induction fuel generalizing code with
  | zero => omega
  | succ k ih =>
    rw [mortonNext]
    split
    case isTrue htest =>
      have hcode : MortonInside counts code := (mortonTest_iff counts code).1 htest
      by_contra hne
      exact hout code le_rfl (by omega) hcode
    case isFalse htest =>
      have hne : code ≠ c := fun h => htest ((mortonTest_iff counts code).2 (h ▸ hin))
      exact ih (code + 1) (by omega) (by omega) fun m hm => hout m (by omega)

/-- Settles O60: the field's holder is found by induction on the path, the Morton tile by induction on the walker's fuel. -/
theorem inheritedFieldsAndMortonOrder : Obligations.InheritedFieldsAndMortonOrder := by
  unfold Obligations.InheritedFieldsAndMortonOrder
  constructor
  · intro s ctxid rcb bit off n near far r hpath hnear hr
    rw [State.effective, hpath, holder_append_cons far hnear hr]
  · intro counts code c n index inside hle hfuel hin hout
    have hnext : mortonNext counts (2 ^ (16 * counts.length)) code = c := mortonNext_eq hin _ code hle hfuel hout
    have hwalk : walkTile 2 counts code = (mortonIx n c, c + 1) := by simp [walkTile, hnext, n]
    rw [hwalk]
    exact ⟨rfl, length_mortonIx n c, fun l hl => nth_mortonIx c hl⟩

end Sys2Proof.Proofs

/-! PROOFS. The exchange of graph registers: GFEs that present, agree and differ (R21). -/

namespace Sys2Proof.Proofs

open Sys2Proof Sys2Proof.Machine Sys2Proof.Claims Sys2Proof.Laws

/-! ### A GFE changed again, and GFEs changed one after another -/

/-- The second of two writes to one key stands. -/
theorem ins_ins {α : Type} (a : Nat) (x y : α) (m : AMap α) : AMap.ins a y (AMap.ins a x m) = AMap.ins a y m := by
  induction m with
  | nil => simp [AMap.ins]
  | cons e m ih =>
    obtain ⟨k, v⟩ := e
    obtain hlt | rfl | hgt := Nat.lt_trichotomy a k
    · simp [AMap.ins, hlt]
    · simp [AMap.ins]
    · have hnlt : ¬ a < k := by omega
      have hne : k ≠ a := by omega
      simp [AMap.ins, hnlt, hne, ih]

theorem onGfeAt_onGfeAt (s : State) (n : Nat) (f g : Gfe → Gfe) : (s.onGfeAt n f).onGfeAt n g = s.onGfeAt n fun x => g (f x) := by
  have hg : (s.onGfeAt n f).gfeAt n = f (s.gfeAt n) := gfeAt_onGfeAt s n f
  rw [State.onGfeAt, hg]
  simp only [State.onGfeAt, ins_ins]

theorem onGfe_onGfe (s : State) (f g : Gfe → Gfe) : (s.onGfe f).onGfe g = s.onGfe fun x => g (f x) := onGfeAt_onGfeAt s _ f g

theorem gfeAt_onGfeAt_ne (s : State) {j k : Nat} (f : Gfe → Gfe) (h : j ≠ k) : (s.onGfeAt k f).gfeAt j = s.gfeAt j :=
  get_ins_ne _ _ h _

theorem gfeAt_onGfeAt_ite (s : State) (j k : Nat) (f : Gfe → Gfe) :
    (s.onGfeAt k f).gfeAt j = if j = k then f (s.gfeAt j) else s.gfeAt j := by
  split
  case isTrue h => rw [h, gfeAt_onGfeAt]
  case isFalse h => exact gfeAt_onGfeAt_ne s f h

theorem gfeAt_onGfe_ne (s : State) {j : Nat} (f : Gfe → Gfe) (h : j ≠ s.act.gfe) : (s.onGfe f).gfeAt j = s.gfeAt j :=
  gfeAt_onGfeAt_ne s f h

/-- What no step of a fold changes, the fold does not change. -/
theorem foldl_frame {α β γ : Type} (P : β → γ) {step : β → α → β} (h : ∀ t a, P (step t a) = P t) (as : List α) (s : β) :
    P (as.foldl step s) = P s := by
  induction as generalizing s with
  | nil => rfl
  | cons a as ih => exact (ih _).trans (h s a)

/-- Steps that each apply one function to one GFE, the function the same applied twice, apply it once to every GFE listed. -/
theorem gfeAt_foldl {step : State → Nat → State} {f : Gfe → Gfe} (hstep : ∀ t k n, (step t k).gfeAt n = if n = k then f (t.gfeAt n) else t.gfeAt n)
    (hf : ∀ g, f (f g) = f g) (ks : List Nat) (s : State) (n : Nat) :
    (ks.foldl step s).gfeAt n = if n ∈ ks then f (s.gfeAt n) else s.gfeAt n := by
  induction ks generalizing s with
  | nil => simp
  | cons k ks ih =>
    rw [List.foldl_cons, ih, hstep]
    by_cases hk : n = k <;> by_cases hm : n ∈ ks <;> simp [hk, hm, hf]

theorem Gfe.written_written (g : Gfe) : g.written.written = g.written := by
  cases hb : g.block <;> simp [Gfe.written, hb]

/-! ### The exchange (R21) -/

/-- The acting GFE has presented a value for g[d] and waits. -/
def presenting (s : State) (d : Nat) (x : BitVec 64) (pc : Nat) (frames : List Frame) : State :=
  s.onGfe fun g => { g with block := .exch d x pc frames, fuse := 0, fused := false, fuseLast := none }

section
variable (s : State) (d : Nat) (x : BitVec 64) (pc : Nat) (frames : List Frame)

theorem exchange_eq (i : Instr) (v : Nat) :
    exchange i d v pc frames s = settleExchange (recordOpcode i) (presenting s d (BitVec.ofNat 64 v) pc frames) := by
  rw [exchange, endRun, onGfe_onGfe]
  rfl

@[simp] theorem gfe_presenting : (presenting s d x pc frames).gfe =
    { s.gfe with block := .exch d x pc frames, fuse := 0, fused := false, fuseLast := none } := gfe_onGfe s _

theorem gfeAt_presenting_self : (presenting s d x pc frames).gfeAt s.act.gfe =
    { s.gfe with block := .exch d x pc frames, fuse := 0, fused := false, fuseLast := none } := gfe_presenting s d x pc frames

variable {s}

theorem gfeAt_presenting_ne {k : Nat} (h : k ≠ s.act.gfe) : (presenting s d x pc frames).gfeAt k = s.gfeAt k := gfeAt_onGfe_ne s _ h

theorem presented_presenting_self : ((presenting s d x pc frames).gfeAt s.act.gfe).presented = some (d, x) := by
  rw [gfeAt_presenting_self]; rfl

/-- A property of what the GFEs of the set have presented: of the acting one's value, and of the others as they were. -/
theorem forall_presented_iff {ks : List Nat} (hin : s.act.gfe ∈ ks) (P : Option (Nat × BitVec 64) → Prop) :
    (∀ k ∈ ks, P ((presenting s d x pc frames).gfeAt k).presented) ↔
      P (some (d, x)) ∧ ∀ k ∈ ks, k ≠ s.act.gfe → P (s.gfeAt k).presented := by
  constructor
  · intro h
    refine ⟨presented_presenting_self (s := s) d x pc frames ▸ h _ hin, fun k hk hne => ?_⟩
    exact gfeAt_presenting_ne (s := s) d x pc frames hne ▸ h k hk
  · rintro ⟨hself, hothers⟩ k hk
    by_cases hne : k = s.act.gfe
    · rw [hne, presented_presenting_self]
      exact hself
    · rw [gfeAt_presenting_ne d x pc frames hne]
      exact hothers k hk hne

end

/-- While one has presented nothing, nothing happens. -/
theorem settleExchange_of_none {opcode : Nat} {s : State} (h : ¬ ∀ k ∈ s.gfe.set, (s.gfeAt k).presented ≠ none) :
    settleExchange opcode s = s := by
  have hall : ¬ (s.gfe.set.all fun k => (s.gfeAt k).presented.isSome) = true := by
    simpa [List.all_eq_true, Option.isSome_iff_ne_none] using h
  rw [settleExchange, if_neg hall]

/-- All write once they agree. -/
theorem settleExchange_of_agree {opcode : Nat} {s : State} {p : Nat × BitVec 64} (hp : s.gfe.presented = some p)
    (h : ∀ k ∈ s.gfe.set, (s.gfeAt k).presented = some p) :
    settleExchange opcode s = s.gfe.set.foldl (fun t k => t.onGfeAt k Gfe.written) s := by
  have hall : (s.gfe.set.all fun k => (s.gfeAt k).presented.isSome) = true := by
    simp +contextual [List.all_eq_true, h]
  have hsame : (s.gfe.set.all fun k => (s.gfeAt k).presented == s.gfe.presented) = true := by
    simp +contextual [List.all_eq_true, h, hp]
  rw [settleExchange, if_pos hall, if_pos hsame]

/-- All trap once they differ. -/
theorem settleExchange_of_differ {opcode d : Nat} {x : BitVec 64} {s : State} (hp : s.gfe.presented = some (d, x))
    (hall : ∀ k ∈ s.gfe.set, (s.gfeAt k).presented ≠ none) (h : ¬ ∀ k ∈ s.gfe.set, (s.gfeAt k).presented = some (d, x)) :
    settleExchange opcode s = s.gfe.set.foldl (fun t k => gfeTrapAt k opcode ⟨0x10, 0, 0, d⟩ t) s := by
  have hall' : (s.gfe.set.all fun k => (s.gfeAt k).presented.isSome) = true := by
    simpa [List.all_eq_true, Option.isSome_iff_ne_none] using hall
  have hsame : ¬ (s.gfe.set.all fun k => (s.gfeAt k).presented == s.gfe.presented) = true := by
    simpa [List.all_eq_true, hp] using h
  rw [settleExchange, if_pos hall', if_neg hsame, hp]
  rfl

/-! ### Traps of the GFEs of a set -/

/-- A GFE stopped by a trap at its record. -/
def trappedGfe (g : Gfe) : Gfe := { g with block := .trap, fuse := 0, fused := false, fuseLast := none }

theorem gfeAt_gfeTrapAt (opcode : Nat) (t : TrapInfo) (s : State) (k n : Nat) :
    (gfeTrapAt k opcode t s).gfeAt n = if n = k then trappedGfe (s.gfeAt n) else s.gfeAt n :=
  gfeAt_onGfeAt_ite { s with traps := s.traps ++ [s.gfeTrapRec k opcode false t false] } n k trappedGfe

/-- AUX is the last eight bytes of a trap record. -/
theorem drop_trapBytes (fdom time : Nat) (w : TrapWho) (t : TrapInfo) : (trapBytes fdom time w t).drop 56 = leBytes t.aux 8 := by
  unfold trapBytes
  exact List.drop_left' (by simp [upTo, leBytes_length])

/-- The traps of a list of GFEs add a record for each, with the cause and AUX of the trap. -/
theorem traps_foldl_gfeTrapAt (opcode : Nat) (t : TrapInfo) (ks : List Nat) (s : State) :
    ∃ rs, (ks.foldl (fun u k => gfeTrapAt k opcode t u) s).traps = s.traps ++ rs ∧ rs.length = ks.length ∧
      ∀ r ∈ rs, r.cause = t.cause ∧ r.bytes.drop 56 = leBytes t.aux 8 := by
  induction ks generalizing s with
  | nil => exact ⟨[], by simp⟩
  | cons k ks ih =>
    obtain ⟨rs, htraps, hlen, hrs⟩ := ih (gfeTrapAt k opcode t s)
    have hhead : (gfeTrapAt k opcode t s).traps = s.traps ++ [s.gfeTrapRec k opcode false t false] := rfl
    refine ⟨s.gfeTrapRec k opcode false t false :: rs, ?_, by simp [hlen], ?_⟩
    · rw [List.foldl_cons, htraps, hhead, List.append_assoc]
      rfl
    · intro r hr
      obtain rfl | hr := List.mem_cons.1 hr
      · exact ⟨rfl, drop_trapBytes _ _ _ _⟩
      · exact hrs r hr

/-- A record that presents its value, and settles the exchange once every GFE has, passes through the exchange. -/
theorem exchanges_of_exec {i : Instr} {s : State} {d : Nat} {x : BitVec 64} {pc : Nat} {frames : List Frame}
    (h : exec i s = .next (settleExchange (recordOpcode i) (presenting s d x pc frames))) : Exchanges i s d x pc frames := by
  unfold Exchanges
  intro g others hin
  have hset : (presenting s d x pc frames).gfe.set = g.set := by rw [gfe_presenting]
  have hself : (presenting s d x pc frames).gfe.presented = some (d, x) := by rw [gfe_presenting]; rfl
  have hiff := forall_presented_iff d x pc frames hin
  refine ⟨?waits, ?writes, ?traps⟩
  case waits =>
    rintro ⟨k, hk, hne, hnone⟩
    rw [settleExchange_of_none] at h
    · exact h
    · rw [hset, hiff (· ≠ none)]
      exact fun hall => hall.2 k hk hne hnone
  case writes =>
    intro hall
    refine ⟨_, h, ?_⟩
    rw [settleExchange_of_agree hself (hset ▸ (hiff (· = some (d, x))).2 ⟨rfl, hall⟩), hset]
    have hgfe := gfeAt_foldl (step := fun t k => t.onGfeAt k Gfe.written) (fun t k n => gfeAt_onGfeAt_ite t n k _) Gfe.written_written
      g.set (presenting s d x pc frames)
    refine ⟨?_, ?_, ?_, fun k hne => ?_⟩
    · exact foldl_frame State.mem (step := fun t k => t.onGfeAt k Gfe.written) (fun _ _ => rfl) g.set _
    · exact foldl_frame State.traps (step := fun t k => t.onGfeAt k Gfe.written) (fun _ _ => rfl) g.set _
    · have hact : (g.set.foldl (fun t k => t.onGfeAt k Gfe.written) (presenting s d x pc frames)).act = s.act :=
        foldl_frame State.act (step := fun t k => t.onGfeAt k Gfe.written) (fun _ _ => rfl) g.set _
      rw [State.gfe, hact, hgfe, if_pos hin, gfeAt_presenting_self]
      rfl
    · rw [hgfe, gfeAt_presenting_ne d x pc frames hne]
  case traps =>
    intro hall hdiffer
    refine ⟨_, h, ?_⟩
    rw [settleExchange_of_differ hself (hset ▸ (hiff (· ≠ none)).2 ⟨by simp, hall⟩)
      (by rw [hset, hiff (· = some (d, x))]; exact fun hsame => hdiffer hsame.2), hset]
    have hgfe := gfeAt_foldl (step := fun t k => gfeTrapAt k (recordOpcode i) ⟨0x10, 0, 0, d⟩ t)
      (fun t k n => gfeAt_gfeTrapAt (recordOpcode i) _ t k n) (fun _ => rfl) g.set (presenting s d x pc frames)
    obtain ⟨rs, htraps, hlen, hrs⟩ := traps_foldl_gfeTrapAt (recordOpcode i) ⟨0x10, 0, 0, d⟩ g.set (presenting s d x pc frames)
    have hold : (presenting s d x pc frames).traps = s.traps := rfl
    dsimp only
    rw [htraps, hold]
    refine ⟨?_, fun k hk => ?_, by simp [hlen], by simpa using hrs⟩
    · exact foldl_frame State.mem (step := fun t k => gfeTrapAt k (recordOpcode i) ⟨0x10, 0, 0, d⟩ t) (fun _ _ => rfl) g.set _
    · rw [hgfe, if_pos hk]
      refine ⟨rfl, ?_⟩
      by_cases hne : k = s.act.gfe
      · rw [hne, gfeAt_presenting_self]; rfl
      · rw [gfeAt_presenting_ne d x pc frames hne]; rfl

end Sys2Proof.Proofs

/-! PROOFS. The operand values of a record and the results of GOP (R279, R288). -/

namespace Sys2Proof.Proofs

open Sys2Proof Sys2Proof.Machine Sys2Proof.Claims Sys2Proof.Laws

/-! ### Numbers of the model and bit vectors -/

theorem trunc_eq_toNat_ofInt (w : Nat) (i : Int) : trunc w i = (BitVec.ofInt w i).toNat := (BitVec.toNat_ofInt i).symm

theorem sext_toNat (a : BitVec 64) : sext a.toNat 64 = a.toInt := by
  have ha := a.isLt
  rw [sext, BitVec.toInt_eq_toNat_cond]
  simp only [Nat.mod_eq_of_lt ha]
  split <;> split <;> omega

/-- A scalar operand word of the acting GFE, as the number the records compute with. -/
theorem sow_eq_toNat (s : State) (v : Sow) : s.gfe.sow v = (operand s v).toNat := by
  cases v with
  | imm i => exact trunc_eq_toNat_ofInt 64 i
  | reg n => rfl
  | regPlus n k =>
    rw [Gfe.sow, trunc_eq_toNat_ofInt, BitVec.ofInt_add, BitVec.ofInt_natCast, BitVec.ofNat_toNat, BitVec.setWidth_eq]
    rfl
  | part sel k =>
    rw [Gfe.sow, trunc_eq_toNat_ofInt, BitVec.ofInt_add, BitVec.ofInt_natCast]
    rfl

/-! ### The results of GOP (R288) -/

section
variable (a b : BitVec 64)

theorem ofNat_toNat_self : BitVec.ofNat 64 a.toNat = a := by rw [BitVec.ofNat_toNat, BitVec.setWidth_eq]

theorem ofNat_mod (n : Nat) : BitVec.ofNat 64 (n % 2 ^ 64) = BitVec.ofNat 64 n :=
  BitVec.eq_of_toNat_eq (by simp)

theorem gopResult_sub : BitVec.ofNat 64 (gopResult 1 a.toNat b.toNat) = a - b := by
  apply BitVec.eq_of_toNat_eq
  have ha := a.isLt
  have hb := b.isLt
  rw [gopResult, BitVec.toNat_ofNat, BitVec.toNat_sub]
  omega

theorem sext_zero : sext 0 64 = 0 := by decide

theorem toInt_eq_zero_iff : b.toInt = 0 ↔ b = 0 := BitVec.toInt_inj (y := 0)

theorem gopResult_div : BitVec.ofNat 64 (gopResult 3 a.toNat b.toNat) = if b = 0 then BitVec.allOnes 64 else a.sdiv b := by
  by_cases hb : b = 0
  · simp [gopResult, divRem, asMode, sext_zero, hb]
  · have hne : b.toInt ≠ 0 := mt (toInt_eq_zero_iff b).1 hb
    have hquot : gopResult 3 a.toNat b.toNat = (BitVec.ofInt 64 (a.toInt.tdiv b.toInt)).toNat := by
      simp [gopResult, divRem, asMode, sext_toNat, hne, trunc]
    rw [hquot, if_neg hb, BitVec.ofNat_toNat, BitVec.setWidth_eq]
    apply BitVec.eq_of_toInt_eq
    rw [BitVec.toInt_sdiv, BitVec.toInt_ofInt]

theorem gopResult_rem : BitVec.ofNat 64 (gopResult 4 a.toNat b.toNat) = if b = 0 then a else a.srem b := by
  by_cases hb : b = 0
  · have hres : gopResult 4 a.toNat b.toNat = a.toNat % 2 ^ 64 := by simp [gopResult, divRem, asMode, sext_zero, hb]
    rw [hres, if_pos hb, ofNat_mod, ofNat_toNat_self]
  · have hne : b.toInt ≠ 0 := mt (toInt_eq_zero_iff b).1 hb
    have hrem : gopResult 4 a.toNat b.toNat = (BitVec.ofInt 64 (a.toInt.tmod b.toInt)).toNat := by
      simp [gopResult, divRem, asMode, sext_toNat, hne, trunc, Int.tmod_def]
    rw [hrem, if_neg hb, BitVec.ofNat_toNat, BitVec.setWidth_eq, ← BitVec.toInt_srem, BitVec.ofInt_toInt]

theorem gopResult_shl : BitVec.ofNat 64 (gopResult 12 a.toNat b.toNat) = a <<< (b.toNat % 64) := by
  apply BitVec.eq_of_toNat_eq
  rw [gopResult, shlVal, BitVec.toNat_ofNat, BitVec.toNat_shiftLeft, Nat.shiftLeft_eq]

theorem gopResult_shr : BitVec.ofNat 64 (gopResult 13 a.toNat b.toNat) = a >>> (b.toNat % 64) := by
  apply BitVec.eq_of_toNat_eq
  rw [gopResult, shrVal, BitVec.toNat_ofNat, BitVec.toNat_ushiftRight, Nat.shiftRight_eq_div_pow]
  exact Nat.mod_eq_of_lt (lt_of_le_of_lt (Nat.div_le_self _ _) a.isLt)

theorem gopResult_sra : BitVec.ofNat 64 (gopResult 14 a.toNat b.toNat) = a.sshiftRight (b.toNat % 64) := by
  rw [gopResult, sraVal, sext_toNat, trunc_eq_toNat_ofInt, asr, BitVec.ofNat_toNat, BitVec.setWidth_eq]
  apply BitVec.eq_of_toInt_eq
  rw [← Int.shiftRight_eq_div_pow, ← BitVec.toInt_sshiftRight, BitVec.ofInt_toInt]

/-- A choice between two numbers is one between the words they give, by the same condition on words. -/
theorem ofNat_ite {p q : Prop} [Decidable p] [Decidable q] (h : p ↔ q) (x y : Nat) :
    BitVec.ofNat 64 (if p then x else y) = if q then BitVec.ofNat 64 x else BitVec.ofNat 64 y := by
  by_cases hq : q
  · rw [if_pos (h.2 hq), if_pos hq]
  · rw [if_neg (mt h.1 hq), if_neg hq]

theorem gopResult_ceil : BitVec.ofNat 64 (gopResult 18 a.toNat b.toNat) =
    if b = 0 then BitVec.allOnes 64 else BitVec.ofNat 64 ((a.toNat + b.toNat - 1) / b.toNat) :=
  ofNat_ite (BitVec.toNat_inj (y := 0)) (2 ^ 64 - 1) (cdiv a.toNat b.toNat)

theorem sext_le_iff : sext a.toNat 64 ≤ sext b.toNat 64 ↔ a.sle b = true := by
  rw [sext_toNat, sext_toNat, BitVec.sle_iff_toInt_le]

theorem sext_lt_iff : sext a.toNat 64 < sext b.toNat 64 ↔ a.slt b = true := by
  rw [sext_toNat, sext_toNat, BitVec.slt_iff_toInt_lt]

/-- Each result of GOP is the bit-vector operation of its rule. -/
theorem gopResult_eq_gop {op : Nat} (hop : op ≤ 18) : BitVec.ofNat 64 (gopResult op a.toNat b.toNat) = gop op a b := by
  interval_cases op
  · simp [gopResult, gop, BitVec.ofNat_add]
  · exact gopResult_sub a b
  · simp [gopResult, gop, BitVec.ofNat_mul]
  · exact gopResult_div a b
  · exact gopResult_rem a b
  · rw [gopResult, ofNat_ite (sext_le_iff a b), ofNat_toNat_self, ofNat_toNat_self, gop]
  · rw [gopResult, ofNat_ite (sext_le_iff a b), ofNat_toNat_self, ofNat_toNat_self, gop]
  · rw [gopResult, Nat.min_def, ofNat_ite BitVec.ule_iff_toNat_le.symm, ofNat_toNat_self, ofNat_toNat_self, gop]
  · rw [gopResult, Nat.max_def, ofNat_ite BitVec.ule_iff_toNat_le.symm, ofNat_toNat_self, ofNat_toNat_self, gop]
  · exact (congrArg _ (BitVec.toNat_and a b).symm).trans (ofNat_toNat_self _)
  · exact (congrArg _ (BitVec.toNat_or a b).symm).trans (ofNat_toNat_self _)
  · exact (congrArg _ (BitVec.toNat_xor a b).symm).trans (ofNat_toNat_self _)
  · exact gopResult_shl a b
  · exact gopResult_shr a b
  · exact gopResult_sra a b
  · exact ofNat_ite (sext_lt_iff a b) 1 0
  · exact ofNat_ite BitVec.ult_iff_toNat_lt.symm 1 0
  · exact ofNat_ite BitVec.toNat_inj 1 0
  · exact gopResult_ceil a b

end

/-! ### The records (R288, R289) -/

/-- Writing a graph register is the exchange of its value. -/
theorem writeG_eq (i : Instr) (d v : Nat) (s : State) :
    writeG i d v s = settleExchange (recordOpcode i) (presenting s d (BitVec.ofNat 64 v) (s.gfe.pc + recordBytes i) s.gfe.frames) :=
  exchange_eq s d _ _ i v

theorem exchangeWrites : ExchangeWrites := by
  intro s fuse d op imm v a b pc
  refine ⟨exchanges_of_exec ?_, exchanges_of_exec ?_, fun hop => exchanges_of_exec ?_⟩
  · have hexec : exec (.setg fuse d v) s = .next (writeG (.setg fuse d v) d (s.gfe.sow v) s) := rfl
    rw [hexec, writeG_eq, sow_eq_toNat, ofNat_toNat_self]
    rfl
  · have hexec : exec (.setgImm64 fuse d imm) s = .next (writeG (.setgImm64 fuse d imm) d imm s) := rfl
    rw [hexec, writeG_eq]
    rfl
  · have hexec : exec (.gop fuse d op a b) s =
        .next (writeG (.gop fuse d op a b) d (gopResult op (s.gfe.sow a) (s.gfe.sow b) % 2 ^ 64) s) := rfl
    rw [hexec, writeG_eq, ofNat_mod, sow_eq_toNat, sow_eq_toNat, gopResult_eq_gop _ _ hop]
    rfl

end Sys2Proof.Proofs

/-! PROOFS. GOP ldt, and the graph register writes together (O28). -/

namespace Sys2Proof.Proofs

open Sys2Proof Sys2Proof.Machine Sys2Proof.Claims Sys2Proof.Laws

theorem handleVerdict_of_valid {s : State} {h : Nat} (hv : Valid s h) : handleVerdict h s = .ok := if_pos hv

theorem handleVerdict_of_not_valid {s : State} {h : Nat} (hv : ¬ Valid s h) : handleVerdict h s = .trap ⟨3, 0, h, 0⟩ := if_neg hv

theorem placeNow_of_placed {h : HEnt} {s : State} (hp : h.placed = true) : placeNow h s = .ok s := if_pos hp

/-- A placed handle stays where it is. -/
theorem placed_of_placed {s : State} {a : Nat} (hp : (s.gent a).placed = true) : s.placed a = s := by
  rw [State.placed, placeNow_of_placed hp]

theorem placeVerdict_of_placed {s : State} {a : Nat} (hp : (s.gent a).placed = true)
    (hgone : s.isGone s.gfe.ctxid s.gfe.shard a = false) : placeVerdict a s = .ok := by
  simp [placeVerdict, hgone, placeNow_of_placed hp]

/-! ### The checks of GOP ldt, one by one (R289) -/

theorem gopLdtCheck_of_not_valid {s : State} {a : Nat} {b : Sow} (hv : ¬ Valid s a) : gopLdtCheck a b s = .trap ⟨3, 0, a, 0⟩ := by
  simp [gopLdtCheck, handleVerdict_of_not_valid hv, GVerdict.and]

theorem gopLdtCheck_of_writer {s : State} {a : Nat} {b : Sow} (hv : Valid s a) (hw : s.writerOf s.gfe.ctxid s.gfe.shard a = true) :
    gopLdtCheck a b s = .hold := by
  simp [gopLdtCheck, handleVerdict_of_valid hv, hw, GVerdict.and]

theorem gopLdtCheck_of_bound {s : State} {a : Nat} {b : Sow} (hv : Valid s a) (hw : s.writerOf s.gfe.ctxid s.gfe.shard a = false)
    (hi : (s.gent a).count ≤ s.gfe.sow b) : gopLdtCheck a b s = .trap ⟨4, s.gfe.sow b, a, 3⟩ := by
  simp [gopLdtCheck, handleVerdict_of_valid hv, hw, hi, GVerdict.and]

/-- GOP ldt reads an element of a placed handle at hand. -/
theorem gopLdtCheck_of_read {s : State} {a v : Nat} {b : Sow} (hv : Valid s a) (hw : s.writerOf s.gfe.ctxid s.gfe.shard a = false)
    (hi : s.gfe.sow b < (s.gent a).count) (hp : (s.gent a).placed = true) (hgone : s.isGone s.gfe.ctxid s.gfe.shard a = false)
    (hread : s.ldtRead a (s.gfe.sow b) = .ok v) : gopLdtCheck a b s = .ok := by
  simp [gopLdtCheck, handleVerdict_of_valid hv, hw, Nat.not_le.2 hi, placeVerdict_of_placed hp hgone, placed_of_placed hp, hread, GVerdict.and]

/-! ### What GOP ldt does by its check -/

section
variable {s : State} {fuse d a : Nat} {b : Sow}

theorem exec_gopLdt : exec (.gopLdt fuse d a b) s = execGopLdt fuse d a b s := rfl

/-- It presents the element's value. -/
theorem exec_gopLdt_of_ok {v : Nat} (hcheck : gopLdtCheck a b s = .ok) (hp : (s.gent a).placed = true)
    (hread : s.ldtRead a (s.gfe.sow b) = .ok v) :
    exec (.gopLdt fuse d a b) s = .next (writeG (.gopLdt fuse d a b) d (ldtValue (s.gent a).fmt v) s) := by
  rw [exec_gopLdt, execGopLdt, recOp, hcheck]
  simp only [runGVerdict, placed_of_placed hp, hread]

theorem exec_gopLdt_of_hold (hcheck : gopLdtCheck a b s = .hold) : exec (.gopLdt fuse d a b) s = .next s := by
  rw [exec_gopLdt, execGopLdt, recOp, hcheck, runGVerdict]

theorem gTraps_gopLdt {t : TrapInfo} (hcheck : gopLdtCheck a b s = .trap t) : GTraps (.gopLdt fuse d a b) s t.cause :=
  ⟨t, rfl, by rw [exec_gopLdt, execGopLdt, recOp, hcheck, runGVerdict]⟩

end

/-- A floating element converts toward zero, an integer one extends (R289). -/
theorem ofNat_ldtValue (fmt pat : Nat) : BitVec.ofNat 64 (ldtValue fmt pat) =
    if isFloat fmt = true then BitVec.ofInt 64 (Ex.toInt 1 (-(2 ^ 63)) (2 ^ 63 - 1) (real fmt pat)) else BitVec.ofInt 64 (real fmt pat).int := by
  unfold ldtValue
  split
  case isTrue => rw [trunc_eq_toNat_ofInt, ofNat_toNat_self]; rfl
  case isFalse => rw [trunc_eq_toNat_ofInt, ofNat_toNat_self]

theorem graphElementRead : GraphElementRead := by
  intro s fuse d a v b g h i waits
  have hi : s.gfe.sow b = i := sow_eq_toNat s b
  have reads : Valid s a → waits = false → i < h.count → h.placed = true → s.isGone g.ctxid g.shard a = false →
      s.readElem g.ctxid g.shard h (coords h.dims i) = .ok v →
      Exchanges (.gopLdt fuse d a b) s d (BitVec.ofNat 64 (ldtValue h.fmt v)) (g.pc + 16) g.frames := by
    intro hv hw hlt hp hgone hread
    have hread' : s.ldtRead a (s.gfe.sow b) = .ok v := hi ▸ hread
    apply exchanges_of_exec
    rw [exec_gopLdt_of_ok (gopLdtCheck_of_read hv hw (hi ▸ hlt) hp hgone hread') hp hread', writeG_eq]
    rfl
  refine ⟨?integer, ?float, ?held, ?bound, ?invalid⟩
  case integer =>
    intro hv hw hlt hp hgone hread hfmt
    have hx := reads hv hw hlt hp hgone hread
    rwa [ofNat_ldtValue, hfmt, if_neg (by simp)] at hx
  case float =>
    intro hv hw hlt hp hgone hread hfmt
    have hx := reads hv hw hlt hp hgone hread
    rwa [ofNat_ldtValue, hfmt, if_pos rfl] at hx
  case held => exact fun hv hw => exec_gopLdt_of_hold (gopLdtCheck_of_writer hv hw)
  case bound => exact fun hv hw hle => gTraps_gopLdt (gopLdtCheck_of_bound hv hw (hi ▸ hle))
  case invalid => exact fun hv => gTraps_gopLdt (gopLdtCheck_of_not_valid hv)

/-- Settles O28: SETG, GOP and GOP ldt all come to `exchanges_of_exec`, with the value of their rule. -/
theorem graphRegisterWrites : Obligations.GraphRegisterWrites := ⟨exchangeWrites, graphElementRead⟩

end Sys2Proof.Proofs

/-! PROOFS. What time passing leaves unchanged: the clocks and the trap records. -/

namespace Sys2Proof.Proofs

open Sys2Proof Sys2Proof.Machine Sys2Proof.Claims Sys2Proof.Laws

/-! ### What the clocks and the trap queue read -/

/-- The clock count, the time base and the trap records that wait. -/
def dials (s : State) : Nat × Nat × List TrapRec := (s.clk, s.time, s.traps)

/-- A fold whose steps keep the dials keeps them. -/
theorem dials_foldl {α : Type} {step : State → α → State} (h : ∀ t a, dials (step t a) = dials t) (as : List α) (s : State) :
    dials (as.foldl step s) = dials s := foldl_frame dials h as s

/-- A choice between states that both keep the dials. -/
theorem dials_ite {c : Prop} [Decidable c] {s t u : State} (ht : dials t = dials s) (hu : dials u = dials s) :
    dials (if c then t else u) = dials s := by
  split
  · exact ht
  · exact hu

/-! ### Accesses of units keep the dials -/

theorem dials_walked (s : State) (e : TEnv) (va : Nat) (acc : Acc) (o : Option (Nat × Nat)) : dials (s.walked e va acc o) = dials s := by
  unfold State.walked
  split
  · rfl
  · extract_lets p1 old s1
    have hmem : dials s1 = dials s := dials_ite rfl rfl
    split
    · exact hmem
    · extract_lets near far s2
      have htlb : dials s2 = dials s := dials_ite hmem hmem
      exact dials_ite htlb htlb

theorem dials_walkedAll (s : State) (e : TEnv) (acc : Acc) (ls : List (Nat × Option (Nat × Nat))) : dials (s.walkedAll e acc ls) = dials s :=
  dials_foldl (fun t (l : Nat × Option (Nat × Nat)) => dials_walked t e l.1 acc l.2) ls s

theorem dials_signalled (s : State) (key n : Nat) : dials (s.signalled key n) = dials s := by
  unfold State.signalled
  split <;> rfl

theorem dials_putPiece (s : State) (p : Piece) (bs : List Byte) : dials (s.putPiece p bs) = dials s := by
  unfold State.putPiece
  split
  case h_1 key _ => exact dials_signalled { s with mem := s.mem.writeBytes key (bs.take p.n) } key p.n
  all_goals rfl

theorem dials_unitPut (s : State) (die : Nat) (p : Piece) (bs : List Byte) : dials (s.unitPut die p bs) = dials s := by
  unfold State.unitPut
  split
  · exact dials_putPiece s p bs
  · rfl
  · split
    · exact dials_putPiece s p bs
    · rfl

theorem dials_putPieces (s : State) (die : Nat) (ps : List Piece) (bs : List Byte) : dials (s.putPieces die ps bs) = dials s :=
  dials_foldl (fun t p => dials_unitPut t die p _) ps s

theorem dials_unitWrite {s t : State} {e : TEnv} {va : Nat} {bs : List Byte} (h : s.unitWrite e va bs = .ok t) : dials t = dials s := by
  unfold State.unitWrite at h
  split at h
  · cases h
  · split at h
    · cases h
      exact (dials_putPieces _ _ _ _).trans (dials_walkedAll _ _ _ _)
    · cases h

theorem dials_setEntry (s : State) (ctxid plane : Nat) (h : HEnt) : dials (s.setEntry ctxid plane h) = dials s := by
  unfold State.setEntry
  split
  · rfl
  · split
    case h_1 t hw => exact dials_unitWrite hw
    case h_2 => rfl

/-! ### Regions, blocks and save areas keep the dials -/

theorem dials_setRcb (s : State) (ctxid rcb off n v : Nat) : dials (s.setRcb ctxid rcb off n v) = dials s := by
  unfold State.setRcb
  split <;> rfl

theorem dials_setRstate (s : State) (ctxid rcb v : Nat) : dials (s.setRstate ctxid rcb v) = dials s := dials_setRcb s _ _ _ _ _

theorem dials_charge (s : State) (ctxid rcb bit off : Nat) (amount : Int) : dials (s.charge ctxid rcb bit off amount) = dials s := by
  unfold State.charge
  refine dials_foldl (fun t r => ?_) (s.path ctxid rcb) s
  split
  · dsimp only
    split <;> rfl
  · rfl

theorem dials_freeBlock (s : State) (id : Nat) : dials (s.freeBlock id) = dials s := by
  unfold State.freeBlock
  split
  · rfl
  · exact dials_charge _ _ _ _ _ _

theorem dials_unplaceIn (s : State) (va : Nat) (b : Block) (hid : Nat) : dials (s.unplaceIn va b hid) = dials s := by
  unfold State.unplaceIn
  split
  · split
    · exact dials_setEntry _ _ _ _
    · rfl
  · rfl

theorem dials_displace (s : State) (b : Block) : dials (s.displace b) = dials s :=
  (dials_freeBlock _ _).trans (dials_foldl (fun t h => dials_unplaceIn t (s.blockVa b) b h) (b.hid :: b.views) s)

theorem dials_fillSave {s t : State} {ctxid rcb off n : Nat} (h : s.fillSave ctxid rcb off n = some t) : dials t = dials s := by
  unfold State.fillSave at h
  split at h
  case h_1 u hw =>
    cases h
    exact (show dials _ = dials u from rfl).trans (dials_unitWrite hw)
  case h_2 => cases h

theorem dials_setSave (s : State) (ctxid rcb used nrec : Nat) : dials (s.setSave ctxid rcb used nrec) = dials s := by
  unfold State.setSave
  split
  case h_1 t hw => exact dials_unitWrite hw
  case h_2 => rfl

theorem dials_parkStream (s : State) (ctxid rcb : Nat) (set : List Nat) : dials (s.parkStream ctxid rcb set) = dials s := by
  have hfreed : dials (set.foldl (fun (t : State) k => t.onGfeAt k Gfe.freed) s) = dials s :=
    dials_foldl (step := fun (t : State) k => t.onGfeAt k Gfe.freed) (fun _ _ => rfl) set s
  unfold State.parkStream
  dsimp only
  split
  · rw [dials_setSave]
    cases hf : State.fillSave _ ctxid rcb 0 (4096 * set.length) with
    | none => exact hfreed
    | some t => exact (dials_fillSave hf).trans hfreed
  · exact hfreed

theorem dials_settle (s : State) (ctxid rcb : Nat) : dials (s.settle ctxid rcb) = dials s := by
  unfold State.settle
  extract_lets s1 s2 s3
  calc
    dials _ = dials s3 := dials_foldl (fun t (r : Region) => dials_setRstate t ctxid r.rcb 2) _ s3
    _ = dials s2 := rfl
    _ = dials s1 := dials_foldl (fun t (g : Gfe) => dials_parkStream t ctxid g.rcb g.set) _ s1
    _ = dials s := dials_foldl dials_displace _ s

theorem dials_settlePreempts (s : State) : dials (settlePreempts s) = dials s := by
  unfold settlePreempts
  refine dials_foldl (fun t p => ?_) s.preempts s
  split
  · exact dials_settle t p.1 p.2
  · rfl

/-! ### Returns of gravity keep the dials -/

theorem dials_sendFlush (s : State) (root amount : Nat) : dials (s.sendFlush root amount) = dials s := by
  unfold State.sendFlush
  split <;> rfl

theorem dials_freeSlot (s : State) (die root : Nat) : dials (s.freeSlot die root) = dials s := by
  unfold State.freeSlot
  split
  · rfl
  · exact dials_sendFlush _ _ _

theorem dials_touchSlot (s : State) (die root : Nat) : dials (s.touchSlot die root) = dials s := by
  unfold State.touchSlot
  split
  · rfl
  · dsimp only
    split
    · split
      · exact dials_freeSlot _ _ _
      · rfl
    · rfl

theorem dials_onSlot (s : State) (die root : Nat) (f : Comb → Comb) : dials (s.onSlot die root f) = dials s := rfl

theorem dials_giveBack (s : State) (die root amount : Nat) : dials (s.giveBack die root amount) = dials s := by
  unfold State.giveBack
  split
  · rfl
  · dsimp only
    split
    · split
      · rw [dials_sendFlush, dials_onSlot, dials_onSlot, dials_touchSlot]
      · rw [dials_onSlot, dials_touchSlot]
    · rw [dials_onSlot, dials_touchSlot]

theorem dials_giveBackTo (s : State) (die ctxid rcb amount : Nat) (lost : Bool) : dials (s.giveBackTo die ctxid rcb amount lost) = dials s := by
  unfold State.giveBackTo
  split
  · rfl
  · dsimp only
    split <;> exact dials_giveBack _ _ _ _

theorem dials_giveUp (s : State) (core : Nat) (c : Ctx) : dials (s.giveUp core c) = dials s := by
  unfold State.giveUp
  split
  · rfl
  · split
    · rfl
    · exact dials_giveBackTo _ _ _ _ _ _

theorem dials_settleReturns (s : State) : dials s.settleReturns = dials s :=
  dials_foldl (fun t (r : Returning) => dials_giveUp t r.core r.ctx) s.returning { s with returning := [] }

/-! ### Wakes, maps and launches that waited keep the dials -/

theorem dials_wake (qi : Nat) (s : State) : dials (wake qi s) = dials s := by
  unfold wake
  dsimp only
  split
  · rfl
  · split
    · rfl
    · exact dials_setRcb _ _ _ _ _ _

theorem dials_takeWake (s : State) (qi : Nat) : dials (s.takeWake qi) = dials s := by
  unfold State.takeWake
  split
  · exact dials_wake qi _
  · rfl

theorem dials_takeWakes (s : State) : dials s.takeWakes = dials s := dials_foldl (fun t (p : Nat × HwQueue) => dials_takeWake t p.1) s.queues s

theorem dials_replayWake (qi : Nat) (s : State) : dials (replayWake qi s) = dials s := by
  unfold replayWake
  dsimp only
  split
  · exact (dials_wake _ _).trans (dials_setRcb _ _ _ _ _ _)
  · rfl

theorem dials_queueMap (qi : Nat) (s : State) : dials (queueMap qi s) = dials s := by
  unfold queueMap
  dsimp only
  split
  · split
    · rfl
    · split
      · exact dials_replayWake _ _
      · rfl
  · rfl

theorem dials_setStatus (s : State) (ctxid addr v : Nat) : dials (s.setStatus ctxid addr v) = dials s := by
  unfold State.setStatus
  split
  · refine (dials_foldl (fun t p => ?_) _ _).trans (dials_walkedAll _ _ _ _)
    split
    · split
      · exact dials_putPiece _ _ _
      · rfl
    · exact dials_unitPut _ _ _ _
  · rfl

theorem dials_writeLaunch (v : Nat) (s : State) : dials (writeLaunch v s) = dials s := by
  unfold writeLaunch
  dsimp only
  split
  · rfl
  · split
    · split <;> rfl
    · split
      · rfl
      · split <;> exact dials_setStatus _ _ _ _

theorem dials_retryWaiting (s : State) : dials (retryWaiting s) = dials s := by
  unfold retryWaiting
  refine dials_foldl (fun t w => ?_) s.waiting { s with waiting := [] }
  split
  · exact dials_queueMap _ _
  · exact dials_writeLaunch _ _

/-- Time passing advances the two clocks, and records no trap. -/
theorem dials_tick (n ticks : Nat) (s : State) : dials (tick n ticks s) = (s.clk + n, s.time + ticks, s.traps) := by
  rw [tick, dials_retryWaiting, dials_takeWakes, dials_settleReturns, dials_settlePreempts]
  rfl

theorem clk_tick (n ticks : Nat) (s : State) : (tick n ticks s).clk = s.clk + n := congrArg Prod.fst (dials_tick n ticks s)

theorem time_tick (n ticks : Nat) (s : State) : (tick n ticks s).time = s.time + ticks := congrArg (fun d => d.2.1) (dials_tick n ticks s)

theorem traps_tick (n ticks : Nat) (s : State) : (tick n ticks s).traps = s.traps := congrArg (fun d => d.2.2) (dials_tick n ticks s)

end Sys2Proof.Proofs

/-! PROOFS. A step runs what its schedule, fetch and marks give (O54). -/

namespace Sys2Proof.Proofs

open Sys2Proof Sys2Proof.Machine Sys2Proof.Claims Sys2Proof.Laws

/-! ### A step of the schedule's next actor (log 1, log 20) -/

/-- A next state counts unless it records a fault of cause 0. -/
theorem unlessBehind_next (s t : State) : unlessBehind s (.next t) = .next (if ∃ q ∈ t.traps, q.cause = 0 then s else t) := by
  have hany : (t.traps.any fun r => r.cause == 0) = true ↔ ∃ q ∈ t.traps, q.cause = 0 := by simp
  by_cases h : ∃ q ∈ t.traps, q.cause = 0
  · rw [unlessBehind, if_pos (hany.2 h), if_pos h]
  · rw [unlessBehind, if_neg (mt hany.1 h), if_neg h]

/-- With power the next actor acts, on the state with the rest of the schedule. -/
theorem step_of_actorStep {s t : State} {a : Actor} {r : List Actor} (hpow : s.powered = true) (hnext : s.nextActor = (a, r))
    (h : actorStep a { s with schedule := r } = .next t) :
    step s = .next (if ∃ q ∈ t.traps, q.cause = 0 then { s with schedule := r } else t) := by
  have hgo : (s.powered || isStart s.nextActor.1) = true := by rw [hpow, Bool.true_or]
  rw [step, packageStep, if_pos hgo, hnext]
  dsimp only
  rw [h, unlessBehind_next]

theorem nextActor_cons {s : State} {a : Actor} {r : List Actor} (h : s.schedule = a :: r) : s.nextActor = (a, r) := by
  rw [State.nextActor, h]

/-! ### The move of a GFE -/

/-- A GFE that may take a record has no result of a call to take. -/
theorem block_ne_result_of_gfeReady {s : State} {k : Nat} (h : s.gfeReady k = true) (v : Nat) (c : Clock) : (s.gfeAt k).block ≠ .result v c := by
  intro hb
  simp [State.gfeReady, hb] at h

/-- A GFE whose record may issue executes what its fetch decodes. -/
theorem gfeStep_of_exec {s w v : State} {k : Nat} {i : Instr} (hw : (s.onDie (k / 4)).actingGfe k = w) (hready : w.gfeReady k = true)
    (hheld : w.gfeHeld k = false) (hrank : w.outranked k = false) (hfetch : w.fetchRecord (w.gfeAt k) (w.gfeAt k).pc = .ok i)
    (hexec : exec i w = .next v) : gfeStep k s = .next (w.gfeMoved k v) := by
  have hacting : w.actingGfe k = w := by rw [← hw]; rfl
  have hrec : gfeRecord k w = .next v := by simp only [gfeRecord, hfetch, hacting, hexec]
  simp only [gfeStep, hw]
  split
  case h_1 v c hb => exact absurd hb (block_ne_result_of_gfeReady hready v c)
  case h_2 => simp [hready, hheld, hrank, hrec]

/-! ### The operations of a bundle (R138) -/

theorem slot_lt_of_mem_openOps {b : Bank} {l : List SlotDec} {p : Nat × Instr} (h : p ∈ openOps b l) : p.1 < 4 := by
  obtain ⟨q, hq, hp⟩ := List.mem_filterMap.1 h
  have hlt : q.1 < 4 := by
    have hmem : q.1 ∈ upTo 4 := (List.of_mem_zip hq).1
    rwa [upTo_eq_range, List.mem_range] at hmem
  split at hp
  · split at hp
    · cases hp
      exact hlt
    · cases hp
  · cases hp

/-- An open operation is one of the bundle's. -/
theorem mem_slotOps_of_mem_openOps {b : Bank} {l : List SlotDec} {p : Nat × Instr} (h : p ∈ openOps b l) : p ∈ slotOps l := by
  obtain ⟨q, hq, hp⟩ := List.mem_filterMap.1 h
  refine List.mem_filterMap.2 ⟨q, hq, ?_⟩
  split at hp
  case h_1 =>
    split at hp
    · exact hp
    · cases hp
  case h_2 => cases hp

theorem openOps_eq_nil {b : Bank} {l : List SlotDec} (h : slotOps l = []) : openOps b l = [] :=
  List.eq_nil_iff_forall_not_mem.2 fun _ hp => List.not_mem_nil (h ▸ mem_slotOps_of_mem_openOps hp)

/-- Every open operation of the four slots takes its effect, in whatever place. -/
theorem mem_issueOrder_iff (l : List (Nat × Instr)) (p : Instr) : p ∈ issueOrder l ↔ ∃ m, m < 4 ∧ (m, p) ∈ l := by
  simp only [issueOrder, List.mem_map, List.mem_append, List.mem_filter, Bool.and_eq_true, Bool.or_eq_true, Bool.not_eq_true', beq_iff_eq]
  constructor
  · rintro ⟨⟨m, q⟩, hm, rfl⟩
    refine ⟨m, ?_, ?_⟩
    · dsimp only at hm
      omega
    · tauto
  · rintro ⟨m, hlt, hmem⟩
    refine ⟨(m, p), ?_, rfl⟩
    interval_cases m <;> cases actsLast p <;> simp [hmem]

theorem issueOrder_singleton {n : Nat} (i : Instr) (hn : n < 4) : issueOrder [(n, i)] = [i] := by
  interval_cases n <;> cases hlast : actsLast i <;> simp [issueOrder, hlast]

/-! ### The move of a context -/

theorem runOps_of_run {l : List Instr} {s t : State} (h : Run l s t) : runOps l s = .next t := by
  induction l generalizing s with
  | nil => exact congrArg _ h.symm
  | cons i r ih =>
    obtain ⟨u, hexec, hrun⟩ := h
    rw [runOps, hexec]
    exact ih hrun

/-- A bundle without operations does nothing of its own, as its open operations do. -/
theorem runOps_of_run_openOps {b : Bundle} {k : Bank} {s t : State} (h : Run (issueOrder (openOps k b.slots)) s t) :
    runOps (if (slotOps b.slots).isEmpty then [.emptyBundle] else issueOrder (openOps k b.slots)) s = .next t := by
  split
  case isTrue hempty =>
    rw [openOps_eq_nil (List.isEmpty_iff.1 hempty)] at h
    exact congrArg _ (Eq.symm h)
  case isFalse => exact runOps_of_run h

/-- The state in which a bundle joins the views of unit scratch, if it does. -/
def joined (b : Bundle) (w : State) : State := if b.hdr.j then joinViews w else w

theorem issueBundle_of_run {b : Bundle} {share : Bool} {w v : State} (h : Run (issueOrder (openOps w.ctx.bank b.slots)) (joined b w) v) :
    issueBundle b share w = .next (if (v.ctx.status = .ready && v.ctx.flowsOut) = true then takeTrap ⟨1, 0, 0, 0⟩ w
      else finish b (openOps w.ctx.bank b.slots) share v) := by
  have hrun := runOps_of_run_openOps h
  unfold issueBundle
  dsimp only
  rw [show (if b.hdr.j then joinViews w else w) = joined b w from rfl, hrun]
  dsimp only
  split <;> rfl

/-- A context whose turn it is presents its bundle. -/
theorem ctxStep_of_ready {s : State} {core x : Nat} {share : Bool} {b : Bundle} (hstatus : (s.ctxAt (4 * core + x)).status = .ready)
    (hruns : s.coreRuns core = true) (hslot : (s.coreAt core).slotAt ≤ s.clk) (hpick : s.pick core = some (x, share))
    (hissues : s.regionIssues (s.ctxAt (4 * core + x)) = true) (hswitch : s.mustSwitch core (x, share) = false)
    (hwaits : (s.acting core x).ctx.waitsFor = none) (hsaved : ∀ v ∈ (s.coreAt core).saved, s.regionIssues v.ctx = true)
    (hbundle : (s.acting core x).bundle? (s.acting core x).ctx.bank.pc = some b) (htrap : (s.acting core x).decodeTrap b = none) :
    ctxStep core x s = presentBundle b share (s.acting core x) := by
  have hnone : ¬ ((s.coreAt core).saved.any fun v => !(s.regionIssues v.ctx)) = true := by simpa using hsaved
  have hpres : (s.acting core x).presented = .ok b := by rw [State.presented, hbundle]; simp [htrap]
  have hready : issueReady core x s = presentBundle b share (s.acting core x) := by
    simp [issueReady, hruns, hslot, hpick, hswitch, issueSlot, hwaits, hpres]
  rw [ctxStep, if_neg hnone, if_neg (by simp [hissues]), hstatus]
  exact hready

/-- A bundle whose marks let it go on and whose checks pass issues. -/
theorem presentBundle_of_ok {b : Bundle} {share : Bool} {s u w : State} (hmarks : marks b s = .goOn u)
    (hw : w = noteDeadline b (noteShown b (answerRecalled (dropHold (u.onCtx Ctx.landed)))))
    (hdeadline : (deadlineTrap s.act.core s.act.x w).ctx.status ≠ .trapped) (hok : w.bundleVerdict b = .ok) :
    presentBundle b share s = issueBundle b share w := by
  subst hw
  simp [presentBundle, hmarks, hdeadline, hok]

/-- Settles O54: `step_of_actorStep` for each kind of actor, the context's through `ctxStep_of_ready`, `presentBundle_of_ok` and
`issueBundle_of_run`, and time passing by `clk_tick`, `time_tick` and `traps_tick`. -/
theorem stepRunsTheDecodedInstruction : Obligations.StepRunsTheDecodedInstruction := by
  unfold Obligations.StepRunsTheDecodedInstruction
  intro s u v r k core x n share i b at' atc atg ops answer ready w presents w1
  have issues : ready → presents → Run (issueOrder (ops w)) w1 v → ∀ t,
      (if (v.ctx.status = .ready && v.ctx.flowsOut) = true then takeTrap ⟨1, 0, 0, 0⟩ w else finish b (ops w) share v) = t → answer t := by
    rintro ⟨hpow, hsched, hstatus, hruns, hslot, hpick, hissues, hswitch, hwaits, hsaved⟩ ⟨hbundle, htrap, hmarks, hdeadline, hok⟩ hrun t rfl
    refine step_of_actorStep hpow (nextActor_cons hsched) ?_
    calc
      actorStep (.ctx core x) at' = presentBundle b share (atc.acting core x) :=
        ctxStep_of_ready hstatus hruns hslot hpick hissues hswitch hwaits hsaved hbundle htrap
      _ = issueBundle b share w := presentBundle_of_ok hmarks rfl hdeadline hok
      _ = _ := issueBundle_of_run hrun
  refine ⟨?record, ?event, ?goesOn, ?flowsOut, ?single, ?order, ?time⟩
  case record =>
    intro hpow hsched hready hheld hrank hfetch hexec
    exact step_of_actorStep hpow (nextActor_cons hsched) (gfeStep_of_exec rfl hready hheld hrank hfetch hexec)
  case event =>
    intro hpow hsched hexec
    exact step_of_actorStep hpow (nextActor_cons hsched) hexec
  case goesOn =>
    intro hready hpres hrun hflow
    refine issues hready hpres hrun _ (if_neg ?_)
    intro h
    obtain ⟨hst, hout⟩ := Bool.and_eq_true_iff.1 h
    simp [hflow (of_decide_eq_true hst)] at hout
  case flowsOut =>
    intro hready hpres hrun hst hflow
    exact issues hready hpres hrun _ (if_pos (by simp [hst, hflow]))
  case single =>
    intro _ _ hops hexec
    have hn : n < 4 := slot_lt_of_mem_openOps (p := (n, i)) (hops ▸ List.mem_singleton_self _ : (n, i) ∈ ops w)
    rw [hops, issueOrder_singleton i hn]
    exact ⟨v, hexec, rfl⟩
  case order => exact mem_issueOrder_iff (ops w)
  case time =>
    intro hpow hsched htraps
    have hnext : s.nextActor = (.tick 1 1, []) := by rw [State.nextActor, hsched]
    have hstep := step_of_actorStep hpow hnext (t := tick 1 1 (({ s with schedule := [] } : State).onDie 8)) rfl
    have hnone : ¬ ∃ q ∈ (tick 1 1 (({ s with schedule := [] } : State).onDie 8)).traps, q.cause = 0 := by
      rw [traps_tick]
      exact fun ⟨q, hq, hcause⟩ => htraps q hq hcause
    rw [if_neg hnone] at hstep
    exact ⟨_, hstep, clk_tick 1 1 _, time_tick 1 1 _⟩

end Sys2Proof.Proofs

/-! PROOFS. Decode of encode on bundles and records (O57). -/

namespace Sys2Proof.Proofs

set_option Elab.async false

open Sys2Proof Sys2Proof.Machine Sys2Proof.Claims Sys2Proof.Laws

/-! ### Every form of the opcode table -/

/-- Every operation and record encodes to words that decode to it; an event has no encoding. -/
theorem roundTrip (i : Instr) : RoundTrip.Statement i := by
  cases i with
  | mov => apply RoundTrip.mov | li => apply RoundTrip.li | lih => apply RoundTrip.lih | add => apply RoundTrip.add | addi => apply RoundTrip.addi
  | sub => apply RoundTrip.sub | mul => apply RoundTrip.mul | mulh => apply RoundTrip.mulh | div => apply RoundTrip.div | rem => apply RoundTrip.rem
  | and => apply RoundTrip.and | or => apply RoundTrip.or | xor => apply RoundTrip.xor | shl => apply RoundTrip.shl
  | shlImm => apply RoundTrip.shlImm | shr => apply RoundTrip.shr | shrImm => apply RoundTrip.shrImm | sra => apply RoundTrip.sra
  | sraImm => apply RoundTrip.sraImm | min => apply RoundTrip.min | max => apply RoundTrip.max | sel => apply RoundTrip.sel
  | cmp => apply RoundTrip.cmp | cmpi => apply RoundTrip.cmpi | pand => apply RoundTrip.pand | por => apply RoundTrip.por
  | pxor => apply RoundTrip.pxor | cnarrow => apply RoundTrip.cnarrow | cperm => apply RoundTrip.cperm | cget => apply RoundTrip.cget
  | ctest => apply RoundTrip.ctest | mfk => apply RoundTrip.mfk | mtk => apply RoundTrip.mtk | br => apply RoundTrip.br | bri => apply RoundTrip.bri
  | callm => apply RoundTrip.callm | retm => apply RoundTrip.retm | loop => apply RoundTrip.loop | loopReg => apply RoundTrip.loopReg
  | brloop => apply RoundTrip.brloop | dispatch => apply RoundTrip.dispatch | endop => apply RoundTrip.endop | svc => apply RoundTrip.svc
  | trap => apply RoundTrip.trap | vadd => apply RoundTrip.vadd | vsub => apply RoundTrip.vsub | vmul => apply RoundTrip.vmul
  | vfma => apply RoundTrip.vfma | vmin => apply RoundTrip.vmin | vmax => apply RoundTrip.vmax | vclamp => apply RoundTrip.vclamp
  | vabs => apply RoundTrip.vabs | vneg => apply RoundTrip.vneg | vrcp => apply RoundTrip.vrcp | vrsq => apply RoundTrip.vrsq
  | vexp2 => apply RoundTrip.vexp2 | vlog2 => apply RoundTrip.vlog2 | vcvt => apply RoundTrip.vcvt | vscale => apply RoundTrip.vscale
  | vcmp => apply RoundTrip.vcmp | vsel => apply RoundTrip.vsel | vand => apply RoundTrip.vand | vor => apply RoundTrip.vor
  | vxor => apply RoundTrip.vxor | vshl => apply RoundTrip.vshl | vshlImm => apply RoundTrip.vshlImm | vshr => apply RoundTrip.vshr
  | vshrImm => apply RoundTrip.vshrImm | vred => apply RoundTrip.vred | vbcast => apply RoundTrip.vbcast | vext => apply RoundTrip.vext
  | vperm => apply RoundTrip.vperm | viota => apply RoundTrip.viota | qand => apply RoundTrip.qand | qor => apply RoundTrip.qor
  | qnot => apply RoundTrip.qnot | tcfg => apply RoundTrip.tcfg | tzero => apply RoundTrip.tzero | wload => apply RoundTrip.wload
  | cbload => apply RoundTrip.cbload | mxnest => apply RoundTrip.mxnest | mxnestImm => apply RoundTrip.mxnestImm | mxgo => apply RoundTrip.mxgo
  | accrd => apply RoundTrip.accrd | accwr => apply RoundTrip.accwr | accz => apply RoundTrip.accz | rtload => apply RoundTrip.rtload
  | rtapply => apply RoundTrip.rtapply | rtread => apply RoundTrip.rtread | rtclr => apply RoundTrip.rtclr | rtgain => apply RoundTrip.rtgain
  | rtwords => apply RoundTrip.rtwords | ptrans => apply RoundTrip.ptrans | pgather => apply RoundTrip.pgather | pred => apply RoundTrip.pred
  | tcmp => apply RoundTrip.tcmp | ld => apply RoundTrip.ld | st => apply RoundTrip.st | lda => apply RoundTrip.lda | stl => apply RoundTrip.stl
  | vld => apply RoundTrip.vld | vst => apply RoundTrip.vst | vlds => apply RoundTrip.vlds | vgather => apply RoundTrip.vgather
  | vscatter => apply RoundTrip.vscatter | tmov => apply RoundTrip.tmov | cpyput => apply RoundTrip.cpyput | rawait => apply RoundTrip.rawait
  | rarel => apply RoundTrip.rarel | rapeek => apply RoundTrip.rapeek | atom => apply RoundTrip.atom | acas => apply RoundTrip.acas
  | fence => apply RoundTrip.fence | ewait => apply RoundTrip.ewait | barinit => apply RoundTrip.barinit | bararr => apply RoundTrip.bararr
  | barwait => apply RoundTrip.barwait | enq => apply RoundTrip.enq | deq => apply RoundTrip.deq | spawn => apply RoundTrip.spawn
  | gsplit => apply RoundTrip.gsplit | gret => apply RoundTrip.gret | waitq => apply RoundTrip.waitq | time => apply RoundTrip.time
  | waitt => apply RoundTrip.waitt | nop => apply RoundTrip.nop | setg => apply RoundTrip.setg | setgImm64 => apply RoundTrip.setgImm64
  | gop => apply RoundTrip.gop | gopLdt => apply RoundTrip.gopLdt | graphLoop => apply RoundTrip.graphLoop | endloop => apply RoundTrip.endloop
  | graphBr => apply RoundTrip.graphBr | brc => apply RoundTrip.brc | call => apply RoundTrip.call | ret => apply RoundTrip.ret
  | halt => apply RoundTrip.halt | tdef => apply RoundTrip.tdef | tfree => apply RoundTrip.tfree | tview => apply RoundTrip.tview
  | treshape => apply RoundTrip.treshape | tshard => apply RoundTrip.tshard | tplace => apply RoundTrip.tplace | tload => apply RoundTrip.tload
  | tstore => apply RoundTrip.tstore | tcopy => apply RoundTrip.tcopy | tgatherb => apply RoundTrip.tgatherb | tconcat => apply RoundTrip.tconcat
  | tappend => apply RoundTrip.tappend | ttrans => apply RoundTrip.ttrans | matmul => apply RoundTrip.matmul | matmulcb => apply RoundTrip.matmulcb
  | convOp => apply RoundTrip.convOp | eltw => apply RoundTrip.eltw | reduce => apply RoundTrip.reduce | softmax => apply RoundTrip.softmax
  | norm => apply RoundTrip.norm | attn => apply RoundTrip.attn | embed => apply RoundTrip.embed | topk => apply RoundTrip.topk
  | argmax => apply RoundTrip.argmax | qr => apply RoundTrip.qr | lsq => apply RoundTrip.lsq | rotl => apply RoundTrip.rotl
  | allgather => apply RoundTrip.allgather | redscat => apply RoundTrip.redscat | allred => apply RoundTrip.allred | bcast => apply RoundTrip.bcast
  | send => apply RoundTrip.send | recv => apply RoundTrip.recv | spawnb => apply RoundTrip.spawnb | quiet => apply RoundTrip.quiet
  | specin => apply RoundTrip.specin | specoff => apply RoundTrip.specoff | opinstall => apply RoundTrip.opinstall
  | opremove => apply RoundTrip.opremove | syscall => apply RoundTrip.syscall | userOperator => apply RoundTrip.userOperator
  | _ => exact RoundTrip.ofEvent rfl

theorem slotTrip {i : Instr} (ht : i.tier < 4) (hw : i.wf = true) : SlotTrip i := (roundTrip i hw).1 ht

theorem recordTrip_of_wf {i : Instr} (ht : i.tier = 4) (hw : i.wf = true) : RecordTrip i := (roundTrip i hw).2 ht

/-! ### The fields of a bundle (R132, R133) -/

/-- Cutting a number takes the bits of each field from its position on. -/
theorem splitBits_div_cons (w lo n : Nat) (ns : List Nat) :
    splitBits (w / 2 ^ lo) (n :: ns) = bitsOf w lo n :: splitBits (w / 2 ^ (lo + n)) ns := by
  rw [splitBits, Nat.div_div_eq_div_mul, ← Nat.pow_add, bitsOf]

theorem splitBits_cons (w n : Nat) (ns : List Nat) : splitBits w (n :: ns) = bitsOf w 0 n :: splitBits (w / 2 ^ n) ns := by
  rw [splitBits, bitsOf, Nat.pow_zero, Nat.div_one]

/-- Widths of the slots X, M, V and S and of the header, least significant first. -/
def bundleLayout : List Nat := [60, 56, 64, 60, 16]

theorem splitBits_bundleLayout (w : Nat) :
    splitBits w bundleLayout = [bitsOf w 0 60, bitsOf w 60 56, bitsOf w 116 64, bitsOf w 180 60, bitsOf w 240 16] := by
  rw [bundleLayout, splitBits_cons]
  simp only [splitBits_div_cons]
  rfl

/-- No field of a bundle reaches another's bits. -/
theorem bitsOf_bundle {a b c d head w : Nat} (ha : a < 2 ^ 60) (hb : b < 2 ^ 64) (hc : c < 2 ^ 56) (hd : d < 2 ^ 60) (hh : head < 2 ^ 16)
    (hw : w = head * 2 ^ 240 + a * 2 ^ 180 + b * 2 ^ 116 + c * 2 ^ 60 + d) :
    bitsOf w 240 16 = head ∧ bitsOf w 180 60 = a ∧ bitsOf w 116 64 = b ∧ bitsOf w 60 56 = c ∧ bitsOf w 0 60 = d := by
  have hpack : w = packBits bundleLayout [d, c, b, a, head] := by
    rw [hw]
    simp only [bundleLayout, packBits]
    ring
  have hfits : fits bundleLayout [d, c, b, a, head] = true := by simp only [fits, bundleLayout, ha, hb, hc, hd, hh]; rfl
  have hsplit := split_pack bundleLayout _ hfits
  rw [← hpack, splitBits_bundleLayout] at hsplit
  simp only [List.cons.injEq, and_true] at hsplit
  tauto

/-- The 16 bits of a bundle's header (R134, R139). -/
def headBits (h : Header) : Nat :=
  h.r.toNat * 2 ^ 15 + h.p.toNat * 2 ^ 14 + h.y.toNat * 2 ^ 13 + h.c.toNat * 2 ^ 12 + h.j.toNat * 2 ^ 11 + h.stall * 2 ^ 6 + h.ckid

/-- Widths of the header's checkpoint, stall count, clear bit and five marks, least significant first. -/
def headLayout : List Nat := [6, 4, 1, 1, 1, 1, 1, 1]

theorem splitBits_headLayout (w : Nat) : splitBits w headLayout =
    [bitsOf w 0 6, bitsOf w 6 4, bitsOf w 10 1, bitsOf w 11 1, bitsOf w 12 1, bitsOf w 13 1, bitsOf w 14 1, bitsOf w 15 1] := by
  rw [headLayout, splitBits_cons]
  simp only [splitBits_div_cons]
  rfl

theorem toNat_lt_two_pow_one (b : Bool) : b.toNat < 2 ^ 1 := Nat.lt_succ_of_le (toNat_le1 b)

theorem bitOf_eq_of_bitsOf {v i : Nat} {b : Bool} (h : bitsOf v i 1 = b.toNat) : bitOf v i = b := by
  have hbit : bitOf v i = (bitsOf v i 1 == 1) := rfl
  rw [hbit, h, toNat_beq]

/-- The header's bits give back its marks, its stall count and its checkpoint; bit 10 is clear. -/
theorem headBits_fields {h : Header} (hs : h.stall < 16) (hk : h.ckid < 64) :
    headBits h < 2 ^ 16 ∧ bitOf (headBits h) 15 = h.r ∧ bitOf (headBits h) 14 = h.p ∧ bitOf (headBits h) 13 = h.y ∧ bitOf (headBits h) 12 = h.c ∧
      bitOf (headBits h) 11 = h.j ∧ bitOf (headBits h) 10 = false ∧ bitsOf (headBits h) 6 4 = h.stall ∧ bitsOf (headBits h) 0 6 = h.ckid := by
  have hpack : headBits h = packBits headLayout [h.ckid, h.stall, false.toNat, h.j.toNat, h.c.toNat, h.y.toNat, h.p.toNat, h.r.toNat] := by
    simp only [headBits, headLayout, packBits, Bool.toNat_false]
    ring
  have hfits : fits headLayout [h.ckid, h.stall, false.toNat, h.j.toNat, h.c.toNat, h.y.toNat, h.p.toNat, h.r.toNat] = true := by
    have hstall : h.stall < 2 ^ 4 := hs
    have hckid : h.ckid < 2 ^ 6 := hk
    simp only [fits, headLayout, hstall, hckid, toNat_lt_two_pow_one]
    rfl
  have hsplit := split_pack headLayout _ hfits
  have hlt := pack_lt headLayout _ hfits
  rw [← hpack] at hsplit hlt
  rw [splitBits_headLayout] at hsplit
  simp only [List.cons.injEq, and_true] at hsplit
  obtain ⟨hckid, hstall, h10, h11, h12, h13, h14, h15⟩ := hsplit
  exact ⟨hlt, bitOf_eq_of_bitsOf h15, bitOf_eq_of_bitsOf h14, bitOf_eq_of_bitsOf h13, bitOf_eq_of_bitsOf h12, bitOf_eq_of_bitsOf h11,
    bitOf_eq_of_bitsOf h10, hstall, hckid⟩

/-- Four slot words under a header decode slot by slot. -/
theorem decodeBundle_fields {h : Header} {a b c d : Nat} (hs : h.stall < 16) (hk : h.ckid < 64) (hck : h.c = false → h.ckid = 0)
    (ha : a < 2 ^ 60) (hb : b < 2 ^ 64) (hc : c < 2 ^ 56) (hd : d < 2 ^ 60) :
    decodeBundle (headBits h * 2 ^ 240 + a * 2 ^ 180 + b * 2 ^ 116 + c * 2 ^ 60 + d) = ⟨h, false, [decodeS a, decodeV b, decodeM c, decodeX d]⟩ := by
  obtain ⟨hlt, hr, hp, hy, hcm, hj, h10, hst, hid⟩ := headBits_fields hs hk
  generalize hw : headBits h * 2 ^ 240 + a * 2 ^ 180 + b * 2 ^ 116 + c * 2 ^ 60 + d = w
  obtain ⟨hhead, hS, hV, hM, hX⟩ := bitsOf_bundle ha hb hc hd hlt hw.symm
  have hbad : (!h.c && h.ckid != 0) = false := by cases hc' : h.c <;> simp [hck, hc']
  simp only [decodeBundle, hhead, hS, hV, hM, hX, hr, hp, hy, hcm, hj, h10, hst, hid, hbad, Bool.or_false]

/-- Settles O57: `decodeBundle_fields` separates the slots' words, and `roundTrip` decodes each of them, and each record. -/
theorem bundlesAndRecordsRoundTrip : Obligations.BundlesAndRecordsRoundTrip := by
  unfold Obligations.BundlesAndRecordsRoundTrip
  refine ⟨?bundle, ?record⟩
  case bundle =>
    intro a b c d ga gb gc gd stall ckid r p y cm j ta tb tc td wa wb wc wd hga hgb hgc hgd hstall hckid hcm
    obtain ⟨la, ea⟩ := slotTrip (by omega) wa ga hga
    obtain ⟨lb, eb⟩ := slotTrip (by omega) wb gb hgb
    obtain ⟨lc, ec⟩ := slotTrip (by omega) wc gc hgc
    obtain ⟨ld, ed⟩ := slotTrip (by omega) wd gd hgd
    rw [ta] at la ea
    rw [tb] at lb eb
    rw [tc] at lc ec
    rw [td] at ld ed
    rw [← ea, ← eb, ← ec, ← ed]
    exact decodeBundle_fields (h := ⟨r, p, y, cm, j, stall, ckid⟩) hstall hckid hcm la lb lc ld
  case record =>
    intro i ht hw
    obtain ⟨w, ws, hencode, hwords, hdecode⟩ := recordTrip_of_wf ht hw
    have hlt : ∀ x ∈ w :: ws, x < 2 ^ 32 := fun x hx => by simpa [w32] using hwords x hx
    refine ⟨w, ws, ?_, hlt w List.mem_cons_self, fun x hx => hlt x (List.mem_cons_of_mem w hx), hdecode⟩
    rw [encode, if_neg (by omega), hencode]

end Sys2Proof.Proofs

/-! PROOFS. Rules about slot operations that the statements below share: operands, targets, traps and results. -/

namespace Sys2Proof.Proofs

set_option Elab.async false

open Sys2Proof Sys2Proof.Machine Sys2Proof.Claims Sys2Proof.Laws

/-! ### Operands and targets of the acting context -/

/-- Updates of the acting context that agree on it leave the same state. -/
theorem onCtx_congr {s : State} {f g : Ctx → Ctx} (h : f s.ctx = g s.ctx) : s.onCtx f = s.onCtx g := congrArg (s.setCtxAt s.act.ck) h

/-- The integer the model reads from an s register is the number of its low 64 bits (R166). -/
theorem toNat_val (s : State) (n : Nat) : (val s n).toNat = s.ctx.bank.int n := BitVec.toNat_setWidth ..

theorem targetOk_iff (s : State) (t : Nat) : targetOk s.ctx t = true ↔ Inside s t := by
  unfold targetOk Ctx.locked Inside
  by_cases h : s.ctx.bank.pc < 7680
  · simp [h]
  · simp [h, Nat.le_of_not_lt h]

theorem transferVerdict_inside {s : State} {t : Nat} (h : Inside s t) : transferVerdict s.ctx t = .ok := need_ok.2 ((targetOk_iff s t).2 h)

theorem transferVerdict_outside {s : State} {t : Nat} (h : ¬Inside s t) : transferVerdict s.ctx t = .trap ⟨5, 0, 0, 0⟩ :=
  if_neg (mt (targetOk_iff s t).1 h)

/-! ### What a slot operation comes to -/

/-- A trap's record joins those that wait, and the context stops. -/
theorem takeTrap_eq (ti : TrapInfo) (s : State) :
    takeTrap ti s = ({ s with traps := s.traps ++ [s.trapRecOf s.act.ck ti false] } : State).onCtx fun c =>
      { c.dropLatches with status := .trapped, marks := 0, w := 0 } := rfl

/-- A slot operation whose checks trap does nothing else. -/
theorem slotOp_trap {v : Verdict} {ti : TrapInfo} {s : State} {f : State → State} (h : v = .trap ti) : slotOp v s f = .next (takeTrap ti s) := by
  subst h
  rfl

/-- A trap of a slot operation's checks is all that happens. -/
theorem traps_of_slotOp {i : Instr} {s : State} {v : Verdict} {ti : TrapInfo} {f : State → State} (hexec : exec i s = slotOp v s f)
    (hv : v = .trap ti) : Traps i s ti.cause := ⟨ti, rfl, hexec.trans (slotOp_trap hv)⟩

/-- An operation that computes its register writes from its context. -/
theorem results_of_later {i : Instr} {s : State} {n : Nat} {f : Ctx → List RegW} {ws : List RegW}
    (hexec : exec i s = .next (s.onCtx fun c => c.later n (f c))) (hws : f s.ctx = ws) : Results i s n ws :=
  hexec.trans (congrArg _ (onCtx_congr (by rw [hws])))

end Sys2Proof.Proofs

/-! PROOFS. What register, vector and matrix operations leave unchanged (O53). -/

namespace Sys2Proof.Proofs

set_option Elab.async false

open Sys2Proof Sys2Proof.Machine Sys2Proof.Claims Sys2Proof.Laws

/-! ### The frame -/

/-- What an update of a context keeps: its bank, its gated stores, its work and its gravity. -/
structure CtxFrame (c d : Ctx) : Prop where
  bank : d.bank = c.bank
  gated : d.gated = c.gated
  work : d.work = c.work
  hg : d.hg = c.hg
  cb : d.cb = c.cb

/-- An operation that stays inside its core: it changes results in flight, latches and the flow of the acting context, and the core's queues and
units (R138, R188). -/
structure RegisterFrame (s t : State) : Prop where
  act : t.act = s.act
  mem : t.mem = s.mem
  tileMem : t.tileMem = s.tileMem
  own : CtxFrame s.ctx t.ctx
  ctxs : ∀ k, k ≠ s.act.ck → t.ctxAt k = s.ctxAt k
  cores : ∀ n, n ≠ s.act.core → t.coreAt n = s.coreAt n
  store : t.store = s.store
  gfes : t.gfes = s.gfes
  ops : t.ops = s.ops
  devs : t.devs = s.devs
  queues : t.queues = s.queues
  blocks : t.blocks = s.blocks
  packets : t.packets = s.packets
  grav : t.grav = s.grav
  routes : t.routes = s.routes
  out : t.out = s.out
  clk : t.clk = s.clk
  time : t.time = s.time

theorem CtxFrame.refl (c : Ctx) : CtxFrame c c := ⟨rfl, rfl, rfl, rfl, rfl⟩

theorem CtxFrame.trans {c d e : Ctx} (h : CtxFrame c d) (g : CtxFrame d e) : CtxFrame c e :=
  ⟨g.bank.trans h.bank, g.gated.trans h.gated, g.work.trans h.work, g.hg.trans h.hg, g.cb.trans h.cb⟩

theorem RegisterFrame.trans {s t u : State} (h : RegisterFrame s t) (g : RegisterFrame t u) : RegisterFrame s u where
  act := g.act.trans h.act
  mem := g.mem.trans h.mem
  tileMem := g.tileMem.trans h.tileMem
  own := h.own.trans g.own
  ctxs k hk := (g.ctxs k (h.act ▸ hk)).trans (h.ctxs k hk)
  cores n hn := (g.cores n (h.act ▸ hn)).trans (h.cores n hn)
  store := g.store.trans h.store
  gfes := g.gfes.trans h.gfes
  ops := g.ops.trans h.ops
  devs := g.devs.trans h.devs
  queues := g.queues.trans h.queues
  blocks := g.blocks.trans h.blocks
  packets := g.packets.trans h.packets
  grav := g.grav.trans h.grav
  routes := g.routes.trans h.routes
  out := g.out.trans h.out
  clk := g.clk.trans h.clk
  time := g.time.trans h.time

theorem RegisterFrame.refl (s : State) : RegisterFrame s s := by
  constructor
  case own => exact .refl _
  all_goals intros; rfl

/-- Recording a trap is inside the frame. -/
theorem registerFrame_traps (s : State) (l : List TrapRec) : RegisterFrame s { s with traps := l } := { RegisterFrame.refl s with }

theorem registerFrame_onCtx {s : State} {f : Ctx → Ctx} (h : CtxFrame s.ctx (f s.ctx)) : RegisterFrame s (s.onCtx f) :=
  { RegisterFrame.refl s with
    own := by rwa [ctx_onCtx]
    ctxs := fun _ hk => ctxAt_onCtx_ne s f hk }

theorem registerFrame_onCore (s : State) (f : Core → Core) : RegisterFrame s (s.onCore f) :=
  { RegisterFrame.refl s with cores := fun _ hn => coreAt_onCoreAt_ne s f hn }

theorem registerFrame_takeTrap (ti : TrapInfo) (s : State) : RegisterFrame s (takeTrap ti s) :=
  takeTrap_eq ti s ▸ (registerFrame_traps s _).trans (registerFrame_onCtx ⟨rfl, rfl, rfl, rfl, rfl⟩)

/-! ### The verdicts that stay inside the core -/

/-- Reasons to block that leave no trace outside the context. -/
def Why.inCore : Why → Bool
  | .queue _ | .held _ | .spec => true
  | _ => false

/-- Verdicts by which an operation reaches nothing outside its core. -/
def Verdict.inCore : Verdict → Bool
  | .ok | .trap _ | .wait | .waitEng => true
  | .block w => Why.inCore w
  | _ => false

theorem registerFrame_blockCtx {w : Why} (hw : Why.inCore w = true) (s : State) : RegisterFrame s (blockCtx w s) := by
  have hnote : s.noteBlock s.act.ck w = s := by
    cases w with
    | barrier => cases hw
    | deq => cases hw
    | _ => rfl
  rw [blockCtx, hnote]
  exact registerFrame_onCtx ⟨rfl, rfl, rfl, rfl, rfl⟩

/-- A slot operation whose verdict and whose effect stay inside the core does. -/
theorem registerFrame_of_slotOp {v : Verdict} {s t : State} {f : State → State} (h : slotOp v s f = .next t) (hv : Verdict.inCore v = true)
    (hf : RegisterFrame s (f s)) : RegisterFrame s t := by
  rw [slotOp_next] at h
  obtain rfl := Host.Outcome.next.inj h
  cases v with
  | ok => exact hf
  | trap ti => exact registerFrame_takeTrap ti s
  | block w => exact registerFrame_blockCtx hv s
  | wait => exact .refl s
  | waitEng => exact registerFrame_onCtx ⟨rfl, rfl, rfl, rfl, rfl⟩
  | _ => cases hv

/-- An operation without checks that updates its context alone. -/
theorem registerFrame_of_onCtx {s t : State} {f : Ctx → Ctx} (h : always s (fun s => s.onCtx f) = .next t) (hf : ∀ c, CtxFrame c (f c)) :
    RegisterFrame s t := by
  obtain rfl := Host.Outcome.next.inj h
  exact registerFrame_onCtx (hf _)

@[simp] theorem inCore_ok : Verdict.inCore .ok = true := rfl
@[simp] theorem inCore_trap (ti : TrapInfo) : Verdict.inCore (.trap ti) = true := rfl
@[simp] theorem inCore_waitEng : Verdict.inCore .waitEng = true := rfl
@[simp] theorem inCore_queue (q : Nat) : Verdict.inCore (.block (.queue q)) = true := rfl
@[simp] theorem inCore_held (rot : Bool) : Verdict.inCore (.block (.held rot)) = true := rfl
@[simp] theorem inCore_spec : Verdict.inCore (.block .spec) = true := rfl

@[simp] theorem inCore_and {a b : Verdict} : Verdict.inCore (a.and b) = true ↔ Verdict.inCore a = true ∧ (a = .ok → Verdict.inCore b = true) := by
  cases a <;> simp [Verdict.and, Verdict.inCore]

@[simp] theorem inCore_ite {c : Prop} [Decidable c] {a b : Verdict} :
    Verdict.inCore (if c then a else b) = if c then Verdict.inCore a else Verdict.inCore b := apply_ite ..

@[simp] theorem inCore_need (c : Bool) (ti : TrapInfo) : Verdict.inCore (need c ti) = true := by
  simp [need]

@[simp] theorem inCore_capVerdict (c : SReg) (n : CapNeed) : Verdict.inCore (capVerdict c n) = true := by simp [capVerdict]

@[simp] theorem inCore_tileVerdict (b : Bank) (n : Nat) : Verdict.inCore (tileVerdict b n) = true := inCore_need _ _

@[simp] theorem inCore_freeVerdict (q : Nat) (ws : List SReg) (s : State) : Verdict.inCore (freeVerdict q ws s) = true := by
  simp [freeVerdict, queueVerdict, shadowVerdict]

theorem inCore_heldVerdict (rot : Bool) (s : State) : Verdict.inCore (heldVerdict rot s) = true := by
  unfold heldVerdict
  split <;> simp

@[simp] theorem inCore_unitVerdict (rot : Bool) (q : Nat) (ws : List SReg) (s : State) : Verdict.inCore (unitVerdict rot q ws s) = true :=
  inCore_and.2 ⟨inCore_heldVerdict rot s, fun _ => inCore_freeVerdict q ws s⟩

/-! ### Commands -/

theorem registerFrame_issueCmd (q : Nat) (op : Instr) (caps : List SReg) (args : List Nat) (vec : BitVec 512) (dst : Option Dst) (s : State) :
    RegisterFrame s (issueCmd q op caps args vec dst s) := by
  cases dst with
  | none => exact registerFrame_onCore s _
  | some d => exact RegisterFrame.trans (registerFrame_onCtx ⟨rfl, rfl, rfl, rfl, rfl⟩) (registerFrame_onCore _ _)

theorem registerFrame_unitCmd (rot : Bool) (q : Nat) (op : Instr) (caps : List SReg) (args : List Nat) (vec : BitVec 512) (dst : Option Dst)
    (s : State) : RegisterFrame s (issueCmd q op caps args vec dst (takeUnit rot s)) :=
  (registerFrame_onCore s _).trans (registerFrame_issueCmd q op caps args vec dst _)

/-! ### The three slots -/

/-- The register that an MTK writes, but TIMEBASE. -/
theorem registerFrame_mtk {s t : State} {k a : Nat} (h : exec (.mtk k a) s = .next t) (hk : k ≠ 0x60) : RegisterFrame s t := by
  refine registerFrame_of_slotOp h (by simp [mtkCheck, mtkVerdict]) ?_
  simp only [if_neg hk]
  refine RegisterFrame.trans ?_ (registerFrame_onCtx ⟨rfl, rfl, rfl, rfl, rfl⟩)
  split
  · exact registerFrame_onCore s _
  · exact registerFrame_onCtx ⟨rfl, rfl, rfl, rfl, rfl⟩

/-- An MTK of TIMEBASE changes nothing outside the core but the time base. -/
theorem registerFrame_mtk_timebase {s t : State} {a : Nat} (h : exec (.mtk 0x60 a) s = .next t) : RegisterFrame { s with time := t.time } t := by
  cases hlocked : s.ctx.locked with
  | true =>
    have hok : mtkCheck 0x60 a s = .ok := by simp [mtkCheck, mtkVerdict, need, hlocked]
    obtain rfl := Host.Outcome.next.inj ((slotOp_ok hok).symm.trans h)
    exact registerFrame_onCtx ⟨rfl, rfl, rfl, rfl, rfl⟩
  | false =>
    have htrap : mtkCheck 0x60 a s = .trap ⟨5, 0, 0, 0⟩ := by simp [mtkCheck, mtkVerdict, need, hlocked]
    obtain rfl := Host.Outcome.next.inj ((slotOp_trap htrap).symm.trans h)
    exact registerFrame_takeTrap _ s

theorem registerFrame_scalar {i : Instr} {s t : State} (h : exec i s = .next t) (hi : RegisterOnly i) (hmtk : ∀ a, i ≠ .mtk 0x60 a) :
    RegisterFrame s t := by
  obtain ⟨htier, hendop, hsvc, hdispatch⟩ := hi
  cases i with
  | mov | li | lih | add | addi | sub | mul | mulh | div | rem | and | or | xor | shl | shlImm | shr | shrImm | sra | sraImm | min | max | sel
  | cmp | cmpi | pand | por | pxor | cget | ctest | loop | loopReg =>
    exact registerFrame_of_onCtx h fun _ => ⟨rfl, rfl, rfl, rfl, rfl⟩
  | cnarrow => exact registerFrame_of_slotOp h (by simp [cnarrowCheck, cnarrowVerdict]) (registerFrame_onCtx ⟨rfl, rfl, rfl, rfl, rfl⟩)
  | cperm => exact registerFrame_of_slotOp h (by simp [cpermCheck]) (registerFrame_onCtx ⟨rfl, rfl, rfl, rfl, rfl⟩)
  | mfk => exact registerFrame_of_slotOp h (by simp [mfkCheck, mfkVerdict]) (registerFrame_onCtx ⟨rfl, rfl, rfl, rfl, rfl⟩)
  | mtk k a => exact registerFrame_mtk h fun hk => hmtk a (hk ▸ rfl)
  | br => exact registerFrame_of_slotOp h (by simp [brCheck, transferVerdict]) (registerFrame_onCtx ⟨rfl, rfl, rfl, rfl, rfl⟩)
  | bri => exact registerFrame_of_slotOp h (by simp [briCheck, transferVerdict]) (registerFrame_onCtx ⟨rfl, rfl, rfl, rfl, rfl⟩)
  | callm => exact registerFrame_of_slotOp h (by simp [callmCheck, transferVerdict]) (registerFrame_onCtx ⟨rfl, rfl, rfl, rfl, rfl⟩)
  | retm => exact registerFrame_of_slotOp h (by simp [retmCheck, transferVerdict]) (registerFrame_onCtx ⟨rfl, rfl, rfl, rfl, rfl⟩)
  | brloop =>
    refine registerFrame_of_slotOp h (by simp [brloopCheck, transferVerdict]) (registerFrame_onCtx ?_)
    dsimp only
    split <;> exact ⟨rfl, rfl, rfl, rfl, rfl⟩
  | trap => exact registerFrame_of_slotOp h rfl (.refl s)
  | endop => exact absurd rfl hendop
  | svc => exact absurd rfl hsvc
  | dispatch a sh na smask => exact absurd rfl (hdispatch a sh na smask)
  | _ => cases htier

theorem registerFrame_vector {i : Instr} {s t : State} (h : exec i s = .next t) (htier : i.tier = 1) : RegisterFrame s t := by
  cases i with
  | vadd | vsub | vmul | vfma | vmin | vmax | vclamp | vabs | vneg | vrcp | vrsq | vexp2 | vlog2 | vcvt | vscale | vcmp | vsel | vand | vor | vxor
  | vshl | vshlImm | vshr | vshrImm | vred | vbcast | vext | vperm | viota | qand | qor | qnot =>
    exact registerFrame_of_onCtx h fun _ => ⟨rfl, rfl, rfl, rfl, rfl⟩
  | _ => cases htier

theorem registerFrame_matrix {i : Instr} {s t : State} (h : exec i s = .next t) (htier : i.tier = 2) : RegisterFrame s t := by
  cases i with
  | mxnest | mxnestImm => exact registerFrame_of_onCtx h fun _ => ⟨rfl, rfl, rfl, rfl, rfl⟩
  | tcfg => exact registerFrame_of_slotOp h (by simp [tcfgCheck]) (registerFrame_issueCmd _ _ _ _ _ _ _)
  | tzero => exact registerFrame_of_slotOp h (by simp [tzeroCheck]) (registerFrame_issueCmd _ _ _ _ _ _ _)
  | wload => exact registerFrame_of_slotOp h (by simp [wloadCheck]) (registerFrame_unitCmd _ _ _ _ _ _ _ _)
  | cbload => exact registerFrame_of_slotOp h (by simp [cbloadCheck]) (registerFrame_unitCmd _ _ _ _ _ _ _ _)
  | mxgo => exact registerFrame_of_slotOp h (by simp [mxgoCheck, mxgoSrcVerdict]) (registerFrame_unitCmd _ _ _ _ _ _ _ _)
  | accrd => exact registerFrame_of_slotOp h (by simp [accrdCheck]) (registerFrame_issueCmd _ _ _ _ _ _ _)
  | accwr =>
    exact registerFrame_of_slotOp h (by simp [accwrCheck])
      (RegisterFrame.trans (registerFrame_onCtx ⟨rfl, rfl, rfl, rfl, rfl⟩) (registerFrame_issueCmd _ _ _ _ _ _ _))
  | accz => exact registerFrame_of_slotOp h (by simp [acczCheck]) (registerFrame_issueCmd _ _ _ _ _ _ _)
  | rtload => exact registerFrame_of_slotOp h (by simp [rtloadCheck]) (registerFrame_unitCmd _ _ _ _ _ _ _ _)
  | rtapply => exact registerFrame_of_slotOp h (by simp [rtapplyCheck]) (registerFrame_unitCmd _ _ _ _ _ _ _ _)
  | rtread => exact registerFrame_of_slotOp h (by simp [rtreadCheck]) (registerFrame_unitCmd _ _ _ _ _ _ _ _)
  | rtclr => exact registerFrame_of_slotOp h (by simp [rtclrCheck]) (registerFrame_unitCmd _ _ _ _ _ _ _ _)
  | rtgain => exact registerFrame_of_slotOp h (by simp [rtgainCheck]) (registerFrame_unitCmd _ _ _ _ _ _ _ _)
  | rtwords => exact registerFrame_of_slotOp h (by simp [rtwordsCheck]) (registerFrame_unitCmd _ _ _ _ _ _ _ _)
  | ptrans => exact registerFrame_of_slotOp h (by simp [ptransCheck]) (registerFrame_issueCmd _ _ _ _ _ _ _)
  | pgather => exact registerFrame_of_slotOp h (by simp [pgatherCheck]) (registerFrame_issueCmd _ _ _ _ _ _ _)
  | pred => exact registerFrame_of_slotOp h (by simp [predCheck]) (registerFrame_issueCmd _ _ _ _ _ _ _)
  | tcmp => exact registerFrame_of_slotOp h (by simp [tcmpCheck]) (registerFrame_issueCmd _ _ _ _ _ _ _)
  | _ => cases htier

theorem registerFrame_exec {i : Instr} {s t : State} (h : exec i s = .next t) (hi : RegisterOnly i ∨ i.tier = 1 ∨ i.tier = 2)
    (hmtk : ∀ a, i ≠ .mtk 0x60 a) : RegisterFrame s t := by
  obtain hi | hi | hi := hi
  · exact registerFrame_scalar h hi hmtk
  · exact registerFrame_vector h hi
  · exact registerFrame_matrix h hi

/-- Settles O53: every register, vector and matrix operation keeps `RegisterFrame`, an MTK of TIMEBASE all of it but the time base. -/
theorem registerOperationsFrame : Obligations.RegisterOperationsFrame := by
  unfold Obligations.RegisterOperationsFrame
  intro i s t hi h
  have hframe : RegisterFrame { s with time := t.time } t ∧ ((∀ a, i ≠ .mtk 0x60 a) → t.time = s.time) := by
    by_cases hmtk : ∀ a, i ≠ .mtk 0x60 a
    · have hf := registerFrame_exec h hi hmtk
      exact ⟨hf.time ▸ hf, fun _ => hf.time⟩
    · refine ⟨?_, fun hne => absurd hne hmtk⟩
      obtain ⟨a, ha⟩ := not_forall.1 hmtk
      obtain rfl := not_not.1 ha
      exact registerFrame_mtk_timebase h
  obtain ⟨hf, htime⟩ := hframe
  exact ⟨hf.mem, hf.tileMem, hf.own.bank, hf.own.gated, hf.own.work, hf.own.hg, hf.own.cb, hf.ctxs, hf.cores, hf.store, hf.gfes, hf.ops, hf.devs,
    hf.queues, hf.blocks, hf.packets, hf.grav, hf.routes, hf.out, hf.clk, htime⟩

end Sys2Proof.Proofs

/-! PROOFS. What a vector position reads (O11). -/

namespace Sys2Proof.Proofs

set_option Elab.async false

open Sys2Proof Sys2Proof.Machine Sys2Proof.Claims Sys2Proof.Laws

/-! ### Reading through a hold latch (R140, R141) -/

/-- Without the hold bit the position reads its register, and the latch keeps it. -/
theorem holdRead_register (b : Bank) (l : Latch) (n : Nat) : holdRead b l false n = (b.vreg n, ⟨some (b.vreg n), b.phys n⟩) := rfl

/-- A held position reads what the latch holds. -/
theorem holdRead_held {b : Bank} {l : Latch} {x : BitVec 512} (h : l.val = some x) (n : Nat) : holdRead b l true n = (x, l) := by
  simp [holdRead, h]

/-- A held position whose latch has been dropped reads the register that the latch names. -/
theorem holdRead_dropped {b : Bank} {l : Latch} (h : l.val = none) (n : Nat) :
    holdRead b l true n = (b.vphys l.reg, ⟨some (b.vphys l.reg), l.reg⟩) := by
  simp [holdRead, h]

theorem posA_eq (c : Ctx) (f : VFields) : c.posA f = (holdRead c.bank c.latchA f.ha f.va).1 := rfl

theorem posB_eq (c : Ctx) (f : VFields) : c.posB f = (holdRead c.bank c.latchB f.hb f.vb).1 := rfl

theorem latchA_latched (c : Ctx) (f : VFields) (readsB : Bool) : (c.latched f readsB).latchA = (holdRead c.bank c.latchA f.ha f.va).2 := rfl

theorem latchB_latched (c : Ctx) (f : VFields) : (c.latched f true).latchB = (holdRead c.bank c.latchB f.hb f.vb).2 := rfl

/-- Settles O11: each position goes through `holdRead`, by its hold bit and by whether its latch has been dropped. -/
theorem holdLatches : Obligations.HoldLatches := by
  unfold Obligations.HoldLatches
  intro c f
  simp only [posA_eq, posB_eq, latchA_latched, latchB_latched]
  refine ⟨?aFree, ?aHeld, ?aDropped, rfl, rfl, rfl, ?bFree, ?bHeld, ?bDropped⟩
  case aFree | bFree =>
    intro hh
    rw [hh, holdRead_register]
    exact ⟨rfl, rfl⟩
  case aHeld | bHeld =>
    intro hh x hx
    rw [hh, holdRead_held hx]
    exact ⟨rfl, rfl⟩
  case aDropped | bDropped =>
    intro hh hx
    rw [hh, holdRead_dropped hx]
    exact ⟨rfl, rfl⟩

end Sys2Proof.Proofs

/-! PROOFS. The state after power-on (O59). -/

namespace Sys2Proof.Proofs

set_option Elab.async false

open Sys2Proof Sys2Proof.Machine Sys2Proof.Claims Sys2Proof.Laws

theorem ctxAt_reset (ck : Nat) : State.reset.ctxAt ck = {} := rfl

theorem coreAt_reset (n : Nat) : State.reset.coreAt n = {} := rfl

theorem gfeAt_reset (k : Nat) : State.reset.gfeAt k = {} := rfl

theorem dev_reset (c : Nat) : State.reset.dev c = {} := rfl

theorem queue_reset (q : Nat) : State.reset.queue q = {} := rfl

theorem measure_reset (k : Nat) : State.reset.root.measure k = List.replicate 48 0 := rfl

/-- Settles O59: every sparse collection is empty at reset, so each accessor reads its default. -/
theorem powerOnState : Obligations.PowerOnState := by
  unfold Obligations.PowerOnState
  refine ⟨⟨rfl, rfl⟩, rfl, rfl, rfl, fun ck => ?context, fun n => ?core, fun k => ?gfe, rfl, rfl, rfl, fun c => ?device, fun q => ?queue,
    measure_reset, rfl⟩
  case context =>
    rw [ctxAt_reset]
    exact ⟨rfl, rfl, rfl, rfl, rfl, rfl, fun _ => ⟨rfl, rfl⟩⟩
  case core =>
    rw [coreAt_reset]
    exact ⟨rfl, rfl, rfl, rfl⟩
  case gfe => rw [gfeAt_reset]
  case device => rw [dev_reset]
  case queue => rw [queue_reset]

end Sys2Proof.Proofs

/-! PROOFS. LOOP and BRLOOP (O7). -/

namespace Sys2Proof.Proofs

set_option Elab.async false

open Sys2Proof Sys2Proof.Machine Sys2Proof.Claims Sys2Proof.Laws

/-! ### The loop counters (R152) -/

/-- What LOOP writes for a count and STM1. -/
theorem loopWrites_eq (m st : Nat) : loopWrites m (st + 1) =
    [RegW.k 0x20 (BitVec.ofNat 64 (m - 1)), .k 0x21 (BitVec.ofNat 64 (if m = 0 then 0 else st + 1)), .k 0x23 0, .k 0x22 0, .p 8 (decide (m ≠ 0)),
      .p 9 false, .p 10 false, .p 11 false, .p 12 false, .p 13 false, .p 14 false, .p 15 false] := by
  have hne : (m != 0) = decide (m ≠ 0) := by cases m <;> rfl
  rw [loopWrites, hne]

/-- The writes of a rotation: p8 to p14 move up, p8 takes a new value, and RRB steps down modulo RSZ, if there is a rotating region. -/
def rotation (b : Bank) (ins : Bool) : List RegW :=
  [.p 9 (b.pred 8), .p 10 (b.pred 9), .p 11 (b.pred 10), .p 12 (b.pred 11), .p 13 (b.pred 12), .p 14 (b.pred 13), .p 15 (b.pred 14), .p 8 ins] ++
    (if b.kreg 0x23 = 0 then [] else [.k 0x22 (BitVec.ofNat 64 ((b.kreg 0x22 + b.kreg 0x23 - 1) % b.kreg 0x23))])

section
variable {b : Bank}

/-- The step of the loop counters in the words of R152. -/
theorem loopStep_eq : loopStep b =
    if 0 < b.kreg 0x20 then (true, .k 0x20 (BitVec.ofNat 64 (b.kreg 0x20 - 1)) :: rotation b true)
    else if 1 < b.kreg 0x21 then (true, .k 0x21 (BitVec.ofNat 64 (b.kreg 0x21 - 1)) :: rotation b false)
    else if b.kreg 0x21 = 1 then (false, .k 0x21 0 :: rotation b false)
    else (false, []) := by
  have hrot : ∀ x : List RegW, (if 0 < b.kreg 0x23 then x else []) = if b.kreg 0x23 = 0 then [] else x := by
    intro x
    by_cases h : b.kreg 0x23 = 0 <;> simp [h, Nat.pos_of_ne_zero]
  simp only [loopStep, hrot]
  rfl

theorem loopStep_counts (h : 0 < b.kreg 0x20) : loopStep b = (true, .k 0x20 (BitVec.ofNat 64 (b.kreg 0x20 - 1)) :: rotation b true) := by
  rw [loopStep_eq, if_pos h]

theorem loopStep_drains (hlc : b.kreg 0x20 = 0) (hec : 1 < b.kreg 0x21) :
    loopStep b = (true, .k 0x21 (BitVec.ofNat 64 (b.kreg 0x21 - 1)) :: rotation b false) := by
  rw [loopStep_eq, if_neg (by omega), if_pos hec]

theorem loopStep_last (hlc : b.kreg 0x20 = 0) (hec : b.kreg 0x21 = 1) : loopStep b = (false, .k 0x21 0 :: rotation b false) := by
  rw [loopStep_eq, if_neg (by omega), if_neg (by omega), if_pos hec]

theorem loopStep_over (hlc : b.kreg 0x20 = 0) (hec : b.kreg 0x21 = 0) : loopStep b = (false, []) := by
  rw [loopStep_eq, if_neg (by omega), if_neg (by omega), if_neg (by omega)]

end

/-! ### BRLOOP (R180) -/

section
variable {s : State} {t : Nat} {ws : List RegW}

theorem brloop_transfers (hstep : loopStep s.ctx.bank = (true, ws)) (ht : Inside s t) :
    exec (.brloop t) s = .next (s.onCtx fun c => { c.later 1 ws with next := some t }) := by
  have hcheck : brloopCheck t s = .ok := by rw [brloopCheck, hstep]; exact transferVerdict_inside ht
  refine (slotOp_ok hcheck).trans ?_
  rw [hstep]
  rfl

theorem brloop_falls (hstep : loopStep s.ctx.bank = (false, ws)) : Results (.brloop t) s 1 ws := by
  have hcheck : brloopCheck t s = .ok := by rw [brloopCheck, hstep]; rfl
  refine (slotOp_ok hcheck).trans ?_
  rw [hstep]
  rfl

theorem brloop_traps (hstep : loopStep s.ctx.bank = (true, ws)) (ht : ¬Inside s t) : Traps (.brloop t) s 0x05 := by
  have hcheck : brloopCheck t s = .trap ⟨5, 0, 0, 0⟩ := by rw [brloopCheck, hstep]; exact transferVerdict_outside ht
  exact traps_of_slotOp rfl hcheck

end

/-- Settles O7: LOOP's writes are `loopWrites_eq`, and BRLOOP does what the step of the counters says (`loopStep_eq`). -/
theorem loopHardware : Obligations.LoopHardware := by
  unfold Obligations.LoopHardware
  intro s a t n st b lc ec start rot jump
  refine ⟨?loop, ?loopReg, ?counts, ?drains, ?last, ?idle, ?outside⟩
  case loop => exact results_of_later rfl (loopWrites_eq n st)
  case loopReg =>
    rw [toNat_val]
    exact results_of_later rfl (loopWrites_eq _ st)
  case counts => exact fun hlc ht => brloop_transfers (loopStep_counts hlc) ht
  case drains => exact fun hlc hec ht => brloop_transfers (loopStep_drains hlc hec) ht
  case last => exact fun hlc hec => brloop_falls (loopStep_last hlc hec)
  case idle => exact fun hlc hec => brloop_falls (loopStep_over hlc hec)
  case outside =>
    intro h ht
    obtain hlc | hlc := Nat.eq_zero_or_pos lc
    · exact brloop_traps (loopStep_drains hlc (h.resolve_left (Nat.not_lt.2 hlc.le))) ht
    · exact brloop_traps (loopStep_counts hlc) ht

end Sys2Proof.Proofs

/-! PROOFS. Reads and writes of the k-registers (O4, O5). -/

namespace Sys2Proof.Proofs

set_option Elab.async false

open Sys2Proof Sys2Proof.Machine Sys2Proof.Claims Sys2Proof.Laws

/-! ### Two updates of the acting context -/

theorem onCtx_onCtx (s : State) (f g : Ctx → Ctx) : (s.onCtx f).onCtx g = s.onCtx fun c => g (f c) := by
  have hctx : (s.onCtx f).ctxAt s.act.ck = f s.ctx := ctx_onCtx s f
  change (s.onCtx f).setCtxAt s.act.ck (g ((s.onCtx f).ctxAt s.act.ck)) = _
  rw [hctx]
  simp only [State.onCtx, State.onCtxAt, State.setCtxAt, ins_ins]
  rfl

/-! ### MFK (R158, R176) -/

/-- The number that an integer result writes, as a word. -/
theorem intW_eq_int64 (d n : Nat) : intW d n = int64 d (BitVec.ofNat 64 n) := by
  have hbits : BitVec.ofNat 128 (n % 2 ^ 64) = (BitVec.ofNat 64 n).setWidth 128 := BitVec.eq_of_toNat_eq (by simp)
  rw [intW, int64, hbits]

theorem mfkCheck_ok {k : Nat} {s : State} (h : k < 0x28 ∨ 0x2D < k ∨ s.core.cmds = []) : mfkCheck k s = .ok := by
  refine if_neg fun hwaits => ?_
  obtain ⟨hrange, hany⟩ := Bool.and_eq_true_iff.1 hwaits
  obtain ⟨hlo, hhi⟩ := Bool.and_eq_true_iff.1 hrange
  rw [decide_eq_true_eq] at hlo hhi
  obtain ⟨e, he, -⟩ := List.any_eq_true.1 hany
  obtain h | h | h := h
  · omega
  · omega
  · exact absurd (h ▸ he) List.not_mem_nil

/-- An MFK that does not wait reads its register. -/
theorem results_mfk {d k : Nat} {s : State} {x : BitVec 64} (h : k < 0x28 ∨ 0x2D < k ∨ s.core.cmds = []) (hx : s.kread k = x.toNat) :
    Results (.mfk d k) s 1 [int64 d x] :=
  results_of_later (slotOp_ok (mfkCheck_ok h)) (by rw [intW_eq_int64, hx, ofNat_toNat_self])

theorem kRegisterReads : KRegisterReads := by
  intro s d k _
  refine ⟨fun h48 h49 h60 h => results_mfk h ?_, fun h => results_mfk (by omega) ?_, fun h => ?_⟩
  · simp only [State.kread, h48, h49, h60]
    rfl
  · obtain rfl | rfl := h <;> rfl
  · subst h
    refine results_of_later (slotOp_ok (mfkCheck_ok (by omega))) ?_
    rw [intW_eq_int64]
    rfl

/-! ### The bits an MTK keeps (R147) -/

/-- What a write leaves in a k-register, as a word. -/
def kWord (k : Nat) (x : BitVec 64) : BitVec 64 := BitVec.ofNat 64 (kWritten k x.toNat)

/-- Bits [55:6] of a register, which an address of a line keeps. -/
def lineBits (x : BitVec 64) : BitVec 64 := (x.extractLsb' 6 50 ++ (0 : BitVec 6)).setWidth 64

section
variable (x : BitVec 64)

theorem ofNat_low (w : Nat) : BitVec.ofNat 64 (x.toNat % 2 ^ w) = (x.setWidth w).setWidth 64 := BitVec.eq_of_toNat_eq (by simp)

/-- A register that keeps the low w bits. -/
theorem kWord_low {k w : Nat} (h : kWritten k x.toNat = x.toNat % 2 ^ w) : kWord k x = (x.setWidth w).setWidth 64 := by
  rw [kWord, h, ofNat_low]

/-- A field of a word above n clear bits. -/
theorem toNat_field_append_zero (lo len n : Nat) : (x.extractLsb' lo len ++ (0 : BitVec n)).toNat = bitsOf x.toNat lo len * 2 ^ n := by
  have hzero : (0 : BitVec n).toNat = 0 := by simp
  rw [BitVec.toNat_append, BitVec.extractLsb'_toNat, Nat.shiftRight_eq_div_pow, Nat.shiftLeft_eq, hzero, Nat.or_zero, bitsOf]

theorem toNat_lineBits : (lineBits x).toNat = bitsOf x.toNat 6 50 * 64 := by
  have hlt : bitsOf x.toNat 6 50 < 2 ^ 50 := Nat.mod_lt _ (by decide)
  rw [lineBits, BitVec.toNat_setWidth, toNat_field_append_zero]
  omega

theorem kWritten_heap {k : Nat} (h : 0x10 ≤ k) (h' : k ≤ 0x12) : kWritten k x.toNat = (lineBits x).toNat := by
  rw [toNat_lineBits]
  interval_cases k <;> rfl

theorem kWord_heap {k : Nat} (h : 0x10 ≤ k) (h' : k ≤ 0x12) : kWord k x = lineBits x := by
  rw [kWord, kWritten_heap x h h', ofNat_toNat_self]

theorem kWritten_tileix {k : Nat} (h : 8 ≤ k) (h' : k ≤ 0x0D) : kWritten k x.toNat = x.toNat % 2 ^ 16 := by interval_cases k <;> rfl

theorem kWritten_nestCount {k : Nat} (h : 0x28 ≤ k) (h' : k ≤ 0x2D) : kWritten k x.toNat = x.toNat % 2 ^ 64 := by interval_cases k <;> rfl

theorem kWritten_nestShadow {k : Nat} (h : 0x30 ≤ k) (h' : k ≤ 0x35) : kWritten k x.toNat = x.toNat % 2 ^ 48 := by interval_cases k <;> rfl

/-- A register that keeps every bit. -/
theorem kWord_whole {k : Nat} (h : kWritten k x.toNat = x.toNat % 2 ^ 64) : kWord k x = x := by rw [kWord, h, ofNat_mod, ofNat_toNat_self]

/-- The table register of DISPATCH keeps bits [59:56] beside the line's address (R183). -/
theorem kWord_table : kWord 0x24 x = ((x.extractLsb' 56 4 ++ (0 : BitVec 56)).setWidth 64) ||| lineBits x := by
  have hlt : bitsOf x.toNat 6 50 < 2 ^ 50 := Nat.mod_lt _ (by decide)
  have hlt4 : bitsOf x.toNat 56 4 < 2 ^ 4 := Nat.mod_lt _ (by decide)
  have hhigh : ((x.extractLsb' 56 4 ++ (0 : BitVec 56)).setWidth 64).toNat = bitsOf x.toNat 56 4 <<< 56 := by
    rw [BitVec.toNat_setWidth, toNat_field_append_zero, Nat.shiftLeft_eq]
    omega
  apply BitVec.eq_of_toNat_eq
  rw [BitVec.toNat_or, hhigh, toNat_lineBits, ← Nat.shiftLeft_add_eq_or_of_lt (by omega), Nat.shiftLeft_eq, kWord, BitVec.toNat_ofNat]
  have hwritten : kWritten 0x24 x.toNat = bitsOf x.toNat 56 4 * 2 ^ 56 + bitsOf x.toNat 6 50 * 64 := rfl
  rw [hwritten]
  omega

omit x in
/-- Cutting off the low n bits of what stands from a position on. -/
theorem eq_add_of_div (v lo n : Nat) : v / 2 ^ lo = 2 ^ n * (v / 2 ^ (lo + n)) + v / 2 ^ lo % 2 ^ n := by
  rw [Nat.pow_add, ← Nat.div_div_eq_div_mul, Nat.div_add_mod]

omit x in
/-- A number of five fields, without its second and its fourth. -/
theorem clear_two_fields {v a b c d r s t u : Nat} (hv : v = 2 ^ 7 * a + r) (ha : a = 2 ^ 1 * b + s) (hb : b = 2 ^ 5 * c + t) (hc : c = 2 ^ 3 * d + u) :
    v - s * 2 ^ 7 - u * 2 ^ 13 = 2 ^ 8 * (2 ^ 8 * d + t) + r := by
  omega

/-- The reserved bits of the first word of an extraction pattern read as zero (R83). -/
theorem kWord_pattern : kWord 0x50 x = x &&& ~~~0xE080 := by
  have hmask : ∀ j < 64, (0xE080 : BitVec 64).getLsbD j = decide (j = 7 ∨ 13 ≤ j ∧ j < 16) := by decide
  have hparts : kWritten 0x50 x.toNat = 2 ^ 8 * (2 ^ 8 * (x.toNat / 2 ^ 16) + x.toNat / 2 ^ 8 % 2 ^ 5) + x.toNat % 2 ^ 7 := by
    have hwritten : kWritten 0x50 x.toNat = x.toNat % 2 ^ 64 - x.toNat / 2 ^ 7 % 2 ^ 1 * 2 ^ 7 - x.toNat / 2 ^ 13 % 2 ^ 3 * 2 ^ 13 := rfl
    rw [hwritten, Nat.mod_eq_of_lt x.isLt]
    exact clear_two_fields (Nat.div_add_mod _ _).symm (eq_add_of_div x.toNat 7 1) (eq_add_of_div x.toNat 8 5) (eq_add_of_div x.toNat 13 3)
  apply BitVec.eq_of_getLsbD_eq
  intro j hj
  rw [kWord, BitVec.getLsbD_ofNat, hparts, Nat.testBit_two_pow_mul_add _ (lt_trans (Nat.mod_lt _ (by decide)) (by decide)),
    Nat.testBit_two_pow_mul_add _ (lt_trans (Nat.mod_lt _ (by decide)) (by decide)), BitVec.getLsbD_and, BitVec.getLsbD_not, hmask j hj]
  simp only [Nat.testBit_mod_two_pow, Nat.testBit_div_two_pow, BitVec.getLsbD]
  have hlow : ¬j < 8 → j - 8 + 8 = j := by omega
  have hhigh : ¬j < 8 → ¬j - 8 < 8 → j - 8 - 8 + 16 = j := by omega
  grind

end

/-! ### The checks of MTK (R147, R148, R151, R92) -/

/-- The registers of R access class, HOFFSET among those that only the locked service store writes. -/
def LockedReg (k : Nat) : Prop := k ≤ 0x0D ∨ k = 0x12 ∨ 0x28 ≤ k ∧ k ≤ 0x2D ∨ k = 0x48 ∨ k = 0x49 ∨ k = 0x60

/-- The registers that any context writes with any value. -/
def OpenReg (k : Nat) : Prop := 0x20 ≤ k ∧ k ≤ 0x22 ∨ k = 0x24 ∨ 0x30 ≤ k ∧ k ≤ 0x41 ∨ 0x50 ≤ k ∧ k ≤ 0x53

section
variable {k v : Nat} {c : Ctx}

theorem mtkVerdict_lockedReg (h : LockedReg k) : mtkVerdict k v c = need c.locked ⟨5, 0, 0, 0⟩ := by
  unfold LockedReg at h
  have h23 : k ≠ 0x23 := by omega
  unfold mtkVerdict
  rw [if_neg h23]
  split
  · rfl
  · rename_i hout
    simp only [Bool.or_eq_true, Bool.and_eq_true, decide_eq_true_eq] at hout
    obtain rfl : k = 0x12 := by omega
    rfl

theorem mtkVerdict_openReg (h : OpenReg k) : mtkVerdict k v c = .ok := by
  unfold OpenReg at h
  have hout : ¬(decide (k ≤ 0x0D) || (decide (0x28 ≤ k) && decide (k ≤ 0x2D)) || decide (k = 0x48) || decide (k = 0x49) ||
      decide (k = 0x60)) = true := by
    simp only [Bool.or_eq_true, Bool.and_eq_true, decide_eq_true_eq]
    omega
  unfold mtkVerdict
  rw [if_neg (by omega), if_neg hout, if_neg (by omega), if_neg (by omega), if_neg (by omega), if_neg (by omega)]

/-- HBASE only rises outside the locked service store. -/
theorem mtkVerdict_hbase : mtkVerdict 0x10 v c = need (c.locked || decide (c.bank.kreg 0x10 < kWritten 0x10 v)) ⟨5, 0, 0, 0⟩ := rfl

/-- HLIMIT only falls outside the locked service store. -/
theorem mtkVerdict_hlimit : mtkVerdict 0x11 v c = need (c.locked || decide (kWritten 0x11 v < c.bank.kreg 0x11)) ⟨5, 0, 0, 0⟩ := rfl

/-- TWIN only narrows outside the locked service store. -/
theorem mtkVerdict_twin : mtkVerdict 0x42 v c = need (c.locked || windowInside (v % 256) (c.bank.kreg 0x42)) ⟨5, 0, 0, 0⟩ := rfl

theorem mtkVerdict_rsz : mtkVerdict 0x23 v c = need (v % 2 ^ 10 % 16 == 0 && decide (v % 2 ^ 10 ≤ 512)) ⟨2, 0, 0, 0⟩ := rfl

end

/-- The distance from o up to y, modulo 16, is at most c when y is one of the c + 1 numbers from o on. -/
theorem distance_le_iff {y o c : Nat} (hy : y < 16) (ho : o < 16) : (y + 16 - o) % 16 ≤ c ↔ ∃ m, m ≤ c ∧ y = (o + m) % 16 := by
  constructor
  · exact fun h => ⟨(y + 16 - o) % 16, h, by omega⟩
  · rintro ⟨m, hm, rfl⟩
    omega

/-- A window lies inside another when each tile number it names is one of the other's (R148). -/
theorem windowInside_iff (v old : Nat) : windowInside (v % 256) old = true ↔
    ∀ n, n ≤ v / 16 % 16 → ∃ m, m ≤ old / 16 % 16 ∧ (v + n) % 16 = (old + m) % 16 := by
  have hcount : bitsOf (v % 256) 4 4 = v / 16 % 16 := by unfold bitsOf; omega
  have hold : bitsOf old 4 4 = old / 16 % 16 := rfl
  have hlow : v % 256 % 16 = v % 16 := Nat.mod_mod_of_dvd v (by decide)
  have hdistance := fun n => distance_le_iff (c := old / 16 % 16) (Nat.mod_lt (v + n) (by decide : 0 < 16)) (Nat.mod_lt old (by decide : 0 < 16))
  simp only [windowInside, upTo_eq_range, List.all_eq_true, List.mem_range, decide_eq_true_eq, hcount, hold, hlow, Nat.mod_add_mod, hdistance,
    Nat.lt_succ_iff]

/-! ### The effect of MTK (R149, R176) -/

/-- The registers whose write from the locked service store is irrevocable (R149, log 31). -/
def fixedReg (k : Nat) : Bool :=
  decide (k ≤ 0x0D) || (decide (0x28 ≤ k) && decide (k ≤ 0x2D)) || k == 0x42 || k == 0x48 || k == 0x49 || k == 0x60

section
variable {s : State} {k a : Nat}

theorem mtkWrites_word (h22 : k ≠ 0x22) (h23 : k ≠ 0x23) : mtkWrites k (s.ctx.bank.int a) s.ctx.bank = [.k k (kWord k (val s a))] := by
  rw [mtkWrites, if_neg h23, if_neg h22, kWord, toNat_val]

/-- An accepted MTK of a register of the context puts its writes in flight. -/
theorem exec_mtk_context (hok : mtkVerdict k (s.ctx.bank.int a) s.ctx = .ok) (h48 : k ≠ 0x48) (h49 : k ≠ 0x49) (h60 : k ≠ 0x60) :
    exec (.mtk k a) s = .next (s.onCtx fun c =>
      { c.later 1 (mtkWrites k (s.ctx.bank.int a) s.ctx.bank) with irrev := s.ctx.irrev || (s.ctx.locked && fixedReg k) }) := by
  refine (slotOp_ok hok).trans (congrArg _ ?_)
  simp only [h48, h49, h60, decide_false, Bool.or_false, Bool.false_eq_true, if_false]
  exact (onCtx_onCtx s _ _).trans (onCtx_congr rfl)

/-- An accepted MTK that is not irrevocable does nothing but write. -/
theorem results_mtk (hok : mtkVerdict k (s.ctx.bank.int a) s.ctx = .ok) (h48 : k ≠ 0x48) (h49 : k ≠ 0x49) (h60 : k ≠ 0x60)
    (hfree : (s.ctx.locked && fixedReg k) = false) : Results (.mtk k a) s 1 (mtkWrites k (s.ctx.bank.int a) s.ctx.bank) := by
  refine (exec_mtk_context hok h48 h49 h60).trans (congrArg _ (onCtx_congr ?_))
  rw [hfree, Bool.or_false]
  rfl

/-- The same for a register that takes a word. -/
theorem results_mtk_word {x : BitVec 64} (hok : mtkVerdict k (s.ctx.bank.int a) s.ctx = .ok) (h22 : k ≠ 0x22) (h23 : k ≠ 0x23) (h48 : k ≠ 0x48)
    (h49 : k ≠ 0x49) (h60 : k ≠ 0x60) (hfree : (s.ctx.locked && fixedReg k) = false) (hx : kWord k (val s a) = x) :
    Results (.mtk k a) s 1 [.k k x] := by
  rw [← hx, ← mtkWrites_word h22 h23]
  exact results_mtk hok h48 h49 h60 hfree

theorem fixedReg_openReg (h : OpenReg k) : fixedReg k = false := by
  unfold OpenReg at h
  simp only [fixedReg, Bool.or_eq_false_iff, Bool.and_eq_false_iff, decide_eq_false_iff_not, beq_eq_false_iff_ne]
  omega

theorem results_mtk_openReg {x : BitVec 64} (h : OpenReg k) (h22 : k ≠ 0x22) (hx : kWord k (val s a) = x) : Results (.mtk k a) s 1 [.k k x] := by
  have hk := h
  unfold OpenReg at hk
  exact results_mtk_word (mtkVerdict_openReg h) h22 (by omega) (by omega) (by omega) (by omega) (by rw [fixedReg_openReg h, Bool.and_false]) hx

end

/-! ### Outside the locked service store (R147) -/

section
variable {s : State} {k a : Nat}

theorem traps_mtk {ti : TrapInfo} (h : mtkVerdict k (s.ctx.bank.int a) s.ctx = .trap ti) : Traps (.mtk k a) s ti.cause := traps_of_slotOp rfl h

theorem need_trap {c : Bool} {ti : TrapInfo} (h : c = false) : need c ti = .trap ti := by rw [h]; rfl

theorem locked_eq_false (h : s.ctx.bank.pc < 7680) : s.ctx.locked = false := by simpa [Ctx.locked] using h

theorem locked_eq_true (h : 7680 ≤ s.ctx.bank.pc) : s.ctx.locked = true := by simpa [Ctx.locked] using h

/-- A register that may only move one way: a write that moves it so is accepted, any other traps. -/
theorem narrows_mtk {p : Prop} {b : Bool} {x : BitVec 64} (hunlocked : s.ctx.locked = false)
    (hverdict : mtkVerdict k (s.ctx.bank.int a) s.ctx = need (s.ctx.locked || b) ⟨5, 0, 0, 0⟩) (hb : b = true ↔ p)
    (hk : k = 0x10 ∨ k = 0x11 ∨ k = 0x42) (hx : kWord k (val s a) = x) :
    (p → Results (.mtk k a) s 1 [.k k x]) ∧ (¬p → Traps (.mtk k a) s 0x05) := by
  rw [hunlocked, Bool.false_or] at hverdict
  refine ⟨fun hp => ?_, fun hp => traps_mtk (hverdict.trans (need_trap (Bool.eq_false_iff.2 (mt hb.1 hp))))⟩
  exact results_mtk_word (hverdict.trans (need_ok.2 (hb.2 hp))) (by omega) (by omega) (by omega) (by omega) (by omega)
    (by rw [hunlocked, Bool.false_and]) hx

end

theorem kRegisterWrites : KRegisterWrites := by
  intro s k a _ v line rsz inside
  have hint : s.ctx.bank.int a = v.toNat := (toNat_val s a).symm
  refine ⟨?lcPbound, ?ec, ?dtab, ?nestShadow, ?sbchk, ?bfxp0, ?bfxp12, ?bfxp3, ?rsz, ?rszTraps, ?rrb, ?unlocked⟩
  case lcPbound =>
    rintro (rfl | rfl)
    · exact results_mtk_openReg (by unfold OpenReg; omega) (by omega) (kWord_low v rfl)
    · exact results_mtk_openReg (by unfold OpenReg; omega) (by omega) (kWord_low v rfl)
  case ec =>
    rintro rfl
    exact results_mtk_openReg (by unfold OpenReg; omega) (by omega) (kWord_low v rfl)
  case dtab =>
    rintro rfl
    exact results_mtk_openReg (by unfold OpenReg; omega) (by omega) (kWord_table v)
  case nestShadow =>
    intro hlo hhi
    exact results_mtk_openReg (by unfold OpenReg; omega) (by omega) (kWord_low v (kWritten_nestShadow v hlo hhi))
  case sbchk =>
    rintro rfl
    exact results_mtk_openReg (by unfold OpenReg; omega) (by omega) (kWord_low v rfl)
  case bfxp0 =>
    rintro rfl
    exact results_mtk_openReg (by unfold OpenReg; omega) (by omega) (kWord_pattern v)
  case bfxp12 =>
    rintro (rfl | rfl)
    · exact results_mtk_openReg (by unfold OpenReg; omega) (by omega) (kWord_whole v rfl)
    · exact results_mtk_openReg (by unfold OpenReg; omega) (by omega) (kWord_whole v rfl)
  case bfxp3 =>
    rintro rfl
    exact results_mtk_openReg (by unfold OpenReg; omega) (by omega) rfl
  case rsz =>
    rintro rfl hmod hle
    have hok : mtkVerdict 0x23 (s.ctx.bank.int a) s.ctx = .ok := by
      rw [mtkVerdict_rsz, hint, need_ok]
      simp [hmod, hle]
    have hws : mtkWrites 0x23 (s.ctx.bank.int a) s.ctx.bank = [.k 0x23 ((v.setWidth 10).setWidth 64), .k 0x22 0] := by
      rw [hint, ← ofNat_low]
      rfl
    exact hws ▸ results_mtk hok (by omega) (by omega) (by omega) (Bool.and_false _)
  case rszTraps =>
    rintro rfl h
    refine traps_mtk (ti := ⟨2, 0, 0, 0⟩) ?_
    rw [mtkVerdict_rsz, hint]
    refine need_trap ?_
    rwa [Bool.and_eq_false_iff, beq_eq_false_iff_ne, decide_eq_false_iff_not, Nat.not_le]
  case rrb =>
    rintro rfl
    have hws : mtkWrites 0x22 (s.ctx.bank.int a) s.ctx.bank = [.k 0x22 (BitVec.ofNat 64 (if rsz = 0 then 0 else v.toNat % 512 % rsz))] := by
      rw [hint]
      rfl
    exact hws ▸ results_mtk (mtkVerdict_openReg (by unfold OpenReg; omega)) (by omega) (by omega) (by omega) (Bool.and_false _)
  case unlocked =>
    intro hpc
    have hunlocked := locked_eq_false hpc
    have hheap : ∀ j, 0x10 ≤ j → j ≤ 0x12 → kWritten j (s.ctx.bank.int a) = line.toNat := fun j hlo hhi => by
      rw [hint, kWritten_heap v hlo hhi]
      rfl
    have hbase := narrows_mtk (k := 0x10) (a := a) (p := s.ctx.bank.kreg 0x10 < line.toNat) (x := line) hunlocked
      mtkVerdict_hbase (by rw [hheap _ (by omega) (by omega), decide_eq_true_eq]) (by omega) (kWord_heap v (by omega) (by omega))
    have hlimit := narrows_mtk (k := 0x11) (a := a) (p := line.toNat < s.ctx.bank.kreg 0x11) (x := line) hunlocked
      mtkVerdict_hlimit (by rw [hheap _ (by omega) (by omega), decide_eq_true_eq]) (by omega) (kWord_heap v (by omega) (by omega))
    have htwin := narrows_mtk (k := 0x42) (a := a) (p := inside) (x := (v.setWidth 8).setWidth 64) hunlocked
      mtkVerdict_twin (by rw [hint]; exact windowInside_iff _ _) (by omega) (kWord_low v rfl)
    refine ⟨fun hk => ?_, ?_, ?_, ?_, ?_, ?_, ?_⟩
    · exact traps_mtk (ti := ⟨5, 0, 0, 0⟩) ((mtkVerdict_lockedReg hk).trans (need_trap hunlocked))
    · rintro rfl
      exact htwin.1
    · rintro rfl
      exact htwin.2
    · rintro rfl
      exact hbase.1
    · rintro rfl hle
      exact hbase.2 (Nat.not_lt.2 hle)
    · rintro rfl
      exact hlimit.1
    · rintro rfl hle
      exact hlimit.2 (Nat.not_lt.2 hle)

/-- Settles O4: reads by `results_mfk`; writes by the class of the register (`results_mtk_openReg`, `mtkVerdict_lockedReg`, `narrows_mtk`). -/
theorem kRegisterMoves : Obligations.KRegisterMoves := ⟨kRegisterReads, kRegisterWrites⟩

/-! ### From the locked service store (R149) -/

/-- A register whose write from the locked service store is irrevocable takes its word so. -/
theorem fixed_mtk {s : State} {k a : Nat} {x : BitVec 64} (hlocked : s.ctx.locked = true) (hok : mtkVerdict k (s.ctx.bank.int a) s.ctx = .ok)
    (hfixed : fixedReg k = true) (h48 : k ≠ 0x48) (h49 : k ≠ 0x49) (h60 : k ≠ 0x60) (hx : kWord k (val s a) = x) :
    exec (.mtk k a) s = .next (s.onCtx fun c => { c.later 1 [.k k x] with irrev := true }) := by
  have hk : k ≠ 0x22 ∧ k ≠ 0x23 := ⟨fun h => absurd hfixed (h ▸ by decide), fun h => absurd hfixed (h ▸ by decide)⟩
  rw [exec_mtk_context hok h48 h49 h60, mtkWrites_word hk.1 hk.2, hx, hlocked, hfixed, Bool.true_and, Bool.or_true]

/-- An MTK of DEADLINE or FWSHARE writes the core's register at once. -/
theorem exec_mtk_core {s : State} {k a : Nat} (hlocked : s.ctx.locked = true) (hk : k = 0x48 ∨ k = 0x49) :
    exec (.mtk k a) s = .next ((s.onCore fun c => { c with k := AMap.ins k (kWord k (val s a)) c.k }).onCtx fun c => { c with irrev := true }) := by
  have hok : mtkVerdict k (s.ctx.bank.int a) s.ctx = .ok := (mtkVerdict_lockedReg (by unfold LockedReg; omega)).trans (need_ok.2 hlocked)
  have hfixed : fixedReg k = true := by obtain rfl | rfl := hk <;> rfl
  refine (slotOp_ok hok).trans (congrArg _ ?_)
  have hcore : (decide (k = 0x48) || decide (k = 0x49)) = true := by simpa using hk
  rw [if_pos hcore, kWord, toNat_val]
  refine onCtx_congr ?_
  have hirrev : (s.ctx.irrev || (s.ctx.locked && fixedReg k)) = true := by rw [hlocked, hfixed, Bool.true_and, Bool.or_true]
  exact congrArg (fun b => ({ s.ctx with irrev := b } : Ctx)) hirrev

theorem exec_mtk_timebase {s : State} {a : Nat} (hlocked : s.ctx.locked = true) :
    exec (.mtk 0x60 a) s = .next (({ s with time := max s.time (val s a).toNat }).onCtx fun c => { c with irrev := true }) := by
  have hok : mtkVerdict 0x60 (s.ctx.bank.int a) s.ctx = .ok := (mtkVerdict_lockedReg (by unfold LockedReg; omega)).trans (need_ok.2 hlocked)
  refine (slotOp_ok hok).trans (congrArg _ ?_)
  rw [toNat_val]
  have hirrev : (s.ctx.irrev || (s.ctx.locked && fixedReg 0x60)) = true := by rw [hlocked]; exact Bool.or_true _
  exact onCtx_congr (s := { s with time := max s.time (s.ctx.bank.int a) }) (congrArg (fun b => ({ s.ctx with irrev := b } : Ctx)) hirrev)

/-- FWSHARE keeps its enable bit, and a share of at most 16 (R41). -/
theorem kWord_fwshare (x : BitVec 64) :
    (kWord 0x49 x).toNat / 256 % 2 = x.toNat / 256 % 2 ∧ (kWord 0x49 x).toNat % 32 = min (x.toNat % 32) 16 := by
  have hwritten : kWritten 0x49 x.toNat = x.toNat / 2 ^ 8 % 2 ^ 1 * 256 + min (x.toNat % 32) 16 := rfl
  have hbit : x.toNat / 256 % 2 = x.toNat / 2 ^ 8 % 2 ^ 1 := rfl
  have hlt : x.toNat / 2 ^ 8 % 2 ^ 1 < 2 := Nat.mod_lt _ (by decide)
  rw [kWord, hwritten, BitVec.toNat_ofNat, hbit]
  generalize x.toNat / 2 ^ 8 % 2 ^ 1 = b at hlt
  generalize x.toNat % 32 = m
  have hsmall : b * 256 + min m 16 < 2 ^ 64 := by omega
  rw [Nat.mod_eq_of_lt hsmall]
  omega

/-- Settles O5: an MTK from the locked service store passes every check, and `fixed_mtk`, `exec_mtk_core` and `exec_mtk_timebase` say what it does. -/
theorem lockedStoreWrites : Obligations.LockedStoreWrites := by
  unfold Obligations.LockedStoreWrites
  intro s k a _ hpc v line fixed
  have hlocked := locked_eq_true hpc
  have fixes : ∀ x, (k ≤ 0x0D ∨ 0x28 ≤ k ∧ k ≤ 0x2D) → kWord k v = x → fixed x := fun x hk hx => by
    have hfixed : fixedReg k = true := by
      simp only [fixedReg, Bool.or_eq_true, Bool.and_eq_true, decide_eq_true_eq]
      omega
    have hok : mtkVerdict k (s.ctx.bank.int a) s.ctx = .ok := (mtkVerdict_lockedReg (by unfold LockedReg; omega)).trans (need_ok.2 hlocked)
    exact fixed_mtk hlocked hok hfixed (by omega) (by omega) (by omega) hx
  have fixesLow : ∀ w, k ≤ 0x0D → kWritten k v.toNat = v.toNat % 2 ^ w → fixed ((v.setWidth w).setWidth 64) :=
    fun w hk hw => fixes _ (.inl hk) (kWord_low v hw)
  refine ⟨?cause, ?epc, ?opc, ?handle, ?faddr, ?tileix, ?twin, ?counts, ?heap, ?deadline, ?fwshare, ?timebase⟩
  case cause =>
    rintro rfl
    exact fixesLow 8 (by omega) rfl
  case epc =>
    rintro rfl
    exact fixesLow 13 (by omega) rfl
  case opc =>
    rintro rfl
    exact fixesLow 42 (by omega) rfl
  case handle =>
    rintro rfl
    exact fixesLow 16 (by omega) rfl
  case faddr =>
    rintro rfl
    exact fixesLow 56 (by omega) rfl
  case tileix => exact fun hlo hhi => fixesLow 16 hhi (kWritten_tileix v hlo hhi)
  case twin =>
    rintro rfl
    have hok : mtkVerdict 0x42 (s.ctx.bank.int a) s.ctx = .ok := by rw [mtkVerdict_twin, hlocked]; rfl
    exact fixed_mtk hlocked hok rfl (by omega) (by omega) (by omega) (kWord_low v rfl)
  case counts => exact fun hlo hhi => fixes _ (.inr ⟨hlo, hhi⟩) (kWord_whole v (kWritten_nestCount v hlo hhi))
  case heap =>
    intro hlo hhi
    have hok : mtkVerdict k (s.ctx.bank.int a) s.ctx = .ok := by
      obtain rfl | rfl | rfl : k = 0x10 ∨ k = 0x11 ∨ k = 0x12 := by omega
      · rw [mtkVerdict_hbase, hlocked]; rfl
      · rw [mtkVerdict_hlimit, hlocked]; rfl
      · exact (mtkVerdict_lockedReg (by unfold LockedReg; omega)).trans (need_ok.2 hlocked)
    have hfree : fixedReg k = false := by interval_cases k <;> rfl
    exact results_mtk_word hok (by omega) (by omega) (by omega) (by omega) (by omega) (by rw [hfree, Bool.and_false]) (kWord_heap v hlo hhi)
  case deadline =>
    rintro rfl
    rw [exec_mtk_core hlocked (.inl rfl), kWord_low v rfl]
  case fwshare =>
    rintro rfl
    obtain ⟨henable, hshare⟩ := kWord_fwshare v
    have hread : ((s.onCore fun c => { c with k := AMap.ins 0x49 (kWord 0x49 v) c.k }).onCtx fun c => { c with irrev := true }).core.kreg 0x49 =
        (kWord 0x49 v).toNat := by
      rw [core_onCtx, core_onCore, Core.kreg, get_ins_self]
    refine ⟨_, exec_mtk_core hlocked (.inr rfl), ?_, ?_, ?_, ?_, rfl⟩
    · rw [hread, henable]
    · rw [hread, hshare]
    · rw [ctx_onCtx]
    · rw [ctx_onCtx]
      rfl
  case timebase =>
    rintro rfl
    exact exec_mtk_timebase hlocked

end Sys2Proof.Proofs

/-! PROOFS. MXGO behind commands that a stopped holder of the matrix unit left (O14). -/

namespace Sys2Proof.Proofs

set_option Elab.async false

open Sys2Proof Sys2Proof.Machine Sys2Proof.Claims Sys2Proof.Laws

/-- The number of the core's next engine command after an operation. -/
def nextSeqAfter (i : Instr) (s : State) : Option Nat :=
  match exec i s with
  | .next t => some t.core.nextSeq
  | _ => none

/-- An operation that enters an engine queue takes the core's next number. -/
theorem nextSeqAfter_of_queues {i : Instr} {s : State} {q : Nat} {caps : List SReg} {args : List Nat} {P : State → Prop}
    (h : Queues i s q caps args P) : nextSeqAfter i s = some (s.core.nextSeq + 1) := by
  obtain ⟨t, hexec, -, -, hseq, -⟩ := h
  simp only [nextSeqAfter, hexec, hseq]

/-- A command of the matrix array that another bind's work left in its queue when it was stopped (log 107). -/
def leftCommand : EngCmd := { olderZeroing with work := { uid := 1 } }

/-- The acting context holds a capability of the accumulator store; no context holds the matrix unit, and a left command is still queued. -/
def leftoverState : State :=
  { State.reset with ctxs := [(0, { bank := { s := [(0, mkCap 0 256 28 0 4 0)] } })], cores := [(0, { cmds := [leftCommand] })] }

/-- An MXGO whose sources are tile register t0 and whose destination is s0. -/
def tileMxgo : MxgoF := ⟨0, 0, 0, 0, false, false, false, 1, 0, false, false, 0⟩

/-- Refutes O14: the matrix unit has no holder, but a command that its stopped holder left runs first (log 107), which the statement does not exclude;
the MXGO blocks, and no command enters the queue. -/
theorem not_nestAndMxgo : ¬ Obligations.NestAndMxgo := by
  intro h
  obtain ⟨-, -, hmxgo⟩ := h leftoverState 0 0 0 false 0 0 tileMxgo
  have hqueues := nextSeqAfter_of_queues (hmxgo (show InWindow leftoverState 0 from Nat.zero_le _) (fun hm => absurd hm (by decide))
    (by unfold tileMxgo Holds; decide +kernel) (by unfold Room; decide +kernel) (.inl rfl))
  exact absurd hqueues (by decide +kernel)

end Sys2Proof.Proofs

/-! PROOFS. What a precise trap and a rollback save, keep and drop (O52). -/

namespace Sys2Proof.Proofs

set_option Elab.async false

open Sys2Proof Sys2Proof.Machine Sys2Proof.Claims Sys2Proof.Laws

/-! ### The 64 bytes of a trap record (R314) -/

/-- Cutting past a first field. -/
theorem drop_append_of_length_le {xs : List Byte} {n : Nat} (h : xs.length ≤ n) (ys : List Byte) : (xs ++ ys).drop n = ys.drop (n - xs.length) := by
  rw [List.drop_append, List.drop_eq_nil_of_le h, List.nil_append]

theorem take_leBytes_append (v n : Nat) (ys : List Byte) : (leBytes v n ++ ys).take n = leBytes v n := List.take_left' (leBytes_length n v)

theorem take_leBytes (v n : Nat) : (leBytes v n).take n = leBytes v n := List.take_of_length_le (leBytes_length n v).le

section
variable (fdom time : Nat) (w : TrapWho) (t : TrapInfo)

/-- The tile indices take twelve bytes. -/
theorem length_tix (l : List Nat) : ((upTo 6).flatMap fun i => leBytes (nth 0 l i) 2).length = 12 := by
  simp [upTo, leBytes_length]

theorem length_trapBytes : (trapBytes fdom time w t).length = 64 := by
  simp only [trapBytes, List.length_append, leBytes_length, length_tix]

/-- The fields of a record that the statements read, each at its offset. -/
theorem trapBytes_fields :
    ((trapBytes fdom time w t).drop 0x00).take 1 = leBytes t.cause 1 ∧ ((trapBytes fdom time w t).drop 0x0C).take 4 = leBytes w.opc 4 ∧
      ((trapBytes fdom time w t).drop 0x12).take 2 = leBytes w.epc 2 ∧ ((trapBytes fdom time w t).drop 0x20).take 8 = leBytes (t.faddr % 2 ^ 56) 8 ∧
      ((trapBytes fdom time w t).drop 0x28).take 8 = leBytes w.rcb 8 ∧ ((trapBytes fdom time w t).drop 0x30).take 8 = leBytes time 8 ∧
      ((trapBytes fdom time w t).drop 0x38).take 8 = leBytes t.aux 8 := by
  refine ⟨?_, ?_, ?_, ?_, ?_, ?_, ?_⟩ <;>
    simp only [trapBytes, List.append_assoc, drop_append_of_length_le, leBytes_length, length_tix, take_leBytes_append, take_leBytes, List.drop_zero,
      Nat.reduceLeDiff, Nat.reduceSub]

end

/-- The number in bytes that a number of that width was written to. -/
theorem leNat_of_eq {bs : List Byte} {v n : Nat} (h : bs = leBytes v n) : leNat bs = v % 2 ^ (8 * n) := by rw [h, leNat_leBytes]

/-- The number that a record holds in a field. -/
def TrapRec.field (r : TrapRec) (n w : Nat) : Nat := leNat ((r.bytes.drop n).take w)

/-- A context's record says what trapped, who it is and when. -/
theorem trapRecOf_fields (s : State) (ck : Nat) (t : TrapInfo) (res : Bool) :
    let r := s.trapRecOf ck t res
    let c := s.ctxAt ck
    TrapRec.field r 0x00 1 = t.cause % 2 ^ (8 * 1) ∧ TrapRec.field r 0x0C 4 = c.work.opc % 2 ^ (8 * 4) ∧
      TrapRec.field r 0x12 2 = c.bank.pc % 2 ^ (8 * 2) ∧ TrapRec.field r 0x20 8 = t.faddr % 2 ^ 56 % 2 ^ (8 * 8) ∧
      TrapRec.field r 0x28 8 = c.work.rcb % 2 ^ (8 * 8) ∧ TrapRec.field r 0x30 8 = s.time % 2 ^ (8 * 8) ∧
      TrapRec.field r 0x38 8 = t.aux % 2 ^ (8 * 8) := by
  intro r c
  obtain ⟨hcause, hopc, hepc, hfaddr, hrcb, htime, haux⟩ := trapBytes_fields (s.fdom c.work.ctxid c.work.rcb) s.time (c.who ck) t
  exact ⟨leNat_of_eq hcause, leNat_of_eq hopc, leNat_of_eq hepc, leNat_of_eq hfaddr, leNat_of_eq hrcb, leNat_of_eq htime, leNat_of_eq haux⟩

/-! ### The registers after a rollback (R157) -/

/-- Values listed one after another: a listed key reads its own, any other key as before. -/
theorem get_foldl_ins (f : Nat → Word) (l : List Nat) (m : AMap Word) (j : Nat) :
    AMap.get 0 (l.foldl (fun m i => AMap.ins i (f i) m) m) j = if j ∈ l then f j else AMap.get 0 m j := by
  induction l generalizing m with
  | nil => simp
  | cons i l ih =>
    rw [List.foldl_cons, ih]
    by_cases hl : j ∈ l
    · simp [hl]
    · by_cases hi : j = i
      · subst hi
        simp [hl, get_ins_self]
      · simp [hl, hi, get_ins_ne]

/-- A rollback leaves the trap registers and restores every other k-register. -/
theorem kreg_restoreBank (snap now : Bank) (i : Nat) : (restoreBank snap now).kreg i = if i ∈ trapRegs then now.kreg i else snap.kreg i := by
  have hget := get_foldl_ins (AMap.get 0 now.k) trapRegs snap.k i
  rw [Bank.kreg, restoreBank, hget, apply_ite BitVec.toNat]
  rfl

theorem mem_trapRegs_iff (i : Nat) : i ∈ trapRegs ↔ i ≤ 4 ∨ 8 ≤ i ∧ i ≤ 13 := by
  have hranges : trapRegs = List.range' 0 5 ++ List.range' 8 6 := rfl
  rw [hranges, List.mem_append, List.mem_range'_1, List.mem_range'_1]
  omega

/-! ### A translation fault (R103) -/

/-- A translation fault of another cause than 0x08 leaves the TLB: its record joins those that wait, and the context rolls back. -/
theorem takeFault_eq {cause : Nat} (va : Nat) (s : State) (h : cause ≠ 8) :
    takeFault cause va s = ({ s with traps := s.traps ++ [s.trapRecOf s.act.ck ⟨cause, va, 0, 0⟩ true] } : State).onCtx fun c =>
      { c.rollback with status := .blocked (.fault va (cause != 6)), owed := c.answered } := by
  rw [takeFault, if_neg h]
  rfl

/-- Settles O52: both operations record and then update the one context (`takeTrap_eq`, `takeFault_eq`); the record's fields are `trapRecOf_fields`,
the registers after a rollback `kreg_restoreBank`. -/
theorem trapsAndRollbacks : Obligations.TrapsAndRollbacks := by
  unfold Obligations.TrapsAndRollbacks
  intro s ti cause va ck c told others recorded
  have hrecorded : ∀ (u : State) (t : TrapInfo) (res : Bool), u.traps = s.traps ++ [s.trapRecOf ck t res] → recorded u t.cause t.faddr t.aux res :=
    fun u t res hu => by
      obtain ⟨hcause, hopc, hepc, hfaddr, hrcb, htime, haux⟩ := trapRecOf_fields s ck t res
      exact ⟨_, hu, rfl, rfl, rfl, rfl, rfl, rfl, length_trapBytes _ _ _ _, hcause, hopc, hepc, hfaddr, hrcb, htime, haux⟩
  have hothers : ∀ (l : List TrapRec) (f : Ctx → Ctx), others (({ s with traps := l } : State).onCtx f) :=
    fun l f => ⟨rfl, rfl, rfl, fun k hk => ctxAt_onCtx_ne { s with traps := l } f hk⟩
  refine ⟨?trap, fun hcause => ?fault⟩
  case trap =>
    have hctx := takeTrap_ctx ti s
    refine ⟨takeTrap_eq ti s ▸ hothers _ _, hrecorded _ ti false (takeTrap_traps ti s), ?_⟩
    rw [hctx]
    exact ⟨rfl, rfl, rfl, rfl, rfl, rfl⟩
  case fault =>
    have hfault := takeFault_eq va s hcause
    have hctx : (takeFault cause va s).ctx = { c.rollback with status := .blocked (.fault va (cause != 6)), owed := c.answered } := by
      rw [hfault, ctx_onCtx]
      rfl
    have hkreg := kreg_restoreBank c.snap c.bank
    refine ⟨hfault ▸ hothers _ _, hrecorded _ ⟨cause, va, 0, 0⟩ true (hfault ▸ rfl), ?_⟩
    rw [hctx]
    exact ⟨⟨_, rfl⟩, rfl, rfl, fun v hv => (List.mem_filter.1 hv).2, rfl, rfl, rfl, rfl, rfl, rfl,
      fun i hi => (hkreg i).trans (if_pos ((mem_trapRegs_iff i).2 hi)),
      fun i hi => (hkreg i).trans (if_neg (by rw [mem_trapRegs_iff]; omega))⟩

end Sys2Proof.Proofs

/-! PROOFS. The integer operations of the S slot (O1). -/

namespace Sys2Proof.Proofs

set_option Elab.async false

open Sys2Proof Sys2Proof.Machine Sys2Proof.Claims Sys2Proof.Laws

/-! ### An integer result (R166) -/

section
variable {i : Instr} {s : State} {n d a b : Nat} {x : BitVec 64}

/-- An integer operation writes the word that it computes from the bank. -/
theorem results_intOp (f : Bank → Nat) (hexec : exec i s = intOp n d f s) (hx : BitVec.ofNat 64 (f s.ctx.bank) = x) :
    Results i s n [int64 d x] :=
  results_of_later hexec (by rw [intW_eq_int64, hx])

/-- One that computes from one operand. -/
theorem results_unary (g : Nat → Nat) (hexec : exec i s = intOp n d (fun k => g (k.int a)) s)
    (hx : BitVec.ofNat 64 (g (val s a).toNat) = x) : Results i s n [int64 d x] :=
  results_intOp _ hexec (by rw [← hx, toNat_val])

/-- One that computes from two operands. -/
theorem results_binary (g : Nat → Nat → Nat) (hexec : exec i s = intOp n d (fun k => g (k.int a) (k.int b)) s)
    (hx : BitVec.ofNat 64 (g (val s a).toNat (val s b).toNat) = x) : Results i s n [int64 d x] :=
  results_intOp _ hexec (by rw [← hx, toNat_val, toNat_val])

end

/-! ### Words of the integer operations (R168) -/

/-- Two bit strings side by side, as a number. -/
theorem toNat_append_eq_add {m n : Nat} (x : BitVec m) (y : BitVec n) : (x ++ y).toNat = x.toNat * 2 ^ n + y.toNat := by
  rw [BitVec.toNat_append, ← Nat.shiftLeft_add_eq_or_of_lt y.isLt, Nat.shiftLeft_eq]

theorem ofNat_trunc (z : Int) : BitVec.ofNat 64 (trunc 64 z) = BitVec.ofInt 64 z := by rw [trunc_eq_toNat_ofInt, ofNat_toNat_self]

section
variable (x y : BitVec 64)

theorem ofNat_lih (k : BitVec 22) : BitVec.ofNat 64 (k.toNat * 2 ^ 42 + x.toNat % 2 ^ 42) = k ++ x.setWidth 42 := by
  apply BitVec.eq_of_toNat_eq
  have hk := k.isLt
  rw [toNat_append_eq_add, BitVec.toNat_setWidth, BitVec.toNat_ofNat]
  omega

theorem ofInt_toNat : BitVec.ofInt 64 (x.toNat : Int) = x := by rw [BitVec.ofInt_natCast, ofNat_toNat_self]

theorem ofNat_sub_words : BitVec.ofNat 64 (trunc 64 ((x.toNat : Int) - y.toNat)) = x - y := by
  rw [ofNat_trunc, Int.sub_eq_add_neg, BitVec.ofInt_add, BitVec.ofInt_neg, ofInt_toNat, ofInt_toNat, BitVec.sub_eq_add_neg]

theorem ofNat_shlVal (n : Nat) : BitVec.ofNat 64 (shlVal x.toNat n) = x <<< n := by
  apply BitVec.eq_of_toNat_eq
  rw [shlVal, BitVec.toNat_ofNat, BitVec.toNat_shiftLeft, Nat.shiftLeft_eq]

theorem ofNat_shrVal (n : Nat) : BitVec.ofNat 64 (shrVal x.toNat n) = x >>> n := by
  rw [shrVal, ← Nat.shiftRight_eq_div_pow, ← BitVec.toNat_ushiftRight, ofNat_toNat_self]

theorem ofNat_sraVal (n : Nat) : BitVec.ofNat 64 (sraVal x.toNat n) = x.sshiftRight n := by
  rw [sraVal, ofNat_trunc, sext_toNat, asr, ← Int.shiftRight_eq_div_pow, ← BitVec.toInt_sshiftRight, BitVec.ofInt_toInt]

/-- A choice between two operands by a condition on the words that they stand for. -/
theorem ofNat_ite_words {p q : Prop} [Decidable p] [Decidable q] (h : p ↔ q) :
    BitVec.ofNat 64 (if p then x.toNat else y.toNat) = if q then x else y := by
  rw [ofNat_ite h, ofNat_toNat_self, ofNat_toNat_self]

theorem asMode_signed_le : asMode 0 x.toNat ≤ asMode 0 y.toNat ↔ x.sle y = true := sext_le_iff x y

theorem asMode_unsigned_le : asMode 1 x.toNat ≤ asMode 1 y.toNat ↔ x.ule y = true := Int.ofNat_le.trans BitVec.ule_iff_toNat_le.symm

/-! ### The high half of a product, quotients and remainders (R168, R169) -/

omit x y in
/-- The high half of an integer's low 128 bits. -/
theorem ofNat_highHalf (z : Int) : BitVec.ofNat 64 (trunc 64 (z / (2 ^ 64 : Nat))) = (BitVec.ofInt 128 z).extractLsb' 64 64 := by
  rw [ofNat_trunc]
  apply BitVec.eq_of_toNat_eq
  rw [BitVec.extractLsb'_toNat, BitVec.toNat_ofInt, BitVec.toNat_ofInt, Nat.shiftRight_eq_div_pow]
  omega

theorem signExtend_eq_ofInt : x.signExtend 128 = BitVec.ofInt 128 (sext x.toNat 64) := by rw [sext_toNat]; rfl

theorem setWidth_eq_ofInt : x.setWidth 128 = BitVec.ofInt 128 (x.toNat : Int) := by rw [BitVec.ofInt_natCast, BitVec.ofNat_toNat]

theorem ofNat_mulh_signed :
    BitVec.ofNat 64 (trunc 64 (mulhVal 0 x.toNat y.toNat)) = (x.signExtend 128 * y.signExtend 128).extractLsb' 64 64 := by
  rw [signExtend_eq_ofInt, signExtend_eq_ofInt, ← BitVec.ofInt_mul, ← ofNat_highHalf]
  rfl

theorem ofNat_mulh_unsigned :
    BitVec.ofNat 64 (trunc 64 (mulhVal 1 x.toNat y.toNat)) = (x.setWidth 128 * y.setWidth 128).extractLsb' 64 64 := by
  rw [setWidth_eq_ofInt, setWidth_eq_ofInt, ← BitVec.ofInt_mul, ← ofNat_highHalf]
  rfl

theorem ofNat_mulh_mixed :
    BitVec.ofNat 64 (trunc 64 (mulhVal 2 x.toNat y.toNat)) = (x.signExtend 128 * y.setWidth 128).extractLsb' 64 64 := by
  rw [signExtend_eq_ofInt, setWidth_eq_ofInt, ← BitVec.ofInt_mul, ← ofNat_highHalf]
  rfl

theorem divRem_unsigned : divRem 1 x.toNat y.toNat =
    if y = 0 then ((BitVec.allOnes 64).toNat, x.toNat) else ((x / y).toNat, (x % y).toNat) := by
  by_cases hy : y = 0
  · have hall : divRem 1 x.toNat y.toNat = (2 ^ 64 - 1, x.toNat % 2 ^ 64) := by rw [hy]; rfl
    rw [hall, if_pos hy, Nat.mod_eq_of_lt x.isLt]
    rfl
  · have hne : (y.toNat : Int) ≠ 0 := mt (Int.natCast_eq_zero.trans (BitVec.toNat_inj (y := 0))).1 hy
    have hquot : trunc 64 ((x.toNat : Int).tdiv y.toNat) = (x / y).toNat := by
      rw [← Int.ofNat_tdiv, ← BitVec.toNat_udiv, trunc_eq_toNat_ofInt, ofInt_toNat]
    have hrem : trunc 64 ((x.toNat : Int) - y.toNat * (x.toNat : Int).tdiv y.toNat) = (x % y).toNat := by
      rw [← Int.tmod_def, ← Int.ofNat_tmod, ← BitVec.toNat_umod, trunc_eq_toNat_ofInt, ofInt_toNat]
    rw [if_neg hy, ← hquot, ← hrem]
    exact if_neg hne

theorem ofNat_div_unsigned : BitVec.ofNat 64 (divRem 1 x.toNat y.toNat).1 = if y = 0 then BitVec.allOnes 64 else x / y := by
  rw [divRem_unsigned]
  split <;> exact ofNat_toNat_self _

theorem ofNat_rem_unsigned : BitVec.ofNat 64 (divRem 1 x.toNat y.toNat).2 = if y = 0 then x else x % y := by
  rw [divRem_unsigned]
  split <;> exact ofNat_toNat_self _

end

theorem integerOps : IntegerOps := by
  intro s d a b n imm
  refine ⟨rfl, ?li, fun k => ?lih, ?add, ?addi, ?sub, ?and, ?or, ?xor, ?shl, ?shlImm, ?shr, ?shrImm, ?sra, ?sraImm, ?minSigned, ?minUnsigned,
    ?maxSigned, ?maxUnsigned, ?sel⟩
  case li => exact results_intOp (fun _ => trunc 64 imm) rfl (ofNat_trunc imm)
  case lih => exact results_unary (fun x => k.toNat * 2 ^ 42 + x % 2 ^ 42) rfl (ofNat_lih _ k)
  case add => exact results_binary (· + ·) rfl (gopResult_eq_gop (op := 0) _ _ (by decide))
  case addi => exact results_unary (fun x => trunc 64 ((x : Int) + imm)) rfl (by rw [ofNat_trunc, BitVec.ofInt_add, ofInt_toNat])
  case sub => exact results_binary (fun x y => trunc 64 ((x : Int) - y)) rfl (ofNat_sub_words _ _)
  case and => exact results_binary Nat.land rfl (gopResult_eq_gop (op := 9) _ _ (by decide))
  case or => exact results_binary Nat.lor rfl (gopResult_eq_gop (op := 10) _ _ (by decide))
  case xor => exact results_binary Nat.xor rfl (gopResult_eq_gop (op := 11) _ _ (by decide))
  case shl => exact results_binary (fun x y => shlVal x (y % 64)) rfl (ofNat_shlVal _ _)
  case shlImm => exact results_unary (fun x => shlVal x n) rfl (ofNat_shlVal _ n)
  case shr => exact results_binary (fun x y => shrVal x (y % 64)) rfl (ofNat_shrVal _ _)
  case shrImm => exact results_unary (fun x => shrVal x n) rfl (ofNat_shrVal _ n)
  case sra => exact results_binary (fun x y => sraVal x (y % 64)) rfl (ofNat_sraVal _ _)
  case sraImm => exact results_unary (fun x => sraVal x n) rfl (ofNat_sraVal _ n)
  case minSigned =>
    exact results_binary (fun x y => if asMode 0 x ≤ asMode 0 y then x else y) rfl (ofNat_ite_words _ _ (asMode_signed_le _ _))
  case minUnsigned =>
    exact results_binary (fun x y => if asMode 1 x ≤ asMode 1 y then x else y) rfl (ofNat_ite_words _ _ (asMode_unsigned_le _ _))
  case maxSigned =>
    exact results_binary (fun x y => if asMode 0 x ≤ asMode 0 y then y else x) rfl (ofNat_ite_words _ _ (asMode_signed_le _ _))
  case maxUnsigned =>
    exact results_binary (fun x y => if asMode 1 x ≤ asMode 1 y then y else x) rfl (ofNat_ite_words _ _ (asMode_unsigned_le _ _))
  case sel =>
    exact results_intOp (fun k => if k.pred n then k.int a else k.int b) rfl (by rw [← toNat_val, ← toNat_val, ofNat_ite_words _ _ Iff.rfl])

theorem productsAndQuotients : ProductsAndQuotients := by
  intro s d a b
  refine ⟨?mul, ?mulhSigned, ?mulhUnsigned, ?mulhMixed, ?divSigned, ?divUnsigned, ?remSigned, ?remUnsigned⟩
  case mul => exact results_binary (· * ·) rfl (gopResult_eq_gop (op := 2) _ _ (by decide))
  case mulhSigned => exact results_binary (fun x y => trunc 64 (mulhVal 0 x y)) rfl (ofNat_mulh_signed _ _)
  case mulhUnsigned => exact results_binary (fun x y => trunc 64 (mulhVal 1 x y)) rfl (ofNat_mulh_unsigned _ _)
  case mulhMixed => exact results_binary (fun x y => trunc 64 (mulhVal 2 x y)) rfl (ofNat_mulh_mixed _ _)
  case divSigned => exact results_binary (fun x y => (divRem 0 x y).1) rfl (gopResult_div _ _)
  case divUnsigned => exact results_binary (fun x y => (divRem 1 x y).1) rfl (ofNat_div_unsigned _ _)
  case remSigned => exact results_binary (fun x y => (divRem 0 x y).2) rfl (gopResult_rem _ _)
  case remUnsigned => exact results_binary (fun x y => (divRem 1 x y).2) rfl (ofNat_rem_unsigned _ _)

/-- Settles O1: each operation writes the word its number stands for (`results_intOp`): `integerOps` and `productsAndQuotients`. -/
theorem integerResults : Obligations.IntegerResults := ⟨integerOps, productsAndQuotients⟩

end Sys2Proof.Proofs

/-! PROOFS. Compares, predicate logic and the capability test (O2). -/

namespace Sys2Proof.Proofs

set_option Elab.async false

open Sys2Proof Sys2Proof.Machine Sys2Proof.Claims Sys2Proof.Laws

/-! ### Condition codes (R170) -/

/-- The signed conditions order the numbers of two's complement, the unsigned ones the plain numbers; each comes with its opposite. -/
theorem condHolds_eq_ccode {k : Nat} (hk : k ≤ 9) (x y : BitVec 64) : condHolds k x.toNat y.toNat = ccode k x y := by
  simp only [condHolds, sext_toNat, ← BitVec.slt_eq_decide, ← BitVec.sle_eq_decide, ← BitVec.ult_eq_decide, ← BitVec.ule_eq_decide]
  have hbeq : (x.toNat == y.toNat) = (x == y) := by rw [Bool.eq_iff_iff, beq_iff_eq, beq_iff_eq, BitVec.toNat_inj]
  interval_cases k
  · exact hbeq
  · exact congrArg not hbeq
  · rfl
  · exact BitVec.sle_eq_not_slt
  · rfl
  · exact Bool.not_eq_eq_eq_not.1 BitVec.sle_eq_not_slt.symm
  · rfl
  · exact BitVec.ule_eq_not_ult y x
  · rfl
  · exact Bool.not_eq_eq_eq_not.1 (BitVec.ule_eq_not_ult x y).symm

/-- An operation that writes a predicate pair from its bank. -/
theorem results_pairOp {i : Instr} {s : State} {pd pc : Nat} {t : Bool} (f : Bank → Bool) (hexec : exec i s = pairOp pd pc f s)
    (ht : f s.ctx.bank = t) : Results i s 1 [.p pd t, .p pc (!t)] :=
  results_of_later hexec (by rw [ht, pairW])

/-! ### Predicate logic (R171) -/

section
variable (na nb : Bool)

theorem bitOf_one_negations : bitOf (2 * na.toNat + nb.toNat) 1 = na := by cases na <;> cases nb <;> rfl

theorem bitOf_zero_negations : bitOf (2 * na.toNat + nb.toNat) 0 = nb := by cases na <;> cases nb <;> rfl

end

/-! ### The capability test (R175) -/

/-- A field of a word, as a number. -/
theorem bitsOf_toNat {w : Nat} (x : BitVec w) (lo n : Nat) : bitsOf x.toNat lo n = (x.extractLsb' lo n).toNat := by
  rw [BitVec.extractLsb'_toNat, Nat.shiftRight_eq_div_pow, bitsOf]

theorem land_beq_mask (x mask : BitVec 5) : (Nat.land x.toNat mask.toNat == mask.toNat) = decide (x &&& mask = mask) := by
  rw [Bool.eq_iff_iff, beq_iff_eq, decide_eq_true_iff, ← BitVec.toNat_inj]
  rfl

/-- Settles O2: compares by `condHolds_eq_ccode`, predicate logic by the bits of its inversions, CTEST by `land_beq_mask`. -/
theorem comparesAndPredicates : Obligations.ComparesAndPredicates := by
  unfold Obligations.ComparesAndPredicates
  intro s pd pc a b k imm na nb mask
  refine ⟨fun hk => ?cmp, fun hk => ?cmpi, ?pand, ?por, ?pxor, ?ctest⟩
  case cmp =>
    exact results_pairOp (fun c => condHolds k (c.int a) (c.int b)) rfl (by rw [← toNat_val, ← toNat_val, condHolds_eq_ccode hk])
  case cmpi =>
    exact results_pairOp (fun c => condHolds k (c.int a) (trunc 64 imm)) rfl
      (by rw [← toNat_val, trunc_eq_toNat_ofInt, condHolds_eq_ccode hk])
  case pand | por | pxor =>
    refine results_of_later rfl ?_
    dsimp only [predLogic]
    rw [bitOf_one_negations, bitOf_zero_negations]
    rfl
  case ctest =>
    refine results_pairOp (fun c => (c.sreg a).tag && Nat.land (bitsOf (c.sreg a).num 27 5) mask.toNat == mask.toNat) rfl ?_
    rw [SReg.num, bitsOf_toNat, land_beq_mask]

end Sys2Proof.Proofs

/-! PROOFS. CNARROW, CPERM and CGET (O3). -/

namespace Sys2Proof.Proofs

set_option Elab.async false

open Sys2Proof Sys2Proof.Machine Sys2Proof.Claims Sys2Proof.Laws

/-! ### Capabilities (R172, R173) -/

theorem cnarrowed_eq (r : SReg) (x y : BitVec 64) : cnarrowed r x.toNat y.toNat =
    ⟨(r.bits.extractLsb' 72 56 + x.setWidth 56) ++ y.setWidth 40 ++ r.bits.extractLsb' 0 32, r.tag⟩ := by
  rw [cnarrowed, SReg.mk.injEq]
  refine ⟨BitVec.eq_of_toNat_eq ?_, rfl⟩
  rw [toNat_append_eq_add, toNat_append_eq_add, BitVec.toNat_add, ← bitsOf_toNat, ← bitsOf_toNat, BitVec.toNat_setWidth, BitVec.toNat_setWidth,
    BitVec.toNat_ofNat, SReg.base, SReg.num]
  unfold bitsOf
  omega

theorem cpermed_eq (r : SReg) (keep : BitVec 4) : cpermed r keep.toNat =
    ⟨r.bits.extractLsb' 32 96 ++ (r.bits.extractLsb' 28 4 &&& keep) ++ r.bits.extractLsb' 0 28, r.tag⟩ := by
  rw [cpermed, SReg.mk.injEq]
  refine ⟨BitVec.eq_of_toNat_eq ?_, rfl⟩
  have hkept : Nat.land (bitsOf r.num 28 4) keep.toNat = (r.bits.extractLsb' 28 4 &&& keep).toNat := by
    rw [BitVec.toNat_and, ← bitsOf_toNat]
    rfl
  have hbits := r.bits.isLt
  have hlt := (r.bits.extractLsb' 28 4 &&& keep).isLt
  rw [hkept, toNat_append_eq_add, toNat_append_eq_add, ← bitsOf_toNat, ← bitsOf_toNat, BitVec.toNat_ofNat, SReg.num]
  unfold bitsOf
  omega

section
variable {s : State} {c a b : Nat}

theorem permN_eq (r : SReg) : r.permN = r.bits.getLsbD 28 := (Nat.testBit_eq_decide_div_mod_eq ..).symm

/-- The room that CNARROW asks for: the part from a on, b bytes long, lies in the range. -/
def Room (r : SReg) (x y : BitVec 64) : Prop := x.toNat + y.toNat ≤ (r.bits.extractLsb' 32 40).toNat

theorem room_iff (r : SReg) (x y : BitVec 64) : (decide (x.toNat ≤ r.len) && decide (y.toNat ≤ r.len - x.toNat)) = true ↔ Room r x y := by
  rw [Bool.and_eq_true_iff, decide_eq_true_iff, decide_eq_true_iff, SReg.len, SReg.num, bitsOf_toNat, Room]
  omega

theorem cnarrowCheck_eq : cnarrowCheck c a b s = cnarrowVerdict (s.ctx.bank.sreg c) (val s a).toNat (val s b).toNat := by
  rw [cnarrowCheck, toNat_val, toNat_val]

theorem cnarrowCheck_untagged (htag : (s.ctx.bank.sreg c).tag = false) : cnarrowCheck c a b s = .trap ⟨3, 0, 0, 0⟩ := by
  rw [cnarrowCheck_eq, cnarrowVerdict, need_trap htag]
  rfl

theorem cnarrowCheck_fixed (htag : (s.ctx.bank.sreg c).tag = true) (hperm : (s.ctx.bank.sreg c).bits.getLsbD 28 = false) :
    cnarrowCheck c a b s = .trap ⟨5, 0, (s.ctx.bank.sreg c).hid, 0⟩ := by
  rw [cnarrowCheck_eq, cnarrowVerdict, need_ok.2 htag, need_trap ((permN_eq _).trans hperm)]
  rfl

section
variable (htag : (s.ctx.bank.sreg c).tag = true) (hperm : (s.ctx.bank.sreg c).bits.getLsbD 28 = true)
include htag hperm

theorem cnarrowCheck_outside (hroom : ¬Room (s.ctx.bank.sreg c) (val s a) (val s b)) :
    cnarrowCheck c a b s = .trap ⟨4, 0, (s.ctx.bank.sreg c).hid, 0⟩ := by
  rw [cnarrowCheck_eq, cnarrowVerdict, need_ok.2 htag, need_ok.2 ((permN_eq _).trans hperm),
    need_trap (Bool.eq_false_iff.2 (mt (room_iff _ _ _).1 hroom))]
  rfl

theorem cnarrowCheck_ok (hroom : Room (s.ctx.bank.sreg c) (val s a) (val s b)) : cnarrowCheck c a b s = .ok := by
  rw [cnarrowCheck_eq]
  exact and_ok.2 ⟨need_ok.2 htag, and_ok.2 ⟨need_ok.2 ((permN_eq _).trans hperm), need_ok.2 ((room_iff _ _ _).2 hroom)⟩⟩

end

end

/-! ### The fields of a capability (R174) -/

/-- A field of a capability, zero-extended to a word. -/
theorem ofNat_field (r : SReg) (lo n : Nat) : BitVec.ofNat 64 (bitsOf r.num lo n) = (r.bits.extractLsb' lo n).setWidth 64 := by
  rw [SReg.num, bitsOf_toNat, BitVec.ofNat_toNat]

theorem results_cget {s : State} {d c field : Nat} {x : BitVec 64} (hx : BitVec.ofNat 64 (cgetField (s.ctx.bank.sreg c) field) = x) :
    Results (.cget d c field) s 1 [int64 d x] := results_intOp (fun k => cgetField (k.sreg c) field) rfl hx

/-- Settles O3: CNARROW's checks in their order (`cnarrowCheck_untagged` to `cnarrowCheck_ok`), the capabilities that it and CPERM write
(`cnarrowed_eq`, `cpermed_eq`), and the fields that CGET reads (`results_cget`). -/
theorem capabilityOperations : Obligations.CapabilityOperations := by
  unfold Obligations.CapabilityOperations
  intro s c d a b keep r base len perm
  refine ⟨?untagged, ?fixed, ?outside, ?narrows, ?cpermTraps, ?cperm, ?base, ?len, ?perm, ?fmt, ?res, ?hid, ?tag, ?last⟩
  case untagged => exact fun htag => traps_of_slotOp rfl (cnarrowCheck_untagged htag)
  case fixed => exact fun htag hperm => traps_of_slotOp rfl (cnarrowCheck_fixed htag hperm)
  case outside =>
    intro htag hperm h
    have hroom : ¬Room r (val s a) (val s b) := by
      change ¬(val s a).toNat + (val s b).toNat ≤ len.toNat
      omega
    exact traps_of_slotOp rfl (cnarrowCheck_outside htag hperm hroom)
  case narrows =>
    intro htag hperm hroom
    refine results_of_later (slotOp_ok (cnarrowCheck_ok htag hperm hroom)) ?_
    rw [← toNat_val, ← toNat_val, cnarrowed_eq, htag]
  case cpermTraps => exact fun htag => traps_of_slotOp rfl (need_trap (ti := ⟨3, 0, 0, 0⟩) htag)
  case cperm =>
    intro htag
    refine results_of_later (slotOp_ok (need_ok.2 htag)) ?_
    rw [cpermed_eq, htag]
  case base | len | perm | fmt | res | hid => exact results_cget (ofNat_field r _ _)
  case tag => exact results_cget (by rw [cgetField]; cases r.tag <;> rfl)
  case last => exact results_cget ((BitVec.ofNat_add _ _).trans (congrArg₂ _ (ofNat_field r 72 56) (ofNat_field r 32 40)))

end Sys2Proof.Proofs

/-! PROOFS. Branches, calls, returns and DISPATCH (O6). -/

namespace Sys2Proof.Proofs

set_option Elab.async false

open Sys2Proof Sys2Proof.Machine Sys2Proof.Claims Sys2Proof.Laws

/-! ### Branches, calls and returns (R177, R178) -/

section
variable {s : State} {a : Nat}

theorem retmCheck_handler (h : s.ctx.inHandler = true) : retmCheck a s = .ok := if_pos h

theorem retmCheck_of_not_handler (h : s.ctx.inHandler = false) : retmCheck a s = transferVerdict s.ctx (s.ctx.bank.int a % 8192) := by
  simp [retmCheck, h]

theorem retmCheck_inside (h : Inside s (s.ctx.bank.int a % 8192)) : retmCheck a s = .ok := by
  cases hin : s.ctx.inHandler with
  | true => exact retmCheck_handler hin
  | false => exact (retmCheck_of_not_handler hin).trans (transferVerdict_inside h)

end

theorem transfers : Transfers := by
  intro s d a t
  rw [toNat_val]
  intro r
  refine ⟨?br, ?brTraps, ?retm, ?retmTraps, ?bri, ?briTraps, ?callm, ?callmTraps⟩
  case br | bri => exact fun h => slotOp_ok (transferVerdict_inside h)
  case brTraps | briTraps | callmTraps => exact fun h => traps_of_slotOp rfl (transferVerdict_outside h)
  case retm =>
    rintro (hin | ⟨-, hhandler⟩)
    · exact slotOp_ok (retmCheck_inside hin)
    · exact slotOp_ok (retmCheck_handler hhandler)
  case retmTraps =>
    intro hlocked hout hnot
    have hhandler : s.ctx.inHandler = false := Bool.eq_false_iff.2 fun hin => hnot ⟨hlocked hin, hin⟩
    exact traps_of_slotOp rfl ((retmCheck_of_not_handler hhandler).trans (transferVerdict_outside hout))
  case callm =>
    refine fun h => (slotOp_ok (transferVerdict_inside h)).trans (congrArg _ (onCtx_congr ?_))
    rw [intW_eq_int64]
    rfl

/-! ### The load of a table entry leaves the contexts (R183) -/

/-- Who acts, and the contexts. -/
def turn (s : State) : Act × AMap Ctx := (s.act, s.ctxs)

theorem ctx_of_turn {s t : State} (h : turn t = turn s) : t.ctx = s.ctx := by
  obtain ⟨hact, hctxs⟩ := Prod.mk.inj h
  rw [State.ctx, State.ctxAt, hact, hctxs]
  rfl

/-- A choice between states that both keep who acts and the contexts. -/
theorem turn_ite {c : Prop} [Decidable c] {s t u : State} (ht : turn t = turn s) (hu : turn u = turn s) : turn (if c then t else u) = turn s := by
  split
  · exact ht
  · exact hu

theorem turn_walked (s : State) (e : TEnv) (va : Nat) (acc : Acc) (o : Option (Nat × Nat)) : turn (s.walked e va acc o) = turn s := by
  unfold State.walked
  split
  · rfl
  · extract_lets p1 old s1
    have hmem : turn s1 = turn s := turn_ite rfl rfl
    split
    · exact hmem
    · extract_lets near far s2
      have htlb : turn s2 = turn s := turn_ite hmem hmem
      exact turn_ite htlb htlb

theorem turn_walkedAll (s : State) (e : TEnv) (acc : Acc) (ls : List (Nat × Option (Nat × Nat))) : turn (s.walkedAll e acc ls) = turn s :=
  foldl_frame turn (fun t (l : Nat × Option (Nat × Nat)) => turn_walked t e l.1 acc l.2) ls s

theorem turn_readPiece (s : State) (p : Piece) : turn (s.readPiece p).2 = turn s := by
  unfold State.readPiece
  split <;> rfl

/-! ### DISPATCH (R181 to R184) -/

/-- The state after the load of an entry: the walk's effects, the answers of the outside, and the stamps of the homes that served it (R126). -/
def entryLoaded (s : State) (p : Piece) (ls : List (Nat × Option (Nat × Nat))) : State :=
  let far := s.farPieces s.act.ck [p]
  let r := far.foldl (fun v q => (v.readPiece q).2) (s.walkedAll (s.envOf s.act.ck) .read ls)
  { r with fresh := r.fresh + 1 }.onCtx fun c => { c with stamps := c.stamps ++ far.map fun (q : Piece) => s.clockOf q.loc.domain }

/-- The checks of an entry that has been loaded: its reserved bits, then the target of a valid one (R184). -/
def entryVerdict (c : Ctx) (e : Nat) : Verdict :=
  if bitsOf e 13 2 != 0 then .trap ⟨2, 0, 0, 0⟩ else if bitOf e 15 then transferVerdict c (c.dispatchTarget e) else .ok

theorem dispatchTarget_eq (s : State) (e : Nat) :
    s.ctx.dispatchTarget e = ((if s.ctx.bank.pc < 7680 then s.ctx.work.img else 7680) + e % 8192) % 8192 := by
  rw [Ctx.dispatchTarget]
  by_cases h : s.ctx.bank.pc < 7680
  · rw [locked_eq_false h, if_pos h]
    rfl
  · rw [locked_eq_true (Nat.le_of_not_lt h), if_neg h]
    rfl

/-- A reserved bit set. -/
theorem entryVerdict_reserved {e : Nat} (c : Ctx) (hres : bitsOf e 13 2 ≠ 0) : entryVerdict c e = .trap ⟨2, 0, 0, 0⟩ :=
  if_pos (bne_iff_ne.2 hres)

section
variable {e : Nat} (c : Ctx) (hres : bitsOf e 13 2 = 0)
include hres

theorem entryVerdict_valid (hvalid : bitOf e 15 = true) : entryVerdict c e = transferVerdict c (c.dispatchTarget e) := by
  simp [entryVerdict, hres, hvalid]

theorem entryVerdict_clear (hvalid : bitOf e 15 = false) : entryVerdict c e = .ok := by
  simp [entryVerdict, hres, hvalid]

end

/-- Loading an entry changes the stamps alone in the acting context, so not where its transfers go. -/
theorem dispatchTarget_entryLoaded (s : State) (p : Piece) (ls : List (Nat × Option (Nat × Nat))) (e : Nat) :
    (entryLoaded s p ls).ctx.dispatchTarget e = s.ctx.dispatchTarget e := by
  unfold entryLoaded
  extract_lets far r
  have hturn : turn r = turn s := (foldl_frame turn turn_readPiece far _).trans (turn_walkedAll s _ _ ls)
  have hctx : ({ r with fresh := r.fresh + 1 } : State).ctx = s.ctx := ctx_of_turn (t := { r with fresh := r.fresh + 1 }) hturn
  rw [ctx_onCtx, hctx]
  rfl

theorem acquireDone_ok {s : State} (h : (s.ctx.var.all fun v => !v.acq) = true) : acquireDone s = .ok := by
  rw [← List.not_any_eq_all_not, Bool.not_eq_true'] at h
  rw [acquireDone, h]
  rfl

section
variable {s : State} {a sh na smask : Nat} {p : Piece} {ls : List (Nat × Option (Nat × Nat))}

/-- An entry in one piece, whose home serves it at once, is checked by itself alone. -/
theorem dispatchCheck_loaded (hsize : bitsOf (s.ctx.bank.kreg 0x24) 56 4 ≤ 8) (hx : s.dispatchAccess a sh na smask = .ok [p] false ls)
    (hnear : ∀ q ∈ s.farPieces s.act.ck [p], s.reachable (dieOfCore s.act.core) q.loc.domain = true)
    (hacq : (s.ctx.var.all fun v => !v.acq) = true) :
    dispatchCheck a sh na smask s = entryVerdict s.ctx (s.dispatchEntry (s.dispatchAccess a sh na smask)) := by
  have hreach := List.all_eq_true.2 hnear
  rw [dispatchCheck, dispatchVerdict, if_neg (by omega), acquireDone_ok hacq, hx]
  exact if_neg (by rw [AccX.pieces, hreach]; exact Bool.false_ne_true)

/-- A DISPATCH that passes loads its entry, and goes where a valid one says. -/
theorem exec_dispatch_loaded (hcheck : dispatchCheck a sh na smask s = .ok) (hx : s.dispatchAccess a sh na smask = .ok [p] false ls) :
    exec (.dispatch a sh na smask) s = .next (if bitOf (s.dispatchEntry (s.dispatchAccess a sh na smask)) 15 then
      (entryLoaded s p ls).onCtx fun c => { c with next := some (s.ctx.dispatchTarget (s.dispatchEntry (s.dispatchAccess a sh na smask))) }
    else entryLoaded s p ls) := by
  have hgoto : ∀ e, (entryLoaded s p ls).onCtx (fun c => c.goto (c.dispatchTarget e)) =
      (entryLoaded s p ls).onCtx fun c => { c with next := some (s.ctx.dispatchTarget e) } := fun e =>
    onCtx_congr (by rw [dispatchTarget_entryLoaded]; rfl)
  refine (slotOp_ok hcheck).trans ?_
  rw [← hgoto, hx]
  rfl

end

theorem dispatchTransfers : DispatchTransfers := by
  intro s a sh na smask p ls x e t far r u i
  have htarget : s.ctx.dispatchTarget e = t := dispatchTarget_eq s e
  refine ⟨fun hsize => traps_of_slotOp rfl (ti := ⟨2, 0, 0, 0⟩) (if_pos hsize), fun hsize hx _ hnear hacq => ?_⟩
  have hcheck : dispatchCheck a sh na smask s = entryVerdict s.ctx e := dispatchCheck_loaded hsize hx hnear hacq
  refine ⟨fun hres => ?reserved, fun hres hvalid hin => ?inside, fun hres hvalid hout => ?outside, fun hres hvalid => ?clear⟩
  case reserved => exact traps_of_slotOp rfl (hcheck.trans (entryVerdict_reserved s.ctx hres))
  case inside =>
    have hok : dispatchCheck a sh na smask s = .ok := by
      rw [hcheck, entryVerdict_valid s.ctx hres hvalid, htarget, transferVerdict_inside hin]
    rw [← htarget]
    exact (exec_dispatch_loaded hok hx).trans (congrArg _ (if_pos hvalid))
  case outside =>
    refine traps_of_slotOp rfl (ti := ⟨5, 0, 0, 0⟩) ?_
    rw [hcheck, entryVerdict_valid s.ctx hres hvalid, htarget, transferVerdict_outside hout]
  case clear =>
    refine (exec_dispatch_loaded (hcheck.trans (entryVerdict_clear s.ctx hres hvalid)) hx).trans (congrArg _ (if_neg ?_))
    rw [Bool.not_eq_true]
    exact hvalid

/-- Settles O6: a target is checked by `targetOk_iff`; DISPATCH loads its entry (`exec_dispatch_loaded`) and checks it alone (`entryVerdict`). -/
theorem controlTransfers : Obligations.ControlTransfers := ⟨transfers, dispatchTransfers⟩

end Sys2Proof.Proofs

/-! PROOFS. Words of the spec's examples (O56). -/

namespace Sys2Proof.Proofs

set_option Elab.async false

open Sys2Proof Sys2Proof.Machine Sys2Proof.Claims Sys2Proof.Laws

/-- Settles O56: each word is a closed number, and decoding it evaluates to its instruction. -/
theorem specWordsDecode : Obligations.SpecWordsDecode := by
  unfold Obligations.SpecWordsDecode
  refine ⟨?li, ?lih, ?vcvt, ?mxgo, ?lda, ?setg, ?loop, ?gop, ?endloop, ?tdef, ?halt, ?tappend, ?attn⟩
  case li | lih | vcvt | mxgo | lda => rfl
  case setg | loop | gop | endloop | tdef | halt | tappend | attn => rfl

end Sys2Proof.Proofs

/-! PROOFS. Elements and lanes of a vector, and the shapes of the operations of the V slot. -/

namespace Sys2Proof.Proofs

set_option Elab.async false

open Sys2Proof Sys2Proof.Machine Sys2Proof.Claims Sys2Proof.Laws

/-! ### Fields of a packed number -/

@[simp] theorem bitsOf_zero_lo (v n : Nat) : bitsOf v 0 n = v % 2 ^ n := by rw [bitsOf, Nat.pow_zero, Nat.div_one]

theorem packFields_cons_div (w e : Nat) (es : List Nat) : packFields w (e :: es) / 2 ^ w = packFields w es := by
  have hpos : 0 < 2 ^ w := Nat.two_pow_pos w
  rw [packFields, Nat.add_mul_div_left _ _ hpos, Nat.div_eq_of_lt (Nat.mod_lt _ hpos), Nat.zero_add]

/-- Field k of packed fields is the k-th of them, 0 past their end. -/
theorem bitsOf_packFields (w : Nat) (l : List Nat) (k : Nat) : bitsOf (packFields w l) (w * k) w = nth 0 l k % 2 ^ w := by
  unfold bitsOf
  induction l generalizing k with
  | nil => simp [packFields, nth]
  | cons e es ih =>
    cases k with
    | zero => simp [packFields, nth]
    | succ k => rw [Nat.mul_succ, Nat.add_comm, Nat.pow_add, ← Nat.div_div_eq_div_mul, packFields_cons_div, ih, nth]

theorem packFields_append_one (w : Nat) (l : List Nat) (x : Nat) :
    packFields w (l ++ [x]) = packFields w l + x % 2 ^ w * 2 ^ (w * l.length) := by
  induction l with
  | nil => simp [packFields]
  | cons e es ih =>
    rw [List.cons_append, packFields, packFields, ih, List.length_cons, Nat.mul_succ, Nat.pow_add]
    ring

theorem packFields_lt (w : Nat) (l : List Nat) : packFields w l < 2 ^ (w * l.length) := by
  induction l with
  | nil => simp [packFields]
  | cons e es ih =>
    rwa [List.length_cons, Nat.mul_succ, Nat.pow_add, ← Nat.div_lt_iff_lt_mul (Nat.two_pow_pos w), packFields_cons_div]

theorem length_map_upTo (n : Nat) (d : Nat → Nat) : ((upTo n).map d).length = n := by
  rw [List.length_map, upTo_eq_range, List.length_range]

/-- A number added up field by field is the packing of its fields. -/
theorem iter_add_fields {w : Nat} {d : Nat → Nat} (hd : ∀ i, d i < 2 ^ w) (n : Nat) :
    iter (fun i acc => acc + d i * 2 ^ (w * i)) n 0 = packFields w ((upTo n).map d) := by
  induction n with
  | zero => rfl
  | succ n ih =>
    rw [iter, ih, upTo, List.map_append, List.map_singleton, packFields_append_one, length_map_upTo, Nat.mod_eq_of_lt (hd n)]

/-! ### Elements of lists -/

section
variable {k n : Nat}

theorem nth_map_upTo (d : Nat → Nat) (hk : k < n) : nth 0 ((upTo n).map d) k = d k := by
  simp [nth_eq_getD, upTo_eq_range, hk]

theorem elem_vecElems (fmt : Nat) (v : BitVec 512) (k : Nat) :
    elem (vecElems fmt v) k = if k < 512 / fmtWidth fmt then el fmt v k else 0 := by
  split
  · next hk => exact nth_map_upTo _ hk
  · next hk => simp [elem, nth_eq_getD, vecElems, upTo_eq_range, vecCount, Nat.le_of_not_lt hk]

theorem length_vecElems (fmt : Nat) (v : BitVec 512) : (vecElems fmt v).length = 512 / fmtWidth fmt := length_map_upTo _ _

theorem getElem?_vecElems {fmt : Nat} (v : BitVec 512) (hk : k < 512 / fmtWidth fmt) : (vecElems fmt v)[k]? = some (el fmt v k) := by
  simp [vecElems, vecCount, upTo_eq_range, hk]
  rfl

end

/-! ### Elements of vectors (R57, R192) -/

theorem el_lt (fmt : Nat) (v : BitVec 512) (k : Nat) : el fmt v k < 2 ^ fmtWidth fmt := Nat.mod_lt _ (Nat.two_pow_pos _)

/-- An element that lies within a vector is untouched when the number is cut to 512 bits. -/
theorem bitsOf_mod_two_pow {lo n m : Nat} (v : Nat) (h : lo + n ≤ m) : bitsOf (v % 2 ^ m) lo n = bitsOf v lo n := by
  obtain ⟨d, rfl⟩ := Nat.exists_eq_add_of_le (Nat.le_of_add_right_le h)
  rw [bitsOf, bitsOf, Nat.pow_add, Nat.mod_mul_right_div_self, Nat.mod_mod_of_dvd _ (Nat.pow_dvd_pow 2 (by omega))]

section
variable {fmt k : Nat} (hk : k < 512 / fmtWidth fmt)
include hk

theorem element_within : fmtWidth fmt * k + fmtWidth fmt ≤ 512 :=
  calc fmtWidth fmt * (k + 1) ≤ fmtWidth fmt * (512 / fmtWidth fmt) := Nat.mul_le_mul_left _ hk
    _ ≤ 512 := Nat.mul_div_le _ _

theorem el_vecPack (l : List Nat) : el fmt (vecPack fmt l) k = nth 0 l k % 2 ^ fmtWidth fmt := by
  rw [← bitsOf_packFields, ← bitsOf_mod_two_pow _ (element_within hk), ← BitVec.toNat_ofNat]
  rfl

theorem el_vecPack_map (g : Nat → Nat) (v : BitVec 512) :
    el fmt (vecPack fmt ((vecElems fmt v).map g)) k = g (el fmt v k) % 2 ^ fmtWidth fmt := by
  rw [el_vecPack hk, nth_eq_getD, List.getD_eq_getElem?_getD, List.getElem?_map, getElem?_vecElems v hk]
  rfl

theorem el_vecPack_zipWith (g : Nat → Nat → Nat) (v u : BitVec 512) :
    el fmt (vecPack fmt (List.zipWith g (vecElems fmt v) (vecElems fmt u))) k = g (el fmt v k) (el fmt u k) % 2 ^ fmtWidth fmt := by
  rw [el_vecPack hk, nth_eq_getD, List.getD_eq_getElem?_getD, List.getElem?_zipWith, getElem?_vecElems v hk, getElem?_vecElems u hk]
  rfl

theorem el_vecPack_zipWith_zip (g : Nat → Nat → Nat → Nat) (v u x : BitVec 512) :
    el fmt (vecPack fmt (List.zipWith (fun k p => g p.1 p.2 k) (vecElems fmt x) (List.zip (vecElems fmt v) (vecElems fmt u)))) k =
      g (el fmt v k) (el fmt u k) (el fmt x k) % 2 ^ fmtWidth fmt := by
  have hzip : (List.zip (vecElems fmt v) (vecElems fmt u))[k]? = some (el fmt v k, el fmt u k) :=
    List.getElem?_zip_eq_some.2 ⟨getElem?_vecElems v hk, getElem?_vecElems u hk⟩
  rw [el_vecPack hk, nth_eq_getD, List.getD_eq_getElem?_getD, List.getElem?_zipWith, getElem?_vecElems x hk, hzip]
  rfl

theorem el_vecPack_upTo (d : Nat → Nat) : el fmt (vecPack fmt ((upTo (vecCount fmt)).map d)) k = d k % 2 ^ fmtWidth fmt := by
  rw [el_vecPack hk, vecCount, nth_map_upTo d hk]

end

/-! ### The shapes of vector operations (R192) -/

section
variable {i : Instr} {s : State} {f : VFields} {n mask : Nat} {readsB : Bool}

theorem writes_of_vecOp {m : Bank → Nat} {r : Ctx → BitVec 512} {P : BitVec 512 → Prop} (hexec : exec i s = vecOp n readsB f m r s)
    (hmask : m s.ctx.bank = mask) (hP : P (r s.ctx)) : Writes i s f readsB n mask P :=
  ⟨r s.ctx, hP, hexec.trans (congrArg _ (onCtx_congr (by rw [hmask])))⟩

theorem eachElement_of_vecOp {r : Ctx → BitVec 512} {g : Nat → Nat} (hexec : exec i s = vecOp n readsB f (vecMask f) r s)
    (hr : ∀ k, k < 512 / fmtWidth f.fmt → el f.fmt (r s.ctx) k = g k % 2 ^ fmtWidth f.fmt) : EachElement i s f readsB n g :=
  writes_of_vecOp hexec rfl hr

theorem eachElement_of_vecMap1 {g h : Nat → Nat} (hexec : exec i s = vecMap1 n f g s)
    (hg : ∀ k, g (el f.fmt (s.ctx.posA f) k) % 2 ^ fmtWidth f.fmt = h k % 2 ^ fmtWidth f.fmt) : EachElement i s f false n h :=
  eachElement_of_vecOp hexec fun k hk => (el_vecPack_map hk g _).trans (hg k)

theorem eachElement_of_vecMap2 {g : Nat → Nat → Nat} {h : Nat → Nat} (hexec : exec i s = vecMap2 n f g s)
    (hg : ∀ k, g (el f.fmt (s.ctx.posA f) k) (el f.fmt (s.ctx.posB f) k) % 2 ^ fmtWidth f.fmt = h k % 2 ^ fmtWidth f.fmt) :
    EachElement i s f true n h :=
  eachElement_of_vecOp hexec fun k hk => (el_vecPack_zipWith hk g _ _).trans (hg k)

theorem eachElement_of_vecMap3 {g : Nat → Nat → Nat → Nat} {h : Nat → Nat} (hexec : exec i s = vecMap3 n f g s)
    (hg : ∀ k, g (el f.fmt (s.ctx.posA f) k) (el f.fmt (s.ctx.posB f) k) (el f.fmt (s.ctx.bank.vreg f.vc) k) % 2 ^ fmtWidth f.fmt =
      h k % 2 ^ fmtWidth f.fmt) : EachElement i s f true n h :=
  eachElement_of_vecOp hexec fun k hk => (el_vecPack_zipWith_zip hk g _ _ _).trans (hg k)

/-- What holds of every vector with the first property holds of what is written. -/
theorem writes_imp {P Q : BitVec 512 → Prop} (h : Writes i s f readsB n mask P) (hPQ : ∀ r, P r → Q r) : Writes i s f readsB n mask Q := by
  obtain ⟨r, hr, hexec⟩ := h
  exact ⟨r, hPQ r hr, hexec⟩

end

end Sys2Proof.Proofs

/-! PROOFS. The arithmetic of the V slot (O9). -/

namespace Sys2Proof.Proofs

set_option Elab.async false

open Sys2Proof Sys2Proof.Machine Sys2Proof.Claims Sys2Proof.Laws

theorem elementArithmetic : ElementArithmetic := by
  intro s f a b c x
  refine ⟨?vadd, ?vsub, ?vmul, ?vfma, ?vmin, ?vmax, ?vclamp, ?vabs, ?vneg, ?vrcp, ?vrsq, ?vexp2, ?vlog2, ?vscale⟩
  case vadd | vsub | vmul | vmin | vmax | vscale => exact eachElement_of_vecMap2 rfl fun _ => rfl
  case vfma =>
    exact eachElement_of_vecMap3 (g := fun a b c => roundTo f.fmt f.rnd (Ex.add (Ex.mul (x a) (x b)) (x c))) rfl fun _ => rfl
  case vclamp => exact eachElement_of_vecMap3 (g := fun a b c => patMin f.fmt (patMax f.fmt a b) c) rfl fun _ => rfl
  case vabs | vneg | vrcp | vrsq | vexp2 | vlog2 => exact eachElement_of_vecMap1 rfl fun _ => rfl

/-! ### Exact integers (R61) -/

/-- An exact value is an integer, with the denominator 1 that sums and products of integers keep. -/
def Exactly (x : Ex) (i : Int) : Prop := ∃ neg n, x = .fin neg n 1 ∧ i = if neg then -(n : Int) else n

section
variable {x y : Ex} {i j : Int}

theorem exactly_ofInt (i : Int) : Exactly (.ofInt i) i := by
  refine ⟨_, _, rfl, ?_⟩
  simp only [decide_eq_true_iff]
  split <;> omega

theorem Exactly.neg (hx : Exactly x i) : Exactly x.neg (-i) := by
  obtain ⟨s, n, rfl, rfl⟩ := hx
  refine ⟨_, _, rfl, ?_⟩
  cases s <;> simp

theorem Exactly.abs (hx : Exactly x i) : Exactly x.abs i.natAbs := by
  obtain ⟨s, n, rfl, rfl⟩ := hx
  refine ⟨_, _, rfl, ?_⟩
  cases s <;> simp

theorem add_fin_one (s t : Bool) (n m : Nat) : Ex.add (.fin s n 1) (.fin t m 1) =
    if s = t then .fin s (n + m) 1 else if n = m then .fin false 0 1 else if m < n then .fin s (n - m) 1 else .fin t (m - n) 1 := rfl

theorem Exactly.add (hx : Exactly x i) (hy : Exactly y j) : Exactly (x.add y) (i + j) := by
  obtain ⟨s, n, rfl, rfl⟩ := hx
  obtain ⟨t, m, rfl, rfl⟩ := hy
  cases s <;> cases t
  case false.false | true.true => exact ⟨_, _, rfl, by simp only [if_true, if_false, Bool.false_eq_true]; omega⟩
  case false.true | true.false =>
    simp only [add_fin_one, reduceCtorEq, if_true, if_false]
    split_ifs <;> exact ⟨_, _, rfl, by simp only [if_true, if_false, Bool.false_eq_true]; omega⟩

theorem Exactly.sub (hx : Exactly x i) (hy : Exactly y j) : Exactly (x.sub y) (i - j) := hx.add hy.neg

theorem Exactly.mul (hx : Exactly x i) (hy : Exactly y j) : Exactly (x.mul y) (i * j) := by
  obtain ⟨s, n, rfl, rfl⟩ := hx
  obtain ⟨t, m, rfl, rfl⟩ := hy
  refine ⟨_, _, rfl, ?_⟩
  cases s <;> cases t <;> simp

theorem roundMag_one (mode : Nat) (neg : Bool) (n : Nat) : roundMag mode neg n 1 = n := by
  simp [roundMag, Nat.mod_one]

/-- An exact integer is not rounded, whatever the mode, but saturated. -/
theorem Exactly.toInt (hx : Exactly x i) (mode : Nat) (lo hi : Int) : x.toInt mode lo hi = sat i lo hi := by
  obtain ⟨s, n, rfl, rfl⟩ := hx
  rw [Ex.toInt, roundMag_one]

theorem Exactly.lt (hx : Exactly x i) (hy : Exactly y j) : x.lt y = decide (i < j) := by
  obtain ⟨s, n, rfl, rfl⟩ := hx
  obtain ⟨t, m, rfl, rfl⟩ := hy
  simp [Ex.lt]

theorem Exactly.isNan (hx : Exactly x i) : x.isNan = false := by
  obtain ⟨s, n, rfl, -⟩ := hx
  rfl

theorem Exactly.eqv (hx : Exactly x i) (hy : Exactly y j) : x.eqv y = decide (i = j) := by
  rw [Ex.eqv, hx.isNan, hy.isNan, hx.lt hy, hy.lt hx, Bool.eq_iff_iff]
  simp only [Bool.not_false, Bool.true_and, Bool.and_eq_true, Bool.not_eq_true', decide_eq_false_iff_not, decide_eq_true_iff]
  omega

end

/-! ### Integer elements (R56, R193) -/

/-- Sign extension of w bits is their value in two's complement. -/
theorem sext_eq_toInt {w : Nat} (hw : 0 < w) (x : Nat) : sext x w = (BitVec.ofNat w x).toInt := by
  obtain ⟨d, rfl⟩ := Nat.exists_eq_add_of_lt hw
  have hlt : x % 2 ^ (0 + d + 1) < 2 ^ (0 + d + 1) := Nat.mod_lt _ (Nat.two_pow_pos _)
  rw [BitVec.toInt_eq_toNat_cond, BitVec.toNat_ofNat, sext, Nat.add_sub_cancel]
  congr 1
  rw [Nat.pow_succ]
  exact propext (by omega)

theorem fmtWidth_pos (fmt : Nat) : 0 < fmtWidth fmt := by
  unfold fmtWidth
  split <;> decide

section
variable {fmt : Nat} (hlo : 5 ≤ fmt) (hhi : fmt ≤ 8)
include hlo hhi

theorem ffmt?_integer : ffmt? fmt = none := by interval_cases fmt <;> rfl

/-- An element of an integer format stands for its integer. -/
theorem exactly_real {x : Nat} (hx : x < 2 ^ fmtWidth fmt) : real fmt x = Ex.ofInt (ival fmt x) := by
  rw [real, ffmt?_integer hlo hhi]
  unfold ival
  by_cases h : fmt = 6
  · subst h
    exact congrArg (fun n : Nat => Ex.ofInt n) (Nat.mod_eq_of_lt hx)
  · simp only [if_neg h]
    rw [sext_eq_toInt (fmtWidth_pos fmt)]

theorem isat_eq_sat (i : Int) : isat fmt i = sat i (intRange fmt).1 (intRange fmt).2 := by
  interval_cases fmt <;> simp [isat, sat, intRange, fmtWidth] <;> omega

theorem ival_intPat {i : Int} (hi : (intRange fmt).1 ≤ i ∧ i ≤ (intRange fmt).2) : ival fmt (intPat fmt i % 2 ^ fmtWidth fmt) = i := by
  rw [intPat, Nat.mod_eq_of_lt (trunc_lt _ _), ival]
  by_cases h : fmt = 6
  · subst h
    obtain ⟨h0, h255⟩ : 0 ≤ i ∧ i ≤ 255 := hi
    rw [if_pos rfl, trunc, fmtWidth]
    omega
  · rw [if_neg h, ← sext_eq_toInt (fmtWidth_pos fmt)]
    refine sext_trunc _ _ (fmtWidth_pos fmt) ?_
    interval_cases fmt <;> simp_all [inS, fmtWidth, intRange] <;> omega

theorem sat_mem_intRange (i : Int) : (intRange fmt).1 ≤ sat i (intRange fmt).1 (intRange fmt).2 ∧
    sat i (intRange fmt).1 (intRange fmt).2 ≤ (intRange fmt).2 := by
  interval_cases fmt <;> simp [sat, intRange]

/-- A result formed exactly is saturated once. -/
theorem ival_roundTo {x : Ex} {i : Int} (hx : Exactly x i) (mode : Nat) :
    ival fmt (roundTo fmt mode x % 2 ^ fmtWidth fmt) = isat fmt i := by
  rw [roundTo, ffmt?_integer hlo hhi]
  dsimp only
  rw [hx.toInt, ival_intPat hlo hhi (sat_mem_intRange hlo hhi i), isat_eq_sat hlo hhi]

/-- An element lies in its format's range. -/
theorem isat_ival {x : Nat} (hx : x < 2 ^ fmtWidth fmt) : isat fmt (ival fmt x) = ival fmt x := by
  unfold isat ival
  by_cases h : fmt = 6
  · subst h
    have hlt : x < 256 := hx
    simp only [if_true]
    omega
  · simp only [if_neg h]
    have hge := BitVec.le_toInt (BitVec.ofNat (fmtWidth fmt) x)
    have hlt := BitVec.toInt_lt (x := BitVec.ofNat (fmtWidth fmt) x)
    rw [min_eq_left (by omega), max_eq_right hge]

/-- A pattern that fits an element is its own saturation. -/
theorem ival_element {x : Nat} (hx : x < 2 ^ fmtWidth fmt) : ival fmt (x % 2 ^ fmtWidth fmt) = isat fmt (ival fmt x) := by
  rw [Nat.mod_eq_of_lt hx, isat_ival hlo hhi hx]

/-! ### Minimum and maximum (R195) -/

section
variable {x y : Nat} (hx : x < 2 ^ fmtWidth fmt) (hy : y < 2 ^ fmtWidth fmt)
include hx hy

theorem patLt_integer : patLt fmt x y = decide (ival fmt x < ival fmt y) := by
  have ex := exactly_ofInt (ival fmt x)
  have ey := exactly_ofInt (ival fmt y)
  rw [patLt, exactly_real hlo hhi hx, exactly_real hlo hhi hy, ex.eqv ey, ex.lt ey]
  by_cases h : ival fmt x = ival fmt y
  · rw [if_pos (decide_eq_true h), h, decide_eq_false (lt_irrefl _)]
    split
    · next s _ t _ hs ht =>
      obtain ⟨rfl, -⟩ := Ex.fin.inj (hs.symm.trans ht)
      exact Bool.and_not_self s
    · rfl
  · rw [decide_eq_false h]
    rfl

theorem patMin_integer : patMin fmt x y = if ival fmt y < ival fmt x then y else x := by
  rw [patMin, exactly_real hlo hhi hx, exactly_real hlo hhi hy, patLt_integer hlo hhi hy hx]
  simp [(exactly_ofInt _).isNan]

theorem patMax_integer : patMax fmt x y = if ival fmt x < ival fmt y then y else x := by
  rw [patMax, exactly_real hlo hhi hx, exactly_real hlo hhi hy, patLt_integer hlo hhi hx hy]
  simp [(exactly_ofInt _).isNan]

theorem ival_patMin : ival fmt (patMin fmt x y) = min (ival fmt x) (ival fmt y) := by
  rw [patMin_integer hlo hhi hx hy, apply_ite (ival fmt)]
  split <;> omega

theorem ival_patMax : ival fmt (patMax fmt x y) = max (ival fmt x) (ival fmt y) := by
  rw [patMax_integer hlo hhi hx hy, apply_ite (ival fmt)]
  split <;> omega

theorem patMin_lt : patMin fmt x y < 2 ^ fmtWidth fmt := by
  rw [patMin_integer hlo hhi hx hy]
  split <;> assumption

theorem patMax_lt : patMax fmt x y < 2 ^ fmtWidth fmt := by
  rw [patMax_integer hlo hhi hx hy]
  split <;> assumption

end

end

theorem eachSaturated_of_eachElement {i : Instr} {s : State} {f : VFields} {readsB : Bool} {n : Nat} {g : Nat → Nat} {h : Nat → Int}
    (he : EachElement i s f readsB n g) (hg : ∀ k, ival f.fmt (g k % 2 ^ fmtWidth f.fmt) = isat f.fmt (h k)) : EachSaturated i s f readsB n h :=
  writes_imp he fun r hr k hk => by rw [hr k hk, hg]

theorem integerVectorArithmetic : IntegerVectorArithmetic := by
  intro s f hlo hhi a b c
  have hround {x : Ex} {i : Int} (hx : Exactly x i) (mode : Nat) := ival_roundTo hlo hhi hx mode
  have hel (v : BitVec 512) (k : Nat) : Exactly (real f.fmt (el f.fmt v k)) (ival f.fmt (el f.fmt v k)) := by
    rw [exactly_real hlo hhi (el_lt _ v k)]
    exact exactly_ofInt _
  obtain ⟨hadd, hsub, hmul, hfma, hmin, hmax, hclamp, habs, hneg, -⟩ := elementArithmetic s f
  refine ⟨?vadd, ?vsub, ?vmul, ?vfma, ?vmin, ?vmax, ?vclamp, ?vabs, ?vneg⟩
  case vadd => exact eachSaturated_of_eachElement hadd fun k => hround ((hel _ k).add (hel _ k)) _
  case vsub => exact eachSaturated_of_eachElement hsub fun k => hround ((hel _ k).sub (hel _ k)) _
  case vmul => exact eachSaturated_of_eachElement hmul fun k => hround ((hel _ k).mul (hel _ k)) _
  case vfma => exact eachSaturated_of_eachElement hfma fun k => hround (((hel _ k).mul (hel _ k)).add (hel _ k)) _
  case vabs => exact eachSaturated_of_eachElement habs fun k => hround (hel _ k).abs _
  case vneg => exact eachSaturated_of_eachElement hneg fun k => hround (hel _ k).neg _
  case vmin =>
    refine eachSaturated_of_eachElement hmin fun k => ?_
    rw [← ival_patMin hlo hhi (el_lt _ _ k) (el_lt _ _ k)]
    exact ival_element hlo hhi (patMin_lt hlo hhi (el_lt _ _ k) (el_lt _ _ k))
  case vmax =>
    refine eachSaturated_of_eachElement hmax fun k => ?_
    rw [← ival_patMax hlo hhi (el_lt _ _ k) (el_lt _ _ k)]
    exact ival_element hlo hhi (patMax_lt hlo hhi (el_lt _ _ k) (el_lt _ _ k))
  case vclamp =>
    refine eachSaturated_of_eachElement hclamp fun k => ?_
    have hmax := patMax_lt hlo hhi (el_lt _ (s.ctx.posA f) k) (el_lt _ (s.ctx.posB f) k)
    rw [← ival_patMax hlo hhi (el_lt _ _ k) (el_lt _ _ k), ← ival_patMin hlo hhi hmax (el_lt _ _ k)]
    exact ival_element hlo hhi (patMin_lt hlo hhi hmax (el_lt _ _ k))

/-- Settles O9: element by element (`eachElement_of_vecMap2` and its companions); in an integer format sums, products and negations are exact
(`Exactly`), and so saturated once (`ival_roundTo`). -/
theorem vectorArithmetic : Obligations.VectorArithmetic := ⟨elementArithmetic, integerVectorArithmetic⟩

end Sys2Proof.Proofs

/-! PROOFS. Selects, logic, shifts, lane moves, conversions, compares and reductions of the V slot (O10). -/

namespace Sys2Proof.Proofs

set_option Elab.async false

open Sys2Proof Sys2Proof.Machine Sys2Proof.Claims Sys2Proof.Laws

/-! ### Lanes (R57, R137) -/

theorem testBit_lane (v : BitVec 512) (l i : Nat) : (lane v l).testBit i = (decide (i < 32) && v.getLsbD (32 * l + i)) := by
  rw [lane, Nat.testBit_mod_two_pow, Nat.testBit_div_two_pow, BitVec.getLsbD, Nat.add_comm]

theorem laneMask_eq (m : Nat) : laneMask m = packFields 32 ((upTo 16).map fun l => if bitOf m l then 2 ^ 32 - 1 else 0) := by
  rw [← iter_add_fields fun l => by split <;> decide, laneMask]
  congr 1
  funext l acc
  split
  · rfl
  · rw [Nat.zero_mul, Nat.add_zero]

section
variable {l : Nat} (hl : l < 16)
include hl

theorem lane_laneMask (m : Nat) : lane (BitVec.ofNat 512 (laneMask m)) l = if bitOf m l then 2 ^ 32 - 1 else 0 := by
  have hfield : lane (vecPack 8 ((upTo 16).map fun l => if bitOf m l then 2 ^ 32 - 1 else 0)) l = _ := el_vecPack (fmt := 8) hl _
  rw [laneMask_eq]
  refine hfield.trans ?_
  rw [nth_map_upTo _ hl]
  split <;> rfl

theorem getLsbD_laneMask (m : Nat) {i : Nat} (hi : i < 32) : (BitVec.ofNat 512 (laneMask m)).getLsbD (32 * l + i) = bitOf m l := by
  have hbit := testBit_lane (BitVec.ofNat 512 (laneMask m)) l i
  rw [lane_laneMask hl, decide_eq_true hi, Bool.true_and] at hbit
  rw [← hbit]
  cases bitOf m l
  · exact Nat.zero_testBit i
  · exact (Nat.testBit_two_pow_sub_one 32 i).trans (decide_eq_true hi)

/-- Merging takes whole lanes: those the mask names from the new value, the others from the old. -/
theorem lane_mergeLanes (m : Nat) (old new : BitVec 512) :
    lane (mergeLanes m old new) l = if bitOf m l then lane new l else lane old l := by
  refine Nat.eq_of_testBit_eq fun i => ?_
  rw [apply_ite (Nat.testBit · i), testBit_lane, testBit_lane, testBit_lane]
  by_cases hi : i < 32
  · have hin : 32 * l + i < 512 := by omega
    rw [mergeLanes, BitVec.getLsbD_or, BitVec.getLsbD_and, BitVec.getLsbD_and, BitVec.getLsbD_not, getLsbD_laneMask hl m hi]
    cases bitOf m l <;> simp [hi, hin]
  · simp [hi]

end

/-! ### Shifts (R202) -/

theorem vshlElem_mod (fmt a n : Nat) : vshlElem fmt a n % 2 ^ fmtWidth fmt = a * 2 ^ n % 2 ^ fmtWidth fmt := by
  unfold vshlElem
  split
  · next h => rw [Nat.zero_mod, Nat.mod_eq_zero_of_dvd (Dvd.dvd.mul_left (Nat.pow_dvd_pow 2 h) a)]
  · rw [Nat.mod_mod]

/-- A shift by more than the width gives what a shift by the width does. -/
theorem asr_min {w : Nat} {i : Int} (hlo : -2 ^ w ≤ i) (hhi : i < 2 ^ w) (n : Nat) : asr i (min n w) = i >>> n := by
  rw [asr, Int.shiftRight_eq_div_pow]
  obtain h | h := le_total n w
  · rw [min_eq_left h]
  · have hpow : (2 : Int) ^ w ≤ 2 ^ n := pow_le_pow_right₀ (by decide) h
    rw [min_eq_right h]
    push_cast
    obtain hi | hi := lt_or_ge i 0
    · rw [Int.ediv_eq_neg_one_of_neg_of_le hi (by omega), Int.ediv_eq_neg_one_of_neg_of_le hi (by omega)]
    · rw [Int.ediv_eq_zero_of_lt hi hhi, Int.ediv_eq_zero_of_lt hi (by omega)]

theorem trunc_asr {w : Nat} (x : BitVec w) (n : Nat) : trunc w (asr x.toInt (min n w)) = (x.sshiftRight n).toNat := by
  have hlo := BitVec.le_toInt x
  have hhi := BitVec.toInt_lt (x := x)
  have hpow : (2 : Int) ^ (w - 1) ≤ 2 ^ w := pow_le_pow_right₀ (by decide) (Nat.sub_le w 1)
  rw [asr_min (by omega) (by omega), ← BitVec.toInt_sshiftRight, trunc_eq_toNat_ofInt, BitVec.ofInt_toInt]

theorem vshrElem_eq {fmt x : Nat} (hx : x < 2 ^ fmtWidth fmt) (n : Nat) : vshrElem fmt x n =
    if fmt = 6 then x / 2 ^ n else ((BitVec.ofNat (fmtWidth fmt) x).sshiftRight n).toNat := by
  unfold vshrElem
  dsimp only
  split
  · obtain h | h := le_total n (fmtWidth fmt)
    · rw [min_eq_left h]
    · rw [min_eq_right h, Nat.div_eq_of_lt hx, Nat.div_eq_of_lt (hx.trans_le (Nat.pow_le_pow_right (by decide) h))]
  · rw [sext_eq_toInt (fmtWidth_pos fmt), trunc_asr]

/-! ### Windows (R204) -/

/-- The window of VEXT runs from the first vector into the second, and past both reads 0. -/
theorem nth_window {fmt k : Nat} (v u : BitVec 512) (lo : Nat) (hk : k < 512 / fmtWidth fmt) :
    nth 0 (((vecElems fmt v ++ vecElems fmt u).drop lo).take (vecCount fmt)) k =
      if k + lo < 512 / fmtWidth fmt then el fmt v (k + lo)
      else if k + lo < 2 * (512 / fmtWidth fmt) then el fmt u (k + lo - 512 / fmtWidth fmt) else 0 := by
  have hu := elem_vecElems fmt u (lo + k - 512 / fmtWidth fmt)
  rw [elem, nth_eq_getD, List.getD_eq_getElem?_getD] at hu
  rw [nth_eq_getD, List.getD_eq_getElem?_getD, vecCount, List.getElem?_take, if_pos hk, List.getElem?_drop, List.getElem?_append,
    length_vecElems, Nat.add_comm k lo]
  split
  · next h => rw [getElem?_vecElems v h, Option.getD_some]
  · next h =>
    rw [hu]
    exact if_congr (by omega) rfl rfl

theorem vectorMovesAndShifts : VectorMovesAndShifts := by
  intro s f va vb a b m n imm shr
  have himm : bitsOf f.vc 0 6 = imm := bitsOf_zero_lo _ _
  refine ⟨?vsel, ?vand, ?vor, ?vxor, ?vshl, ?vshlImm, fun _ _ => ⟨?vshr, ?vshrImm⟩, ?vbcast, ?vext, ?vperm⟩
  case vsel => exact writes_of_vecOp rfl rfl fun l hl => lane_mergeLanes hl _ _ _
  case vand | vor | vxor => exact writes_of_vecOp rfl rfl rfl
  case vshl => exact eachElement_of_vecMap2 rfl fun _ => vshlElem_mod _ _ _
  case vshlImm => exact eachElement_of_vecMap1 rfl fun _ => himm ▸ vshlElem_mod _ _ _
  case vshr => exact eachElement_of_vecMap2 rfl fun _ => congrArg (· % _) (vshrElem_eq (el_lt _ _ _) _)
  case vshrImm => exact eachElement_of_vecMap1 rfl fun _ => himm ▸ congrArg (· % _) (vshrElem_eq (el_lt _ _ _) _)
  case vbcast =>
    refine eachElement_of_vecOp rfl fun k hk => (el_vecPack_upTo hk _).trans ?_
    rw [himm, elem_vecElems]
  case vext =>
    refine eachElement_of_vecOp rfl fun k hk => (el_vecPack hk _).trans ?_
    rw [himm, nth_window _ _ _ hk]
  case vperm =>
    refine eachElement_of_vecOp rfl fun k hk => (el_vecPack_map hk _ _).trans ?_
    rw [elem_vecElems]

/-! ### Conversions (R197) -/

theorem fmtWidth_cases {fmt : Nat} (h : fmt ≤ 8) : fmtWidth fmt = 8 ∨ fmtWidth fmt = 16 ∨ fmtWidth fmt = 32 := by
  interval_cases fmt <;> decide

section
variable {sf df part k : Nat} (hsf : sf ≤ 8) (hdf : df ≤ 8)
include hsf hdf

/-- The part that PART names lies within the vector of the narrower elements. -/
theorem part_element_lt (hw : fmtWidth sf ≤ fmtWidth df) (hpart : part * fmtWidth sf < fmtWidth df) (hk : k < 512 / fmtWidth df) :
    part * (512 / fmtWidth df) + k < 512 / fmtWidth sf := by
  obtain hs | hs | hs := fmtWidth_cases hsf <;> obtain hd | hd | hd := fmtWidth_cases hdf <;> rw [hs, hd] at hw hpart <;>
    rw [hd] at hk <;> rw [hs, hd] <;> omega

theorem el_vcvtResult_widen (hw : fmtWidth sf ≤ fmtWidth df) (hpart : part * fmtWidth sf < fmtWidth df) (hk : k < 512 / fmtWidth df)
    (mode : Nat) (v : BitVec 512) : el df (vcvtResult sf df part mode v) k =
      cvt (el sf v (part * (512 / fmtWidth df) + k)) sf df mode % 2 ^ fmtWidth df := by
  simp only [vcvtResult, if_pos hw, max_eq_right hw]
  rw [el_vecPack hk, nth_map_upTo _ hk, elem_vecElems, if_pos (part_element_lt hsf hdf hw hpart hk)]

theorem el_vcvtResult_narrow (hw : fmtWidth df < fmtWidth sf) (hpart : part * fmtWidth df < fmtWidth sf) (hk : k < 512 / fmtWidth sf)
    (mode : Nat) (v : BitVec 512) : el df (vcvtResult sf df part mode v) (part * (512 / fmtWidth sf) + k) =
      cvt (el sf v k) sf df mode % 2 ^ fmtWidth df := by
  simp only [vcvtResult, if_neg hw.not_ge, max_eq_left hw.le]
  rw [el_vecPack (part_element_lt hdf hsf hw.le hpart hk), nth_eq_getD, List.getD_append_right _ _ _ _ (by simp), List.length_replicate,
    Nat.add_sub_cancel_left, ← nth_eq_getD, nth_map_upTo _ hk, elem_vecElems, if_pos hk]

end

section
variable {sf df : Nat} (part : Nat)

theorem vcvtLanes_widen (hw : fmtWidth sf ≤ fmtWidth df) : vcvtLanes sf df part = 0xFFFF := if_pos hw

theorem vcvtLanes_narrow (hw : fmtWidth df < fmtWidth sf) : vcvtLanes sf df part =
    (2 ^ (16 * fmtWidth df / fmtWidth sf) - 1) * 2 ^ (part * (16 * fmtWidth df / fmtWidth sf)) := if_neg hw.not_ge

end

theorem writes_vcvt {s : State} {f : VFields} {P : BitVec 512 → Prop}
    (hP : P (vcvtResult (f.vc % 16) f.fmt (f.vc / 16 % 4) f.rnd (s.ctx.posA f))) :
    Writes (.vcvt f) s f false 3 (s.ctx.bank.lanes f.qp &&& vcvtLanes (f.vc % 16) f.fmt (f.vc / 16 % 4)) P := by
  have hsource : bitsOf f.vc 0 4 = f.vc % 16 := bitsOf_zero_lo _ _
  rw [← hsource] at hP ⊢
  exact writes_of_vecOp (m := fun b => Nat.land (b.lanes f.qp) (vcvtLanes (bitsOf f.vc 0 4) f.fmt (bitsOf f.vc 4 2))) rfl rfl hP

/-! ### Compares (R199) -/

theorem vcmpLanes_eq (fmt cond j : Nat) (v u : BitVec 512) : vcmpLanes fmt cond j v u = packFields 1 ((upTo 16).map fun l =>
    (vcondHolds fmt cond (elem (vecElems fmt v) (32 / fmtWidth fmt * l + j)) (elem (vecElems fmt u) (32 / fmtWidth fmt * l + j))).toNat) := by
  rw [← iter_add_fields fun l => Bool.toNat_lt _]
  simp only [Nat.one_mul]
  rfl

theorem vcmpLanes_lt (fmt cond j : Nat) (v u : BitVec 512) : vcmpLanes fmt cond j v u < 2 ^ 16 := by
  rw [vcmpLanes_eq]
  exact packFields_lt 1 _

theorem bitOf_vcmpLanes {fmt j l : Nat} (hfmt : fmt ≤ 8) (hj : j < 32 / fmtWidth fmt) (hl : l < 16) (cond : Nat) (v u : BitVec 512) :
    bitOf (vcmpLanes fmt cond j v u) l =
      vcondHolds fmt cond (el fmt v (32 / fmtWidth fmt * l + j)) (el fmt u (32 / fmtWidth fmt * l + j)) := by
  have hin : 32 / fmtWidth fmt * l + j < 512 / fmtWidth fmt := by
    obtain h | h | h := fmtWidth_cases hfmt <;> rw [h] at hj ⊢ <;> omega
  have hbit := bitsOf_packFields 1 ((upTo 16).map fun l => (vcondHolds fmt cond (elem (vecElems fmt v) (32 / fmtWidth fmt * l + j))
    (elem (vecElems fmt u) (32 / fmtWidth fmt * l + j))).toNat) l
  rw [Nat.one_mul, ← vcmpLanes_eq, nth_map_upTo _ hl, elem_vecElems, elem_vecElems, if_pos hin, if_pos hin, pow_one,
    Nat.mod_eq_of_lt (Bool.toNat_lt _)] at hbit
  exact bitOf_eq_of_bitsOf hbit

/-! ### The ramp (R205) -/

/-- The ramp's indices are counted as integers. -/
theorem el_viota {fmt k : Nat} (hk : k < 512 / fmtWidth fmt) (g : Int → Nat) :
    el fmt (vecPack fmt (List.map g (do let i ← upTo (vecCount fmt); pure (i : Int)))) k = g k % 2 ^ fmtWidth fmt := by
  rw [bind_pure_comp, List.map_eq_map, List.map_map, el_vecPack_upTo hk]
  rfl

/-! ### Lane predicates (R206) -/

/-- Sixteen bits subtracted from all ones are their complement. -/
theorem sub_eq_xor_ones (x : BitVec 16) : 0xFFFF - x.toNat = x.toNat ^^^ 0xFFFF := by
  exact (BitVec.toNat_not (x := x)).symm.trans (congrArg BitVec.toNat (BitVec.xor_allOnes (x := x)).symm)

theorem lanes_complement (b : Bank) (n : Nat) : 0xFFFF - b.lanes n = b.lanes n ^^^ 0xFFFF := by
  unfold Bank.lanes
  split
  · rfl
  · exact sub_eq_xor_ones _

theorem vectorConversionsAndLanes : VectorConversionsAndLanes := by
  intro s f bk va vb sf part ws wd per per32 t
  refine ⟨fun hsf hdf hw hp => ?widen, fun hsf hdf hw hp => ?narrow, fun hdf hj => ?vcmp, ?vred, ?viota, ?qand, ?qor, ?qnot⟩
  case widen => exact vcvtLanes_widen part hw ▸ writes_vcvt fun k hk => el_vcvtResult_widen hsf hdf hw hp hk _ _
  case narrow => exact vcvtLanes_narrow part hw ▸ writes_vcvt fun k hk => el_vcvtResult_narrow hsf hdf hw hp hk _ _
  case vcmp =>
    refine ⟨_, fun l hl => bitOf_vcmpLanes hdf hj hl _ va vb, vcmpLanes_lt _ _ _ _ _, congrArg _ (onCtx_congr ?_)⟩
    dsimp only
    rw [bitsOf_zero_lo]
    rfl
  case vred =>
    have hop : bitsOf f.vc 0 2 = f.vc % 4 := bitsOf_zero_lo _ _
    exact writes_of_vecOp (m := fun _ => 1) rfl rfl (hop ▸ BitVec.toNat_ofNat _ _)
  case viota =>
    refine ⟨_, fun k hk => ?ramp, results_of_later rfl rfl⟩
    exact el_viota hk _
  case qand | qor => exact results_of_later rfl rfl
  case qnot => exact results_of_later rfl (congrArg (fun x => [RegW.q f.vd (bk.lanes f.qp) x]) (lanes_complement bk f.va))

/-- Settles O10: shifts by their values (`vshlElem_mod`, `vshrElem_eq`), moves by the element they take (`nth_window`), VSEL by its lanes
(`lane_mergeLanes`), conversions by the part that PART names (`el_vcvtResult_widen`, `el_vcvtResult_narrow`), VCMP bit by bit (`bitOf_vcmpLanes`). -/
theorem vectorMovesAndConversions : Obligations.VectorMovesAndConversions := ⟨vectorMovesAndShifts, vectorConversionsAndLanes⟩

end Sys2Proof.Proofs

/-! PROOFS. Commands of the weight queue and of the rotator behind commands that a stopped holder of their unit left (O13, O15). -/

namespace Sys2Proof.Proofs

set_option Elab.async false

open Sys2Proof Sys2Proof.Machine Sys2Proof.Claims Sys2Proof.Laws

/-- Refutes O13 by a WLOAD of tile register t0: the matrix unit has no holder, but a command that its stopped holder left runs first (log 107), which
the statement does not exclude; the WLOAD blocks, and no command enters the queue. -/
theorem not_tileAndWeightCommands : ¬ Obligations.TileAndWeightCommands := by
  intro h
  obtain ⟨-, -, -, hwload, -⟩ := h leftoverState 0 0 0 0
  have hqueues := nextSeqAfter_of_queues (hwload (Nat.zero_le _) (by unfold Claims.Room; decide +kernel) (.inl rfl))
  exact absurd hqueues (by decide +kernel)

/-- No context holds the rotator, and a command of it that another bind's work left is still queued. -/
def rotatorLeftoverState : State :=
  { State.reset with cores := [(0, { cmds := [{ leftCommand with q := 2, op := .rtgain, caps := [] }] })] }

/-- Refutes O15 by an RTCLR: the rotator has no holder, but a command that its stopped holder left runs first (log 107), which the statement does not
exclude; the RTCLR blocks, and no command enters the queue. -/
theorem not_accumulatorAndRotatorCommands : ¬ Obligations.AccumulatorAndRotatorCommands := by
  rintro ⟨-, h⟩
  obtain ⟨-, -, -, hrtclr, -⟩ := h rotatorLeftoverState 0 0 0 0 0 0 0 0 false false false false
    (by unfold Claims.Room; decide +kernel) (.inl rfl)
  exact absurd (nextSeqAfter_of_queues hrtclr) (by decide +kernel)

end Sys2Proof.Proofs

/-! PROOFS. Commands that take no unit enter their queues: the permute, compare and move operations (O16). -/

namespace Sys2Proof.Proofs

set_option Elab.async false

open Sys2Proof Sys2Proof.Machine Sys2Proof.Claims Sys2Proof.Laws

/-! ### Checks that pass -/

/-- A check chosen by a flag passes when the condition chosen by that flag makes it pass. -/
theorem ite_ok {flag : Bool} {P Q : Prop} {a b : Verdict} (h : if flag then P else Q) (ha : P → a = .ok) (hb : Q → b = .ok) :
    (if flag then a else b) = .ok := by
  cases flag with
  | false => exact hb h
  | true => exact ha h

section
variable {s : State} {n q : Nat}

theorem capVerdict_of_holds {r w : Bool} {lo hi len : Nat} (h : Holds s n r w lo hi len) :
    capVerdict (s.ctx.bank.sreg n) ⟨r, w, lo, hi, len⟩ = .ok := by
  obtain ⟨htag, hr, hw, he, hlo, hhi, hlen⟩ := h
  refine and_ok.2 ⟨need_ok.2 htag, and_ok.2 ⟨need_ok.2 ?rights, need_ok.2 (decide_eq_true hlen)⟩⟩
  simpa [he, hlo, hhi, imp_iff_not_or] using And.intro hr hw

/-- The window's two fields: its first tile register, and how many follow (R146). -/
theorem tile_of_inWindow (h : InWindow s n) : s.ctx.bank.tile n = some (tileOf s n) := by
  rw [Bank.tile, bitsOf_zero_lo]
  exact if_pos h

theorem tileVerdict_of_inWindow (h : InWindow s n) : tileVerdict s.ctx.bank n = .ok :=
  need_ok.2 (Option.isSome_of_eq_some (tile_of_inWindow h))

theorem tileNo_of_inWindow (h : InWindow s n) : s.ctx.bank.tileNo n = tileOf s n := by rw [Bank.tileNo, tile_of_inWindow h, Option.getD_some]

/-- A context that does not speculate is held back by no capability it writes (R217). -/
theorem freeVerdict_of_room (ws : List SReg) (h : Claims.Room s q) : freeVerdict q ws s = .ok := by
  obtain ⟨hroom, hspec⟩ := h
  refine and_ok.2 ⟨if_pos hroom, ?_⟩
  rw [shadowVerdict, hspec]
  rfl

theorem acquireDone_of_none (h : s.ctx.var.any VarW.acq = false) : acquireDone s = .ok := by
  rw [acquireDone, h]
  rfl

end

/-! ### Entering a queue (R213) -/

/-- A command without a result changes its core's queue alone. -/
theorem ownCoreOnly_issueCmd (q : Nat) (op : Instr) (caps : List SReg) (args : List Nat) (vec : BitVec 512) (s : State) :
    OwnCoreOnly s (issueCmd q op caps args vec none s) :=
  ⟨rfl, rfl, rfl, rfl, rfl, rfl, fun _ _ => rfl, fun _ hn => coreAt_onCoreAt_ne s _ hn, rfl⟩

theorem core_issueCmd (q : Nat) (op : Instr) (caps : List SReg) (args : List Nat) (vec : BitVec 512) (s : State) :
    (issueCmd q op caps args vec none s).core =
      { s.core with nextSeq := s.core.nextSeq + 1, cmds := s.core.cmds ++ [newCmd s q op caps args vec none] } := core_onCore s _

/-- An operation whose checks pass, and whose effect is a command that takes no unit and delivers no result. -/
theorem queues_of_slotOp {i : Instr} {s : State} {q : Nat} {caps : List SReg} {args : List Nat} {v : Verdict} {f : State → State}
    (hexec : exec i s = slotOp v s f) (hf : f s = issueCmd q i caps args 0 none s) (hv : v = .ok) :
    Queues i s q caps args (TakesNone s) := by
  have hcore := hf ▸ core_issueCmd q i caps args 0 s
  refine ⟨f s, hexec.trans (slotOp_ok hv), hf ▸ ownCoreOnly_issueCmd q i caps args 0 s, ⟨?holdM, ?holdR⟩, ?nextSeq, ?tiles,
    newCmd s q i caps args 0 none, ?cmds, rfl, rfl, rfl, rfl, rfl, rfl, rfl, rfl, rfl, rfl⟩
  all_goals rw [hcore]

/-! ### The operations -/

section
variable {s : State} {src dst : Nat} {ds ss : Bool}

theorem ptransCheck_ok (hsrc : if ss then Holds s src true false 3 3 4096 else InWindow s src)
    (hdst : if ds then Holds s dst false true 3 3 4096 else InWindow s dst) (hroom : Claims.Room s 3) : ptransCheck dst src ds ss s = .ok :=
  and_ok.2 ⟨ite_ok hsrc capVerdict_of_holds tileVerdict_of_inWindow,
    and_ok.2 ⟨ite_ok hdst capVerdict_of_holds tileVerdict_of_inWindow, freeVerdict_of_room _ hroom⟩⟩

theorem pgatherCheck_ok {tn sa si n : Nat} (hsa : Holds s sa true false 3 3 64) (hsi : Holds s si true false 3 3 (2 * (n + 1)))
    (htn : InWindow s tn) (hroom : Claims.Room s 3) : pgatherCheck tn sa si n s = .ok :=
  and_ok.2 ⟨capVerdict_of_holds hsa, and_ok.2 ⟨capVerdict_of_holds hsi,
    and_ok.2 ⟨tileVerdict_of_inWindow htn, freeVerdict_of_room _ hroom⟩⟩⟩

theorem predCheck_ok {sd sa sb fmt kind : Nat} (hsd : Holds s sd false true 0 3 (fmtBytes fmt))
    (hsa : Holds s sa true false 0 3 (s.ctx.bank.sreg sd).len) (hsb : kind ≠ 0 → Holds s sb true false 0 3 (s.ctx.bank.sreg sd).len)
    (hlen : (s.ctx.bank.sreg sd).len % fmtBytes fmt = 0) (hroom : Claims.Room s 4) : predCheck sd sa sb fmt kind s = .ok := by
  refine and_ok.2 ⟨capVerdict_of_holds hsd, and_ok.2 ⟨capVerdict_of_holds hsa, and_ok.2 ⟨?second, and_ok.2 ⟨need_ok.2 (beq_iff_eq.2 hlen),
    freeVerdict_of_room _ hroom⟩⟩⟩⟩
  case second =>
    split
    · rfl
    · next hkind => exact capVerdict_of_holds (hsb hkind)

theorem tcmpCheck_ok {sa sb sc fmt : Nat} (hsa : Holds s sa true false 0 3 (fmtBytes fmt))
    (hsb : Holds s sb true false 0 3 (s.ctx.bank.sreg sa).len) (hsc : Holds s sc false true 0 3 16)
    (hlen : (s.ctx.bank.sreg sa).len % fmtBytes fmt = 0) (hroom : Claims.Room s 4) : tcmpCheck sa sb sc fmt s = .ok :=
  and_ok.2 ⟨capVerdict_of_holds hsa, and_ok.2 ⟨capVerdict_of_holds hsb, and_ok.2 ⟨capVerdict_of_holds hsc,
    and_ok.2 ⟨need_ok.2 (beq_iff_eq.2 hlen), freeVerdict_of_room _ hroom⟩⟩⟩⟩

/-- A capability operand of TMOV also has a base aligned to 64 bytes (R248). -/
theorem tmovCap_ok (w : Bool) {r n str : Nat}
    (h : Holds s r (!w) w 0 3 (64 * (str * n + 1)) ∧ (s.ctx.bank.sreg r).base % 64 = 0) : tmovCap (s.ctx.bank.sreg r) w n str = .ok :=
  and_ok.2 ⟨capVerdict_of_holds h.1, need_ok.2 (beq_iff_eq.2 h.2)⟩

theorem tmovCheck_ok {n str : Nat}
    (hsrc : if ss then Holds s src true false 0 3 (64 * (str * n + 1)) ∧ (s.ctx.bank.sreg src).base % 64 = 0 else InWindow s src)
    (hdst : if ds then Holds s dst false true 0 3 (64 * (str * n + 1)) ∧ (s.ctx.bank.sreg dst).base % 64 = 0 else InWindow s dst)
    (hroom : Claims.Room s 5) (hacq : s.ctx.var.any VarW.acq = false) : tmovCheck dst src ds ss n str s = .ok :=
  and_ok.2 ⟨ite_ok hsrc (tmovCap_ok false) tileVerdict_of_inWindow, and_ok.2 ⟨ite_ok hdst (tmovCap_ok true) tileVerdict_of_inWindow,
    and_ok.2 ⟨freeVerdict_of_room _ hroom, acquireDone_of_none hacq⟩⟩⟩

end

/-- Settles O16: each operation's checks pass (`ptransCheck_ok` to `tmovCheck_ok`), and a command that takes no unit enters its queue
(`queues_of_slotOp`). -/
theorem permuteCompareAndMoveCommands : Obligations.PermuteCompareAndMoveCommands := by
  intro s dst src tn sa sb sc sd st si n fmt kind ew alpha str cm r w args
  refine ⟨fun ds ss hsrc hdst hroom => ?ptrans, fun hsa hsi htn hroom => ?pgather, fun hsd hsa hsb hlen hroom => ?pred,
    fun hsa hsb hsc hlen hroom => ?tcmp, fun ds ss hsrc hdst hroom hacq => ?tmov⟩
  case ptrans => exact queues_of_slotOp rfl rfl (ptransCheck_ok hsrc hdst hroom)
  case pgather => exact tileNo_of_inWindow htn ▸ queues_of_slotOp rfl rfl (pgatherCheck_ok hsa hsi htn hroom)
  case pred => exact queues_of_slotOp rfl rfl (predCheck_ok hsd hsa hsb hlen hroom)
  case tcmp => exact toNat_val s st ▸ queues_of_slotOp rfl rfl (tcmpCheck_ok hsa hsb hsc hlen hroom)
  case tmov => exact queues_of_slotOp rfl rfl (tmovCheck_ok hsrc hdst hroom hacq)

end Sys2Proof.Proofs

/-! PROOFS. Collectives behind two operators of one number (O35). -/

namespace Sys2Proof.Proofs

set_option Elab.async false

open Sys2Proof Sys2Proof.Machine Sys2Proof.Claims Sys2Proof.Laws

/-- Refutes O35 by ALLRED behind two operators of one number: `Issues` asks for `State.depsOf` as it is, with the number twice, and the operator
issued waits for it once. -/
theorem not_collectiveAndUserRecords : ¬ Obligations.CollectiveAndUserRecords := by
  intro h
  obtain ⟨-, -, hallred, -⟩ := h twinState ⟨0, false, 0⟩ 65536 65536 0 0 0 0 0 0 0 512 (.imm 0) [] ⟨0, 512, 0, 1, 0, 0, [], [], [], 0, false, false⟩
  exact twinState_not_issues (i := .allred ⟨0, false, 0⟩ 65536 65536 0 0) (by decide +kernel) (by decide +kernel)
    (hallred (by decide +kernel) rfl (twinState_plain (by decide +kernel) (by decide +kernel)))

end Sys2Proof.Proofs

/-! PROOFS. The control records on the frame stack: verdicts, targets, loops and transfers (R285, R287, R290, R291). -/

namespace Sys2Proof.Proofs

set_option Elab.async false

open Sys2Proof Sys2Proof.Machine Sys2Proof.Claims Sys2Proof.Laws

/-! ### A record by its verdict -/

theorem gneed_ok {c : Bool} {cause aux : Nat} (h : c = true) : gneed c cause aux = .ok := if_pos h

theorem gneed_trap {c : Bool} {cause aux : Nat} (h : ¬ c = true) : gneed c cause aux = .trap ⟨cause, 0, 0, aux⟩ := if_neg h

@[simp] theorem GVerdict.ok_and (v : GVerdict) : GVerdict.ok.and v = v := rfl

@[simp] theorem GVerdict.trap_and (t : TrapInfo) (v : GVerdict) : (GVerdict.trap t).and v = .trap t := rfl

section
variable {i : Instr} {v : GVerdict} {s : State} {f : State → State}

/-- A record whose checks pass takes effect. -/
theorem recOp_of_ok (h : v = .ok) : recOp i v s f = .next (f s) := by rw [h]; rfl

theorem gTraps_of_recOp {t : TrapInfo} (hexec : exec i s = recOp i v s f) (h : v = .trap t) : GTraps i s t.cause :=
  ⟨t, rfl, hexec.trans (by rw [h]; rfl)⟩

end

/-- A GFE that follows no run of a fuse group. -/
def runEnded (g : Gfe) : Gfe := { g with fuse := 0, fused := false, fuseLast := none }

theorem onGfe_congr {s : State} {f g : Gfe → Gfe} (h : f s.gfe = g s.gfe) : s.onGfe f = s.onGfe g :=
  congrArg (fun x => { s with gfes := AMap.ins s.act.gfe x s.gfes }) h

/-- A record that ends the run and changes its GFE alone. -/
theorem goes_of_endRun {i : Instr} {s : State} {f h : Gfe → Gfe} (hexec : exec i s = .next ((endRun s).onGfe h))
    (hf : h (runEnded s.gfe) = runEnded (f s.gfe)) : Goes i s f := by
  rw [Goes, hexec, endRun, onGfe_onGfe]
  exact congrArg _ (onGfe_congr hf)

/-- A record that only goes on at the next one. -/
theorem goes_of_gfeDone {i : Instr} {s : State} (hexec : exec i s = .next (gfeDone i s)) :
    Goes i s fun g => { g with pc := g.pc + recordBytes i } :=
  goes_of_endRun (h := fun g => { g with pc := g.pc + recordBytes i }) hexec rfl

/-- A record that ends the run and presents a value. -/
theorem exchanges_of_exchange {i : Instr} {s : State} {d v pc : Nat} {frames : List Frame} (h : exec i s = .next (exchange i d v pc frames s)) :
    Exchanges i s d (BitVec.ofNat 64 v) pc frames :=
  exchanges_of_exec (h.trans (by rw [exchange_eq]))

/-! ### Targets and frames (R285, R287) -/

section
variable {s : State} {t : Int}

theorem target_of_inCode (h : InCode s ((s.gfe.pc : Int) + 4 * t)) : s.gfe.target t = some ((s.gfe.pc : Int) + 4 * t).toNat := if_pos h

theorem target_of_not_inCode (h : ¬ InCode s ((s.gfe.pc : Int) + 4 * t)) : s.gfe.target t = none := if_neg h

theorem targetAt_of_inCode (h : InCode s ((s.gfe.pc : Int) + 4 * t)) : s.gfe.targetAt t = ((s.gfe.pc : Int) + 4 * t).toNat := by
  rw [Gfe.targetAt, target_of_inCode h, Option.getD_some]

theorem targetVerdict_of_inCode (k : Nat) (h : InCode s ((s.gfe.pc : Int) + 4 * t)) : targetVerdict s.gfe t k = .ok :=
  gneed_ok (by rw [target_of_inCode h]; rfl)

theorem targetVerdict_of_not_inCode (k : Nat) (h : ¬ InCode s ((s.gfe.pc : Int) + 4 * t)) : targetVerdict s.gfe t k = .trap ⟨2, 0, 0, k⟩ :=
  gneed_trap (by simp [target_of_not_inCode h])

end

theorem pushVerdict_of_room {g : Gfe} (h : g.frames.length < 32) : pushVerdict g = .ok := gneed_ok (decide_eq_true h)

theorem pushVerdict_of_full {g : Gfe} (h : 32 ≤ g.frames.length) : pushVerdict g = .trap ⟨0x0A, 0, 0, 1⟩ := gneed_trap (by simpa using h)

theorem callTop_eq_none {g : Gfe} (h : ∀ r, g.frames.head? ≠ some (.call r)) : g.callTop = none := by
  unfold Gfe.callTop
  split
  case h_1 r _ hframes => exact absurd (by rw [hframes]; rfl) (h r)
  case h_2 => rfl

theorem loopTop_eq_none {g : Gfe} (h : ∀ d n b, g.frames.head? ≠ some (.loop d n b)) : g.loopTop = none := by
  unfold Gfe.loopTop
  split
  case h_1 d n b _ hframes => exact absurd (by rw [hframes]; rfl) (h d n b)
  case h_2 => rfl

/-! ### NOP and the transfers (R287, R291) -/

section
variable {s : State} {fuse : Nat} {t : Int}

theorem goes_nop (ws : List Nat) : Goes (.nop fuse ws) s fun g => { g with pc := g.pc + 4 * (1 + ws.length) } := by
  have hbytes : recordBytes (.nop fuse ws) = 4 * (1 + ws.length) := congrArg (4 * ·) (Nat.add_comm ws.length 1)
  rw [← hbytes]
  exact goes_of_gfeDone rfl

section
variable (h : InCode s ((s.gfe.pc : Int) + 4 * t))
include h

theorem goes_graphBr : Goes (.graphBr fuse t) s fun g => { g with pc := ((s.gfe.pc : Int) + 4 * t).toNat } :=
  goes_of_endRun (recOp_of_ok (targetVerdict_of_inCode 1 h)) (congrArg (fun o => runEnded { s.gfe with pc := o }) (targetAt_of_inCode h))

theorem goes_brc {c : Nat} (hc : c ≤ 9) (a b : Sow) : Goes (.brc fuse c a b t) s fun g =>
    { g with pc := if ccode c (operand s a) (operand s b) then ((s.gfe.pc : Int) + 4 * t).toNat else g.pc + 20 } := by
  have hcond : condHolds c (s.gfe.sow a) (s.gfe.sow b) = ccode c (operand s a) (operand s b) := by
    rw [sow_eq_toNat, sow_eq_toNat, condHolds_eq_ccode hc]
  have hexec : exec (.brc fuse c a b t) s = _ := recOp_of_ok (targetVerdict_of_inCode 4 h)
  rw [hcond] at hexec
  cases htaken : ccode c (operand s a) (operand s b) with
  | true =>
    rw [htaken, if_pos rfl] at hexec
    exact goes_of_endRun hexec (congrArg (fun o => runEnded { s.gfe with pc := o }) (targetAt_of_inCode h))
  | false =>
    rw [htaken, if_neg Bool.false_ne_true] at hexec
    exact goes_of_gfeDone hexec

theorem goes_call (hroom : s.gfe.frames.length < 32) : Goes (.call fuse t) s fun g =>
    { g with pc := ((s.gfe.pc : Int) + 4 * t).toNat, frames := .call (s.gfe.pc + 8) :: s.gfe.frames } := by
  have hverdict : (targetVerdict s.gfe t 1).and (pushVerdict s.gfe) = .ok := by
    rw [targetVerdict_of_inCode 1 h, GVerdict.ok_and, pushVerdict_of_room hroom]
  exact goes_of_endRun (recOp_of_ok hverdict)
    (congrArg (fun o => runEnded { s.gfe with pc := o, frames := .call (s.gfe.pc + 8) :: s.gfe.frames }) (targetAt_of_inCode h))

theorem gTraps_call_of_full (hfull : 32 ≤ s.gfe.frames.length) : GTraps (.call fuse t) s 0x0A := by
  have hverdict : (targetVerdict s.gfe t 1).and (pushVerdict s.gfe) = .trap ⟨0x0A, 0, 0, 1⟩ := by
    rw [targetVerdict_of_inCode 1 h, GVerdict.ok_and, pushVerdict_of_full hfull]
  exact gTraps_of_recOp rfl hverdict

end

theorem goes_ret {r : Nat} {fs : List Frame} (h : s.gfe.frames = .call r :: fs) :
    Goes (.ret fuse) s fun g => { g with pc := r, frames := fs } := by
  have htop : s.gfe.callTop = some r := by rw [Gfe.callTop, h]
  refine goes_of_endRun (recOp_of_ok (gneed_ok (by rw [htop]; rfl))) ?_
  calc
    _ = runEnded { s.gfe with pc := s.gfe.callTop.getD s.gfe.pc, frames := s.gfe.frames.drop 1 } := rfl
    _ = runEnded { s.gfe with pc := r, frames := fs } := by rw [htop, h]; rfl

theorem gTraps_ret (h : ∀ r, s.gfe.frames.head? ≠ some (.call r)) : GTraps (.ret fuse) s 0x02 :=
  gTraps_of_recOp (t := ⟨2, 0, 0, 0⟩) rfl (gneed_trap (by simp [callTop_eq_none h]))

/-! ### LOOP and ENDLOOP (R290) -/

theorem sext_sow (s : State) (n : Sow) : sext (s.gfe.sow n) 64 = (operand s n).toInt := by rw [sow_eq_toNat, sext_toNat]

/-- A target in the code words that is an ENDLOOP: only the frame's push is left to check. -/
theorem graphLoopCheck_of_endloop {w : Nat} (n : Sow) (h : InCode s ((s.gfe.pc : Int) + 4 * t))
    (hw : s.codeWord s.gfe ((s.gfe.pc : Int) + 4 * t).toNat = .ok w) (hop : w / 2 ^ 22 % 2 ^ 10 = 4) :
    graphLoopCheck n t s = if (operand s n).toInt ≤ 0 then .ok else pushVerdict s.gfe := by
  have hneed : gneed (bitsOf w 22 10 == 4) 2 2 = .ok := gneed_ok (beq_iff_eq.2 hop)
  simp only [graphLoopCheck, targetVerdict_of_inCode 2 h, targetAt_of_inCode h, hw, hneed, GVerdict.ok_and, sext_sow]

theorem graphLoopCheck_of_not_inCode (n : Sow) (h : ¬ InCode s ((s.gfe.pc : Int) + 4 * t)) : graphLoopCheck n t s = .trap ⟨2, 0, 0, 2⟩ := by
  simp only [graphLoopCheck, targetVerdict_of_not_inCode 2 h, GVerdict.trap_and]

section
variable {d w : Nat} {n : Sow} (h : InCode s ((s.gfe.pc : Int) + 4 * t))
  (hw : s.codeWord s.gfe ((s.gfe.pc : Int) + 4 * t).toNat = .ok w) (hop : w / 2 ^ 22 % 2 ^ 10 = 4)
include h hw hop

/-- A loop of no iteration goes on behind its ENDLOOP. -/
theorem goes_graphLoop (hreps : (operand s n).toInt ≤ 0) :
    Goes (.graphLoop fuse d n t) s fun g => { g with pc := ((s.gfe.pc : Int) + 4 * t).toNat + 4 } := by
  have hexec : exec (.graphLoop fuse d n t) s = _ := recOp_of_ok ((graphLoopCheck_of_endloop n h hw hop).trans (if_pos hreps))
  rw [if_pos (by rwa [sext_sow])] at hexec
  exact goes_of_endRun hexec (congrArg (fun o => runEnded { s.gfe with pc := o + 4 }) (targetAt_of_inCode h))

/-- Any other pushes its frame and writes 0 to its counter. -/
theorem exchanges_graphLoop (hreps : 0 < (operand s n).toInt) (hroom : s.gfe.frames.length < 32) :
    Exchanges (.graphLoop fuse d n t) s d 0 (s.gfe.pc + 12) (.loop d (operand s n).toInt (s.gfe.pc + 12) :: s.gfe.frames) := by
  have hexec : exec (.graphLoop fuse d n t) s = _ :=
    recOp_of_ok ((graphLoopCheck_of_endloop n h hw hop).trans ((if_neg (not_le.2 hreps)).trans (pushVerdict_of_room hroom)))
  simp only [sext_sow, if_neg (not_le.2 hreps)] at hexec
  exact exchanges_of_exchange hexec

end

/-- ENDLOOP counts its loop's register up, and goes round again while that is below the count of its frame. -/
theorem exec_endloop_of_loop {d body : Nat} {m : Int} {fs : List Frame} (h : s.gfe.frames = .loop d m body :: fs) :
    let v := AMap.get (0 : BitVec 64) s.gfe.g d + 1
    exec (.endloop fuse) s = .next (if v.toInt < m then exchange (.endloop fuse) d v.toNat body s.gfe.frames s
      else exchange (.endloop fuse) d v.toNat (s.gfe.pc + 4) fs s) := by
  intro v
  have htop : s.gfe.loopTop = some (d, m, body) := by rw [Gfe.loopTop, h]
  have hv : ((AMap.get (0 : Word) s.gfe.g d).toNat + 1) % 2 ^ 64 = v.toNat := (BitVec.toNat_add (AMap.get (0 : BitVec 64) s.gfe.g d) 1).symm
  have hexec : exec (.endloop fuse) s = _ := recOp_of_ok (gneed_ok (by rw [htop]; rfl))
  simp only [htop, hv, sext_toNat] at hexec
  rw [hexec, h]
  rfl

theorem exchanges_endloop {d body : Nat} {m : Int} {fs : List Frame} (h : s.gfe.frames = .loop d m body :: fs) :
    let v := AMap.get (0 : BitVec 64) s.gfe.g d + 1
    (v.toInt < m → Exchanges (.endloop fuse) s d v body s.gfe.frames) ∧ (m ≤ v.toInt → Exchanges (.endloop fuse) s d v (s.gfe.pc + 4) fs) := by
  intro v
  have hexec : exec (.endloop fuse) s = .next (if v.toInt < m then _ else _) := exec_endloop_of_loop h
  refine ⟨fun hlt => ?again, fun hle => ?done⟩
  case again =>
    rw [if_pos hlt] at hexec
    exact ofNat_toNat_self v ▸ exchanges_of_exchange hexec
  case done =>
    rw [if_neg (not_lt.2 hle)] at hexec
    exact ofNat_toNat_self v ▸ exchanges_of_exchange hexec

theorem gTraps_endloop (h : ∀ d n b, s.gfe.frames.head? ≠ some (.loop d n b)) : GTraps (.endloop fuse) s 0x02 :=
  gTraps_of_recOp (t := ⟨2, 0, 0, 0⟩) rfl (gneed_trap (by simp [loopTop_eq_none h]))

end

theorem controlFlow : ControlFlow := by
  intro s fuse c d w body r ws t m a b n fs g o reps endloop
  refine ⟨goes_nop ws, fun h => goes_graphBr h, fun h hc => goes_brc h hc a b, fun h hroom => goes_call h hroom, fun h => goes_ret h,
    fun h ⟨hw, hop⟩ hreps => goes_graphLoop h hw hop hreps, fun h ⟨hw, hop⟩ hreps hroom => exchanges_graphLoop h hw hop hreps hroom,
    fun h => exchanges_endloop h, fun hout => ⟨?br, ?brc, ?call, ?loop⟩, fun h hfull => gTraps_call_of_full h hfull,
    fun hnone => ?ret, fun hnone => ?endloop⟩
  case br => exact gTraps_of_recOp rfl (targetVerdict_of_not_inCode 1 hout)
  case brc => exact gTraps_of_recOp rfl (targetVerdict_of_not_inCode 4 hout)
  case call => exact gTraps_of_recOp rfl (congrArg (GVerdict.and · (pushVerdict g)) (targetVerdict_of_not_inCode 1 hout))
  case loop => exact gTraps_of_recOp rfl (graphLoopCheck_of_not_inCode n hout)
  case ret => exact gTraps_ret hnone
  case endloop => exact gTraps_endloop hnone

end Sys2Proof.Proofs

/-! PROOFS. What accesses of units and releases of blocks leave unchanged, all else of the state at once. -/

namespace Sys2Proof.Proofs

set_option Elab.async false

open Sys2Proof Sys2Proof.Machine Sys2Proof.Claims Sys2Proof.Laws

/-- The state without what accesses of units and releases of blocks change. Where two states agree in this, they agree in every other field. -/
def aside (s : State) : State :=
  { s with mem := [], cores := [], ctlb := [], queues := [], routes := [], nextAck := 0, out := [], blocks := [], gone := [], temps := [] }

section
variable {s t : State} (h : aside t = aside s)
include h

theorem gfeAt_of_aside (n : Nat) : t.gfeAt n = s.gfeAt n := (congrArg (State.gfeAt · n) h :)

theorem ops_of_aside : t.ops = s.ops := (congrArg State.ops h :)

theorem traps_of_aside : t.traps = s.traps := (congrArg State.traps h :)

end

/-- A choice between states that both keep all else. -/
theorem aside_ite {c : Prop} [Decidable c] {s t u : State} (ht : aside t = aside s) (hu : aside u = aside s) : aside (if c then t else u) = aside s := by
  split
  · exact ht
  · exact hu

/-! ### Accesses of units (R99 to R102, R353) -/

theorem aside_walked (s : State) (e : TEnv) (va : Nat) (acc : Acc) (o : Option (Nat × Nat)) : aside (s.walked e va acc o) = aside s := by
  unfold State.walked
  split
  · rfl
  · extract_lets p1 old s1
    have hmem : aside s1 = aside s := aside_ite rfl rfl
    split
    · exact hmem
    · extract_lets near far s2
      have htlb : aside s2 = aside s := aside_ite hmem hmem
      exact aside_ite htlb htlb

theorem aside_signalled (s : State) (key n : Nat) : aside (s.signalled key n) = aside s := by
  unfold State.signalled
  split <;> rfl

theorem aside_putPiece (s : State) (p : Piece) (bs : List Byte) : aside (s.putPiece p bs) = aside s := by
  unfold State.putPiece
  split
  case h_1 key _ => exact aside_signalled { s with mem := s.mem.writeBytes key (bs.take p.n) } key p.n
  all_goals rfl

theorem aside_unitPut (s : State) (die : Nat) (p : Piece) (bs : List Byte) : aside (s.unitPut die p bs) = aside s := by
  unfold State.unitPut
  split
  · exact aside_putPiece s p bs
  · rfl
  · exact aside_ite (aside_putPiece s p bs) rfl

theorem aside_unitWrite {s t : State} {e : TEnv} {va : Nat} {bs : List Byte} (h : s.unitWrite e va bs = .ok t) : aside t = aside s := by
  unfold State.unitWrite at h
  split at h
  case h_1 => cases h
  case h_2 ps _ ls _ =>
    split at h
    case isTrue =>
      cases h
      calc
        aside (State.putPieces _ _ _ _) = aside (s.walkedAll e .write ls) := foldl_frame aside (fun t p => aside_unitPut t e.die p _) ps _
        _ = aside s := foldl_frame aside (fun t (l : Nat × Option (Nat × Nat)) => aside_walked t e l.1 .write l.2) ls s
    case isFalse => cases h

theorem aside_setEntry (s : State) (ctxid plane : Nat) (h : HEnt) : aside (s.setEntry ctxid plane h) = aside s := by
  unfold State.setEntry
  split
  · rfl
  · split
    case h_1 t hw => exact aside_unitWrite hw
    case h_2 => rfl

/-! ### Regions and blocks (R10, R13, R14, R117) -/

theorem aside_setRstate (s : State) (ctxid rcb v : Nat) : aside (s.setRstate ctxid rcb v) = aside s := by
  unfold State.setRstate State.setRcb
  dsimp only
  split <;> rfl

theorem aside_charge (s : State) (ctxid rcb bit off : Nat) (amount : Int) : aside (s.charge ctxid rcb bit off amount) = aside s := by
  unfold State.charge
  refine foldl_frame aside (fun t r => ?_) (s.path ctxid rcb) s
  split
  · dsimp only
    split <;> rfl
  · rfl

theorem aside_freeBlock (s : State) (id : Nat) : aside (s.freeBlock id) = aside s := by
  unfold State.freeBlock
  split
  · rfl
  · exact aside_charge _ _ _ _ _ _

theorem aside_unplaceIn (s : State) (va : Nat) (b : Block) (hid : Nat) : aside (s.unplaceIn va b hid) = aside s := by
  unfold State.unplaceIn
  split
  · exact aside_ite (aside_setEntry _ _ _ _) rfl
  · rfl

theorem aside_releaseBlock (s : State) (id : Nat) : aside (s.releaseBlock id) = aside s := by
  unfold State.releaseBlock
  split
  case h_1 => rfl
  case h_2 b _ =>
    extract_lets t
    calc
      aside _ = aside t := rfl
      _ = aside ((b.hid :: b.views).foldl (fun t h => t.unplaceIn (s.blockVa b) b h) s) := aside_freeBlock _ _
      _ = aside s := foldl_frame aside (fun t h => aside_unplaceIn t (s.blockVa b) b h) _ s

theorem aside_dropTemp (s : State) (hid : Nat) : aside (s.dropTemp hid) = aside s := by
  unfold State.dropTemp
  extract_lets s1
  calc
    aside _ = aside s1 := rfl
    _ = aside s := foldl_frame aside (fun t (b : Block) => aside_releaseBlock t b.id) _ s

theorem aside_dropSpecs (s : State) (g : Gfe) : aside (s.dropSpecs g) = aside s := by
  unfold State.dropSpecs
  exact foldl_frame aside
    (fun t p => (aside_dropTemp _ p.h2).trans ((aside_dropTemp _ p.h1).trans (aside_dropTemp t p.region))) g.specs s

end Sys2Proof.Proofs

/-! PROOFS. HALT and the end of a stream (R25, R291), and the control records together (O29). -/

namespace Sys2Proof.Proofs

set_option Elab.async false

open Sys2Proof Sys2Proof.Machine Sys2Proof.Claims Sys2Proof.Laws

/-! ### The end of a stream -/

/-- A GFE of an ended stream gives up its history regions and is free. -/
def releaseGfe (s : State) (j : Nat) : State := (s.dropSpecs (s.gfeAt j)).onGfeAt j Gfe.freed

theorem gfeAt_releaseGfe (s : State) (k n : Nat) : (releaseGfe s k).gfeAt n = if n = k then Gfe.freed (s.gfeAt n) else s.gfeAt n := by
  have hspecs : (s.dropSpecs (s.gfeAt k)).gfeAt n = s.gfeAt n := gfeAt_of_aside (aside_dropSpecs s _) n
  rw [releaseGfe, gfeAt_onGfeAt_ite, hspecs]

theorem ops_releaseGfe (s : State) (j : Nat) : (releaseGfe s j).ops = s.ops :=
  ops_of_aside (t := s.dropSpecs (s.gfeAt j)) (aside_dropSpecs s _)

theorem traps_releaseGfe (s : State) (j : Nat) : (releaseGfe s j).traps = s.traps :=
  traps_of_aside (t := s.dropSpecs (s.gfeAt j)) (aside_dropSpecs s _)

section
variable {k : Nat} {s : State}

/-- The stream goes on while a GFE of its set has not halted. -/
theorem endStream_of_running (h : ∃ j ∈ (s.gfeAt k).set, (s.gfeAt j).halted = false) : endStream k s = s := by
  obtain ⟨j, hj, hrun⟩ := h
  have hall : ((s.gfeAt k).set.all fun j => (s.gfeAt j).halted) = false := List.all_eq_false.2 ⟨j, hj, by simp [hrun]⟩
  simp [endStream, hall]

/-- It goes on while an operator of it is left. -/
theorem endStream_of_operator (h : (s.ops.any fun o => o.stream == (s.gfeAt k).stream) = true) : endStream k s = s := by
  rw [endStream, h]
  simp

/-- Else every GFE of its set is free, and the other GFEs, the operators and the trap records stay. -/
theorem endStream_of_halted (hbusy : (s.gfeAt k).busy = true) (hall : ∀ j ∈ (s.gfeAt k).set, (s.gfeAt j).halted = true)
    (hops : (s.ops.any fun o => o.stream == (s.gfeAt k).stream) = false) :
    (∀ n, (endStream k s).gfeAt n = if n ∈ (s.gfeAt k).set then {} else s.gfeAt n) ∧
      (endStream k s).traps = s.traps ∧ (endStream k s).ops = s.ops := by
  have hhalted : ((s.gfeAt k).set.all fun j => (s.gfeAt j).halted) = true := List.all_eq_true.2 hall
  have hend : endStream k s = ((s.gfeAt k).set.foldl releaseGfe { s with parts := s.parts.filter fun m => m.stream != (s.gfeAt k).stream }).setRstate
      (s.gfeAt k).ctxid (s.gfeAt k).rcb 0 := by
    rw [endStream, hbusy, hhalted, hops]
    rfl
  rw [hend]
  refine ⟨fun n => ?gfes, ?traps, ?ops⟩
  case gfes =>
    calc
      _ = State.gfeAt _ n := gfeAt_of_aside (aside_setRstate _ _ _ _) n
      _ = _ := gfeAt_foldl gfeAt_releaseGfe (fun _ => rfl) _ _ n
  case traps => exact (traps_of_aside (aside_setRstate _ _ _ _)).trans (foldl_frame State.traps traps_releaseGfe _ _)
  case ops => exact (ops_of_aside (aside_setRstate _ _ _ _)).trans (foldl_frame State.ops ops_releaseGfe _ _)

end

/-! ### HALT -/

/-- The acting GFE has ended its issue and discarded its frames. -/
def halting (s : State) : State := s.onGfe fun g => { g with halted := true, frames := [], pc := g.pc + 4, fuse := 0, fused := false, fuseLast := none }

theorem exec_halt (fuse : Nat) (s : State) : exec (.halt fuse) s = .next (endStream s.act.gfe (halting s)) := by
  have hexec : exec (.halt fuse) s = _ := recOp_of_ok rfl
  rw [hexec, endRun, onGfe_onGfe]
  rfl

theorem gfeAt_halting_self (s : State) : (halting s).gfeAt s.act.gfe =
    { s.gfe with halted := true, frames := [], pc := s.gfe.pc + 4, fuse := 0, fused := false, fuseLast := none } := gfe_onGfe s _

theorem gfeAt_halting_ne {s : State} {k : Nat} (h : k ≠ s.act.gfe) : (halting s).gfeAt k = s.gfeAt k := gfeAt_onGfe_ne s _ h

theorem haltEndsAStream : HaltEndsAStream := by
  intro s fuse g left
  have hself := gfeAt_halting_self s
  refine ⟨fun h => ?goes, fun hbusy hleft hall => ?ends⟩
  case goes =>
    have hgoesOn : endStream s.act.gfe (halting s) = halting s := by
      obtain ⟨k, hk, hne, hrun⟩ | hleft := h
      · exact endStream_of_running ⟨k, by rwa [hself], by rwa [gfeAt_halting_ne hne]⟩
      · exact endStream_of_operator (by rwa [hself])
    rw [Goes, exec_halt, hgoesOn]
    rfl
  case ends =>
    have hhalted : ∀ k ∈ g.set, ((halting s).gfeAt k).halted = true := by
      intro k hk
      by_cases hne : k = s.act.gfe
      · rw [hne, hself]
      · rw [gfeAt_halting_ne hne]
        exact (hall k hk).resolve_left hne
    obtain ⟨hgfe, htraps, hops⟩ := endStream_of_halted (k := s.act.gfe) (s := halting s) (by rwa [hself]) (by rwa [hself]) (by rwa [hself])
    simp only [hself] at hgfe
    refine ⟨_, exec_halt fuse s, fun k hk => ?_, fun k hk hne => ?_, htraps, hops⟩
    · rw [hgfe, if_pos hk]
    · rw [hgfe, if_neg hk, gfeAt_halting_ne hne]

/-- Settles O29: each record by its verdict, LOOP and ENDLOOP through the exchange (`exchanges_of_exchange`), HALT by whether its stream ends
(`endStream_of_running`, `endStream_of_operator`, `endStream_of_halted`). -/
theorem controlRecords : Obligations.ControlRecords := ⟨controlFlow, haltEndsAStream⟩

end Sys2Proof.Proofs
